-- ==== Sys2Proof/Word.lean ====
section
/-! DEFINITION. The word types, the identifiers of R8, R11 and R42, the sparse table type and the small
alternatives that a command's operands and the state are written with. -/

namespace Sys2Proof

/-- A register of R9: 64 bits. -/
abbrev Word := BitVec 64

/-- An FP32 pattern, an INT32 element, or one half of a register. -/
abbrev W32 := BitVec 32

/-- One byte of memory. -/
abbrev Byte := BitVec 8

/-- A command word of a tile (R101). -/
abbrev CmdWord := BitVec 128

/-- A sparse table: pairs of a key and a value, keys strictly rising, an unlisted key standing for the table's
default value. -/
abbrev Tbl (α : Type) := List (Nat × α)

/-- Tiles 0 to 47 (R11). -/
abbrev TileId := Fin 48
/-- Units 0 to 7 of a tile (R102). -/
abbrev TileUnitId := Fin 8
/-- Unit numbers 0 to 75 of the package (R42). -/
abbrev UnitId := Fin 76
/-- Troupes 0 to 15 (R43). -/
abbrev TroupeId := Fin 16
/-- Die identifiers 0 to 8 (R11, R12). -/
abbrev DieId := Fin 9
/-- Compute dies 0 to 3. -/
abbrev ChipId := Fin 4
/-- Grottos 0 to 3. -/
abbrev GrottoId := Fin 4
/-- Abasis ports 0 to 7 (R273). -/
abbrev PortId := Fin 8
/-- Memories 0 to 15 of R48: stacks 0 to 11, then the slow tiers of Grottos 0 to 3. -/
abbrev MemoryId := Fin 16
/-- Host-queue numbers 0 to 63. -/
abbrev QueueId := Fin 64
/-- Registered regions 0 to 4,095 (R433). -/
abbrev RegionId := Fin 4096
/-- Harts 0 to 95 (R449). -/
abbrev HartId := Fin 96
/-- Link indices of one die (R16). -/
abbrev LinkId := Fin 8
/-- Agents of the coherence protocol, 0 to 23 (R377). -/
abbrev AgentId := Fin 24
/-- Source codes of a register write (R35): 0 host core, 1 I3C, 2 Strings, 3 JTAG. -/
abbrev SourceId := Fin 4

/-- The errors that a read of a line from DRAM meets: how many of the 72 symbols of the line and its check bits are wrong,
and whether the code detects an error beyond two symbols (R235). -/
structure Ecc where
  symbols : Nat := 0
  detected : Bool := true
deriving DecidableEq, Repr

/-- What the error code finds on a line (R235, R236). -/
inductive Finding where
  | clean
  | corrected
  | uncorrectable
  /-- An error beyond two symbols that the code has corrected wrongly. -/
  | miscorrected
deriving DecidableEq, Repr

/-- R235: an error in one symbol is corrected, one in two is detected, and one beyond two is detected or corrected
wrongly. -/
def Ecc.finding (e : Ecc) : Finding :=
  if e.symbols = 0 then .clean
  else if e.symbols = 1 then .corrected
  else if e.symbols = 2 ∨ e.detected = true then .uncorrectable
  else .miscorrected

/-- The kinds of access a hart makes to a cacheable address (R380, R451, R455). -/
inductive HartAccess where
  | load
  | store
  | amo
  | loadReserved
  | storeConditional
  | fetch
  | cboClean
  | cboFlush
  | cboInval
  | cboZero
  | prefetch
deriving DecidableEq, Repr

/-- An AMO, a load-reserved or a store-conditional (R455). -/
def HartAccess.atomic (k : HartAccess) : Bool := k == .amo || k == .loadReserved || k == .storeConditional

/-- Why a port retrains (R282). -/
inductive RetrainCause where
  | flitFailedThrice
  | alignmentLost
  | fecFailed
deriving DecidableEq, Repr

/-- The events a root port reports by message (R432, R460). -/
inductive RootPortEvent where
  | linkDown
  | adapterRemoved
deriving DecidableEq, Repr

/-- One rail's sample of a frame (R574): millivolts and milliamperes, averaged over the frame. -/
structure RailSample where
  rail : Nat
  mv : Nat
  ma : Nat
deriving DecidableEq, Repr

/-- One die's hottest logic sensor in a frame (R580), in sixteenths of a degree; none: no valid reading. -/
structure LogicSample where
  die : Nat
  reading : Option Int
deriving DecidableEq, Repr

/-- Where an on-die SRAM found an error (R556): a tile's store (kind 1), a region of compute die c's reduction buffers, or
for region 16 its reorder area (kind 2), a line in a cache's data (kind 3), tags or directory of a die (kind 4), a table
of a die (kind 5), and the root unit's store (kind 6). -/
inductive SramPlace where
  | tile (t : TileId)
  | reduction (c : ChipId) (region : Fin 17)
  | cacheData (agent : Fin 12) (line : Nat)
  | cacheTag (d : DieId)
  | table (d : DieId)
  | rootStore (g : GrottoId)
deriving DecidableEq, Repr

/-- An error found in an on-die SRAM in the frame that has ended (R556). -/
structure SramError where
  place : SramPlace
  corrected : Bool
deriving DecidableEq, Repr

/-- What a port's forward error correction has counted in the frame that has ended (R297): symbols corrected and codewords
that could not be. -/
structure FecSample where
  port : Nat
  corrected : Nat
  uncorrectable : Nat
deriving DecidableEq, Repr

/-- Flits that a link end has replayed in the frame that has ended, outside a retrain (R36). -/
structure LinkSample where
  die : Nat
  link : Nat
  replayed : Nat
deriving DecidableEq, Repr

/-- One memory's temperature in a timetable frame (R240), in sixteenths of a degree (R264); none: no valid reading
(R242). -/
structure TempSample where
  memory : Nat
  reading : Option Int
deriving DecidableEq, Repr

/-- A second master's write of the same register in the same cycle (R34, R267). -/
structure OtherWrite where
  source : Nat
  value : Word
deriving DecidableEq, Repr

end Sys2Proof
end

