-- ==== Sys2Proof/Config.lean ====
section
/-! DEFINITION. What the spec leaves open as a value: opaque constants with no body, so that no proof can see
which value they take. Each is named in the assumption log. -/

namespace Sys2Proof.Config

open Sys2Proof

/-- A fresh 32-bit value that nothing constrains; the argument is the state's counter of such values. -/
opaque freeWord32 : Nat → W32

/-- A fresh 64-bit value that nothing constrains. -/
opaque freeWord64 : Nat → Word

/-- A fresh byte that nothing constrains: the first argument is the state's counter, the second the address. -/
opaque freeByte : Nat → Nat → Byte

/-- R143: an accumulator's undefined contents: draw, and key of the accumulator. -/
opaque freeAcc : Nat → Nat → W32

/-- R203: the special functions of family 0x55, fixed functions of a finite, normal FP32 input whose bits the spec
bounds and does not give. -/
opaque exp2 : W32 → W32
opaque log2 : W32 → W32
opaque rcp : W32 → W32
opaque rsqrt : W32 → W32
opaque tanh : W32 → W32
opaque erf : W32 → W32

/-- SHA3-256 of a byte string (R37, R57, R542, R543): an outside standard whose text the spec does not give. -/
opaque sha3 : List Byte → BitVec 256

/-- ML-DSA-44 KeyGen of FIPS 204 (R542): the public key of a 32-byte seed. -/
opaque mldsaPublic : BitVec 256 → List Byte

/-- ML-DSA-44 deterministic signature (R542): seed of the key, digest signed. -/
opaque mldsaSign : BitVec 256 → BitVec 256 → List Byte

/-- ML-DSA-44 verification (R37, R537): public key, digest, signature. -/
opaque mldsaVerify : List Byte → BitVec 256 → List Byte → Bool

/-- The fused unique device secret (R542). -/
opaque uds : List Byte

/-- The fused root-key hash (R57, R537). -/
opaque rootKeyHash : BitVec 256

/-- The fused DCO centre code of each die (R511, R529). -/
opaque dcoCentre : Nat → BitVec 16

/-- The bytes measured into MREG0 (R544): the ROM version word and the fuse count, whose layout the spec does not
give. The argument is the fuse count. -/
opaque romInput : Nat → List Byte

/-- What a configuration bundle holds (R535), whose layout the spec does not give: the bifurcation of R448, the
image-key digest, the image svn and the watchdog limit in ms. The argument is the payload. -/
opaque bootConfig : List Byte → Nat × BitVec 256 × Nat × Nat

/-- R484: a decoded unit, a fixed function of the stream's parameter block, the job's descriptor, its input and the
stream's earlier jobs: the pictures that the unit outputs, each as planes of samples in rows of the coded size, the
number of frames that it decodes, and the status code of R490. -/
opaque codecDecode : List Byte → List Byte → List Byte → List (List Byte) → List (List (List Nat)) × Nat × Nat

/-- R484: an encoded picture, the same way, from the planes that the preprocessor leaves: the access unit. Its last argument
is the motion search that R498 to R500 lay down. -/
opaque codecEncode {Block : Type} : List Byte → List Byte → List (List Nat) → List (List Byte) → (Block → Int × Int) → List Byte

/-- R498: what the search takes from the standard or leaves open: samples of a reference (codec, width, height, samples)
between or outside its samples, at a place in quarter samples; the estimated bits of a vector against its predictor; the
order of a pattern's points; the whole sample that a coordinate in quarter samples is taken as. -/
opaque interpolated : Nat → Nat → Nat → List Nat → Int → Int → Nat
opaque vectorBits : Nat → Int × Int → Int × Int → Nat
opaque patternRank : Int × Int → Nat
opaque wholeSample : Int → Int

/-- R500: what an average of four samples adds to their sum before it divides. -/
opaque averageBias : Nat

/-- R497: the frames that a stream holds after its jobs so far, each with its mark bits ref, wait_out and enc_ref. -/
opaque codecHeld : List Byte → List (List Byte) → List (Nat × Nat)

/-- R503: planes R, G and B as the planes of the coded picture. The spec gives the inverse relations without an order
of operations, and no subsampling of chroma. The first argument is the parameter block. -/
opaque rgbToYuv : List Byte → List (List Nat) → List (List Nat)

/-- R493: whether a unit begins at a random access point, a fixed function of codec and bytes. -/
opaque codecRandomAccess : Nat → List Byte → Bool

/-- R502: the built-in scaling coefficients: set, phase, tap. The spec fixes them and does not list them. -/
opaque scaleCoef : Nat → Nat → Nat → Int

/-- R501: a sample of a crop from outside its picture, at a column and a row. -/
opaque outsideSample : Nat → Nat → Nat

end Sys2Proof.Config
end

