-- ==== Sys2Proof/Syntax.lean ====
section
/-! DEFINITION. The commands of the block: one constructor per row of spec/opcode_table.json, in the table's order.
A command names the event or operation of one row and what comes with it from outside; what the state already
holds (a tile's next word, a ring entry, a queue's slot, a message in flight) is no operand. -/

namespace Sys2Proof

/-- Arrivals of one member at a barrier that come together: count of them merged into one message (R248). -/
structure Arrivals where
  unit : Nat
  count : Nat
  deriving DecidableEq, Repr

/-- How many flits each end of a link replays: the end named, and its far end (R17, R36). -/
structure Replays where
  near : Nat
  far : Nat
  deriving DecidableEq, Repr

/-- The commands of the block (spec/opcode_table.json, 95_what_each_step_holds.md). -/
inductive Instr where
  /-- R108: A no-operation control word issues in one cycle and does nothing. -/
  | ctNop (t : TileId)
  /-- R108: The sequencer holds issue for n further cycles. -/
  | ctIdle (t : TileId)
  /-- R109: A counted loop opens at a level, and its body repeats count times without costing a cycle. -/
  | ctLoop (t : TileId)
  /-- R83: The named banks are opened to one asynchronous port and closed to local ports from the next cycle. -/
  | ctOpen (t : TileId)
  /-- R83: The window on the named banks ends in the cycle after issue. -/
  | ctClose (t : TileId)
  /-- R111: The tile ends issue for its scene and closes any window still open. -/
  | ctEnd (t : TileId)
  /-- R80: k is added to a token channel once every command of the after-mask units has finished. -/
  | tkSignal (t : TileId)
  /-- R79: The tile blocks until the channel or arrival count reaches k. -/
  | tkWait (t : TileId)
  /-- R79: A blocked wait's count reaches k; k is subtracted and issue resumes two cycles later. -/
  | waitRelease (u : UnitId) (cycle : Nat)
  /-- R253: The tile arrives at a barrier without waiting. -/
  | stArrive (t : TileId)
  /-- R253: The tile arrives at a barrier and blocks until the phase completes. -/
  | stSync (t : TileId)
  /-- R254: The tile contributes an 8-byte operand to a reduction object and blocks until the result is written at dst. -/
  | stRed (t : TileId)
  /-- R257: The tile casts a vote and blocks until the outcome is written at dst. -/
  | stVote (t : TileId)
  /-- R114: A mover loads a pattern from a tier or its own die's reduction buffer into the scratchpad, converting on the way. -/
  | mvLd (t : TileId)
  /-- R114: A mover stores a scratchpad pattern to a tier or reduction-buffer region, converting or contributing to a local reduce flow. -/
  | mvSt (t : TileId)
  /-- R114: A mover copies scratchpad bytes to another tile's scratchpad through its remote port. -/
  | mvCp (t : TileId)
  /-- R134: The arrays accumulate G groups of n products into an accumulator bank. -/
  | mmAcc (t : TileId)
  /-- R142: An accumulator bank is written to scratchpad, or scattered through the gate, over 128 cycles. -/
  | mmDrain (t : TileId)
  /-- R193: The vector engine computes a + b per lane. -/
  | vxAdd (t : TileId)
  /-- R193: The vector engine computes a − b per lane. -/
  | vxSub (t : TileId)
  /-- R193: The vector engine computes a × b per lane. -/
  | vxMul (t : TileId)
  /-- R194: The vector engine computes the per-lane maximum. -/
  | vxMax (t : TileId)
  /-- R194: The vector engine computes the per-lane minimum. -/
  | vxMin (t : TileId)
  /-- R193: The vector engine computes a × b + c with one rounding. -/
  | vxFma (t : TileId)
  /-- R193: The vector engine computes a × b − c with one rounding. -/
  | vxFms (t : TileId)
  /-- R193: The vector engine computes −(a × b) + c with one rounding. -/
  | vxFnma (t : TileId)
  /-- R193: The vector engine copies a per lane. -/
  | vxMov (t : TileId)
  /-- R194: The vector engine flips the sign of a. -/
  | vxNeg (t : TileId)
  /-- R194: The vector engine clears the sign of a. -/
  | vxAbs (t : TileId)
  /-- R194: The vector engine computes max(a, +0). -/
  | vxRelu (t : TileId)
  /-- R194: The vector engine writes 1.0 where a > b, else +0. -/
  | vxCgt (t : TileId)
  /-- R194: The vector engine writes 1.0 where a ≥ b, else +0. -/
  | vxCge (t : TileId)
  /-- R194: The vector engine writes 1.0 where a = b, else +0. -/
  | vxCeq (t : TileId)
  /-- R194: The vector engine writes 1.0 where a ≠ b, else +0. -/
  | vxCne (t : TileId)
  /-- R194: The vector engine selects a where c > 0, else b. -/
  | vxSel (t : TileId)
  /-- R203: The vector engine computes 2 to the power a. -/
  | vxExp2 (t : TileId)
  /-- R203: The vector engine computes the base-2 logarithm of a. -/
  | vxLog2 (t : TileId)
  /-- R203: The vector engine computes the reciprocal of a. -/
  | vxRcp (t : TileId)
  /-- R203: The vector engine computes the reciprocal square root of a. -/
  | vxRsqrt (t : TileId)
  /-- R203: The vector engine computes tanh of a. -/
  | vxTanh (t : TileId)
  /-- R203: The vector engine computes erf of a. -/
  | vxErf (t : TileId)
  /-- R201: The vector engine sums each row over a fixed 7-level tree. -/
  | vxRsum (t : TileId)
  /-- R201: The vector engine takes the maximum of each row over a fixed tree. -/
  | vxRmax (t : TileId)
  /-- R201: The vector engine takes the minimum of each row over a fixed tree. -/
  | vxRmin (t : TileId)
  /-- R201: The vector engine sums squares of each row over a fixed tree. -/
  | vxRssq (t : TileId)
  /-- R202: The vector engine sums each lane over the rows in ascending order. -/
  | vxCsum (t : TileId)
  /-- R202: The vector engine takes each lane's maximum over the rows. -/
  | vxCmax (t : TileId)
  /-- R202: The vector engine takes each lane's minimum over the rows. -/
  | vxCmin (t : TileId)
  /-- R199: The vector engine packs the active elements of a densely into d. -/
  | vxCmpr (t : TileId)
  /-- R200: The vector engine spreads dense elements onto the active lanes, filling the others from c. -/
  | vxExpd (t : TileId)
  /-- R206: The vector engine derives a Rattle key slot from 32 parameter bytes. -/
  | vxKey (t : TileId)
  /-- R207: The vector engine keeps a × b where the slot's Rattle word passes the threshold, else writes +0. -/
  | vxDrop (t : TileId)
  /-- R207: The vector engine writes the keep mask of a key slot as 1.0 or +0. -/
  | vxKeep (t : TileId)
  /-- R193: The vector engine writes a uniform value from the top 24 bits of each Rattle word. -/
  | vxUnif (t : TileId)
  /-- R195: The vector engine adds INT32 values exactly with clamping. -/
  | vxIadd (t : TileId)
  /-- R195: The vector engine subtracts INT32 values exactly with clamping. -/
  | vxIsub (t : TileId)
  /-- R193: The vector engine takes the INT32 maximum per lane. -/
  | vxImax (t : TileId)
  /-- R193: The vector engine takes the INT32 minimum per lane. -/
  | vxImin (t : TileId)
  /-- R195: The vector engine converts integers to floating point, rounding to nearest-even. -/
  | vxItof (t : TileId)
  /-- R195: The vector engine converts floating point to INT32, rounding to nearest-even with clamping. -/
  | vxFtoi (t : TileId)
  /-- R147: The open gate round takes a fill threshold and a deadline. -/
  | gtArm (t : TileId)
  /-- R145: A context's rows are copied into its slot of the open gate round. -/
  | gtFill (t : TileId)
  /-- R148: The gate fires its open round at once. -/
  | gtFire (t : TileId)
  /-- R123: The counter logger appends a copy of a completion entry to the tile log. -/
  | lgRec (t : TileId)
  /-- R123: The counter logger appends a user tag and value to the tile log. -/
  | lgMark (t : TileId)
  /-- R122: A range of completion entries is cleared. -/
  | lgClr (t : TileId)
  /-- R74: A word held for a full unit queue issues once an entry frees. -/
  | issueResume (t : TileId)
  /-- R73: A queued command starts on its unit once the previous occupancy ends. -/
  | commandStart (t : TileId) (unit : TileUnitId)
  /-- R77: A requested line moves in the first slot of its port that begins at least 20 ns after its request. -/
  | moverLineSlot (t : TileId) (mover : Fin 2) (slot : Nat) (cycle : Nat) (ecc : Ecc)
  /-- R76: A moved line is written in its bank, region or DRAM within the crossing bounds. -/
  | moverLineLands (t : TileId) (mover : Fin 2) (line : Nat) (cycle : Nat)
  /-- R80: A mover command's last line is written or durable; counts, finishing signal and tag part are applied. -/
  | moverFinish (t : TileId) (mover : Fin 2) (cycle : Nat)
  /-- R135: An MM.ACC's accumulators complete at start + G + 128. -/
  | accumulatorsComplete (t : TileId)
  /-- R150: A drain's occupancy ends; a gated round is released and its contexts are signalled. -/
  | drainEnd (t : TileId)
  /-- R190: A vector chain starts once its last link is issued and the engine is free. -/
  | chainStart (t : TileId)
  /-- R192: A vector chain writes its last result, finishing every word and adding counts. -/
  | chainFinish (t : TileId)
  /-- R146: A gate fill's copy ends and its rows are counted into the round, possibly meeting the threshold. -/
  | fillCounted (t : TileId)
  /-- R148: An armed round reaches its deadline cycle and fires. -/
  | gateDeadline (t : TileId)
  /-- R96: A wait or hold is still blocked at its limit in frames. -/
  | waitLimitExpiry (u : UnitId)
  /-- R99: A tile receives a scene start, clears its channels, loops, completion table and cycle count, and begins issuing. -/
  | tileSceneStart (t : TileId)
  /-- R111: After CT.END every unit queue is empty and every command finished; the tile arrives at the end barrier. -/
  | tileSceneEnd (t : TileId)
  /-- R557: The troupe's scene-end barrier completes; seals are written and the conservation audit starts. -/
  | sceneBoundary (tr : TroupeId)
  /-- R557: Every die passes the audit; the troupe becomes quiescent and pending fences and held starts proceed. -/
  | auditComplete (tr : TroupeId)
  /-- R91: An abort notice reaches a tile or engine, which stops issuing and abandons its waits. -/
  | abortNotice (tr : TroupeId) (u : UnitId)
  /-- R92: Every unit of an aborting troupe is idle with nothing in transit; counts are reset and counters sealed. -/
  | safePoint (tr : TroupeId)
  /-- R93: An aborting troupe misses its safe point for 50 µs; a fatal record resets the package. -/
  | safePointTimeout (tr : TroupeId)
  /-- R79: A device-wide token signal arrives at the channel's holder and adds to its count. -/
  | tokenSignalMessage (port : Option PortId) (ch : Fin 16384) (k : W32)
  /-- R253: A barrier arrival reaches a router and is counted toward its phase. -/
  | barrierArrival (port : Option PortId) (obj : Nat) (a : Arrivals)
  /-- R81: A barrier phase's release reaches members, and the counter returns to its CREDIT value. -/
  | barrierRelease (obj : Nat)
  /-- R253: A second arrival held for the next phase is still held at its limit. -/
  | arrivalHoldLimit (u : UnitId)
  /-- R255: A reduction operand reaches a router and is combined in the fixed tree order. -/
  | reductionOperand (port : Option PortId) (obj : Fin 1024) (unit : Nat) (redOp : Option (Fin 5)) (value : Option Word)
  /-- R255: A reduction result descends and is written at each member's dst. -/
  | reductionResult (obj : Fin 1024) (fromRoot : Option Word)
  /-- R257: A vote reaches a router and is counted toward its phase. -/
  | voteCast (port : Option PortId) (obj : Fin 256) (unit : Nat) (go : Bool)
  /-- R257: A vote outcome reaches a member and is written, advancing bound tag entries on go. -/
  | voteOutcome (obj : Fin 256) (fromRoot : Bool)
  /-- R258: A write of STR_VETO makes the package's contribution to a vote object no-go. -/
  | strVetoWrite (v : Word)
  /-- R8: A 1 µs frame opens; duty counts, credit returns, rail samples, logic sensors and overrun counts are taken. -/
  | frameStart (rails : List RailSample) (logic : List LogicSample) (fec : List FecSample) (links : List LinkSample) (sram : List SramError)
  /-- R260: A member receives a mark, sets span time, forwards it and updates trim and stability judgement. -/
  | frameMarkReceipt (p : PortId) (carried : Word) (phases : List Int)
  /-- R261: No mark arrives for 3 frames; the reference is lost and the package leaves the span. -/
  | markLoss
  /-- R262: A departure or join notice reaches a member, which updates STR_MEMBER and acts on departures. -/
  | membershipNotice (join : Bool) (span x y z : Nat) (viaPort : Option PortId)
  /-- R267: A register write carried by Strings in class 3 reaches its block and merges with other masters' writes. -/
  | carriedRegisterWrite (addr : Nat) (v : Word) (others : List OtherWrite)
  /-- R78: Memory timetables restart; temperature is read and refresh rate, alert and halt are updated. -/
  | timetableFrameStart (temps : List TempSample)
  /-- R229: A DRAM slot carries one line for its owner: scheduled, free, refresh or scrub. -/
  | memorySlot (m : MemoryId) (channel : Nat) (slot : Nat) (ecc : Ecc)
  /-- R17: A UCIe link leaves the active state and holds traffic in its replay buffers. -/
  | linkRetrainStart (d : DieId) (l : LinkId)
  /-- R17: A retraining UCIe link comes up within 2 ms and replays held traffic. -/
  | linkUpAgain (d : DieId) (l : LinkId) (n : Replays)
  /-- R17: A UCIe link stays down 2 ms; the package resets or a host-link loss begins. -/
  | linkLossTimeout (d : DieId) (l : LinkId)
  /-- R423: A host link is lost; window writes are discarded and the device dies are reset. -/
  | hostLinkLoss (d : DieId)
  /-- R281: A slot flit arrives at an Abasis port and is checked and accepted in sequence order. -/
  | slotFlitReceived (p : PortId) (flit : List Byte)
  /-- R281: A nak-named flit is resent in the first free replay position after the nak. -/
  | replaySend (p : PortId) (position : Fin 3)
  /-- R280: A frame opener arrives; its identity and flags are checked. -/
  | openerReceived (p : PortId) (opener : List Byte)
  /-- R292: An Abasis port finishes training, checks its neighbour's identity and enters up and fenced. -/
  | portTrained (p : PortId) (delay : Nat) (stringsUp : Bool)
  /-- R282: An Abasis port retrains after repeated flit failure, alignment loss or FEC failure. -/
  | portRetrain (p : PortId) (cause : RetrainCause)
  /-- R282: The data lanes are not up within 2 ms; the port is down and fenced. -/
  | portRetrainTimeout (p : PortId)
  /-- R282: A port loses a Strings lane and the package leaves the span. -/
  | stringsLaneLost (p : PortId)
  /-- R284: A line reaches the fabric engine and is forwarded, delivered, reduced or discarded by its flow record. -/
  | fabricLineArrival (p : PortId)
  /-- R283: A buffered line is launched in its flow's first slot on out_port at least 20 ns after arrival. -/
  | forwardLaunch (p : PortId) (slot : Nat)
  /-- R286: A credit-return message arrives and adds completed lines back to a flow's credits. -/
  | creditReturn (flow : Fin 262144) (n : W32)
  /-- R290: A contribution is accumulated into its region in contributor order, replacing the line when complete. -/
  | reductionContribution (d : ChipId) (n : Nat)
  /-- R289: A fabric engine waits on its channel and launches a range of a local-source flow's lines. -/
  | fabSend (d : ChipId) (slot : Nat)
  /-- R289: A SEND's last line is launched and its completion channel is signalled. -/
  | fabSendComplete (d : ChipId)
  /-- R289: A RECV is registered for count further lines of a flow. -/
  | fabRecv (d : ChipId)
  /-- R289: A RECV's lines are written or accepted and its channel is signalled. -/
  | fabRecvComplete (d : ChipId) (n : Nat)
  /-- R289: The fabric engine ends its ring and arrives at the scene-end barrier once no RECV is pending. -/
  | fabEnd (d : ChipId)
  /-- R365: A complete fetched copy's digest is compared with the board digest and matches or misses. -/
  | fetchCheck (n : Fin 1024)
  /-- R366: A repeat request reaches the source, whose fabric engine runs the flow's SEND once more. -/
  | repeatRequest (flow : Fin 262144)
  /-- R303: A reduction engine adds the squares of a region's FP32 elements into its norm accumulator. -/
  | redNorm (d : ChipId)
  /-- R304: A reduction engine contributes its norm, waits for the sum and votes on it against the ceiling. -/
  | redNormVote (d : ChipId)
  /-- R302: A reduction engine ends its ring and arrives at the scene-end barrier once its accumulation is done. -/
  | redEnd (d : ChipId)
  /-- R326: An update processor casts go on the norm vote and waits for its outcome. -/
  | updNormWait (g : GrottoId)
  /-- R326: The norm vote outcome reaches an update processor, which runs or skips later entries. -/
  | normOutcome (g : GrottoId)
  /-- R329: An update processor runs one program over a shard's streams into its inactive generation. -/
  | updUpdate (g : GrottoId)
  /-- R335: A program group held for a late input line resumes issue when the line arrives. -/
  | programGroupResume (g : GrottoId)
  /-- R325: An UPDATE's last output line is durable and its channel is signalled. -/
  | updateComplete (g : GrottoId)
  /-- R333: A program instruction computes a + b for 256 elements. -/
  | prgAdd (g : GrottoId)
  /-- R333: A program instruction computes a − b. -/
  | prgSub (g : GrottoId)
  /-- R333: A program instruction computes a × b. -/
  | prgMul (g : GrottoId)
  /-- R333: A program instruction computes a × b + c. -/
  | prgFma (g : GrottoId)
  /-- R333: A program instruction computes a × b − c. -/
  | prgFms (g : GrottoId)
  /-- R333: A program instruction computes −(a × b) + c. -/
  | prgFnma (g : GrottoId)
  /-- R333: A program instruction computes a / b. -/
  | prgDiv (g : GrottoId)
  /-- R333: A program instruction computes the square root of a. -/
  | prgSqrt (g : GrottoId)
  /-- R333: A program instruction computes max(a, b). -/
  | prgMax (g : GrottoId)
  /-- R333: A program instruction computes min(a, b). -/
  | prgMin (g : GrottoId)
  /-- R333: A program instruction computes |a|. -/
  | prgAbs (g : GrottoId)
  /-- R333: A program instruction computes −a. -/
  | prgNeg (g : GrottoId)
  /-- R333: A program instruction selects a if c > 0, else b. -/
  | prgSel (g : GrottoId)
  /-- R333: A program instruction writes 1.0 if a > b, else +0. -/
  | prgCgt (g : GrottoId)
  /-- R333: A program instruction copies a. -/
  | prgMov (g : GrottoId)
  /-- R340: An update processor hands an inverse-root job to the root unit. -/
  | updRoot (g : GrottoId)
  /-- R341: The root unit finishes one block's Newton iteration and writes its root and residual. -/
  | rootBlockComplete (g : GrottoId)
  /-- R346: An update processor casts its commit vote after all earlier work is done. -/
  | updCommit (g : GrottoId)
  /-- R346: The commit vote outcome arrives; dirty shards flip or are cleared, publications go out and the flip barrier is reached. -/
  | commitOutcome (g : GrottoId)
  /-- R345: An update processor recomputes a digest and compares it for mode 0. -/
  | updDigest (g : GrottoId)
  /-- R327: An update processor writes constant slots from immediates or the step table. -/
  | updConst (g : GrottoId)
  /-- R328: An update processor fills both generations of an uninitialised shard region. -/
  | updInit (g : GrottoId)
  /-- R325: An update processor ends its ring and arrives at the scene-end barrier once the root unit is idle. -/
  | updEnd (g : GrottoId)
  /-- R363: A published head digest reaches a package and is written into matching board entries. -/
  | publicationReceipt (key : W32) (digest : Word) (gen : W32)
  /-- R310: CTL_STEP.resolve flip flips an unknown member's pointers as a commit. -/
  | stepResolveFlip (tr : TroupeId)
  /-- R310: CTL_STEP.resolve discard leaves an unknown member's pointers as a decline. -/
  | stepResolveDiscard (tr : TroupeId)
  /-- R314: Pinning a troupe's snapshot records the commit count in force. -/
  | snapshotPin (tr : TroupeId)
  /-- R314: Releasing the pin lets held commit scenes run. -/
  | snapshotRelease (tr : TroupeId)
  /-- R385: A RdShared request reaches the home and starts a transaction by directory state. -/
  | rdShared (a : AgentId) (line : Nat) (txn : Nat)
  /-- R385: A RdUnique request reaches the home and starts a transaction for a sole copy. -/
  | rdUnique (a : AgentId) (line : Nat) (txn : Nat)
  /-- R385: An Upgrade reaches the home; other sharers are invalidated or data is sent. -/
  | upgrade (a : AgentId) (line : Nat) (txn : Nat)
  /-- R385: A RdOnce from agent 12 reaches the home and reads the current value without caching. -/
  | rdOnce (line : Nat) (txn : Nat)
  /-- R385: A WrFull reaches the home, invalidates copies and writes the line. -/
  | wrFull (line : Nat) (txn : Nat)
  /-- R385: A WrPart reaches the home, invalidates copies and merges the masked bytes. -/
  | wrPart (line : Nat) (txn : Nat)
  /-- R386: A request waiting for a busy line starts when the earlier transaction ends. -/
  | queuedRequestStart (line : Nat)
  /-- R393: A request waiting for a free way of a full set proceeds when a way ceases to be busy. -/
  | setQueueRequestStart (home : AgentId) (set : Nat)
  /-- R387: A SnpShared reaches a cache, which answers from its state. -/
  | snpShared (a : AgentId) (line : Nat)
  /-- R387: A SnpUnique reaches a cache, which forwards data and invalidates. -/
  | snpUnique (a : AgentId) (line : Nat)
  /-- R387: A SnpInv reaches a cache, which invalidates and returns dirty data. -/
  | snpInv (a : AgentId) (line : Nat)
  /-- R387: A SnpCur reaches a cache, which forwards the current value. -/
  | snpCur (a : AgentId) (line : Nat)
  /-- R387: An RspI reaches the home and sets the transaction's outcome. -/
  | rspI (a : AgentId) (line : Nat)
  /-- R387: An RspFwdS reaches the home; the line ends shared. -/
  | rspFwdS (a : AgentId) (line : Nat)
  /-- R387: An RspFwdSWb reaches the home, which awaits DataHome for memory. -/
  | rspFwdSWb (a : AgentId) (line : Nat)
  /-- R387: An RspFwdI reaches the home; ownership passes to the requester. -/
  | rspFwdI (a : AgentId) (line : Nat)
  /-- R387: An RspIWb reaches the home, which awaits DataHome. -/
  | rspIWb (a : AgentId) (line : Nat)
  /-- R389: An RspFwdEvict reaches the home and announces a crossing write-back. -/
  | rspFwdEvict (a : AgentId) (line : Nat)
  /-- R389: An RspIEvict reaches the home and announces a crossing write-back. -/
  | rspIEvict (a : AgentId) (line : Nat)
  /-- R387: An RspCur reaches the home; the directory is unchanged. -/
  | rspCur (a : AgentId) (line : Nat)
  /-- R385: A Cmp reaches the requester, completing its request. -/
  | cmp (a : AgentId) (line : Nat)
  /-- R386: A requester's Ack reaches the home; the transaction ends once announced write-backs have arrived. -/
  | ack (a : AgentId) (line : Nat)
  /-- R390: A WbAck reaches a cache in WBP, which moves to I. -/
  | wbAck (a : AgentId) (line : Nat)
  /-- R385: DataE reaches a requester, which takes the line exclusive. -/
  | dataE (a : AgentId) (line : Nat)
  /-- R385: DataS reaches a requester, which takes the line shared. -/
  | dataS (a : AgentId) (line : Nat)
  /-- R391: DataM reaches a requester in IM, which takes the line modified. -/
  | dataM (a : AgentId) (line : Nat)
  /-- R385: DataHome reaches the home and is written to memory. -/
  | dataHome (a : AgentId) (line : Nat)
  /-- R385: DataI reaches agent 12 as an uncached read value. -/
  | dataI (a : AgentId) (line : Nat)
  /-- R388: A WbDirty reaches the home and is applied or held behind a busy transaction. -/
  | wbDirty (a : AgentId) (line : Nat)
  /-- R388: A WbClean reaches the home and frees the entry or is held. -/
  | wbClean (a : AgentId) (line : Nat)
  /-- R380: A cache evicts an E or M line by sending a write-back and entering WBP. -/
  | cacheEviction (a : AgentId) (line : Nat)
  /-- R394: A line stays busy 2 ms; a fatal COHERENCE record resets the package. -/
  | busyLimit (line : Nat)
  /-- R399: COH_PURGE_CTL.start begins back-invalidating every entry of a range at a home. -/
  | purgeStart (home : Fin 8) (v : Word)
  /-- R399: A purge ends with the range in directory state I and signals its channel. -/
  | purgeComplete (home : Fin 8)
  /-- R404: A hart's window write is gathered into a write-combining buffer. -/
  | windowWrite (h : HartId) (addr : Nat) (data : List Byte)
  /-- R404: A write-combining buffer drains when full, displaced, flushed or 1 µs old. -/
  | wcBufferDrain (h : HartId) (buffer : Fin 4)
  /-- R405: A window read waits for the hart's earlier window writes to the die to be durable, then reads memory. -/
  | windowRead (h : HartId) (addr : Nat) (len : Nat)
  /-- R406: A read of WIN_FLUSH returns once all of the hart's window writes are durable or discarded. -/
  | winFlushRead (h : HartId)
  /-- R409: Writing QUE_CFG.enable = 1 enables a queue and zeroes its counts. -/
  | queueEnable (q : QueueId) (v : Word)
  /-- R419: Writing enable = 0 discards every command that has not started. -/
  | queueDisable (q : QueueId) (v : Word)
  /-- R419: QUE_CFG.restart resumes a stopped queue from its head slot. -/
  | queueRestart (q : QueueId) (v : Word)
  /-- R412: A doorbell value advances, is ignored, or stops the queue with BAD_DOORBELL. -/
  | doorbellWrite (q : QueueId) (v : Word)
  /-- R418: A read of the slot that holds command n returns and is checked for seq and CRC before dispatch. -/
  | slotFetch (q : QueueId) (n : Nat)
  /-- R418: A failed slot is read again 1 µs later, up to 8 times before TORN. -/
  | slotReread (q : QueueId) (n : Nat)
  /-- R414: A NOP queue command completes when it starts. -/
  | qNop (q : QueueId)
  /-- R414: An INLINE_WRITE writes its payload to a tier coherently. -/
  | qInlineWrite (q : QueueId)
  /-- R416: A SCENE_LOAD checks a scene image and writes its segments into a quiescent troupe's units. -/
  | qSceneLoad (q : QueueId)
  /-- R414: A SCENE_START starts a scene on a troupe with per-unit entries. -/
  | qSceneStart (q : QueueId)
  /-- R417: A held scene start proceeds once the troupe can take it. -/
  | heldSceneStart (q : QueueId)
  /-- R414: A SIGNAL command sends k to a device-wide token channel. -/
  | qSignal (q : QueueId)
  /-- R477: Host opcode 0x10 submits a free decompression job. -/
  | qDecomp (q : QueueId)
  /-- R477: Host opcode 0x11 submits a free gather job. -/
  | qGather (q : QueueId)
  /-- R477: Host opcode 0x12 submits a free scatter job. -/
  | qScatter (q : QueueId)
  /-- R477: Host opcode 0x13 submits a free layout job. -/
  | qLayout (q : QueueId)
  /-- R421: A completion record is written once the command's data is durable and the ring has room. -/
  | completionRecordWrite (q : QueueId)
  /-- R422: Agent 12 writes the queue's interrupt after the record's Cmp arrives. -/
  | msiWrite (q : QueueId)
  /-- R471: A data engine decodes a Zstandard or DEFLATE stream into its destination. -/
  | datDecomp (d : ChipId)
  /-- R472: A data engine gathers table rows by index. -/
  | datGather (d : ChipId)
  /-- R473: A data engine scatters rows by index, overwriting or adding. -/
  | datScatter (d : ChipId)
  /-- R474: A data engine copies or transposes batches of matrices. -/
  | datLayout (d : ChipId)
  /-- R475: A data engine ends its ring and arrives at the scene-end barrier. -/
  | datEnd (e : Fin 12)
  /-- R470: A data-engine job writes its status word and signals or completes its record. -/
  | dataJobFinish (e : Fin 12)
  /-- R488: A codec stream context is opened from a parameter block or refused. -/
  | vcdOpen (q : QueueId)
  /-- R489: A decode job for one access or temporal unit is accepted into the job list. -/
  | vcdDecode (q : QueueId)
  /-- R489: An encode job for one picture is accepted into the job list. -/
  | vcdEncode (q : QueueId)
  /-- R491: A stream's pending jobs complete with CLOSED and its context closes. -/
  | vcdClose (q : QueueId)
  /-- R487: Pictures awaiting output are written to the destination. -/
  | vcdDrain (q : QueueId)
  /-- R483: A codec job's outputs are evicted to memory and the pipe takes its next job by class. -/
  | codecJobFinish (d : ChipId) (pipe : Fin 2)
  /-- R495: A running lower-class job is suspended at a row boundary for an eligible live job. -/
  | codecSuspend (d : ChipId) (pipe : Fin 2)
  /-- R508: A frame buffer base is set, or the write is ignored for a buffer of an open stream. -/
  | vcdFbBaseWrite (d : ChipId) (f : Fin 4096) (v : Word)
  /-- R434: A translated adapter write is checked against its region and placed or refused. -/
  | adapterWrite (port : Fin 4) (rid : BitVec 16) (pasid : Option (BitVec 20)) (addr : Nat) (data : List Byte)
  /-- R434: A translated adapter read is checked against its region and served or aborted. -/
  | adapterRead (port : Fin 4) (rid : BitVec 16) (pasid : Option (BitVec 20)) (addr : Nat) (len : Nat)
  /-- R441: A request into a PCIe aperture is routed to the peer port or refused. -/
  | peerRequest (port : Fin 4) (addr : Nat) (write : Bool)
  /-- R436: A placed write and all earlier ones become durable and are counted into arrivals. -/
  | placementDurable (r : RegionId)
  /-- R433: Setting a region's valid bit checks it and zeroes its counts. -/
  | regionEnable (r : RegionId) (v : Word)
  /-- R440: Clearing a region's valid bit refuses later requests while passed ones finish. -/
  | regionDisable (r : RegionId) (v : Word)
  /-- R460: A message write to an IMSIC file sets its identity pending. -/
  | interruptFileWrite (addr : Nat) (v : W32)
  /-- R464: A CTL_EVT_ROUTE write sets a route, taken disabled when invalid. -/
  | evtRouteWrite (e : Fin 16) (v : Word)
  /-- R457: Setting a hart's run bit starts it in M-mode at CTL_HART_ENTRY. -/
  | hartRelease (h : HartId)
  /-- R457: Clearing a hart's run bit stops it, writes back its caches and resets it. -/
  | hartStop (h : HartId)
  /-- R61: CTL_IMG_CMD 0x01 discards a staged partial image. -/
  | imgDiscardStaged
  /-- R66: CTL_IMG_CMD 0x02 reads and checks a full image for loading. -/
  | imgLoadFull
  /-- R69: CTL_IMG_CMD 0x03 checks a partial image and holds it in the shadow tables. -/
  | imgStagePartial
  /-- R69: CTL_IMG_CMD 0x04 starts the span's epoch-change vote. -/
  | imgEpochChange
  /-- R57: The loader finishes the checks of an image and reports success or a refusal code. -/
  | imageCheckComplete (readError : Bool)
  /-- R67: All dies switch to a new full image at a frame mark, resetting counts and locking RWL fields. -/
  | imageSwitch
  /-- R71: The epoch-change vote outcome sets activation frame F or reports VOTE_FAILED. -/
  | epochVoteOutcome (go : Bool) (frame : Nat)
  /-- R69: At frame F every member switches its affected tables. -/
  | epochActivation
  /-- R357: A tag-table write updates all four copies, initialising on enable, or is rejected. -/
  | tagEntryWrite (e : Nat) (v : Word)
  /-- R364: A fetch-board write updates all four copies or is rejected. -/
  | boardEntryWrite (n : Fin 1024) (reg : Fin 2) (v : Word)
  /-- R323: A shard-table write takes effect, initialising on enable, or is rejected. -/
  | shardTableWrite (g : GrottoId) (shard : Fin 4096) (reg : Fin 8) (v : Word)
  /-- R144: A GATE_MAP write sets a context slot or is ignored with map_reject. -/
  | gateMapWrite (t : TileId) (context : Fin 96) (v : Word)
  /-- R272: A write of the telemetry ring size or base resets the write pointer. -/
  | telemetryConfigWrite (reg : Fin 2) (v : Word)
  /-- R519: A CLK_SWITCH to the root is accepted if the domain is ready, or refused. -/
  | clkSwitchRoot (d : DieId) (source : SourceId) (domain : BitVec 4)
  /-- R519: A CLK_SWITCH to bypass is accepted unless a troupe on the die is running. -/
  | clkSwitchBypass (d : DieId) (source : SourceId) (domain : BitVec 4)
  /-- R520: An accepted switch takes effect at the next common edge. -/
  | clkSwitchEffect (d : DieId) (domain : Nat)
  /-- R511: A die's root oscillator acquires lock to REFCLK. -/
  | rootLock (d : DieId)
  /-- R518: 65,536 REFCLK cycles pass and the root is judged stable. -/
  | stabilityCountExpiry (d : DieId)
  /-- R523: No REFCLK edge for 40 ns causes a package stop. -/
  | refclkLoss (d : DieId)
  /-- R523: A root's phase error exceeds 250 ps for 8 cycles and causes a package stop. -/
  | lockLoss (d : DieId)
  /-- R531: PWRGD is asserted and the on-package regulators bring up the rails. -/
  | powerGood
  /-- R531: PWRGD deasserts and causes a power-on reset at once. -/
  | pwrgdDeassert
  /-- R533: PKG_RESET_N goes low; DRAM enters self-refresh and every die resets. -/
  | pkgResetAssert
  /-- R532: PKG_RESET_N is released; the host die leaves reset and the boot ROM runs its stages or enters Lantern mode. -/
  | pkgResetRelease
  /-- R533: A fatal record, watchdog or BOOT_CTL request resets every die with the cause latched. -/
  | packageReset
  /-- R539: The boot watchdog expires, ends the attempt with reason 0x09 and resets the package. -/
  | watchdogExpiry
  /-- R549: BOOT_CTL.reset resets the package with cause 4. -/
  | bootReset
  /-- R549: BOOT_CTL.commit marks the attempt succeeded and stops the watchdog. -/
  | bootCommit
  /-- R541: BOOT_CTL.clear writes a cleared attempt record. -/
  | bootClear
  /-- R536: BOOT_CTL.unlock_ram returns the boot-RAM ways to the L3. -/
  | bootUnlockRam
  /-- R549: BOOT_CTL.stage reports the boot stage that host firmware enters. -/
  | bootStage (stage : BitVec 4)
  /-- R549: BOOT_CTL.fail latches a failure reason and resets, or records a re-bring-up failure. -/
  | bootFail (reason : BitVec 8)
  /-- R549: BOOT_CTL.die releases device dies from reset. -/
  | bootDieRelease (mask : BitVec 8)
  /-- R549: BOOT_FLASH_CMD op 1 reads 4 KiB of flash into the buffer. -/
  | bootFlashRead
  /-- R549: BOOT_FLASH_CMD op 2 programs 4 KiB of flash. -/
  | bootFlashProgram
  /-- R549: BOOT_FLASH_CMD op 3 erases a 64 KiB sector. -/
  | bootFlashErase
  /-- R549: A flash operation ends and busy falls, with error set on failure. -/
  | flashOpComplete (ok : Bool)
  /-- R537: The verify engine checks a bundle's signature and svn and measures it on acceptance. -/
  | bundleVerify (offset : Nat) (types : List Nat)
  /-- R538: A write of SEC_SVN_ADV blows fuses up to the target count or is rejected. -/
  | secSvnAdvWrite (v : Word)
  /-- R545: SEC_QUOTE_CTL.start writes a signed quote through agent 12. -/
  | quoteStart
  /-- R545: Every line of a quote has its Cmp and busy falls. -/
  | quoteComplete
  /-- R543: SEC_MEXT_CTL.go extends a software measurement register. -/
  | mregExtend (v : Word)
  /-- R555: A fatal record reaches the host die over Strings and replaces ERR_FATAL. -/
  | fatalCopy (d : DieId)
  /-- R571: A write of ERR_FATAL_CLR makes ERR_FATAL read 0. -/
  | errFatalClrWrite (v : Word)
  /-- R561: CTL_FENCE requests a unit's fence, at once or at the troupe's next boundary. -/
  | fenceRequest (u : UnitId)
  /-- R561: CTL_FENCE requests a unit's return to service, at once or at the next boundary. -/
  | returnRequest (u : UnitId)
  /-- R33: A register write without a row of its own takes effect field by field, or is recorded in ERR_REGACC. -/
  | registerWrite (source : SourceId) (addr : Nat) (size : Nat) (v : Word) (others : List OtherWrite)
  /-- R33: A register read returns its value, clears RC fields, and for a narrow, misaligned or unmapped read returns 0 and records the access in ERR_REGACC. -/
  | registerRead (source : SourceId) (addr : Nat) (size : Nat)
  /-- R380: A hart load, store, AMO or cache-block operation to a tier, unmapped or faulting address is served by its caches, sends a RdShared, RdUnique or Upgrade and enters IS, IM or SM, or raises an access fault. -/
  | hartMemoryAccess (h : HartId) (kind : HartAccess) (addr : Nat) (data : List Byte)
  /-- R15: A UCIe link finishes its first training after its dies leave reset, with lane repair, and becomes active, or is held down when a module cannot be repaired. -/
  | linkTrained (d : DieId) (l : LinkId) (modules : BitVec 6)
  /-- R432: A root port's link goes down or an adapter is removed, and the port contains it by DPC and raises its AER, DPC or PME event through its MSI capability. -/
  | downstreamPortContainment (port : Fin 4) (event : RootPortEvent)
deriving DecidableEq, Repr

end Sys2Proof
end

