-- ==== Sys2Proof/Machine/State.lean ====
section
/-! DEFINITION. The state of the package as plain data: every register, table, ring, buffer and message in flight
that the spec gives it, and the queue of commands that wait. A field's default value is its value at reset; where
the spec states no reset value, the assumption log names the one taken here. -/

namespace Sys2Proof.Machine

open Sys2Proof

/-- Why the machine stops with a fault. No rule of the spec leaves a command of the table without an effect, so no
meaning raises one; the type is kept closed and inhabited for the interface. Safe: a stop hides no effect. -/
inductive Fault where
  /-- Raised by nobody. Safe. -/
  | noRuleGivesAnEffect
deriving DecidableEq, Repr

/-- Why the machine gives a command no meaning. -/
inductive Refusal where
  /-- The command of that row is not modelled yet. Safe: the machine stops. -/
  | notModelled (mnemonic : String)
deriving DecidableEq, Repr

/-! ### Time, and the reply of a read -/

/-- Span time (R259 to R261, R514) and the time CSR (R453). -/
structure TimeState where
  /-- STR_SPAN_TIME, in STR cycles. -/
  span : Nat := 0
  /-- The time CSR, 100 MHz. -/
  csr : Nat := 0
  /-- The timetable frame that stands open: span time over 65,536 at its start (R78, R228). -/
  ttFrames : Nat := 0
deriving DecidableEq, Repr

/-- What the last read, flush or hart access returned (the model's own field). -/
structure Reply where
  value : Word := 0
  data : List Byte := []
  /-- RISC-V access fault raised on the hart (R25, R455). -/
  accessFault : Bool := false
  /-- A read completed with Completer Abort or Unsupported Request (R434, R441). -/
  aborted : Bool := false
deriving DecidableEq, Repr

/-! ### Errors (R551 to R556, R569 to R571, R35) -/

/-- An error record (R551). -/
structure ErrRec where
  cls : Nat := 0
  severity : Nat := 0
  die : Nat := 0
  unit : Nat := 0xFF
  code : Nat := 0
  troupe : Nat := 0xFF
  flags : Nat := 0
  seq : Nat := 0
  sceneId : Nat := 0
  spanTime : Nat := 0
  addr : Nat := 0
  info0 : Nat := 0
  info1 : Nat := 0
  info2 : Nat := 0
deriving DecidableEq, Repr

/-- The ERR block of one die. -/
structure DieErr where
  ring : Tbl ErrRec := []
  wr : Nat := 0
  rd : Nat := 0
  dropped : Nat := 0
  lost : Nat := 0
  corrected : Nat := 0
  deferred : Nat := 0
  /-- Records formed since reset, dropped ones included (R551 seq). -/
  seq : Nat := 0
  /-- A record has been dropped since the last one written (R554, flags bit 0 of the next). -/
  dropFlag : Bool := false
  regValid : Bool := false
  regSource : Nat := 0
  regKind : Nat := 0
  regAddr : Nat := 0
deriving DecidableEq, Repr

/-- Error records of every die, ERR_FATAL, and the fatal records formed and not yet copied (R555). -/
structure ErrState where
  dies : Tbl DieErr := []
  fatal : Option ErrRec := none
  fatalFormed : List ErrRec := []
  /-- A fatal record has already been copied for the reset that is due (R555). -/
  fatalCopied : Bool := false
deriving DecidableEq, Repr

/-- CTL_CONFLICT, CTL_CONFLICT_DATA and CTL_CONFLICT_COUNT (R268). -/
structure Conflict where
  valid : Bool := false
  loser : Nat := 0
  winner : Nat := 0
  addr : Nat := 0
  data : Word := 0
  count : Nat := 0
deriving DecidableEq, Repr

/-! ### Links (R13 to R17, R36) -/

/-- One end of a UCIe link. -/
structure Link where
  state : Nat := 0
  modules : Nat := 0
  retrains : Nat := 0
  replays : Nat := 0
  /-- Span time at which the link left the active state. -/
  leftAt : Nat := 0
  /-- Slots of scheduled flows that lines of this frame and the last have taken, counted from span time 0 (R19, R77). -/
  taken : List Nat := []
deriving DecidableEq, Repr

/-! ### The Byten image (R37 to R71) -/

/-- R43. Masks are numbers, bit t for tile t and bit u - 48 for unit u. -/
structure TroupeRec where
  troupe : Nat
  tiles : Nat := 0
  engines : Nat := 0
  tokenBase : Nat := 0
  tokenCount : Nat := 0
  barrierBase : Nat := 0
  barrierCount : Nat := 0
deriving DecidableEq, Repr

/-- R45. -/
structure BindRec where
  target : Nat
  index : Nat
  troupe : Nat
  ports : Nat
deriving DecidableEq, Repr

/-- R46. -/
structure CreditRec where
  kind : Nat
  channel : Nat
  initial : Nat
deriving DecidableEq, Repr

/-- A timetable: R48 (memory, channel), R50 (die, link) or R51 (port, enabled). -/
structure TimetableRec where
  a : Nat
  b : Nat
  slots : Nat
  owners : List Nat
deriving DecidableEq, Repr

/-- R49. -/
structure MemmapRec where
  memory : Nat
  linearLimit : Nat
deriving DecidableEq, Repr

/-- R52. -/
structure StrRouteRec where
  kind : Nat
  id : Nat
  tiles : Nat
  engines : Nat
  upPort : Nat
  downPorts : Nat
deriving DecidableEq, Repr

/-- R53. -/
structure FlowRec where
  flow : Nat
  kind : Nat
  inPort : Nat
  outPort : Nat
  address : Nat
  lines : Nat
  credits : Nat
  contributors : Nat
  troupe : Nat
  contributor : Nat
deriving DecidableEq, Repr

/-- R54. -/
structure FormatRec where
  unit : Nat
  path : Nat
  fp8Overflow : Nat
  bf16Round : Nat
deriving DecidableEq, Repr

/-- R55. -/
structure ClockRec where
  hcoreDiv : Nat := 4
  spanClass : Nat := 0
  timeParent : Nat := 0xFF
  x : Nat := 0
  y : Nat := 0
  z : Nat := 0
  sizeX : Nat := 1
  sizeY : Nat := 1
  sizeZ : Nat := 1
  spanIndex : Nat := 0
  spanCount : Nat := 1
  spanId : Nat := 0
deriving DecidableEq, Repr

/-- R56. -/
structure PowerRec where
  troupe : Nat
  arrayCap : Nat
  vectorCap : Nat
deriving DecidableEq, Repr

/-- R38: the header fields that stay of use once an image is checked. -/
structure ImageHeader where
  kind : Nat := 0
  signedLength : Nat := 0
  imageId : Nat := 0
  parentId : Nat := 0
  epoch : Nat := 0
  arithRev : Nat := 0
  svn : Nat := 0
  spanClass : Nat := 0
  troupeCount : Nat := 0
  spanPackages : Nat := 0
  affected : Nat := 0
  targetId : Nat := 0
  sectionCount : Nat := 0
deriving DecidableEq, Repr

/-- A Byten image's contents. -/
structure Image where
  header : ImageHeader := {}
  troupes : List TroupeRec := []
  bind : List BindRec := []
  credit : List CreditRec := []
  memtt : List TimetableRec := []
  memmap : List MemmapRec := []
  linktt : List TimetableRec := []
  fabtt : List TimetableRec := []
  route : List StrRouteRec := []
  flow : List FlowRec := []
  format : List FormatRec := []
  clock : List ClockRec := []
  power : List PowerRec := []
deriving DecidableEq, Repr

/-- What the image logic is doing while CTL_IMG_STATUS.busy is 1. -/
inductive ImageOp where
  | idle
  | checkingFull
  | checkingPartial
  /-- A full image passed its checks and waits for the frame mark of the switch (R66, R67). -/
  | switching
  /-- The package has voted in an epoch change (R69, R70). -/
  | voting
  /-- Frame F is set and awaited (R69). -/
  | activating
deriving DecidableEq, Repr

/-- The image registers (R60 to R63) and the tables in force. -/
structure ImageState where
  base : Nat := 0
  op : ImageOp := .idle
  loaded : Bool := false
  ignored : Bool := false
  discarded : Bool := false
  code : Nat := 0
  sec : Nat := 0xFFFF
  record : Nat := 0xFFFF_FFFF
  inForce : Option Image := none
  staged : Option Image := none
  /-- The accepted full image that the switch will put in force. -/
  next : Option Image := none
  /-- CTL_EPOCH bits [31:0]. -/
  changes : Nat := 0
  frame : Nat := 0
  /-- This package's vote in the epoch change. -/
  votedGo : Bool := false
  /-- Images accepted since package reset, none: the RWL fields are not locked (R11, R67). -/
  accepted : Nat := 0
deriving DecidableEq, Repr

/-! ### Troupes (R91 to R96, R209, R299 to R318, R369) -/

/-- CTL_DECLINE (R317). -/
structure Decline where
  step : Word := 0
  norm : W32 := 0
  reason : Nat := 0
  grottos : Nat := 0
  spanTime : Nat := 0
  sceneId : Nat := 0
deriving DecidableEq, Repr

/-- The troupe registers of the CTL block, what a scene start captured, and the scene's progress. -/
structure Troupe where
  state : Nat := 0
  faultCode : Nat := 0
  faultUnit : Nat := 0
  faultCount : Nat := 0
  /-- A contract fault has been detected in the scene; CMP cycle of span time of the one reported (R90). -/
  faulted : Bool := false
  faultAt : Nat := 0
  sceneId : Nat := 0
  waitLimit : Nat := 0x0001_0000
  seed : Word := 0
  rngStep : Word := 0
  normCeil : W32 := 0x7F7F_FFFF#32
  stepState : Nat := 0
  declines : Nat := 0
  commits : Nat := 0
  decline : Decline := {}
  pinned : Bool := false
  pinCommit : Nat := 0
  sweepDue : Bool := false
  sweepSteps : Nat := 0
  /-- Captured at scene start (R96, R205, R315). -/
  capLimit : Nat := 0x0001_0000
  capSeed : Word := 0
  capStep : Word := 0
  capCeil : W32 := 0x7F7F_FFFF#32
  /-- The scene's entries by unit (R414). -/
  entries : Tbl Nat := []
  /-- Units whose scene start is still on its way. -/
  starting : List Nat := []
  /-- Units that have arrived at the scene-end barrier (R111). -/
  arrived : List Nat := []
  /-- The scene is a commit scene (R299). -/
  commitScene : Bool := false
  /-- The end barrier has completed and the audit has not yet passed (R557). -/
  auditing : Bool := false
  /-- Units the abort notice has reached (R91). -/
  noticed : List Nat := []
  /-- Ranges of the tiers that the aborted scene was still due to write: address and bytes (R92). -/
  due : List (Nat × Nat) := []
  /-- Span time of the abort notice (R93). -/
  abortAt : Nat := 0
  /-- Queue and command number whose completion the scene owes (R414). -/
  owner : Option (Nat × Nat) := none
  /-- FP32 norm sum received by NORM_VOTE in the commit scene (R317). -/
  norm : Option W32 := none
  /-- The commit scene has had its outcome, or was declined at its abort (R309). -/
  stepDone : Bool := false
  /-- Update processors that refused in the commit scene, bit g for Grotto g (R317). -/
  refused : Nat := 0
  /-- Lowest cause of a no-go made here: 4 abort, 5 veto, 6 departure, 0 none (R317). -/
  stepCause : Nat := 0
deriving DecidableEq, Repr

/-- A wait in force (R79, R96): kind 1 tile token, 2 device-wide token, 3 arrival counter, 4 Strings, 5 a held
second arrival (R253), 6 a gate hold (R154). -/
structure WaitRec where
  kind : Nat
  chan : Nat
  k : Nat
  limit : Nat
  /-- Span time at which the wait began. -/
  since : Nat
  /-- The tile cycle at which it was issued. -/
  cycle : Nat := 0
  /-- Address of the waiting command, for the fault record. -/
  addr : Nat := 0
  /-- WAIT_LIMIT has been raised for it (R90). -/
  raised : Bool := false
deriving DecidableEq, Repr

/-- A device-wide token channel (R79). -/
structure Token where
  count : Nat := 0
  waiter : Option Nat := none
  /-- Signals counted and not yet consumed by a wait: amount, span time at which it was sent, and its unit (R76). -/
  log : List (Nat × Nat × Nat) := []
deriving DecidableEq, Repr

/-! ### Tiles (R97 to R155, R185 to R210) -/

/-- An open counted loop (R109). -/
structure Loop where
  level : Nat
  count : Nat
  index : Nat
  first : Nat
  last : Nat
deriving DecidableEq, Repr

/-- A command of a unit queue. The loop indices and the kind of its accumulator bank (R143) are those at its issue. -/
structure Cmd where
  word : CmdWord
  addr : Nat
  seq : Nat
  issue : Nat
  idx : List Nat
  kind : Nat := 0
deriving DecidableEq, Repr

/-- The five counts of a completion entry (R121). -/
structure Counts where
  elements : Nat := 0
  saturated : Nat := 0
  flushed : Nat := 0
  nonfinite : Nat := 0
deriving DecidableEq, Repr

/-- A completion entry (R121). -/
structure CEntry where
  counts : Counts := {}
  commands : Nat := 0
  lastAddr : Nat := 0
  flags : Nat := 0
deriving DecidableEq, Repr

/-- A counted command's addition to an entry: the cycle and the unit in which it finished, and its address (R121,
R122). -/
structure CAdd where
  entry : Nat
  cycle : Nat
  unit : Nat
  addr : Nat
  counts : Counts
deriving DecidableEq, Repr

/-- A log record (R123). -/
structure LogRec where
  kind : Nat := 0
  tile : Nat := 0
  troupe : Nat := 0
  flags : Nat := 0
  sceneId : Nat := 0
  cycle : Nat := 0
  addr : Nat := 0
  tag : Nat := 0
  value : Word := 0
  body : CEntry := {}
deriving DecidableEq, Repr

/-- A line of a mover command (R77): its address on the side that moves, the cycle its request entered the port
queue, and how far it has come: 0 requested, 1 its slot has begun, 2 written. -/
structure MvLine where
  idx : Nat
  addr : Nat
  req : Nat
  stage : Nat := 0
  slotAt : Nat := 0
  data : List Byte := []
  /-- What the conversion of the elements that begin in a stored or copied line adds to the counts (R183). -/
  counts : Counts := {}
deriving DecidableEq, Repr

/-- A write that a running command will make: its address, its bytes and its cycle. -/
structure Write where
  addr : Nat
  data : List Byte
  cycle : Nat := 0
deriving DecidableEq, Repr

/-- A write that a local port of the tile has made in its scratchpad: the bytes before and after it. -/
structure PadWrite where
  cycle : Nat
  addr : Nat
  old : List Byte
  new : List Byte
deriving DecidableEq, Repr

/-- A Rattle key slot (R205, R210). -/
structure KeySlot where
  key : Word := 0
  domain : Nat := 0
  tensorId : Nat := 0
  origin : Nat := 0
  threshold : Nat := 0
  derived : Bool := false
  /-- Cycle from which a command may use it (R206). -/
  readyAt : Nat := 0
deriving DecidableEq, Repr

/-- A command that has started and not finished. -/
structure Run where
  cmd : Cmd
  start : Nat
  /-- Last cycle of the occupancy. -/
  busyTo : Nat
  /-- Cycle of the result (R73). -/
  done : Nat
  lines : List MvLine := []
  writes : List Write := []
  /-- The commands of a chain (R188), each with the key slot that it names as it stands at the start (R206). -/
  links : List (Cmd × KeySlot) := []
  /-- The fill rows of the round that a gated product reads (R149). -/
  fill : Tbl (List Byte) := []
  /-- Line requests of it were discarded by an abort (R91): it adds no counts (R183). -/
  cut : Bool := false
deriving DecidableEq, Repr

/-- One unit of a tile: its queue (R74), its running commands, and the cycle from which it is free. -/
structure TUnit where
  queue : List Cmd := []
  running : List Run := []
  freeAt : Nat := 0
  lastStart : Nat := 0
  /-- The cycles of the last eight starts, latest first: an entry is free from the cycle after its start (R74). -/
  starts : List Nat := []
deriving DecidableEq, Repr

/-- Accesses of a bank by a port in the cycles first, first + step, and so on (R82). -/
structure BankUse where
  bank : Nat
  port : Nat
  first : Nat
  step : Nat
  count : Nat
  /-- The command that makes the access. -/
  seq : Nat
deriving DecidableEq, Repr

/-- A violation found on a tile: its cycle, its code, the command's number and address, and info0 (R88, R90). -/
structure Breach where
  cycle : Nat
  code : Nat
  seq : Nat
  addr : Nat
  info0 : Nat
deriving DecidableEq, Repr

/-- A GATE_MAP entry (R155). -/
structure GateSlot where
  base : Nat := 0
  rows : Nat := 0
  enabled : Bool := false
  scatter : Nat := 0
  channel : Nat := 0
  sigEn : Bool := false
deriving DecidableEq, Repr

/-- A gate round (R144 to R150): fill rows by fill-row number, rows counted by context. -/
structure GateRound where
  rows : Tbl (List Byte) := []
  /-- Rows counted, by context. -/
  counted : Tbl Nat := []
  /-- Which context each filled row came from. -/
  owner : Tbl Nat := []
  armed : Bool := false
  threshold : Nat := 0
  deadline : Nat := 0
deriving DecidableEq, Repr

/-- A fill whose copy is under way or waits its turn (R146). -/
structure GateFill where
  context : Nat
  /-- Address of each source row; its descriptor's number; units of a row. -/
  rows : List Nat
  desc : Nat
  perRow : Nat
  units : Nat
  endsAt : Nat
  seq : Nat
  /-- Address of the command; bank, first unit and units of each run of reads. -/
  addr : Nat := 0
  reads : List (Nat × Nat × Nat) := []
deriving DecidableEq, Repr

/-- The batching gate (R144 to R155). -/
structure Gate where
  map : Tbl GateSlot := []
  mapReject : Bool := false
  openRound : GateRound := {}
  fired : Option GateRound := none
  /-- Cycle at which the held round's fire took effect. -/
  firedAt : Nat := 0
  fills : List GateFill := []
  fires : Nat := 0
  delivered : Tbl Nat := []
  /-- Format of the scene's first GT.FILL. -/
  format : Option Nat := none
  /-- First cycle in which the copy path is free (R146, R148), and in which a GT.ARM or GT.FIRE may start (R147). -/
  copyFree : Nat := 0
  freeFrom : Nat := 0
  /-- Span time at which the present hold of R154 began. -/
  holdSince : Option Nat := none
deriving DecidableEq, Repr

/-- The vector engine's own state (R185 to R210). -/
structure VecState where
  /-- Links of the open chain, in issue order. -/
  chain : List Cmd := []
  /-- H0 to H3, register h lane l at 128h + l. -/
  handoff : Tbl W32 := []
  keys : Tbl KeySlot := []
  /-- Keys of slot 0 this scene, oldest first, each with the cycle from which it stands (R187, R206). -/
  key0 : List (Nat × Word) := []
  /-- TILE_RNG_STEP and the captured seed. -/
  rngStep : Word := 0
  seed : Word := 0
deriving DecidableEq, Repr

/-- One tile. -/
structure Tile where
  /-- TILE_STATUS.state without the fence, which CTL_FENCE holds. -/
  state : Nat := 0
  pc : Nat := 0
  sceneId : Nat := 0
  /-- The cycle of the sequencer: that of the next issue, from scene start (R129). -/
  cycle : Nat := 0
  /-- Address of CT.END once issued. -/
  endAddr : Nat := 0
  /-- TILE_CYCLES at the scene's end, once it has ended (R129), and the latest cycle in which a command finished. -/
  endCycle : Option Nat := none
  lastDone : Nat := 0
  loops : List Loop := []
  /-- Loop indices of the scene, latest first, each with the first cycle in which they stand (R109, R173). -/
  idxLog : List (Nat × List Nat) := []
  nextSeq : Nat := 0
  /-- The unit whose full queue holds the word at pc (R74). -/
  held : Option Nat := none
  /-- A malformed word halts the sequencer (R103). -/
  halted : Bool := false
  imem : Tbl Byte := []
  units : Tbl TUnit := []
  tokens : Tbl Nat := []
  /-- Signals counted on a tile channel and not yet consumed by a wait: amount, first and last cycle at which it
  may be visible (R73, R76). -/
  tokenLog : Tbl (List (Nat × Nat × Nat)) := []
  /-- The completion table: the additions of the scene, and the clears of LG.CLR with cycle, first and last entry. -/
  adds : List CAdd := []
  clears : List (Nat × Nat × Nat) := []
  sealed : Bool := false
  log : Tbl LogRec := []
  logWr : Nat := 0
  logRd : Nat := 0
  logDropped : Nat := 0
  /-- Open windows, bank to asynchronous port (R83). -/
  windows : Tbl (Option Nat) := []
  /-- Windows opened and closed in the scene, latest first: a mask of banks, whether they are open, and the first
  cycle in which they are. -/
  winLog : List (Nat × Bool × Nat) := []
  /-- Bank accesses of the scene, each with the address of its command. -/
  uses : List (BankUse × Nat) := []
  /-- Writes that the tile's own ports made in its scratchpad, latest cycle first (R73). -/
  past : List PadWrite := []
  /-- Accumulators, bank b row r column c at 16384 b + 64 r + c (R134); one that is not listed holds the free value of
  draw accDraw (R143). -/
  acc : Tbl W32 := []
  accDraw : Nat := 0
  /-- 0 no MM.ACC yet in the scene, 1 floating point, 2 INT8 (R143). -/
  accKind : Tbl Nat := []
  /-- Completion cycle of the last MM.ACC of each bank; end cycle of its last drain (R141). -/
  accDone : Tbl Nat := []
  accDrained : Tbl Nat := []
  drainFree : Nat := 0
  gate : Gate := {}
  vec : VecState := {}
  /-- Active array and vector-engine cycles, as intervals of CMP cycles of span time, latest first (R56). -/
  arrayActive : List (Nat × Nat) := []
  vectorActive : List (Nat × Nat) := []
  /-- The CMP cycle of span time that is the scene's cycle 0. -/
  startCmp : Nat := 0
  /-- TILE_DUTY of the last completed frame. -/
  dutyArray : Nat := 0
  dutyVector : Nat := 0
  /-- Frames for which DUTY has been raised: 2f array, 2f + 1 vector. -/
  dutyRaised : List Nat := []
  /-- Violations in cycles of the scene that the sequencer has not reached. -/
  dues : List Breach := []
  /-- Fault codes each command, by sequence number, has already raised (R90). -/
  raised : List (Nat × Nat) := []
deriving DecidableEq, Repr

/-! ### Strings (R247 to R269) -/

/-- A Strings message in flight inside the package: kind 0 token signal, 1 barrier arrival, 2 reduction operand,
3 vote, 4 credit return, 5 repeat request. addr is that of the command that sent it, limit the command's limit field, and
sent the span time at which it was handed to Strings. -/
structure StrMsg where
  kind : Nat
  obj : Nat
  unit : Nat := 0
  op : Nat := 0
  value : Word := 0
  addr : Nat := 0
  limit : Nat := 0
  sent : Nat := 0
deriving DecidableEq, Repr

/-- A member's second contribution to a phase, held for the next one (R253): its operand or vote, the span time at
which the hold began and its limit in frames. -/
structure HeldArrival where
  unit : Nat
  op : Nat := 0
  value : Word := 0
  addr : Nat := 0
  since : Nat := 0
  limit : Nat := 0
  /-- WAIT_LIMIT has been raised for it. -/
  raised : Bool := false
deriving DecidableEq, Repr

/-- A barrier counter's phase (R253): the local members counted, the ports that have reported and the arrivals held.
The counter's value is its CREDIT value and the arrivals counted. -/
structure Barrier where
  arrived : List Nat := []
  ports : List Nat := []
  held : List HeldArrival := []
  /-- The package's own arrival has been sent through up_port. -/
  forwarded : Bool := false
  /-- Span time of the phase's last arrival (R76). -/
  lastAt : Nat := 0
deriving DecidableEq, Repr

/-- A reduction object's phase (R254, R255): red_op and operand of each member, red_op and partial of each port (none
where no member lies beyond it). -/
structure RedObj where
  operands : Tbl (Nat × Word) := []
  ports : Tbl (Nat × Option Word) := []
  held : List HeldArrival := []
  forwarded : Bool := false
  lastAt : Nat := 0
deriving DecidableEq, Repr

/-- A vote object's phase (R257, R258). -/
structure VoteObj where
  votes : Tbl Bool := []
  ports : Tbl Bool := []
  held : List HeldArrival := []
  veto : Bool := false
  vetoNext : Bool := false
  forwarded : Bool := false
  /-- Why a contribution was made no-go, lowest first: 4 abort, 5 veto, 6 departure, 0 none (R317). -/
  cause : Nat := 0
deriving DecidableEq, Repr

/-- What a unit blocked on a Strings operation awaits and where the result goes (R113). -/
structure StrWait where
  /-- 1 barrier, 2 reduction, 3 vote. -/
  kind : Nat
  obj : Nat
  /-- The command that waits. -/
  seq : Nat := 0
  addr : Nat := 0
  dst : Nat := 0
  /-- The command still waits in its unit's queue: it has contributed nothing. -/
  queued : Bool := false
  /-- The phase has completed and its release has been sent; span time of the phase's last arrival (R76). -/
  released : Bool := false
  since : Nat := 0
  /-- The word to be written at dst; none for a barrier or after a mismatch of red_op (R254). -/
  result : Option Word := none
  mismatch : Bool := false
deriving DecidableEq, Repr

/-- Strings: objects, messages in flight, and the STR registers. -/
structure StrState where
  barriers : Tbl Barrier := []
  reds : Tbl RedObj := []
  votes : Tbl VoteObj := []
  msgs : List StrMsg := []
  waits : Tbl StrWait := []
  /-- STR_LOAD, by compute die. -/
  overrun : Tbl Nat := []
  overrunTotal : Tbl Nat := []
  merged : Tbl Nat := []
  marksOk : Bool := false
  missed : Nat := 0
  /-- Frames since the last mark from the time parent, whether this frame has had one, and the number of consecutive
  frames with a mark that end in the latest one. -/
  sinceMark : Nat := 0
  gotMark : Bool := false
  marksRun : Nat := 0
  /-- Consecutive frames with a mark since the package last left a span (R293). -/
  joinRun : Nat := 0
  /-- The package is a member of a span (R262, R293). -/
  inSpan : Bool := false
  /-- Ports beyond which the package has learned that a member has left, since the last join through them (R258). -/
  lost : List Nat := []
  changes : Nat := 0
  members : Nat := 1
  lastKind : Nat := 0
  lastSpan : Nat := 0
  lastX : Nat := 0
  lastY : Nat := 0
  lastZ : Nat := 0
deriving DecidableEq, Repr

/-- A telemetry record (R265). -/
structure TelRec where
  kind : Nat
  die : Nat
  index : Nat
  spanTime : Nat
  value : Word
deriving DecidableEq, Repr

/-- The telemetry registers (R270 to R272). -/
structure Telemetry where
  base : Nat := 0
  interval : Nat := 0
  size : Nat := 0
  enable : Nat := 0
  dropped : Nat := 0
  wr : Nat := 0
  rd : Nat := 0
  seq : Nat := 0
deriving DecidableEq, Repr

/-! ### DRAM (R226 to R246, R320, R353) -/

/-- What a memory request is for. -/
inductive MemUser where
  /-- A write of a hart's write-combining buffer (R404). -/
  | window (hart : Nat)
  /-- A window read of a hart: address and bytes (R405). -/
  | windowRead (hart addr len : Nat)
  /-- A placement's write (R436): region × 2³² + number of the placement. -/
  | placement (id : Nat)
  /-- A direct read by an adapter: region, address and bytes (R435). -/
  | placementRead (region addr len : Nat)
  /-- A home's read or write for the transaction on the request's line (R385). -/
  | home
  /-- A write-back that a home has applied, and the cache that awaits its WbAck (R388, R389). -/
  | writeBack (agent txn : Nat)
  /-- DataHome written to memory (R385). -/
  | dataHome
  /-- A line of a scheduled data engine's job (R468). -/
  | dataEngine (e : Nat)
  /-- The slot at a queue's head (R413). -/
  | slot (q : Nat)
  /-- Line i of a flow, read for transmission (R289). -/
  | fabRead (flow i : Nat)
  /-- A delivered line of a flow (R284). -/
  | fabWrite (flow : Nat)
  /-- A line of an update processor's entry (R319). -/
  | update (g : Nat)
  /-- A line of a root unit's block (R340). -/
  | root (g : Nat)
deriving DecidableEq, Repr

/-- A request that waits at a channel for a slot of its owner (R22, R77, R229): the owner word of R47 whose slots serve
it, and the die it comes from. A write with bytes is made in its slot; one without stands in memory already and takes its
slots. A mask that is not empty names the bytes of a partial write, which takes two slots (R234). -/
structure MemReq where
  owner : Nat
  die : Nat
  line : Nat
  write : Bool
  who : MemUser
  data : List Byte := []
  mask : List Bool := []
  poison : Bool := false
  /-- Span time at which it entered its queue (R77). -/
  since : Nat := 0
  /-- The read of a partial write's line has taken its slot. -/
  readDone : Bool := false
deriving DecidableEq, Repr

/-- The controller of one memory: a stack or a Grotto's slow tier. -/
structure MemCtl where
  /-- Last reading and highest reading since the last read of peak, in sixteenths of a degree (R243, R264). -/
  temp : Int := 0
  peak : Int := 0
  sensorFail : Bool := false
  halt : Bool := false
  warn : Bool := false
  hot : Bool := false
  hotFrames : Nat := 0
  ce : Nat := 0
  ue : Nat := 0
  /-- Corrected errors since reset, for telemetry (R264). -/
  ceTotal : Nat := 0
  lastValid : Bool := false
  lastKind : Nat := 0
  lastChannel : Nat := 0
  lastOffset : Nat := 0
  passes : Nat := 0
  scrubPos : Nat := 0
  /-- The scrub position has been read in this scrub entry by these channels. -/
  scrubbed : List Nat := []
  /-- Channels with a corrected line to write back in their next scrub entry, and that line (R238). -/
  writeBack : Tbl (Option Nat) := []
  /-- Requests in the order of their arrival. -/
  reqs : List MemReq := []
  /-- The next slot of each channel that has not begun, counted from span time 0 (R228). -/
  nextSlot : Tbl Nat := []
deriving DecidableEq, Repr

/-! ### The Abasis fabric (R273 to R298) -/

/-- A line in a forward buffer: its flow, its bytes, the span time of its arrival, and whether it has waited for
credit (R283, R286). -/
structure FwdLine where
  flow : Nat
  data : List Byte
  since : Nat
  waited : Bool := false
deriving DecidableEq, Repr

/-- One Abasis port. -/
structure Port where
  state : Nat := 0
  stringsUp : Bool := false
  delay : Nat := 0
  peerSpan : Nat := 0
  peerX : Nat := 0
  peerY : Nat := 0
  peerZ : Nat := 0
  crcFail : Nat := 0
  replays : Nat := 0
  overrun : Nat := 0
  held : Nat := 0
  retrains : Nat := 0
  fecUncorr : Nat := 0
  fecCorr : Nat := 0
  /-- A valid opener has been received since training, and its sender's port (R275). -/
  identified : Bool := false
  peerSpanId : Nat := 0
  peerPort : Nat := 0
  /-- Receiver (R278, R281): the position of the neighbour's frame that comes next, the number of the next slot flit to
  accept and of the one at the next slot position. -/
  rxPlace : Nat := 0
  rxNext : Nat := 0
  rxDue : Nat := 0
  /-- A good slot flit has been received since training, so that the numbers are known. -/
  rxSync : Bool := false
  rxHeld : List (Nat × List Byte) := []
  /-- Slot flits that failed and are not accepted, and how often each has failed. -/
  rxFails : Tbl Nat := []
  /-- A nak of rxNext goes with the next flit; it has gone, and the replay has not come. -/
  nakDue : Bool := false
  nakSent : Bool := false
  /-- Failed slot flits of this third of the neighbour's frame, and whether this frame has broken a condition of R283. -/
  rxThird : Nat := 0
  overran : Bool := false
  /-- Transmitter (R278, R281): the number of this frame's slot flit 0, and the next slot and replay position, counted from
  span time 0. -/
  txBase : Nat := 0
  txSlot : Nat := 0
  txReplay : Nat := 0
  /-- Slot flits with lines, kept until acked, by sequence number: position, flow and bytes of each line. A flit that is not
  listed has none. -/
  txKept : List (Nat × List (Nat × Nat × List Byte)) := []
  /-- The flits to replay, each with the span time at which its nak came. -/
  toReplay : List (Nat × Nat) := []
  /-- The flit and the opener last sent (R279, R280), and the flit that carried the last nak. -/
  sentFlit : List Byte := []
  sentOpener : List Byte := []
  nakFlit : Option Nat := none
  /-- Lines accepted in order and not yet handed to the fabric engine: flow and line. -/
  arrived : List (Nat × List Byte) := []
  /-- The forward buffer (R287), for lines that arrived on this port. -/
  forward : List FwdLine := []
  leftAt : Nat := 0
  /-- The port was up before the mark that began the present change (R292). -/
  upBefore : Bool := false
deriving DecidableEq, Repr

/-- A flow context (R285, R286). -/
structure FlowCtx where
  credits : Nat := 0
  /-- Lines counted since scene start (R285); the register shows them modulo 2³². -/
  lines : Nat := 0
  /-- Lines written or accepted here, and lines forwarded from here. -/
  written : Nat := 0
  left : Nat := 0
  /-- Lines completed in this frame, and those that the last mark's message returned as credits. -/
  completed : Nat := 0
  returned : Nat := 0
  /-- Lines written or accepted here since scene start, for RECVs (R289). -/
  accepted : Nat := 0
  /-- Lines claimed by RECVs so far. -/
  claimed : Nat := 0
  /-- Digest of the copy being delivered and its complete copies waiting for the fetch check (R365). -/
  digest : Word := 0
  copies : List Word := []
  /-- A copy of this flow has already matched here since the last mismatch (R366). -/
  matched : Bool := false
  /-- Lines of a repeated copy that pass without being written (R366). -/
  skip : Nat := 0
  /-- Repeat requests sent back along the flow to its source since scene start (R365). -/
  asked : Nat := 0
deriving DecidableEq, Repr

/-- A pending RECV (R289): flow, the accepted count at which it completes, channel signalled. -/
structure Recv where
  flow : Nat
  target : Nat
  signal : Nat
deriving DecidableEq, Repr

/-- A fabric engine and its ring (R288, R289). State 0 idle, 1 running, 2 waiting, 3 END executed, 4 arrived. -/
structure FabEngine where
  ring : Tbl Byte := []
  state : Nat := 0
  entry : Nat := 0
  /-- The SEND in progress has been released by its wait; its lines, or those of the copy owed, have been requested. -/
  released : Bool := false
  asked : Bool := false
  /-- Lines launched by the SEND in progress; lines read for transmission; the next line has waited for credit. -/
  sent : Nat := 0
  fetched : List (Nat × Nat × List Byte) := []
  waited : Bool := false
  recvs : List Recv := []
  /-- Repeats owed: flow, lines sent so far (R366). -/
  repeats : List (Nat × Nat) := []
  /-- The last SEND of each flow: first, count (R366). -/
  lastSend : Tbl (Nat × Nat) := []
  sel : Nat := 0
deriving DecidableEq, Repr

/-- The fabric: ports, flow contexts, engines. -/
structure FabState where
  ports : Tbl Port := []
  flows : Tbl FlowCtx := []
  engines : Tbl FabEngine := []
deriving DecidableEq, Repr

/-- A fetch-board entry (R374). -/
structure BoardEntry where
  valid : Bool := false
  key : Nat := 0
  tag : Nat := 0
  flow : Nat := 0
  lines : Nat := 0
  digest : Word := 0
  gen : Nat := 0
  misses : Nat := 0
  matched : Nat := 0
deriving DecidableEq, Repr

/-- A generation-tag entry (R372). -/
structure TagEntry where
  valid : Bool := false
  vote : Nat := 0
  parts : Nat := 0
  done : Nat := 0
  current : Nat := 0
  copy : Nat := 0xFFFF_FFFF
deriving DecidableEq, Repr

/-- The tag table and the fetch board, held identically on the four compute dies (R357, R364). -/
structure TagState where
  tags : Tbl TagEntry := []
  board : Tbl BoardEntry := []
  reject : Bool := false
deriving DecidableEq, Repr

/-! ### Reduction engines (R290, R302 to R304, R588) -/

/-- A line of a region being accumulated: the next contributor's position and the running sum (R290). -/
structure RegionLine where
  next : Nat := 0
  sum : List W32 := []
deriving DecidableEq, Repr

/-- A contribution on its way to, or waiting in, a reduction engine. -/
structure Contribution where
  flow : Nat
  addr : Nat
  position : Nat
  data : List Byte
  /-- Span time of its arrival (R283), and the address of the command that stored a local one (R588). -/
  since : Nat := 0
  cause : Nat := 0
deriving DecidableEq, Repr

/-- A reduction engine. State as for the fabric engine. -/
structure RedEngine where
  ring : Tbl Byte := []
  state : Nat := 0
  entry : Nat := 0
  released : Bool := false
  norm : W32 := 0
  /-- NORM_VOTE has contributed and awaits the sum. -/
  contributed : Bool := false
  inputs : List Contribution := []
  reorder : List Contribution := []
  lines : Tbl RegionLine := []
  /-- Fault codes already raised in the scene, by flow and command (R90). -/
  raised : List (Nat × Nat × Nat) := []
deriving DecidableEq, Repr

/-! ### Grottos (R319 to R353, R373, R375) -/

/-- A shard-table entry (R322) with its publication registers (R373). -/
structure Shard where
  base0 : Nat := 0
  base1 : Nat := 0
  bytes : Nat := 0
  tensorId : Nat := 0
  freeze : Nat := 0
  freezeMode : Nat := 0
  gen : Nat := 0
  valid : Bool := false
  dirty : Bool := false
  initialised : Bool := false
  digestA : Word := 0
  digestI : Word := 0
  publish : Bool := false
  head : Nat := 0
  pubDigest : Word := 0
  /-- Digest of the head range accumulated over this scene's writes (R362). -/
  headDigest : Word := 0
deriving DecidableEq, Repr

/-- A job of the root unit (R340). -/
structure RootJob where
  p : Nat
  root : Nat
  src : Nat
  b : Nat
  blocks : Nat
  iters : Nat
  srcGen : Nat
  eps : W32
  srcOff : Nat
  dstOff : Nat
  resOff : Nat
  next : Nat := 0
deriving DecidableEq, Repr

/-- An entry of DIG_HIST (R375). -/
structure DigRec where
  a : Word := 0
  r : Word := 0
deriving DecidableEq, Repr

/-- The program group in progress (R332, R335): element e's register r at 64 e + r, output j at 64 e + 24 + j, and 1 at
64 e + 32 + j where the result that output j takes was flushed. -/
structure GroupState where
  group : Nat := 0
  instr : Nat := 0
  /-- Input lines that have arrived, by line number A[47:7]. -/
  fetched : List Nat := []
  /-- The group's lines from reduction buffers have arrived. -/
  resumed : Bool := false
  lanes : Tbl W32 := []
deriving DecidableEq, Repr

/-- A Grotto's update processor, root unit and digest unit. -/
structure Grotto where
  shards : Tbl Shard := []
  ring : Tbl Byte := []
  prog : Tbl Byte := []
  consts : Tbl W32 := []
  state : Nat := 0
  entry : Nat := 0
  released : Bool := false
  /-- The entry in progress has begun; the lines that it reads have been requested. -/
  begun : Bool := false
  asked : Bool := false
  /-- The lines of the root unit's next block have been requested. -/
  rootAsked : Bool := false
  refuse : Bool := false
  normGo : Bool := false
  reject : Bool := false
  /-- A NORM_WAIT was answered no-go: later entries are skipped (R326). -/
  skipping : Bool := false
  castGo : Bool := false
  capSeed : Word := 0
  capStep : Word := 0
  nonfinite : Nat := 0
  flushed : Nat := 0
  groupSt : GroupState := {}
  rootQueue : List RootJob := []
  /-- Span time at which the lines of its next block were requested (R343). -/
  rootSince : Nat := 0
  rootResidual : W32 := 0
  digLast : Word := 0
  mismatch : Bool := false
  mismatchShard : Nat := 0
  digDone : Nat := 0
  hist : Tbl DigRec := []
  /-- Shards whose generations the scene's INIT entries have filled. -/
  initShards : List Nat := []
  /-- The processor has cast go in the commit vote and not received its outcome (R310). -/
  unknown : Bool := false
deriving DecidableEq, Repr

/-- A publication on its way (R362, R363). -/
structure Publication where
  key : Nat
  digest : Word
  gen : Nat
  /-- The flip barrier over whose route it travels. -/
  barrier : Nat
deriving DecidableEq, Repr

/-! ### Coherence (R377 to R402) -/

/-- The states of R380. -/
inductive CState where
  | I | S | E | M | IS | IM | SM | WBP
deriving DecidableEq, Repr

/-- A line of a caching agent. -/
structure CLine where
  st : CState := .I
  data : List Byte := []
  /-- The data of a WBP line is dirty. -/
  dirty : Bool := false
  poison : Bool := false
  /-- The store that waits for the line: offset and bytes. -/
  store : Option (Nat × List Byte) := none
  txn : Nat := 0
deriving DecidableEq, Repr

/-- A protocol message in flight (R382, R383): its code, line, txn, req, destination and source, and its data. -/
structure CohMsg where
  op : Nat
  line : Nat
  txn : Nat := 0
  req : Nat := 0
  dst : Nat := 0
  src : Nat := 0
  data : List Byte := []
  mask : List Bool := []
  poison : Bool := false
  /-- Free class that carries it (R22): COH, but for agent 12's requests and their answers, which are of the class of what
  it does (R435). -/
  cls : Nat := 0
deriving DecidableEq, Repr

/-- The state of a directory entry (R381). -/
inductive DirState where
  | S (sharers : Nat)
  | EM (owner : Nat)
deriving DecidableEq, Repr

/-- A directory entry. -/
structure DirEntry where
  st : DirState
  stamp : Nat
deriving DecidableEq, Repr

/-- A request message waiting or in progress at the home. -/
structure HomeReq where
  op : Nat
  req : Nat
  txn : Nat
  data : List Byte := []
  mask : List Bool := []
  cls : Nat := 0
deriving DecidableEq, Repr

/-- The transaction of a busy line (R385, R386, R392). -/
structure Txn where
  req : HomeReq
  /-- Agents whose snoop response is awaited. -/
  awaiting : List Nat := []
  /-- Agents that have said that DataHome follows, and those whose DataHome has arrived. -/
  dataDue : List Nat := []
  dataGot : List Nat := []
  /-- WBs announced and not yet arrived, by agent. -/
  announced : List Nat := []
  /-- The requester's Ack has arrived (a back-invalidation needs none). -/
  acked : Bool := false
  /-- The request's own effect (data, Cmp, memory write, final state) is still to come after the responses. -/
  effectDue : Bool := true
  /-- The effect waits for its slots of the line's channel (R385). -/
  memWait : Bool := false
  /-- It waits for a way of its set (R392). -/
  waitWay : Bool := false
  /-- Code of the message that the home sends to the requester; none where an owner has forwarded the data. -/
  give : Option Nat := none
  /-- The directory state that it leaves; none: no entry. -/
  final : Option DirState := none
  /-- A back-invalidation (R392, R399). -/
  backInv : Bool := false
  /-- The line for which the way is being freed (R392). -/
  forLine : Option Nat := none
  since : Nat := 0
deriving DecidableEq, Repr

/-- A WB held behind a busy transaction (R389). -/
structure HeldWb where
  agent : Nat
  dirty : Bool
  data : List Byte
  poison : Bool := false
  /-- A response to the transaction's snoops has announced it. -/
  announced : Bool := false
deriving DecidableEq, Repr

/-- A home: its directory, its transactions, its queues, and the COH registers. -/
structure Home where
  dir : Tbl DirEntry := []
  /-- Busy lines. -/
  txns : Tbl Txn := []
  lineQ : List (Nat × HomeReq) := []
  setQ : List (Nat × HomeReq) := []
  heldWbs : List (Nat × HeldWb) := []
  stamp : Nat := 0
  purgeBase : Nat := 0
  purgeLines : Nat := 0
  purgeSig : Bool := false
  purgeChan : Nat := 0
  purgeBusy : Bool := false
  purgeReject : Bool := false
  /-- Lines the purge in progress has still to invalidate, and the span time at which it began (R400). -/
  purgeLeft : List Nat := []
  purgeSince : Nat := 0
  /-- Snoops that wait for a credit of their cache (R384). -/
  snpQ : List CohMsg := []
  qpeak : Nat := 0
  requests : Nat := 0
  backInv : Nat := 0
  crossings : Nat := 0
deriving DecidableEq, Repr

/-- Who reaches memory through an edge cache (R377): a data engine that runs free, a job of a codec engine by its order of
acceptance, or the saving of a suspended one (R495). -/
inductive EdgeUser where
  | data (e : Nat)
  | codec (d order : Nat)
  | save (d order : Nat)
deriving DecidableEq, Repr

/-- What an access does at its edge cache. -/
inductive EdgeKind where
  /-- It takes a line's bytes. -/
  | read
  /-- It puts bytes into a line in M. -/
  | write
  /-- It adds an FP32 element to the one that stands there, in M (R473). -/
  | add
  /-- It puts bytes into a line, which is then written back and evicted (R483). -/
  | out
deriving DecidableEq, Repr

/-- An access of a free engine at the edge cache of compute die d (0 to 3). -/
structure EdgeAsk where
  die : Nat
  who : EdgeUser
  kind : EdgeKind
  addr : Nat
  /-- The bytes put or added, or those that a read has taken. -/
  data : List Byte := []
  /-- Its bytes stand in the line, which has still to be evicted. -/
  put : Bool := false
  done : Bool := false
  /-- What it read was poisoned. -/
  poison : Bool := false
deriving DecidableEq, Repr

/-- The coherence protocol's state. -/
structure CohState where
  /-- Caching agent a's lines, keyed by line number A[47:7]. -/
  caches : Tbl (Tbl CLine) := []
  homes : Tbl Home := []
  msgs : List CohMsg := []
  /-- Poisoned lines of memory: an uncorrectable error stays until the line is written whole (R236). -/
  poisoned : List Nat := []
  /-- Agent 12: its requests that are not answered, the model's number of each, and data received for reads, poisoned or
  not. -/
  ioOut : List Nat := []
  ioData : List (Nat × Bool × List Byte) := []
  /-- Its requests that wait for a credit (R384); those sent, by home, transaction identifier and number; the next number. -/
  ioWait : List (Nat × CohMsg) := []
  ioSent : List (Nat × Nat × Nat) := []
  ioNext : Nat := 0
  /-- The accesses of free engines at their edge caches, in order. -/
  edge : List EdgeAsk := []
deriving DecidableEq, Repr

/-! ### The host window and the command queues (R404 to R431) -/

/-- A write-combining buffer (R404). -/
structure WcBuf where
  line : Nat := 0
  data : List Byte := []
  mask : List Bool := []
  used : Bool := false
  /-- Order in which the buffer was first filled, and span time of its first byte. -/
  order : Nat := 0
  at_ : Nat := 0
deriving DecidableEq, Repr

/-- One hart's window state. -/
structure HartWin where
  bufs : Tbl WcBuf := []
  order : Nat := 0
  discarded : Bool := false
deriving DecidableEq, Repr

/-- A fetched command slot (R410). -/
structure Slot where
  /-- Number of the command in its queue (R409). -/
  number : Nat := 0
  opcode : Nat := 0
  flags : Nat := 0
  payloadLen : Nat := 0
  reserved : Nat := 0
  seq : Nat := 0
  check : Nat := 0
  tag : Word := 0
  arg0 : Nat := 0
  arg1 : Nat := 0
  payload : List Byte := []
deriving DecidableEq, Repr

/-- A command of a queue that has started (or is held, R413) and not completed. -/
structure QCmd where
  /-- The model's own number of a started command, unique over the queue's enablings. -/
  number : Nat
  opcode : Nat
  seq : Nat
  flags : Nat
  tag : Word
  /-- Requests of agent 12 whose Cmp is still awaited (R414). -/
  txns : List Nat := []
deriving DecidableEq, Repr

/-- A completion record that waits to be written (R420, R421). -/
structure CplRec where
  seq : Nat
  status : Nat
  opcode : Nat
  tag : Word
  detail : Nat
  irq : Bool
  spanTime : Nat := 0
deriving DecidableEq, Repr

/-- A command queue. State 0 disabled, 1 active, 2 re-reading, 3 stopped (R428). -/
structure Queue where
  base : Nat := 0
  cplBase : Nat := 0
  enable : Bool := false
  view : Bool := false
  irqEn : Bool := false
  size : Nat := 0
  troupes : Nat := 0
  doorbell : Nat := 0
  state : Nat := 0
  code : Nat := 0
  rereads : Nat := 0
  stale : Nat := 0
  head : Nat := 0
  cplSize : Nat := 0
  cplWr : Nat := 0
  cplRd : Nat := 0
  msiAddr : Nat := 0
  msiEiid : Nat := 0
  /-- Re-reads made of the slot at the head (R418). -/
  tries : Nat := 0
  /-- Span time from which the next re-read may be issued; none: no re-read waits (R418). -/
  rereadAt : Option Nat := none
  /-- A coherent slot read is under way: the requests of agent 12, in the order of the slot's lines. -/
  reading : List Nat := []
  /-- The number that the next started command takes in started. -/
  nextCmd : Nat := 0
  /-- The slot that passed its check and has not started. -/
  fetched : Option Slot := none
  /-- The fetched command is held (R413, R417). -/
  heldCmd : Bool := false
  started : List QCmd := []
  records : List CplRec := []
  /-- Records written whose interrupt is due: their transactions. -/
  msis : List Nat := []
  msisReady : Nat := 0
deriving DecidableEq, Repr

/-! ### Registered regions (R433 to R448) -/

/-- A write placed and not yet durable: region order, bytes, its transactions with agent 12 that await a Cmp, its lines
that await a memory controller. -/
structure Placed where
  id : Nat
  bytes : Nat
  txns : List Nat := []
  reqs : Nat := 0
deriving DecidableEq, Repr

/-- A registered region. -/
structure Region where
  valid : Bool := false
  view : Bool := false
  rd : Bool := false
  wr : Bool := false
  base : Nat := 0
  troupes : Nat := 0
  length : Nat := 0
  pasid : Nat := 0
  pasidEn : Bool := false
  ridMask : Nat := 0
  rid : Nat := 0
  unit : Nat := 0
  arrivals : Nat := 0
  /-- Increments of arrivals not yet consumed by a wait: amount, span time, and 0 (R438). -/
  log : List (Nat × Nat × Nat) := []
  residue : Nat := 0
  ovf : Bool := false
  refused : Nat := 0
  inflight : List Placed := []
  /-- Number of the next placement. -/
  nextId : Nat := 0
  waiter : Option Nat := none
deriving DecidableEq, Repr

/-- A coherent read of an adapter under way: its requests by agent 12, line by line, its address and its bytes. -/
structure PlcRead where
  keys : List Nat
  addr : Nat
  len : Nat
deriving DecidableEq, Repr

/-- The placement table and the PCIe registers. -/
structure PlcState where
  regions : Tbl Region := []
  reads : List PlcRead := []
  reject : Bool := false
  refValid : Bool := false
  refReason : Nat := 0
  refPort : Nat := 0
  refRid : Nat := 0
  refLine : Nat := 0
  bifur : Nat := 0
  peer : Nat := 0
  peerRefused : Nat := 0
  /-- Root ports contained by DPC (R432), and their events reported. -/
  contained : Tbl Bool := []
  portEvents : Tbl Nat := []
deriving DecidableEq, Repr

/-! ### The host die (R449 to R466) -/

/-- An event route (R464). -/
structure EvtRoute where
  enable : Bool := false
  sLevel : Bool := false
  hart : Nat := 0
  eiid : Nat := 0
deriving DecidableEq, Repr

/-- A trigger of Sdtrig (R450). -/
structure HartTrigger where
  data1 : Word := 0
  data2 : Word := 0
  data3 : Word := 0
deriving DecidableEq, Repr

/-- One hart (R449 to R454): its registers, the reservation of Za64rs and what its caches hold. -/
structure Hart where
  pc : Nat := 0
  /-- Privilege: 3 machine, 1 supervisor, 0 user. -/
  privilege : Nat := 3
  x : Tbl Word := []
  f : Tbl Word := []
  /-- v0 to v31, VLEN 256. -/
  v : Tbl (BitVec 256) := []
  /-- The 64 PMP entries of Smepmp. -/
  pmpCfg : Tbl Byte := []
  pmpAddr : Tbl Word := []
  /-- The 8 triggers, and the one that tselect names. -/
  triggers : Tbl HartTrigger := []
  trigger : Nat := 0
  /-- The 29 programmable counters, 3 to 31, and their events (Zihpm, Sscofpmf). -/
  counters : Tbl Word := []
  events : Tbl Word := []
  /-- The other CSRs, by number: Sv48's satp, Smaia's, Ssaia's and Smstateen's, and those of the profiles. -/
  csrs : Tbl Word := []
  /-- The reserved block of 64 bytes (R451). -/
  reserved : Option Nat := none
  /-- Lines in the L2, and blocks of 64 bytes in the L1 caches, the latest used first (R454). -/
  l2 : List Nat := []
  l1i : List Nat := []
  l1d : List Nat := []
deriving DecidableEq, Repr

/-- Harts and interrupt files. -/
structure HostState where
  routes : Tbl EvtRoute := []
  run0 : Word := 1
  run1 : W32 := 0
  entry : Nat := 0
  harts : Tbl Hart := []
  /-- Pending identities of interrupt file f: 2 h machine level, 2 h + 1 supervisor level of hart h. -/
  imsic : Tbl (List Nat) := []
deriving DecidableEq, Repr

/-! ### Data engines (R467 to R481) -/

/-- A free job of a data engine: its descriptor, its queue and command. -/
structure DatJob where
  desc : List Byte
  queue : Nat
  number : Nat
  /-- The engine runs scheduled: the job completes with NOT_FREE (R477, R478). -/
  refused : Bool := false
  /-- The status word of a refused job has been written. -/
  told : Bool := false
deriving DecidableEq, Repr

/-- A data engine, unit 52 + e. State as DAT_STATUS. -/
structure DatEngine where
  ring : Tbl Byte := []
  state : Nat := 0
  entry : Nat := 0
  released : Bool := false
  jobs : Nat := 0
  produced : Nat := 0
  /-- The lines that the job in progress reads have been requested; of a free GATHER, its table's too. -/
  asked : Bool := false
  tabled : Bool := false
  queue : List DatJob := []
  /-- The job in progress has run: code, aux, produced. -/
  result : Option (Nat × Nat × Nat) := none
  /-- Its status word has been written. -/
  told : Bool := false
deriving DecidableEq, Repr

/-! ### Codec engines (R482 to R509) -/

/-- An accepted codec job (R491). -/
structure CodecJob where
  stream : Nat
  /-- 0 decode, 1 encode, 2 drain, 3 close. -/
  kind : Nat
  desc : List Byte
  queue : Nat
  number : Nat
  /-- Order of acceptance. -/
  order : Nat
  suspended : Bool := false
  /-- It has been taken into its pipe. -/
  started : Bool := false
  /-- Its input has come, and it has taken its frame buffers. -/
  ready : Bool := false
  /-- The input it read, its preprocessor's table, the frame buffers it took, and the status found before it ran (R492,
  R493). -/
  input : List Byte := []
  table : List Byte := []
  bufs : List Nat := []
  early : Option Nat := none
  /-- Status and detail, once its outputs have been written and only their slots are awaited. -/
  result : Option (Nat × Nat) := none
deriving DecidableEq, Repr

/-- A stream context (R488, R509). -/
structure Stream where
  state : Nat := 0
  params : List Byte := []
  fbBytes : Nat := 0
  /-- Status, descriptor and input of the stream's earlier jobs, oldest first (R484). -/
  history : List (List Byte) := []
  /-- Pictures awaiting output beyond an earlier job's dst_slots, as planes of samples (R489). -/
  waiting : List (List (List Nat)) := []
  /-- Frames of the stream, by number in the order of their pictures, that hold a frame buffer (R496, R497). -/
  frames : Tbl Nat := []
  nextFrame : Nat := 0
deriving DecidableEq, Repr

/-- A frame buffer (R508). -/
structure FrameBuf where
  base : Nat := 0
  mark : Nat := 0
  stream : Nat := 0
  /-- The buffer is in an open stream's range. -/
  owned : Bool := false
deriving DecidableEq, Repr

/-- A codec engine. -/
structure Codec where
  streams : Tbl Stream := []
  bufs : Tbl FrameBuf := []
  jobs : List CodecJob := []
  /-- Job in each pipe: its order of acceptance. -/
  running : Tbl (Option Nat) := []
  order : Nat := 0
  reject : Bool := false
  suspensions : Nat := 0
deriving DecidableEq, Repr

/-! ### Clocks (R510 to R530) -/

/-- The CLK block of one die. -/
structure ClkDie where
  /-- The root has acquired lock to REFCLK. -/
  locked : Bool := false
  stable : Bool := false
  /-- The trim reference is the frame marks. -/
  marks : Bool := false
  err : Int := 0
  good : Nat := 0
  corr : Int := 0
  /-- Marks accepted since the reference changed (R518). -/
  markCount : Nat := 0
  /-- Arrival phases of the last 16 marks, oldest first, in 1/64 of a root cycle (R518). -/
  phases : List Int := []
  /-- The time CSR at which the judgement by count began (R518). -/
  since : Nat := 0
  /-- Domains on the root; the others are on bypass. -/
  onRoot : List Nat := []
  /-- Accepted switches that await the common edge: domain, target, and the time CSR of the edge (R520). -/
  switching : List (Nat × Bool × Nat) := []
  refValid : Bool := false
  refSource : Nat := 0
  refReason : Nat := 0
  refDomain : Nat := 0
  refTarget : Bool := false
  refCount : Nat := 0
deriving DecidableEq, Repr

/-- The clocks of the package. -/
structure ClkState where
  dies : Tbl ClkDie := []
  hcoreDiv : Nat := 4
  lossValid : Bool := false
  lossDie : Nat := 0
  lossCause : Nat := 0
deriving DecidableEq, Repr

/-! ### Power, boot and security (R531 to R550) -/

/-- Which reset the package is in or owes (R533). -/
inductive ResetKind where
  | powerOn
  | pin
  | fatal
  | watchdog
  | boot
  | stopPin
deriving DecidableEq, Repr

/-- Power, boot and flash. -/
structure BootState where
  /-- PWRGD is asserted and the rails are up. -/
  powerGood : Bool := false
  /-- PKG_RESET_N is released: the host die is out of reset. -/
  released : Bool := false
  /-- A package stop has halted all logic (R524). -/
  stopped : Bool := false
  /-- A package reset is due, and its cause. -/
  resetDue : Option ResetKind := none
  /-- The reset that began, or will begin, this boot. -/
  resetKind : ResetKind := .powerOn
  lantern : Bool := false
  cause : Nat := 0
  failures : Nat := 0
  set : Nat := 0xF
  reason0 : Nat := 0
  reason1 : Nat := 0
  reason2 : Nat := 0
  stage : Nat := 0
  done : Bool := false
  reason : Nat := 0
  wdogMs : Nat := 4000
  wdogArmed : Bool := false
  /-- The time CSR at which the watchdog was armed (R539). -/
  wdogFrom : Nat := 0
  seq : Nat := 0
  dieMask : Nat := 0
  /-- A failure latched for the next boot's ROM: reason, stage (R539, R541). -/
  latched : Option (Nat × Nat) := none
  /-- The boot-RAM ways are locked (R536). -/
  bootRam : Bool := false
  flash : Tbl Byte := []
  flashAddr : Nat := 0
  flashBusy : Bool := false
  flashError : Bool := false
  flashOp : Nat := 0
  flashBuf : Tbl Byte := []
  /-- svn of the running host firmware (R538). -/
  fwSvn : Nat := 0
  /-- Start address hart 0 was given (R539). -/
  hart0 : Nat := 0
  /-- Data byte of the I3C in-band interrupt sent in this boot (R546). -/
  ibi : Option Nat := none
deriving DecidableEq, Repr

/-- The SEC block and the fuses. -/
structure SecState where
  locked : Bool := false
  svnReject : Bool := false
  /-- Fuses blown (R538). -/
  fuses : Nat := 0
  imgKey : Tbl Word := []
  imgSvn : Nat := 0
  nonce : Tbl Word := []
  quoteAddr : Nat := 0
  quoteBusy : Bool := false
  quoteError : Bool := false
  quoteMask : Nat := 0
  /-- Cmp messages that the quote still awaits. -/
  quoteTxns : List Nat := []
  mext : Tbl Word := []
  mreg : Tbl (BitVec 256) := []
  /-- MREG1 and MREG2 as measured when the alias key was derived (R542). -/
  aliasSeed : BitVec 256 := 0
  deviceSeed : BitVec 256 := 0
  link : List Byte := []
deriving DecidableEq, Repr

/-! ### Fences and the electrical state (R560 to R562, R572 to R580) -/

/-- CTL_FENCE of one unit. -/
structure Fence where
  fenced : Bool := false
  pending : Nat := 0
  cause : Nat := 0
deriving DecidableEq, Repr

/-- Rails and logic temperatures. -/
structure ElecState where
  /-- Rails that have caused a 0x01 record, and frames inside the window since (R574). -/
  warned : Tbl (Option Nat) := []
  railMw : Tbl Nat := []
  /-- Dies whose logic alert is in force (R580), and the last valid reading. -/
  hotDies : List Nat := []
  logic : Tbl Int := []
  /-- THERM_N is asserted (R578). -/
  alert : Bool := false
deriving DecidableEq, Repr

/-! ### The whole package -/

/-- The state of the package. -/
structure State where
  /-- Commands waiting, first in, first out. -/
  pending : List Instr := []
  /-- Counter of the free values drawn so far (the model's own field). -/
  fresh : Nat := 0
  /-- The last reply to a reader (the model's own field). -/
  out : Reply := {}
  time : TimeState := {}
  /-- Tiers, scratchpads and reduction buffers, by the addresses of R24. -/
  mem : List Host.Cell := []
  err : ErrState := {}
  conflict : Conflict := {}
  links : Tbl Link := []
  img : ImageState := {}
  troupes : Tbl Troupe := []
  waits : Tbl (Option WaitRec) := []
  tokens : Tbl Token := []
  tiles : Tbl Tile := []
  str : StrState := {}
  tel : Telemetry := {}
  mems : Tbl MemCtl := []
  fab : FabState := {}
  tag : TagState := {}
  reds : Tbl RedEngine := []
  grots : Tbl Grotto := []
  pubs : List Publication := []
  coh : CohState := {}
  wins : Tbl HartWin := []
  queues : Tbl Queue := []
  plc : PlcState := {}
  host : HostState := {}
  dats : Tbl DatEngine := []
  codecs : Tbl Codec := []
  clk : ClkState := {}
  boot : BootState := {}
  sec : SecState := {}
  fences : Tbl Fence := []
  elec : ElecState := {}
deriving DecidableEq, Repr

/-- The package right after a power-on reset: every field at its reset value, nothing in the queue. -/
def State.reset : State := {}

end Sys2Proof.Machine
end

