-- ==== Sys2Proof/Decode.lean ====
section
/-! DEFINITION. The command that a word spells by the bits of spec/opcode_table.json. -/

namespace Sys2Proof

/-- No row of spec/opcode_table.json gives bits (every row's list of fields is empty), so no word spells a command.
The command words of a tile and the entries of the engines' rings are decoded where a sequencer or an engine meets
them, from the memory that holds them. -/
def decodeTableWord (_nbits _w : Nat) : Option Instr := none

end Sys2Proof
end

