-- ==== Sys2Proof/Machine/Ops.lean ====
section
/-! DEFINITION. The named operations that the meanings share: sparse tables, bytes and memory, the address map of
R24 and R26, the image in force, error records (R551 to R555), the event router (R461), the start of an abort
(R91), token channels (R79), waits (R96), and the guard of an event. -/

namespace Sys2Proof.Machine

open Sys2Proof

/-! ### Sparse tables -/

/-- The entry at k, or the default. -/
def tget {α : Type} (d : α) : Tbl α → Nat → α
  | [], _ => d
  | (k', v) :: t, k => if k = k' then v else tget d t k

/-- The table with entry k set. Keys stay in rising order. -/
def tset {α : Type} : Tbl α → Nat → α → Tbl α
  | [], k, v => [(k, v)]
  | (k', v') :: t, k, v =>
    if k < k' then (k, v) :: (k', v') :: t
    else if k = k' then (k, v) :: t
    else (k', v') :: tset t k v

/-- The table without entry k. -/
def tdel {α : Type} : Tbl α → Nat → Tbl α
  | [], _ => []
  | (k', v') :: t, k => if k = k' then tdel t k else (k', v') :: tdel t k

/-- Entry k changed by f. -/
def tmod {α : Type} (d : α) (t : Tbl α) (k : Nat) (f : α → α) : Tbl α := tset t k (f (tget d t k))

/-- Whether k is listed. -/
def thas {α : Type} (t : Tbl α) (k : Nat) : Bool := t.any fun p => p.1 == k

/-! ### Bytes -/

/-- Little-endian value of a byte string (R8). -/
def leNat : List Byte → Nat
  | [] => 0
  | b :: bs => b.toNat + 256 * leNat bs

/-- The n low bytes of v, little-endian. -/
def leBytes : Nat → Nat → List Byte
  | 0, _ => []
  | n + 1, v => BitVec.ofNat 8 v :: leBytes n (v / 256)

/-- n bytes of bs from offset o, as a number; bytes past the end read 0. -/
def fieldAt (bs : List Byte) (o n : Nat) : Nat := leNat ((bs.drop o).take n)

/-- Bits [lo + n − 1:lo] of v. -/
def bitsOf (v lo n : Nat) : Nat := v / 2 ^ lo % 2 ^ n

/-- Bit i of v. -/
def bitOf (v i : Nat) : Bool := v.testBit i

/-- v as a signed number of n bits. -/
def signedOf (n v : Nat) : Int := if v % 2 ^ n < 2 ^ (n - 1) then (v % 2 ^ n : Nat) else (v % 2 ^ n : Nat) - (2 ^ n : Nat)

/-- An integer as n bits of two's complement. -/
def wrapInt (n : Nat) (i : Int) : Nat := (i % (2 ^ n : Nat)).toNat

/-- A saturating sum of width n. -/
def satAdd (n a b : Nat) : Nat := min (a + b) (2 ^ n - 1)

/-- 1 for true. -/
def bit (b : Bool) : Nat := if b then 1 else 0

/-- A list without element x. -/
def without (l : List Nat) (x : Nat) : List Nat := l.filter fun y => y != x

/-- A list with x, once. -/
def withOne (l : List Nat) (x : Nat) : List Nat := if l.contains x then l else l ++ [x]

/-- Number of set bits of the n low bits of v. -/
def popcount : Nat → Nat → Nat
  | 0, _ => 0
  | n + 1, v => v % 2 + popcount n (v / 2)

/-- The positions of the set bits of the n low bits of v, from position p on. -/
def bitsSet : Nat → Nat → Nat → List Nat
  | 0, _, _ => []
  | n + 1, p, v => (if v % 2 = 1 then [p] else []) ++ bitsSet n (p + 1) (v / 2)

/-! ### Memory -/

/-- What an unlisted byte reads as (DESIGN CHOICE, log 9). -/
def unlisted : Byte := 0

/-- The byte at a. -/
def memRead : List Host.Cell → Nat → Byte
  | [], _ => unlisted
  | (k, v) :: t, a => if a = k then v else memRead t a

/-- The list without address a. -/
def memErase : List Host.Cell → Nat → List Host.Cell
  | [], _ => []
  | (k, v) :: t, a => if a = k then memErase t a else (k, v) :: memErase t a

/-- The list with a cell put in before the first higher address. -/
def memInsert : List Host.Cell → Nat → Byte → List Host.Cell
  | [], a, b => [(a, b)]
  | (k, v) :: t, a, b => if a < k then (a, b) :: (k, v) :: t else (k, v) :: memInsert t a b

/-- A write of one byte, which keeps the canonical form. -/
def memWrite (m : List Host.Cell) (a : Nat) (b : Byte) : List Host.Cell :=
  if b = unlisted then memErase m a else memInsert (memErase m a) a b

/-- n bytes from a. -/
def memReads (m : List Host.Cell) : Nat → Nat → List Byte
  | _, 0 => []
  | a, n + 1 => memRead m a :: memReads m (a + 1) n

/-- A write of bytes from a. -/
def memWrites : List Host.Cell → Nat → List Byte → List Host.Cell
  | m, _, [] => m
  | m, a, b :: bs => memWrites (memWrite m a b) (a + 1) bs

/-- A write of the bytes whose mask is true. -/
def memMasked : List Host.Cell → Nat → List Byte → List Bool → List Host.Cell
  | m, a, b :: bs, k :: ks => memMasked (if k then memWrite m a b else m) (a + 1) bs ks
  | m, _, _, _ => m

/-- The canonical form: addresses strictly rise and no cell holds what an unlisted byte reads as. -/
def Memory.wf : List Host.Cell → Bool
  | [] => true
  | [(_, v)] => v != unlisted
  | (k, v) :: (k', v') :: t => v != unlisted && decide (k < k') && Memory.wf ((k', v') :: t)

/-- A line of 128 bytes. -/
def lineBytes : Nat := 128

/-! ### The address map (R24, R26, R32) -/

/-- Where an address lies. -/
inductive Place where
  /-- Fast tier: stack, offset. -/
  | fast (stack offset : Nat)
  /-- Slow tier: Grotto, offset. -/
  | slow (grotto offset : Nat)
  /-- Scratchpad: tile, bank, byte of the bank. -/
  | pad (tile bank offset : Nat)
  /-- Reduction buffer: compute die, offset. -/
  | red (die offset : Nat)
  /-- Register region: die identifier, offset. -/
  | regs (die offset : Nat)
  /-- Window view of a fast-tier byte: stack, offset. -/
  | winFast (stack offset : Nat)
  /-- Window view of a scratchpad byte. -/
  | winPad (tile bank offset : Nat)
  /-- PCIe aperture: root port, offset. -/
  | pcie (port offset : Nat)
  | unmapped
deriving DecidableEq, Repr

/-- R24, R26. The PCIe row of R24 gives port p 64 GiB at 0xD00_0000_0000 + p × 0x10_0000_0000 and an end that holds
port 0 alone; the four port bases are followed (DEDUCED, log 36). -/
def placeOf (a : Nat) : Place :=
  if a ≤ 0x08F_FFFF_FFFF then .fast (a / 0xC_0000_0000) (a % 0xC_0000_0000)
  else if 0x100_0000_0000 ≤ a ∧ a ≤ 0x2FF_FFFF_FFFF then
    .slow ((a - 0x100_0000_0000) / 0x80_0000_0000) ((a - 0x100_0000_0000) % 0x80_0000_0000)
  else if 0x400_0000_0000 ≤ a ∧ a ≤ 0x400_2FFF_FFFF then
    .pad ((a - 0x400_0000_0000) / 0x100_0000) ((a - 0x400_0000_0000) % 0x100_0000 / 0x8_0000)
      ((a - 0x400_0000_0000) % 0x8_0000)
  else if 0x500_0000_0000 ≤ a ∧ a ≤ 0x500_1FFF_FFFF then
    .red ((a - 0x500_0000_0000) / 0x800_0000) ((a - 0x500_0000_0000) % 0x800_0000)
  else if 0x800_0000_0000 ≤ a ∧ a ≤ 0x800_8FFF_FFFF then
    .regs ((a - 0x800_0000_0000) / 0x1000_0000) ((a - 0x800_0000_0000) % 0x1000_0000)
  else if 0xC00_0000_0000 ≤ a ∧ a ≤ 0xC8F_FFFF_FFFF then
    .winFast ((a - 0xC00_0000_0000) / 0xC_0000_0000) ((a - 0xC00_0000_0000) % 0xC_0000_0000)
  else if 0xCC0_0000_0000 ≤ a ∧ a ≤ 0xCC0_2FFF_FFFF then
    .winPad ((a - 0xCC0_0000_0000) / 0x100_0000) ((a - 0xCC0_0000_0000) % 0x100_0000 / 0x8_0000)
      ((a - 0xCC0_0000_0000) % 0x8_0000)
  else if 0xD00_0000_0000 ≤ a ∧ a ≤ 0xD3F_FFFF_FFFF then
    .pcie ((a - 0xD00_0000_0000) / 0x10_0000_0000) ((a - 0xD00_0000_0000) % 0x10_0000_0000)
  else .unmapped

/-- Byte 0 of a tile's scratchpad. -/
def padBase (t : Nat) : Nat := 0x400_0000_0000 + t * 0x100_0000

/-- Byte 0 of a compute die's reduction buffers. -/
def redBase (d : Nat) : Nat := 0x500_0000_0000 + d * 0x800_0000

/-- Whether the bytes a to a + n − 1 lie in one of the two tiers (in one range of R24). -/
def inTier (a n : Nat) : Bool :=
  (a + n ≤ 0x090_0000_0000) || (decide (0x100_0000_0000 ≤ a) && decide (a + n ≤ 0x300_0000_0000))

/-- Whether the bytes lie in tile t's scratchpad. -/
def inPad (t a n : Nat) : Bool := decide (padBase t ≤ a) && decide (a + n ≤ padBase t + 0x100_0000)

/-- Whether the bytes lie in the scratchpads. -/
def inPads (a n : Nat) : Bool := decide (0x400_0000_0000 ≤ a) && decide (a + n ≤ 0x400_3000_0000)

/-- Whether the bytes lie in compute die d's reduction buffers. -/
def inRed (d a n : Nat) : Bool := decide (redBase d ≤ a) && decide (a + n ≤ redBase d + 0x800_0000)

/-- Whether the bytes lie in the reduction buffers. -/
def inReds (a n : Nat) : Bool := decide (0x500_0000_0000 ≤ a) && decide (a + n ≤ 0x500_2000_0000)

/-- The register region of a die (R32). -/
def regionBase (die : Nat) : Nat := 0x800_0000_0000 + die * 0x1000_0000

/-- The die on which a unit lies (R11, R42). -/
def unitDie (u : Nat) : Nat :=
  if u < 48 then 1 + u / 12
  else if u < 64 then 1 + (u - 48) % 4
  else if u < 72 then 5 + (u - 64) % 4
  else 1 + (u - 72) % 4

/-! ### Parts of the state -/

def State.tile (s : State) (t : Nat) : Tile := tget {} s.tiles t
def State.modTile (s : State) (t : Nat) (f : Tile → Tile) : State := { s with tiles := tmod {} s.tiles t f }
def State.troupe (s : State) (i : Nat) : Troupe := tget {} s.troupes i
def State.modTroupe (s : State) (i : Nat) (f : Troupe → Troupe) : State := { s with troupes := tmod {} s.troupes i f }
def State.token (s : State) (c : Nat) : Token := tget {} s.tokens c
def State.modToken (s : State) (c : Nat) (f : Token → Token) : State := { s with tokens := tmod {} s.tokens c f }
def State.wait (s : State) (u : Nat) : Option WaitRec := tget none s.waits u
def State.setWait (s : State) (u : Nat) (w : Option WaitRec) : State := { s with waits := tset s.waits u w }
def State.dieErr (s : State) (d : Nat) : DieErr := tget {} s.err.dies d
def State.modDieErr (s : State) (d : Nat) (f : DieErr → DieErr) : State :=
  { s with err := { s.err with dies := tmod {} s.err.dies d f } }
def State.fence (s : State) (u : Nat) : Fence := tget {} s.fences u
def State.modFence (s : State) (u : Nat) (f : Fence → Fence) : State := { s with fences := tmod {} s.fences u f }
def State.port (s : State) (p : Nat) : Port := tget {} s.fab.ports p
def State.modPort (s : State) (p : Nat) (f : Port → Port) : State :=
  { s with fab := { s.fab with ports := tmod {} s.fab.ports p f } }
def State.flowCtx (s : State) (f : Nat) : FlowCtx := tget {} s.fab.flows f
def State.modFlow (s : State) (f : Nat) (g : FlowCtx → FlowCtx) : State :=
  { s with fab := { s.fab with flows := tmod {} s.fab.flows f g } }
def State.fabEng (s : State) (d : Nat) : FabEngine := tget {} s.fab.engines d
def State.modFab (s : State) (d : Nat) (f : FabEngine → FabEngine) : State :=
  { s with fab := { s.fab with engines := tmod {} s.fab.engines d f } }
def State.redEng (s : State) (d : Nat) : RedEngine := tget {} s.reds d
def State.modRed (s : State) (d : Nat) (f : RedEngine → RedEngine) : State := { s with reds := tmod {} s.reds d f }
def State.grot (s : State) (g : Nat) : Grotto := tget {} s.grots g
def State.modGrot (s : State) (g : Nat) (f : Grotto → Grotto) : State := { s with grots := tmod {} s.grots g f }
def State.memCtl (s : State) (m : Nat) : MemCtl := tget {} s.mems m
def State.modMem (s : State) (m : Nat) (f : MemCtl → MemCtl) : State := { s with mems := tmod {} s.mems m f }
def State.queue (s : State) (q : Nat) : Queue := tget {} s.queues q
def State.modQueue (s : State) (q : Nat) (f : Queue → Queue) : State := { s with queues := tmod {} s.queues q f }
def State.hartWin (s : State) (h : Nat) : HartWin := tget {} s.wins h
def State.modWin (s : State) (h : Nat) (f : HartWin → HartWin) : State := { s with wins := tmod {} s.wins h f }
def State.region (s : State) (r : Nat) : Region := tget {} s.plc.regions r
def State.modRegion (s : State) (r : Nat) (f : Region → Region) : State :=
  { s with plc := { s.plc with regions := tmod {} s.plc.regions r f } }
def State.dat (s : State) (e : Nat) : DatEngine := tget {} s.dats e
def State.hart (s : State) (h : Nat) : Hart := tget {} s.host.harts h
def State.modHart (s : State) (h : Nat) (f : Hart → Hart) : State :=
  { s with host := { s.host with harts := tmod {} s.host.harts h f } }
def State.modDat (s : State) (e : Nat) (f : DatEngine → DatEngine) : State := { s with dats := tmod {} s.dats e f }
def State.codec (s : State) (d : Nat) : Codec := tget {} s.codecs d
def State.modCodec (s : State) (d : Nat) (f : Codec → Codec) : State := { s with codecs := tmod {} s.codecs d f }
def State.clkDie (s : State) (d : Nat) : ClkDie := tget {} s.clk.dies d
def State.modClk (s : State) (d : Nat) (f : ClkDie → ClkDie) : State :=
  { s with clk := { s.clk with dies := tmod {} s.clk.dies d f } }
def linkKey (d l : Nat) : Nat := 8 * d + l
def State.link (s : State) (d l : Nat) : Link := tget {} s.links (linkKey d l)
def State.modLink (s : State) (d l : Nat) (f : Link → Link) : State :=
  { s with links := tmod {} s.links (linkKey d l) f }
def State.home (s : State) (h : Nat) : Home := tget {} s.coh.homes h
def State.modHome (s : State) (h : Nat) (f : Home → Home) : State :=
  { s with coh := { s.coh with homes := tmod {} s.coh.homes h f } }

/-- The queue, the clock counters and the reply are no part of what most operations change. -/
def State.setMem (s : State) (m : List Host.Cell) : State := { s with mem := m }

/-- Reads n bytes of memory. -/
def State.bytes (s : State) (a n : Nat) : List Byte := memReads s.mem a n

/-- Writes bytes to memory. -/
def State.store (s : State) (a : Nat) (bs : List Byte) : State := { s with mem := memWrites s.mem a bs }

/-- The reply to a reader. -/
def State.reply (s : State) (r : Reply) : State := { s with out := r }

/-! ### The guard of an event -/

/-- The package is powered, out of reset and not stopped (R524, R531). -/
def State.live (s : State) : Bool := s.boot.powerGood && s.boot.released && !s.boot.stopped

/-- An event acts when it is due and the package is live; an event that is not due changes nothing
(DESIGN CHOICE, log 1). -/
def event (s : State) (due : Bool) (f : State → State) : Host.Outcome State Fault Refusal :=
  .next (if s.live && due then f s else s)

/-- An event that the package's power and reset state does not gate. -/
def rawEvent (s : State) (due : Bool) (f : State → State) : Host.Outcome State Fault Refusal :=
  .next (if due then f s else s)

/-- An optional value guards an event. -/
def eventOf {α : Type} (s : State) (x : Option α) (f : α → State → State) : Host.Outcome State Fault Refusal :=
  .next (if s.live then (match x with
    | some a => f a s
    | none => s) else s)

/-! ### The image in force (R43 to R56) -/

/-- The tables in force; before the first image none. -/
def State.image (s : State) : Image := s.img.inForce.getD {}

/-- Whether a unit is listed by masks of tiles and engines (R43, R52). -/
def maskHas (tiles engines u : Nat) : Bool := if u < 48 then tiles.testBit u else engines.testBit (u - 48)

/-- The units of a pair of masks, ascending. -/
def maskUnits (tiles engines : Nat) : List Nat := bitsSet 48 0 tiles ++ bitsSet 28 48 engines

/-- TROUPE record of a troupe. -/
def Image.troupeRec (i : Image) (tr : Nat) : Option TroupeRec := i.troupes.find? fun r => r.troupe == tr

/-- The troupe of a unit (R44). -/
def Image.unitTroupe (i : Image) (u : Nat) : Option Nat :=
  (i.troupes.find? fun r => maskHas r.tiles r.engines u).map TroupeRec.troupe

/-- The troupe whose token range holds a channel (R43). -/
def Image.tokenTroupe (i : Image) (c : Nat) : Option Nat :=
  (i.troupes.find? fun r => decide (r.tokenBase ≤ c) && decide (c < r.tokenBase + r.tokenCount)).map TroupeRec.troupe

/-- The troupe whose barrier range holds a counter. -/
def Image.barrierTroupe (i : Image) (b : Nat) : Option Nat :=
  (i.troupes.find? fun r => decide (r.barrierBase ≤ b) && decide (b < r.barrierBase + r.barrierCount)).map
    TroupeRec.troupe

/-- The units of a troupe. -/
def Image.units (i : Image) (tr : Nat) : List Nat :=
  match i.troupeRec tr with
  | some r => maskUnits r.tiles r.engines
  | none => []

/-- CREDIT value of a token channel (kind 0) or barrier counter (kind 1) (R46). -/
def Image.creditOf (i : Image) (kind c : Nat) : Nat :=
  match i.credit.find? fun r => r.kind == kind && r.channel == c with
  | some r => r.initial
  | none => 0

/-- FLOW record of a flow. -/
def Image.flowRec (i : Image) (f : Nat) : Option FlowRec := i.flow.find? fun r => r.flow == f

/-- BIND record of a target and index. -/
def Image.bindRec (i : Image) (target index : Nat) : Option BindRec :=
  i.bind.find? fun r => r.target == target && r.index == index

/-- Whether a port may reach a bank or region (R45). Before an image no BIND bit is set. -/
def Image.bound (i : Image) (target index port : Nat) : Bool :=
  match i.bindRec target index with
  | some r => r.ports.testBit port
  | none => false

/-- STRROUTE record of an object. -/
def Image.routeRec (i : Image) (kind id : Nat) : Option StrRouteRec :=
  i.route.find? fun r => r.kind == kind && r.id == id

/-- FORMAT record of a path; without one the path saturates and rounds to nearest-even (R54). -/
def Image.formatOf (i : Image) (tile path : Nat) : FormatRec :=
  (i.format.find? fun r => r.unit == tile && r.path == path).getD ⟨tile, path, 0, 0⟩

/-- The CLOCK record. -/
def Image.clockRec (i : Image) : ClockRec := i.clock.headD {}

/-- POWER caps of a troupe (R56). -/
def Image.powerOf (i : Image) (tr : Nat) : PowerRec :=
  (i.power.find? fun r => r.troupe == tr).getD ⟨tr, 2000, 2000⟩

/-- linear_limit of a memory; before the first image, its capacity (R49). -/
def Image.linearLimit (i : Image) (m : Nat) : Nat :=
  match i.memmap.find? fun r => r.memory == m with
  | some r => r.linearLimit
  | none => if m < 12 then 0xC_0000_0000 else 0x80_0000_0000

/-- Whether port p is enabled for scheduled traffic (R51). -/
def Image.portEnabled (i : Image) (p : Nat) : Bool := i.fabtt.any fun r => r.a == p && r.b == 1

/-! ### Frames -/

/-- The frame in which the package stands (R8, R259). -/
def State.frame (s : State) : Nat := s.time.span / 4000

/-! ### The event router (R461, R462) -/

/-- Sets a pending identity of an interrupt file (R460). -/
def setPending (file eiid : Nat) (s : State) : State :=
  { s with host := { s.host with imsic := tmod [] s.host.imsic file fun l => withOne l eiid } }

/-- One message of source e, when its route is enabled. -/
def evtSend (e : Nat) (s : State) : State :=
  let r := tget {} s.host.routes e
  if r.enable then setPending (2 * r.hart + bit r.sLevel) r.eiid s else s

/-! ### Error records (R551 to R555) and aborts (R91) -/

/-- Severities of R551. -/
def sevCorrected : Nat := 0
def sevDeferred : Nat := 1
def sevFatal : Nat := 2

/-- Records in the ring and not consumed. -/
def DieErr.unread (d : DieErr) : Nat := (d.wr + 256 - d.rd) % 256

/-- Whether a record of a severity finds a slot (R554). -/
def DieErr.room (d : DieErr) (severity : Nat) : Bool :=
  if severity = sevCorrected then decide (d.unread < 224) else decide (d.unread < 255)

/-- A record put in the ring, or dropped and counted (R554), and the counts of R570. -/
def DieErr.put (d : DieErr) (r : ErrRec) : DieErr :=
  let r := { r with seq := d.seq, flags := r.flags + bit d.dropFlag }
  let d := { d with
    seq := (d.seq + 1) % 2 ^ 32
    corrected := if r.severity = sevCorrected then satAdd 32 d.corrected 1 else d.corrected
    deferred := if r.severity = sevDeferred then satAdd 32 d.deferred 1 else d.deferred }
  if d.room r.severity then { d with ring := tset d.ring d.wr r, wr := (d.wr + 1) % 256, dropFlag := false }
  else if r.severity = sevCorrected then { d with dropped := satAdd 16 d.dropped 1, dropFlag := true }
  else { d with lost := satAdd 8 d.lost 1, dropFlag := true }

/-- R91: a running troupe begins to abort its scene. Later faults start nothing further (R90). -/
def beginAbort (tr : Nat) (s : State) : State :=
  if (s.troupe tr).state = 1 then
    evtSend 3 (s.modTroupe tr fun x => { x with state := 2, noticed := [], abortAt := s.time.span, auditing := false })
  else s

/-- The code by which the package owes a reset. A reset that is due already stands. -/
def oweReset (k : ResetKind) (s : State) : State :=
  match s.boot.resetDue with
  | some _ => s
  | none => { s with boot := { s.boot with resetDue := some k } }

/-- A die forms a record: it is written or dropped (R554), its router message is sent if it was written, and its
severity acts (R553). A fatal record carries flags bit 1 and is kept for the copy to ERR_FATAL (R555). -/
def formRecord (die : Nat) (r : ErrRec) (s : State) : State :=
  let r := { r with die := die, spanTime := s.time.span, flags := if r.severity = sevFatal then 2 else 0 }
  let written := (s.dieErr die).room r.severity
  let full := { r with seq := (s.dieErr die).seq, flags := r.flags + bit (s.dieErr die).dropFlag }
  let s := s.modDieErr die fun d => d.put r
  let s := if written && decide (r.severity ≤ 1) then evtSend r.severity s else s
  if r.severity = sevDeferred then (if r.troupe = 0xFF then s else beginAbort r.troupe s)
  else if r.severity = sevFatal then
    oweReset .fatal { s with err := { s.err with fatalFormed := s.err.fatalFormed ++ [full] } }
  else s

/-- R90: whether CTL_TROUPE reports a fault of a unit in a CMP cycle: it is the first of the scene, or it falls in the
cycle of the one reported and has a lower unit, or the same unit and a lower code. -/
def Troupe.reports (x : Troupe) (at_ unit code : Nat) : Bool :=
  x.state == 1 || (x.state == 2 && x.faulted && x.faultAt == at_ &&
    (decide (unit < x.faultUnit) || (unit == x.faultUnit && decide (code < x.faultCode))))

/-- R88, R90: a contract fault of a troupe in a CMP cycle of span time, recorded on a die. Every one is counted. -/
def contractFaultAt (at_ die tr unit code addr info0 : Nat) (s : State) : State :=
  let sid := (s.troupe tr).sceneId
  let s := s.modTroupe tr fun x =>
    let y := { x with faultCount := satAdd 8 x.faultCount 1 }
    if x.reports at_ unit code then { y with faultCode := code, faultUnit := unit, faultAt := at_, faulted := true }
    else { y with faulted := x.faulted || x.state == 2 }
  formRecord die { cls := 1, severity := sevDeferred, unit := unit, code := code, troupe := tr,
                   sceneId := sid, addr := addr, info0 := info0 } s

/-- A contract fault in the present cycle. -/
def contractFaultOn (die tr unit code addr info0 : Nat) (s : State) : State :=
  contractFaultAt (s.time.span / 2) die tr unit code addr info0 s

/-- A contract fault recorded on the die of its unit. -/
def contractFault (tr unit code addr info0 : Nat) (s : State) : State :=
  contractFaultOn (unitDie unit) tr unit code addr info0 s

/-- Fault codes of R88. -/
def fcBankClash : Nat := 0x01
def fcBankDenied : Nat := 0x02
def fcWindow : Nat := 0x03
def fcAddress : Nat := 0x04
def fcNoSlot : Nat := 0x05
def fcRange : Nat := 0x06
def fcWaiterClash : Nat := 0x07
def fcTokenOverflow : Nat := 0x08
def fcWaitLimit : Nat := 0x09
def fcKGroup : Nat := 0x0A
def fcDuty : Nat := 0x0B
def fcReorderFull : Nat := 0x0C
def fcStaleCopy : Nat := 0x0D
def fcEncoding : Nat := 0x0E

/-- A contract fault of a unit that belongs to a troupe; a unit in none raises nothing. -/
def unitFault (u code addr info0 : Nat) (s : State) : State :=
  match s.image.unitTroupe u with
  | some tr => contractFault tr u code addr info0 s
  | none => s

/-- A contract fault of one command of a tile in a cycle of its scene: each code at most once a command (R90). -/
def tileFaultAt (t cycle seq addr code info0 : Nat) (s : State) : State :=
  if (s.tile t).raised.contains (seq, code) then s
  else
    let s := s.modTile t fun x => { x with raised := x.raised ++ [(seq, code)] }
    match s.image.unitTroupe t with
    | some tr => contractFaultAt ((s.tile t).startCmp + cycle) (unitDie t) tr t code addr info0 s
    | none => s

/-- A contract fault of one command of a tile in the sequencer's cycle. -/
def tileFault (t seq addr code info0 : Nat) (s : State) : State := tileFaultAt t (s.tile t).cycle seq addr code info0 s

/-- R35: an access that breaks a rule is recorded in the die's ERR_REGACC unless it already holds one. kind 0 unmapped,
1 narrow or misaligned, 2 write to an RO field, 3 write to an RWL field after lock. -/
def recordRegAcc (die source kind addr : Nat) (s : State) : State :=
  s.modDieErr die fun d => if d.regValid then d
    else { d with regValid := true, regSource := source, regKind := kind, regAddr := addr / 8 * 8 }

/-! ### Token channels (R79) -/

/-- The compute die (0 to 3) that holds a device-wide channel (R250). -/
def tokenHome (ch : Nat) : Nat := ch / 4096

/-- k, sent by a unit at a span time, added to a device-wide channel at its root; a count above 0xFFFF_FFFF is refused
with TOKEN_OVERFLOW, raised against the signalling unit and its command at addr, or where none is known against the
channel's troupe. -/
def signalDevice (unit ch k sent addr : Nat) (s : State) : State :=
  let c := (s.token ch).count
  if c + k < 2 ^ 32 then s.modToken ch fun x => { x with count := c + k, log := x.log ++ [(k, sent, unit)] }
  else match s.image.tokenTroupe ch with
    | some tr => contractFaultOn (1 + tokenHome ch) tr unit fcTokenOverflow addr ch s
    | none => s

/-- k added to a tile channel, visible from cycle lo to cycle hi. -/
def signalTile (t ch k lo hi addr seq : Nat) (s : State) : State :=
  let c := tget 0 (s.tile t).tokens ch
  if c + k < 2 ^ 32 then
    s.modTile t fun x => { x with tokens := tset x.tokens ch (c + k)
                                  tokenLog := tmod [] x.tokenLog ch fun l => l ++ [(k, lo, hi)] }
  else tileFault t seq addr fcTokenOverflow ch s

/-- A Strings message of a unit, handed to Strings at the span time that it names or at the present one, whichever is
later. -/
def sendStr (m : StrMsg) (s : State) : State :=
  { s with str := { s.str with msgs := s.str.msgs ++ [{ m with sent := max m.sent s.time.span }] } }

/-- A device-wide signal leaves its unit for Strings (R248). -/
def sendSignal (unit ch k sent addr : Nat) (s : State) : State :=
  sendStr { kind := 0, obj := ch, unit := unit, value := BitVec.ofNat 64 k, addr := addr, sent := sent } s

/-- The limit of a wait in frames: the command's own, or the troupe's captured default (R96). -/
def waitLimitOf (s : State) (u limit : Nat) : Nat :=
  if limit = 0 then (match s.image.unitTroupe u with
    | some tr => (s.troupe tr).capLimit
    | none => 0x1_0000) else limit

/-- A wait placed on a unit by the command at addr, issued in a cycle of its tile. -/
def beginWait (u kind chan k limit cycle addr : Nat) (s : State) : State :=
  s.setWait u (some { kind := kind, chan := chan, k := k, limit := waitLimitOf s u limit, since := s.time.span,
                      cycle := cycle, addr := addr })

/-- The span time has reached the limit of a wait or hold that began at since (R96). -/
def State.atLimit (s : State) (since limit : Nat) : Bool := decide (since + 4000 * limit ≤ s.time.span)

/-! ### Completions of queue commands (R420, R421) -/

/-- A started command of a queue completes: its record waits to be written. -/
def completeQ (q n status detail : Nat) (s : State) : State :=
  match (s.queue q).started.find? fun c => c.number == n with
  | some c => s.modQueue q fun x => { x with
      started := x.started.filter fun c => c.number != n
      records := x.records ++ [{ seq := c.seq, status := status, opcode := c.opcode, tag := c.tag, detail := detail,
                                 irq := bitOf c.flags 1 || status != 0, spanTime := s.time.span }] }
  | none => s

/-- The command whose completion a scene or job owes, if any. -/
def completeOwner (o : Option (Nat × Nat)) (status detail : Nat) (s : State) : State :=
  match o with
  | some p => completeQ p.1 p.2 status detail s
  | none => s

/-! ### Time -/

/-- One period of the 100 MHz reference: 40 STR cycles and one count of the time CSR. Span time does not pass the
frame boundary, which FRAME_START opens (DESIGN CHOICE, log 8). -/
def idle (s : State) : State :=
  if s.live then
    { s with time := { s.time with span := min (s.time.span + 40) (s.time.span / 4000 * 4000 + 3999)
                                   csr := s.time.csr + 1 } }
  else s

/-! ### Free values -/

/-- The next free value: the counter advances. -/
def State.draw (s : State) : State := { s with fresh := s.fresh + 1 }

/-- n free bytes of the present draw. -/
def freeBytes (k : Nat) : Nat → List Byte
  | 0 => []
  | n + 1 => Config.freeByte k n :: freeBytes k n

/-- The memory with free bytes at base to base + len − 1, of draw k; the canonical form is kept. -/
def memFree (m : List Host.Cell) (base len k : Nat) : List Host.Cell :=
  (m.filter fun c => decide (c.1 < base)) ++
  ((List.range len).filterMap fun i =>
    if Config.freeByte k (base + i) = unlisted then none else some (base + i, Config.freeByte k (base + i))) ++
  (m.filter fun c => decide (base + len ≤ c.1))

/-- Bytes base to base + len − 1 become undefined. -/
def State.freeFill (s : State) (base len : Nat) : State :=
  { s with mem := memFree s.mem base len s.fresh, fresh := s.fresh + 1 }

end Sys2Proof.Machine
end

