-- ==== Sys2Proof/Machine/Flags.lean ====
section
/-! DEFINITION. Counts and completion entries (R121, R122), the sums of a seal (R123), and the words that the tile's
status registers read. -/

namespace Sys2Proof.Machine

open Sys2Proof

/-- The sum of two sets of counts. -/
def Counts.add (a b : Counts) : Counts :=
  { elements := a.elements + b.elements, saturated := a.saturated + b.saturated, flushed := a.flushed + b.flushed,
    nonfinite := a.nonfinite + b.nonfinite }

/-- R121: counts added to an entry, each saturating at its all-ones value with flags bit 0; last_addr is set. -/
def CEntry.add (e : CEntry) (c : Counts) (addr : Nat) : CEntry :=
  let full := decide (2 ^ 64 ≤ e.counts.elements + c.elements) || decide (2 ^ 32 ≤ e.counts.saturated + c.saturated) ||
    decide (2 ^ 32 ≤ e.counts.flushed + c.flushed) || decide (2 ^ 32 ≤ e.counts.nonfinite + c.nonfinite) ||
    decide (2 ^ 32 ≤ e.commands + 1)
  { counts := { elements := satAdd 64 e.counts.elements c.elements
                saturated := satAdd 32 e.counts.saturated c.saturated
                flushed := satAdd 32 e.counts.flushed c.flushed
                nonfinite := satAdd 32 e.counts.nonfinite c.nonfinite }
    commands := satAdd 32 e.commands 1
    lastAddr := addr
    flags := if full then 1 else e.flags }

/-- Whether an addition stands in the table before cycle c: made earlier, and no clear of an earlier cycle than c came in
its cycle or later (R122: a clear takes the additions of its own cycle with it). -/
def Tile.stands (x : Tile) (c : Nat) (a : CAdd) : Bool :=
  decide (a.cycle < c) && !x.clears.any fun k =>
    decide (k.1 < c) && decide (a.cycle ≤ k.1) && decide (k.2.1 ≤ a.entry) && decide (a.entry ≤ k.2.2)

/-- R121, R122: a completion entry as it stands before any addition of cycle c: additions count in the order of their
cycles, and those of one cycle in the order of their units, so that last_addr is the highest unit's. -/
def Tile.entryAt (x : Tile) (c e : Nat) : CEntry :=
  ((x.adds.filter fun a => a.entry == e && x.stands c a).insertionSort fun a b =>
    a.cycle < b.cycle ∨ (a.cycle = b.cycle ∧ a.unit ≤ b.unit)).foldl (fun r a => r.add a.counts a.addr) {}

/-- The entry as all additions so far leave it. -/
def Tile.centry (x : Tile) (e : Nat) : CEntry := x.entryAt (2 ^ 64) e

/-- The 32 bytes of an entry (R121). -/
def CEntry.bytes (e : CEntry) : List Byte :=
  leBytes 8 e.counts.elements ++ leBytes 4 e.counts.saturated ++ leBytes 4 e.counts.flushed ++
  leBytes 4 e.counts.nonfinite ++ leBytes 4 e.commands ++ leBytes 4 e.lastAddr ++ leBytes 4 e.flags

/-- R123: the totals of a seal and whether one saturated. -/
def sealTotals (x : Tile) : Counts × Bool :=
  let c := (x.adds.map CAdd.entry).dedup.foldl (fun (c : Counts) e => c.add (x.centry e).counts) {}
  ({ elements := min c.elements (2 ^ 64 - 1), saturated := min c.saturated (2 ^ 32 - 1)
     flushed := min c.flushed (2 ^ 32 - 1), nonfinite := min c.nonfinite (2 ^ 32 - 1) },
   decide (2 ^ 64 ≤ c.elements) || decide (2 ^ 32 ≤ c.saturated) || decide (2 ^ 32 ≤ c.flushed) ||
   decide (2 ^ 32 ≤ c.nonfinite))

/-- The 64 bytes of a log record (R123). A seal's body holds the four totals alone. -/
def LogRec.bytes (r : LogRec) : List Byte :=
  leBytes 1 r.kind ++ leBytes 1 r.tile ++ leBytes 1 r.troupe ++ leBytes 1 r.flags ++ leBytes 4 r.sceneId ++
  leBytes 8 r.cycle ++ leBytes 4 r.addr ++ leBytes 4 r.tag ++ leBytes 8 r.value.toNat ++ r.body.bytes

/-- The 64 bytes of an error record (R551). -/
def ErrRec.bytes (r : ErrRec) : List Byte :=
  leBytes 1 r.cls ++ leBytes 1 r.severity ++ leBytes 1 r.die ++ leBytes 1 r.unit ++ leBytes 1 r.code ++
  leBytes 1 r.troupe ++ leBytes 1 r.flags ++ leBytes 1 0 ++ leBytes 4 r.seq ++ leBytes 4 r.sceneId ++
  leBytes 8 r.spanTime ++ leBytes 8 r.addr ++ leBytes 8 r.info0 ++ leBytes 8 r.info1 ++ leBytes 8 r.info2 ++
  leBytes 8 0

/-! ### CRC (R279, R280, R411; polynomials PRESUMED, log 18) -/

/-- One bit of a reflected CRC-32. -/
def crcBit (poly c : Nat) : Nat := if c % 2 = 1 then (c / 2) ^^^ poly else c / 2

/-- One byte of a reflected CRC-32. -/
def crcByte (poly c : Nat) (b : Byte) : Nat := (List.range 8).foldl (fun c _ => crcBit poly c) (c ^^^ b.toNat)

/-- A reflected CRC-32 with all-ones preset and final inversion. -/
def crc32With (poly : Nat) (bs : List Byte) : Nat := (bs.foldl (crcByte poly) 0xFFFF_FFFF) ^^^ 0xFFFF_FFFF

/-- CRC-32 of IEEE 802.3. -/
def crc32 (bs : List Byte) : Nat := crc32With 0xEDB8_8320 bs

end Sys2Proof.Machine
end

