-- ==== Sys2Proof/Machine/Float.lean ====
section
/-! DEFINITION. Number formats and arithmetic (06), conversions (07, R177 to R182) and Rattle (R205): exact integer
significands and exponents, rounded once. -/

namespace Sys2Proof.Machine

open Sys2Proof

/-- A floating-point value: sign, magnitude and exponent, worth mag × 2^exp. -/
inductive Num where
  | nan
  | inf (neg : Bool)
  | fin (neg : Bool) (mag : Nat) (exp : Int)
deriving DecidableEq, Repr

/-- A format's exponent bits, significand bits and bias (R156). -/
structure FmtPar where
  ebits : Nat
  mbits : Nat
  bias : Int
deriving DecidableEq, Repr

def parFp32 : FmtPar := ⟨8, 23, 127⟩
def parBf16 : FmtPar := ⟨8, 7, 127⟩
def parFp16 : FmtPar := ⟨5, 10, 15⟩
def parE4m3 : FmtPar := ⟨4, 3, 7⟩
def parE5m2 : FmtPar := ⟨5, 2, 15⟩

/-- Format codes of R107. -/
def fmRaw : Nat := 0x00
def fmFp32 : Nat := 0x01
def fmBf16 : Nat := 0x02
def fmFp16 : Nat := 0x03
def fmE4m3 : Nat := 0x04
def fmE5m2 : Nat := 0x05
def fmMx4m3 : Nat := 0x06
def fmMx5m2 : Nat := 0x07
def fmMx4 : Nat := 0x08
def fmInt8 : Nat := 0x09
def fmInt32 : Nat := 0x0A
def fmBit : Nat := 0x0B

/-- Bits of one element of a format (R173, R179). -/
def fmBits (f : Nat) : Nat :=
  if f = fmFp32 ∨ f = fmInt32 then 32
  else if f = fmBf16 ∨ f = fmFp16 then 16
  else if f = fmMx4 then 4
  else if f = fmBit then 1
  else 8

/-- Whether a format carries block scales. -/
def fmMx (f : Nat) : Bool := f == fmMx4m3 || f == fmMx5m2 || f == fmMx4

/-- The value of a pattern of an IEEE-shaped format, subnormals kept. -/
def valueOf (p : FmtPar) (code : Nat) : Num :=
  let f := code % 2 ^ p.mbits
  let e := code / 2 ^ p.mbits % 2 ^ p.ebits
  let s := bitOf code (p.ebits + p.mbits)
  if e = 0 then .fin s f (1 - p.bias - p.mbits)
  else .fin s (f + 2 ^ p.mbits) (e - p.bias - p.mbits)

/-- Whether a pattern is subnormal. -/
def isSub (p : FmtPar) (code : Nat) : Bool :=
  code % 2 ^ p.mbits != 0 && code / 2 ^ p.mbits % 2 ^ p.ebits == 0

/-- Infinities and NaNs of the formats whose all-ones exponent holds them (R157). -/
def ieeeOf (p : FmtPar) (code : Nat) : Num :=
  if code / 2 ^ p.mbits % 2 ^ p.ebits = 2 ^ p.ebits - 1 then
    (if code % 2 ^ p.mbits = 0 then .inf (bitOf code (p.ebits + p.mbits)) else .nan)
  else valueOf p code

/-- R158: a subnormal of FP32, BF16 or FP16 becomes zero of its sign; the flag says so. -/
def flushedOf (p : FmtPar) (code : Nat) : Num × Bool :=
  if isSub p code then (.fin (bitOf code (p.ebits + p.mbits)) 0 0, true) else (ieeeOf p code, false)

/-- The value of an FP32 pattern as every unit reads it, and whether it was a subnormal. -/
def num32 (w : W32) : Num × Bool := flushedOf parFp32 w.toNat

/-- The value of an element of a format, and whether a subnormal was taken as zero (R156 to R158, R182). -/
def numOf (f code : Nat) : Num × Bool :=
  if f = fmFp32 then flushedOf parFp32 code
  else if f = fmBf16 then flushedOf parBf16 code
  else if f = fmFp16 then flushedOf parFp16 code
  else if f = fmE4m3 ∨ f = fmMx4m3 then (if code % 128 = 127 then .nan else valueOf parE4m3 code, false)
  else if f = fmE5m2 ∨ f = fmMx5m2 then (ieeeOf parE5m2 code, false)
  else if f = fmMx4 then (valueOf ⟨2, 1, 1⟩ code, false)
  else if f = fmBit then (if code = 1 then .fin false 1 0 else .fin false 0 0, false)
  else (.fin false 0 0, false)

/-- Canonical NaN (R157). -/
def nan32 : W32 := 0x7FC0_0000#32

def inf32 (neg : Bool) : W32 := if neg then 0xFF80_0000#32 else 0x7F80_0000#32
def zero32 (neg : Bool) : W32 := if neg then 0x8000_0000#32 else 0#32

/-- A magnitude mag × 2^exp as a multiple of 2^q, to nearest, ties to even. -/
def roundAt (mag : Nat) (exp q : Int) : Nat :=
  if q ≤ exp then mag * 2 ^ (exp - q).toNat
  else
    let d := (q - exp).toNat
    let k := mag / 2 ^ d
    let r := mag % 2 ^ d
    let half := 2 ^ (d - 1)
    if half < r ∨ (r = half ∧ k % 2 = 1) then k + 1 else k

/-- floor(log2) of a magnitude that is not 0. -/
def flog2 (mag : Nat) (exp : Int) : Int := mag.log2 + exp

/-- A result in FP32 with what the counts want to know of it. -/
structure Fr where
  val : W32
  /-- A non-zero exact result became zero. -/
  flushed : Bool := false
  /-- A finite exact result became infinity. -/
  ovf32 : Bool := false
deriving DecidableEq, Repr

/-- The pattern of k × 2^q in a format, where k has at most mbits + 1 bits and the value is normal or, for q at the
subnormal step, subnormal. -/
def encodeAt (p : FmtPar) (neg : Bool) (k : Nat) (q : Int) : Nat :=
  let s := if neg then 2 ^ (p.ebits + p.mbits) else 0
  if k = 0 then s
  else
    let e := flog2 k q
    if e < 1 - p.bias then s + k * 2 ^ (q - (1 - p.bias - p.mbits)).toNat
    else s + (e + p.bias).toNat * 2 ^ p.mbits + (k * 2 ^ p.mbits / 2 ^ k.log2 - 2 ^ p.mbits)

/-- R168: an exact magnitude rounded to nearest-even at 24 bits with an unbounded exponent, then flushed below 2^−126
or replaced by infinity above the range. -/
def round32 (neg : Bool) (mag : Nat) (exp : Int) : Fr :=
  if mag = 0 then ⟨zero32 neg, false, false⟩
  else
    let q := flog2 mag exp - 23
    let k := roundAt mag exp q
    let e := flog2 k q
    if 127 < e then ⟨inf32 neg, false, true⟩
    else if e < -126 then ⟨zero32 neg, true, false⟩
    else ⟨BitVec.ofNat 32 (encodeAt parFp32 neg k q), false, false⟩

/-- The exact sum of two finite values, as an integer over the lower exponent. -/
def exactSum (an : Bool) (am : Nat) (ae : Int) (bn : Bool) (bm : Nat) (be : Int) : Int × Int :=
  let e := min ae be
  let sa : Int := am * 2 ^ (ae - e).toNat
  let sb : Int := bm * 2 ^ (be - e).toNat
  ((if an then -sa else sa) + (if bn then -sb else sb), e)

/-- R168: a + b on values already read. -/
def addNum (a b : Num) : Fr :=
  match a, b with
  | .nan, _ => ⟨nan32, false, false⟩
  | _, .nan => ⟨nan32, false, false⟩
  | .inf x, .inf y => ⟨if x = y then inf32 x else nan32, false, false⟩
  | .inf x, _ => ⟨inf32 x, false, false⟩
  | _, .inf y => ⟨inf32 y, false, false⟩
  | .fin an am ae, .fin bn bm be =>
    if am = 0 ∧ bm = 0 then ⟨zero32 (an && bn), false, false⟩
    else
      let (v, e) := exactSum an am ae bn bm be
      if v = 0 then ⟨zero32 false, false, false⟩ else round32 (decide (v < 0)) v.natAbs e

/-- The exact product. -/
def mulNum (a b : Num) : Num :=
  match a, b with
  | .nan, _ => .nan
  | _, .nan => .nan
  | .inf x, .inf y => .inf (x != y)
  | .inf x, .fin y m _ => if m = 0 then .nan else .inf (x != y)
  | .fin x m _, .inf y => if m = 0 then .nan else .inf (x != y)
  | .fin x m e, .fin y n f => .fin (x != y) (m * n) (e + f)

/-- The negation. -/
def negNum : Num → Num
  | .nan => .nan
  | .inf n => .inf !n
  | .fin n m e => .fin (!n) m e

/-- A value rounded to FP32. -/
def roundNum : Num → Fr
  | .nan => ⟨nan32, false, false⟩
  | .inf n => ⟨inf32 n, false, false⟩
  | .fin n m e => round32 n m e

/-- FP32 add, subtract, multiply and fused multiply-add of R168. -/
def fAdd (a b : W32) : Fr := addNum (num32 a).1 (num32 b).1
def fSub (a b : W32) : Fr := addNum (num32 a).1 (negNum (num32 b).1)
def fMul (a b : W32) : Fr := roundNum (mulNum (num32 a).1 (num32 b).1)
def fFma (a b c : W32) : Fr := addNum (mulNum (num32 a).1 (num32 b).1) (num32 c).1
def fFms (a b c : W32) : Fr := addNum (mulNum (num32 a).1 (num32 b).1) (negNum (num32 c).1)
def fFnma (a b c : W32) : Fr := addNum (negNum (mulNum (num32 a).1 (num32 b).1)) (num32 c).1

/-- a ÷ b, rounded under R168 (used by the Grotto's DIV). -/
def divNum (a b : Num) : Fr :=
  match a, b with
  | .nan, _ => ⟨nan32, false, false⟩
  | _, .nan => ⟨nan32, false, false⟩
  | .inf _, .inf _ => ⟨nan32, false, false⟩
  | .inf x, .fin y _ _ => ⟨inf32 (x != y), false, false⟩
  | .fin x _ _, .inf y => ⟨zero32 (x != y), false, false⟩
  | .fin x m e, .fin y n f =>
    if n = 0 then (if m = 0 then ⟨nan32, false, false⟩ else ⟨inf32 (x != y), false, false⟩)
    else if m = 0 then ⟨zero32 (x != y), false, false⟩
    else
      let num := m * 2 ^ 80
      round32 (x != y) (num / n * 2 + (if num % n = 0 then 0 else 1)) (e - f - 81)

/-- √a, rounded under R168 (used by the Grotto's SQRT). -/
def sqrtNum (a : Num) : Fr :=
  match a with
  | .nan => ⟨nan32, false, false⟩
  | .inf n => ⟨if n then nan32 else inf32 false, false, false⟩
  | .fin n m e =>
    if m = 0 then ⟨zero32 n, false, false⟩
    else if n then ⟨nan32, false, false⟩
    else
      let odd := e % 2
      let w := m * 2 ^ odd.toNat * 2 ^ 80
      let r := w.sqrt
      round32 false (r * 2 + (if r * r = w then 0 else 1)) ((e - odd) / 2 - 41)

/-- Whether an FP32 pattern is NaN, infinite, or either. -/
def isNan32 (w : W32) : Bool := (num32 w).1 == .nan
def isInf32 (w : W32) : Bool := w == inf32 true || w == inf32 false
def nonFin32 (w : W32) : Bool := isNan32 w || isInf32 w

/-- The order of values, −0 below +0 (R194): a < b. NaNs are handled by the callers. -/
def ordLt (a b : Num) : Bool :=
  match a, b with
  | .inf x, .inf y => x && !y
  | .inf x, _ => x
  | _, .inf y => !y
  | .fin an am ae, .fin bn bm be =>
    if am = 0 ∧ bm = 0 then an && !bn
    else decide ((exactSum an am ae (!bn) bm be).1 < 0)
  | _, _ => false

/-- The order of values with equal zeros: a < b. -/
def numLt (a b : Num) : Bool :=
  match a, b with
  | .fin an am ae, .fin bn bm be => decide ((exactSum an am ae (!bn) bm be).1 < 0)
  | _, _ => ordLt a b

/-- Equality of values; zeros are equal and a NaN equals nothing. -/
def numEq (a b : Num) : Bool :=
  match a, b with
  | .nan, _ => false
  | _, .nan => false
  | _, _ => !numLt a b && !numLt b a

/-- A pattern with its subnormal replaced by zero and its NaN made canonical. -/
def canon32 (w : W32) : W32 :=
  match num32 w with
  | (.nan, _) => nan32
  | (.fin n m _, _) => if m = 0 then zero32 n else w
  | (.inf _, _) => w

/-- VX.MAX and VX.MIN of R194. -/
def fMax (a b : W32) : W32 :=
  if isNan32 a || isNan32 b then nan32 else if ordLt (num32 a).1 (num32 b).1 then canon32 b else canon32 a
def fMin (a b : W32) : W32 :=
  if isNan32 a || isNan32 b then nan32 else if ordLt (num32 b).1 (num32 a).1 then canon32 b else canon32 a

/-! ### The cell step (R161, R162, R165) -/

/-- A cell step's result, whether it was flushed and whether it overflowed from finite terms. -/
def cellFinite (terms : List (Bool × Nat × Int)) : Fr :=
  let nz := terms.filter fun t => t.2.1 != 0
  match nz with
  | [] => ⟨0, false, false⟩
  | t :: ts =>
    let emax := ts.foldl (fun m u => max m (flog2 u.2.1 u.2.2)) (flog2 t.2.1 t.2.2)
    let q := emax - 26
    let sum := nz.foldl (fun (acc : Int) u =>
      let m : Nat := if q ≤ u.2.2 then u.2.1 * 2 ^ (u.2.2 - q).toNat else u.2.1 / 2 ^ (q - u.2.2).toNat
      if u.1 then acc - m else acc + m) 0
    if sum = 0 then ⟨0, false, false⟩
    else
      let r := round32 (decide (sum < 0)) sum.natAbs q
      if r.flushed then ⟨0, true, false⟩ else r

/-- The n products of a group: operand values and the sum of the block-scale exponents. -/
def cellStep (acc : W32) (ps : List (Num × Num)) (scale : Int) : Fr :=
  let a := (num32 acc).1
  let prods := ps.map fun p => mulNum p.1 p.2
  let infs := (a :: prods).filterMap fun x => match x with
    | .inf n => some n
    | _ => none
  if a == .nan || prods.contains .nan then ⟨nan32, false, false⟩
  else if infs.contains true && infs.contains false then ⟨nan32, false, false⟩
  else match infs with
    | n :: _ => ⟨inf32 n, false, false⟩
    | [] =>
      let term := fun (sc : Int) (x : Num) => match x with
        | .fin n m e => (n, m, e + sc)
        | _ => (false, 0, 0)
      cellFinite (term 0 a :: prods.map (term scale))

/-- R165: the integer step and whether it clamped. -/
def clamp32 (v : Int) : W32 × Bool :=
  if v < -(2 ^ 31) then (0x8000_0000#32, true)
  else if 2 ^ 31 - 1 < v then (0x7FFF_FFFF#32, true)
  else (BitVec.ofInt 32 v, false)

def cellInt (acc : W32) (ps : List (Int × Int)) : W32 × Bool :=
  clamp32 (ps.foldl (fun s p => s + p.1 * p.2) acc.toInt)

/-! ### Rattle (R205) -/

def rattleRounds : Nat → Nat → Word → Word → Word × Word
  | 0, _, a, b => (a, b)
  | n + 1, i, a, b =>
    let a := a ^^^ (b + BitVec.ofNat 64 (i * 0x9E37_79B9_7F4A_7C15))
    let a := a * 0xBF58_476D_1CE4_E5B9#64
    let a := a ^^^ (a >>> 31)
    rattleRounds n (i + 1) a (b.rotateLeft 29 ^^^ a)

/-- R205. -/
def rattle (key counter : Word) : Word :=
  let r := rattleRounds 6 0 counter key
  r.1 ^^^ r.2.rotateLeft 17

/-- R205: the key of a slot. -/
def rattleKey (seed : Word) (domain tensorId : Nat) (attemptStep : Word) : Word :=
  rattle (rattle seed (BitVec.ofNat 64 (domain * 2 ^ 56 + tensorId % 2 ^ 56))) attemptStep

/-- R178: the word for the element at a destination byte address. -/
def stochWord (key : Word) (addr : Nat) : Word := rattle key (BitVec.ofNat 64 (addr / 2 % 2 ^ 47))

/-! ### Conversions (R177 to R182) -/

/-- A converted element: its code and the one count it adds to. -/
structure Cv where
  code : Nat
  sat : Bool := false
  fl : Bool := false
  nf : Bool := false
deriving DecidableEq, Repr

/-- R177, case 5 for the FP8 formats: rounding with the subnormal step; the flag says overflow. -/
def round8 (p : FmtPar) (maxK : Nat) (maxQ : Int) (mag : Nat) (exp : Int) : Nat × Int × Bool :=
  let q := max (flog2 mag exp) (1 - p.bias) - p.mbits
  let k := roundAt mag exp q
  (k, q, decide ((exactSum false maxK maxQ true k q).1 < 0))

/-- R177 and R178 for a destination of the floating formats; word feeds stochastic rounding of BF16. The source is
a value with its subnormal flag, and its FP32 pattern. -/
def narrow (dst ovf : Nat) (stoch : Bool) (word : Word) (x : Num × Bool) (pattern : Nat) : Cv :=
  let wide := dst = fmBf16 ∨ dst = fmFp16
  let par := if dst = fmBf16 then parBf16 else if dst = fmFp16 then parFp16
    else if dst = fmE4m3 ∨ dst = fmMx4m3 then parE4m3 else parE5m2
  let e4 := dst = fmE4m3 ∨ dst = fmMx4m3
  let sgn := fun (n : Bool) => if n then 2 ^ (par.ebits + par.mbits) else 0
  let infC := if dst = fmBf16 then 0x7F80 else if dst = fmFp16 then 0x7C00 else 0x7C
  let nanC := if dst = fmBf16 then 0x7FC0 else if dst = fmFp16 then 0x7E00 else 0x7F
  let maxC := if e4 then 0x7E else 0x7B
  match x with
  | (.nan, _) => { code := nanC, nf := true }
  | (.inf n, _) =>
    { code := if wide then sgn n + infC
              else if ovf = 0 then sgn n + maxC
              else if e4 then 0x7F else sgn n + 0x7C
      nf := true }
  | (.fin n m e, sub) =>
    if m = 0 then { code := sgn n, fl := sub }
    else if dst = fmBf16 then
      let mag := pattern % 2 ^ 31
      let y := if stoch then mag + (word.toNat % 2 ^ 16) else mag + 0x7FFF + mag / 2 ^ 16 % 2
      let c := y / 2 ^ 16
      if c / 2 ^ 7 % 2 ^ 8 = 0xFF then { code := sgn n + infC, nf := true } else { code := sgn n + c }
    else if dst = fmFp16 then
      let q := flog2 m e - 10
      let k := roundAt m e q
      let ee := flog2 k q
      if 15 < ee then { code := sgn n + infC, nf := true }
      else if ee < -14 then { code := sgn n, fl := true }
      else { code := encodeAt par n k q }
    else
      let (k, q, big) := round8 par (if e4 then 7 else 7) (if e4 then 6 else 13) m e
      if big then
        (if ovf = 0 then { code := sgn n + maxC, sat := true } else { code := 0x7F, nf := true })
      else if k = 0 then { code := sgn n, fl := true }
      else { code := encodeAt par n k q }

/-- R182: a store into the 1-bit format. -/
def toBit (x : Num × Bool) : Cv :=
  match x with
  | (.nan, _) => { code := 0, nf := true }
  | (.inf n, _) => { code := if n then 0 else 1, nf := true }
  | (.fin n m _, sub) => { code := if m ≠ 0 ∧ n = false then 1 else 0, fl := sub }

/-- R182: a load out of the 1-bit format, as the code of FP32, BF16 or E4M3. -/
def fromBit (dst code : Nat) : Nat :=
  if code = 0 then 0 else if dst = fmFp32 then 0x3F80_0000 else if dst = fmBf16 then 0x3F80 else 0x38

/-- R180, case 5 for an element format. -/
def mxElement (dst : Nat) (scale : Int) (x : Num) : Cv :=
  match x with
  | .fin n m e =>
    if m = 0 then { code := if n then (if dst = fmMx4 then 8 else 128) else 0 }
    else if dst = fmMx4 then
      let (k, q, big) := round8 ⟨2, 1, 1⟩ 3 1 m (e - scale)
      if big then { code := bit n * 8 + 7, sat := true }
      else if k = 0 then { code := bit n * 8, fl := true }
      else { code := encodeAt ⟨2, 1, 1⟩ n k q }
    else narrow dst 0 false 0 (.fin n m (e - scale), false) 0
  | _ => { code := 0 }

/-- R180: the scale and the elements of a block, with the counts. -/
def mxBlock (dst : Nat) (xs : List (Num × Bool)) : Nat × List Cv :=
  let bad := fun (x : Num × Bool) => match x.1 with
    | .fin _ _ _ => false
    | _ => true
  if xs.any bad then (0xFF, xs.map fun x => { code := 0, nf := bad x })
  else
    let logs := xs.filterMap fun x => match x.1 with
      | .fin _ m e => if m = 0 then none else some (flog2 m e)
      | _ => none
    let mark := fun (x : Num × Bool) (c : Cv) => { c with fl := c.fl || x.2 }
    match logs with
    | [] => (0, xs.map fun x => mark x (mxElement dst 0 x.1))
    | l :: ls =>
      let top := ls.foldl max l
      let emax : Int := if dst = fmMx4m3 then 8 else if dst = fmMx5m2 then 15 else 2
      let v := min 254 (max 0 (top - emax + 127))
      (v.toNat, xs.map fun x => mark x (mxElement dst (v - 127) x.1))

/-- R181: an MXFP4 element as E4M3. -/
def expandMx4 (code : Nat) : Nat :=
  (if bitOf code 3 then 0x80 else 0) +
  (match code % 8 with
  | 0 => 0x00
  | 1 => 0x30
  | 2 => 0x38
  | 3 => 0x3C
  | 4 => 0x40
  | 5 => 0x44
  | 6 => 0x48
  | _ => 0x4C)

/-- R195: an integer rounded to FP32, and an FP32 value rounded and clamped to INT32 (value, saturated, nonfinite). -/
def intToFp (i : Int) : W32 := (round32 (decide (i < 0)) i.natAbs 0).val

def fpToInt (x : Num) : W32 × Bool × Bool :=
  match x with
  | .nan => (0, false, true)
  | .inf n => (if n then 0x8000_0000#32 else 0x7FFF_FFFF#32, false, true)
  | .fin n m e =>
    let k := roundAt m e 0
    let r := clamp32 (if n then -(k : Int) else k)
    (r.1, r.2, false)

/-! ### Digests (R344) -/

/-- f of a line: the exclusive or of its sixteen words, word j rotated left by 4j. -/
def lineFold (bs : List Byte) : Word :=
  (List.range 16).foldl (fun f j => f ^^^ (BitVec.ofNat 64 (leNat ((bs.drop (8 * j)).take 8))).rotateLeft (4 * j)) 0

/-- What a line at byte offset o adds to a digest. -/
def lineDigest (o : Nat) (bs : List Byte) : Word := rattle (BitVec.ofNat 64 o) (lineFold bs)

/-- The digest of a range of lines of memory. -/
def rangeDigest (m : List Host.Cell) (base lines : Nat) : Word :=
  (List.range lines).foldl (fun d i => d ^^^ lineDigest (128 * i) (memReads m (base + 128 * i) 128)) 0

end Sys2Proof.Machine
end

