-- ==== Sys2Proof/Machine/Operands.lean ====
section
/-! DEFINITION. Operand forms of the tile's command words (04): the word at an address, its fields by class (R108 to
R120), operand descriptors (R104) and the patterns they describe (R105, R179). -/

namespace Sys2Proof.Machine

open Sys2Proof

/-! ### Words -/

/-- n bytes of instruction memory from a. -/
def imemBytes (im : Tbl Byte) : Nat → Nat → List Byte
  | _, 0 => []
  | a, n + 1 => tget 0 im a :: imemBytes im (a + 1) n

/-- The command word at a byte address (R97). -/
def wordAt (im : Tbl Byte) (a : Nat) : Nat := leNat (imemBytes im a 16)

/-- Field [lo + n − 1:lo] of a command word. -/
def fld (w lo n : Nat) : Nat := bitsOf w lo n

/-- Opcode (R101). -/
def opcodeOf (w : Nat) : Nat := fld w 0 8

/-- The opcodes in force (R101). -/
def opcodeInForce (op : Nat) : Bool :=
  (decide (op ≤ 0x05)) || op == 0x10 || op == 0x11 || (decide (0x20 ≤ op) && decide (op ≤ 0x23)) ||
  (decide (0x30 ≤ op) && decide (op ≤ 0x32)) || op == 0x40 || op == 0x41 ||
  (decide (0x50 ≤ op) && decide (op ≤ 0x59)) || (decide (0x60 ≤ op) && decide (op ≤ 0x62)) ||
  (decide (0x70 ≤ op) && decide (op ≤ 0x72))

/-- The bits of a word that are outside the listed fields (position, width). -/
def reservedClear (w : Nat) (fields : List (Nat × Nat)) : Bool :=
  (fields.foldl (fun m f => m - fld m f.1 f.2 * 2 ^ f.1) (w - fld w 0 8)) == 0

/-- The unit that executes a word (R102); none for CT. -/
def unitOf (w : Nat) : Option Nat :=
  match opcodeOf w / 16 with
  | 1 => some 5
  | 2 => some 6
  | 3 => some (2 + fld w 8 1)
  | 4 => some 0
  | 5 => some 1
  | 6 => some 4
  | 7 => some 7
  | _ => none

/-! ### Descriptors (R104) -/

/-- An operand descriptor. -/
structure Desc where
  base : Nat
  format : Nat
  flags : Nat
  rowBytes : Nat
  rows : Nat
  planes : Nat
  rowPitch : Int
  planePitch : Int
  strides : List Int
  signal : Nat
  tagRef : Nat
  redFlow : Nat
deriving DecidableEq, Repr

/-- The descriptor of 64 bytes. -/
def descOf (b : List Byte) : Desc where
  base := fieldAt b 0x00 6
  format := fieldAt b 0x06 1
  flags := fieldAt b 0x07 1
  rowBytes := fieldAt b 0x08 4
  rows := fieldAt b 0x0C 4
  planes := fieldAt b 0x10 4
  rowPitch := signedOf 32 (fieldAt b 0x14 4)
  planePitch := signedOf 64 (fieldAt b 0x18 8)
  strides := [signedOf 48 (fieldAt b 0x20 6), signedOf 48 (fieldAt b 0x26 6),
              signedOf 48 (fieldAt b 0x2C 6), signedOf 48 (fieldAt b 0x32 6)]
  signal := fieldAt b 0x38 2
  tagRef := fieldAt b 0x3A 2
  redFlow := fieldAt b 0x3C 4

/-- Descriptor i of a tile. -/
def descAt (im : Tbl Byte) (i : Nat) : Desc := descOf (imemBytes im (0x4_0000 + 64 * i) 64)

/-- The valid bit and the values that R104 and R107 allow; anything else raises ENCODING (R103; DEDUCED for the
ranges of the descriptor's own fields, log 28). -/
def Desc.ok (d : Desc) : Bool :=
  d.flags == 0x80 && decide (d.format ≤ 0x0B) && decide (16 ≤ d.rowBytes) && decide (d.rowBytes ≤ 0x10_0000) &&
  d.rowBytes % 16 == 0 && decide (1 ≤ d.rows) && decide (1 ≤ d.planes) && d.rowPitch % 16 == 0 &&
  d.planePitch % 16 == 0 && d.signal / 2 ^ 14 != 3 && d.redFlow / 2 ^ 18 % 2 ^ 13 == 0

/-- Loop displacement of R105. -/
def Desc.shift (d : Desc) (idx : List Nat) : Int :=
  (List.zipWith (fun (i : Nat) (s : Int) => (i : Int) * s) idx d.strides).foldl (· + ·) 0

/-- Address of row r of plane p (R105). -/
def Desc.rowAt (d : Desc) (idx : List Nat) (p r : Nat) : Int :=
  (d.base : Int) + p * d.planePitch + r * d.rowPitch + d.shift idx

/-- Address of pattern row q, planes first (R105). -/
def Desc.rowQ (d : Desc) (idx : List Nat) (q : Nat) : Int := d.rowAt idx (q / d.rows) (q % d.rows)

/-- Rows of the pattern. -/
def Desc.nRows (d : Desc) : Nat := d.rows * d.planes

/-- Bytes of a block of an MX format (R179). -/
def mxBlockBytes (f : Nat) : Nat := if f = fmMx4 then 16 else 32

/-- Scales of a row. -/
def Desc.scales (d : Desc) : Nat := if fmMx d.format then d.rowBytes / mxBlockBytes d.format else 0

/-- A number rounded up to a multiple of m. -/
def roundUp (n m : Nat) : Nat := (n + m - 1) / m * m

/-- Bytes that a row occupies, scales and pad included (R179). -/
def Desc.stored (d : Desc) (tier : Bool) : Nat :=
  if fmMx d.format then
    let n := d.rowBytes + roundUp d.scales 16
    if tier then roundUp n 128 else n
  else d.rowBytes

/-- Elements of a row (R173). -/
def Desc.perRow (d : Desc) : Nat := d.rowBytes * 8 / fmBits d.format

/-- Elements of the pattern. -/
def Desc.elements (d : Desc) : Nat := d.perRow * d.nRows

/-- Bytes of the pattern as stored. -/
def Desc.byteCount (d : Desc) (tier : Bool) : Nat := d.stored tier * d.nRows

/-- R179: row_pitch of an MX pattern leaves room for the stored row, and a row holds whole blocks. -/
def Desc.pitchOk (d : Desc) (tier : Bool) : Bool :=
  !fmMx d.format || (decide ((d.stored tier : Int) ≤ d.rowPitch) && d.rowBytes % mxBlockBytes d.format == 0)

/-- Address of stored byte k of the pattern. -/
def Desc.byteAt (d : Desc) (idx : List Nat) (tier : Bool) (k : Nat) : Nat :=
  (d.rowQ idx (k / d.stored tier) + (k % d.stored tier : Nat)).toNat

/-- Whether every row of the pattern satisfies a test of its address and stored length. -/
def Desc.allRows (d : Desc) (idx : List Nat) (tier : Bool) (test : Nat → Nat → Bool) : Bool :=
  (List.range d.nRows).all fun q =>
    let a := d.rowQ idx q
    decide (0 ≤ a) && test a.toNat (d.stored tier)

/-- The stored bytes of the pattern. -/
def Desc.read (d : Desc) (m : List Host.Cell) (idx : List Nat) (tier : Bool) : List Byte :=
  (List.range d.nRows).flatMap fun q => memReads m (d.rowQ idx q).toNat (d.stored tier)

/-- n bytes of the stored pattern from byte b on. -/
def Desc.part (d : Desc) (m : List Host.Cell) (idx : List Nat) (b n : Nat) : List Byte :=
  (List.range n).map fun k => memRead m (d.byteAt idx false (b + k))

/-- The elements of the pattern in blocks of some elements, block q as the memory of cycle first + step · q holds it. -/
def Desc.blocks (d : Desc) (mem : Nat → List Host.Cell) (idx : List Nat) (first step block : Nat) : List Byte :=
  (List.range ((d.elements + block - 1) / block)).flatMap fun q =>
    d.part (mem (first + step * q)) idx (block * q * fmBits d.format / 8)
      ((min block (d.elements - block * q) * fmBits d.format + 7) / 8)

/-- Code of element i of a byte string of packed elements. -/
def elemCode (f : Nat) (bs : List Byte) (i : Nat) : Nat :=
  let n := fmBits f
  if n < 8 then (bs.getD (i * n / 8) 0).toNat / 2 ^ (i * n % 8) % 2 ^ n else fieldAt bs (i * n / 8) (n / 8)

/-- Codes packed into bytes, least significant first. -/
def packCodes (f : Nat) (cs : List Nat) : List Byte :=
  let n := fmBits f
  if n < 8 then
    (List.range (cs.length * n / 8)).map fun b =>
      BitVec.ofNat 8 ((List.range (8 / n)).foldl (fun v j => v + cs.getD (b * (8 / n) + j) 0 % 2 ^ n * 2 ^ (j * n)) 0)
  else cs.flatMap fun c => leBytes (n / 8) c

/-- Banks of a tile's scratchpad that bytes a to a + n − 1 touch. -/
def banksOf (a n : Nat) : List Nat :=
  if n = 0 then []
  else
    let lo := (a - 0x400_0000_0000) % 0x100_0000 / 0x8_0000
    let hi := ((a + n - 1) - 0x400_0000_0000) % 0x100_0000 / 0x8_0000
    (List.range (hi + 1 - lo)).map (· + lo)

/-- The bank of an address. -/
def bankOf (a : Nat) : Nat := (a - 0x400_0000_0000) % 0x100_0000 / 0x8_0000

/-- Banks that the stored bytes b to b + n − 1 of a pattern touch. -/
def Desc.banks (d : Desc) (idx : List Nat) (tier : Bool) (b n : Nat) : List Nat :=
  if n = 0 then []
  else
    let w := d.stored tier
    ((List.range ((b + n - 1) / w + 1 - b / w)).flatMap fun i =>
      let q := b / w + i
      let lo := max b (q * w) - q * w
      banksOf ((d.rowQ idx q).toNat + lo) (min (b + n) ((q + 1) * w) - q * w - lo)).dedup

/-! ### VX operand selectors (R118) -/

/-- An operand selector. -/
inductive Sel where
  | stream (i : Nat)
  | hand (h : Nat)
  | rowCast (i : Nat)
  | colCast (i : Nat)
  | unused
  | reserved
deriving DecidableEq, Repr

def selOf (v : Nat) : Sel :=
  match v / 2 ^ 12 with
  | 0 => .stream (v % 2 ^ 12)
  | 1 => if v % 2 ^ 12 < 4 then .hand (v % 4) else .reserved
  | 2 => .rowCast (v % 2 ^ 12)
  | _ => if v % 2 ^ 12 = 0xFFF then .unused else .colCast (v % 2 ^ 12)

/-- The descriptor that a selector names. -/
def Sel.desc : Sel → Option Nat
  | .stream i => some i
  | .rowCast i => some i
  | .colCast i => some i
  | _ => none

/-- Fields of a VX word. -/
structure Vx where
  op : Nat
  func : Nat
  a : Sel
  b : Sel
  c : Sel
  d : Sel
  dRaw : Nat
  mask : Nat
  maskEn : Bool
  count : Bool
  entry : Nat
  rows : Nat
deriving DecidableEq, Repr

def vxOf (w : Nat) : Vx where
  op := opcodeOf w
  func := fld w 8 8
  a := selOf (fld w 16 14)
  b := selOf (fld w 32 14)
  c := selOf (fld w 48 14)
  d := selOf (fld w 64 14)
  dRaw := fld w 64 14
  mask := fld w 80 12
  maskEn := bitOf w 92
  count := bitOf w 93
  entry := fld w 96 8
  rows := fld w 104 24

/-- VX.KEY: function 0x80 | domain (R206). -/
def Vx.isKey (v : Vx) : Bool := v.op == 0x58 && decide (0x80 ≤ v.func)

/-- Reductions (R201, R202). -/
def Vx.isReduction (v : Vx) : Bool := v.op == 0x56

def Vx.isRowReduction (v : Vx) : Bool := v.op == 0x56 && decide (v.func < 4)

/-- VX.CMPR and VX.EXPD. -/
def Vx.isPack (v : Vx) : Bool := v.op == 0x57

/-- Whether the function reads operand a, b, c (R193); c of VX.EXPD is optional. -/
def Vx.uses (v : Vx) : Bool × Bool × Bool :=
  match v.op with
  | 0x50 => (true, true, false)
  | 0x51 => (true, true, true)
  | 0x52 => (true, false, false)
  | 0x53 => (true, true, false)
  | 0x54 => (true, true, true)
  | 0x55 => (true, false, false)
  | 0x56 => (true, false, false)
  | 0x57 => (true, false, v.func == 1 && v.c != .unused)
  | 0x58 => (decide (0x80 ≤ v.func) || v.func / 16 == 1, v.func / 16 == 1, false)
  | _ => if v.func < 4 then (true, true, false) else (true, false, false)

/-- Whether the function exists (R193). -/
def Vx.funcOk (v : Vx) : Bool :=
  match v.op with
  | 0x50 => decide (v.func ≤ 4)
  | 0x51 => decide (v.func ≤ 2)
  | 0x52 => decide (v.func ≤ 3)
  | 0x53 => decide (v.func ≤ 3)
  | 0x54 => decide (v.func = 0)
  | 0x55 => decide (v.func ≤ 5)
  | 0x56 => decide (v.func ≤ 6)
  | 0x57 => decide (v.func ≤ 1)
  | 0x58 => v.func == 0x81 || v.func == 0x82 || v.func == 0x84 || v.func == 0x85 ||
      (decide (1 ≤ v.func / 16) && decide (v.func / 16 ≤ 3) && decide (1 ≤ v.func % 16) && decide (v.func % 16 ≤ 7))
  | 0x59 => decide (v.func ≤ 5)
  | _ => false

/-- Whether the word's result is INT32 (R186). -/
def Vx.intResult (v : Vx) : Bool := v.op == 0x59 && v.func != 4

/-- Whether the word's operands are integers. -/
def Vx.intOperands (v : Vx) : Bool := v.op == 0x59 && v.func != 5

/-- The key slot that VX.DROP, VX.KEEP or VX.UNIF names. -/
def Vx.slot (v : Vx) : Option Nat := if v.op = 0x58 ∧ v.func < 0x80 then some (v.func % 16) else none

end Sys2Proof.Machine
end

