-- ==== Sys2Proof/Machine/Tile.lean ====
section
/-! DEFINITION. What the tile's units share: issue (R100, R103, R109), unit queues (R74), bank accesses (R45, R82,
R83), duty (R56), completion entries (R121), the after-mask of TK.SIGNAL (R80), and a tile's part in an abort. -/

namespace Sys2Proof.Machine

open Sys2Proof

/-! ### Parts of a tile -/

def Tile.unit (x : Tile) (u : Nat) : TUnit := tget {} x.units u
def Tile.modUnit (x : Tile) (u : Nat) (f : TUnit → TUnit) : Tile := { x with units := tmod {} x.units u f }

/-- Tile states of R127. -/
def tsNone : Nat := 0
def tsIssue : Nat := 1
def tsWait : Nat := 2
def tsEnding : Nat := 3
def tsEnded : Nat := 4
def tsAbort : Nat := 5

/-- Span time of a cycle of the scene. -/
def Tile.spanAt (x : Tile) (cycle : Nat) : Nat := 2 * (x.startCmp + cycle)

/-- Index of the open loop at a level, 0 where none is open (R105). -/
def loopIndex (ls : List Loop) (level : Nat) : Nat :=
  match ls.find? fun l => l.level == level with
  | some l => l.index
  | none => 0

/-- The four loop indices. -/
def Tile.idx (x : Tile) : List Nat := (List.range 4).map (loopIndex x.loops)

/-- The word at pc. -/
def Tile.word (x : Tile) : Nat := wordAt x.imem x.pc

/-- Whether pc lies in the command area (R100). -/
def Tile.pcOk (x : Tile) : Bool := decide (x.pc ≤ 0x3_FFF0)

/-- Whether the sequencer can issue: it is issuing, not held for a full queue and not halted at a malformed word. -/
def Tile.canIssue (x : Tile) : Bool := x.state == tsIssue && x.held == none && !x.halted

/-- R109: where issue goes after the word at pc: the innermost body repeats, or closes and the next one out is
looked at. Loops are innermost first; last is the address after the body. -/
def nextPc (pc : Nat) : List Loop → Nat × List Loop
  | [] => (pc + 16, [])
  | l :: ls =>
    if pc + 16 = l.last then
      (if l.index + 1 < l.count then (l.first, { l with index := l.index + 1 } :: ls) else nextPc pc ls)
    else (pc + 16, l :: ls)

/-- The loops stand as given from the sequencer's next cycle; a change of the indices is kept (R109). -/
def Tile.setLoops (x : Tile) (ls : List Loop) : Tile :=
  if ls = x.loops then x
  else { x with loops := ls, idxLog := (x.cycle + 1, (List.range 4).map (loopIndex ls)) :: x.idxLog }

/-- The loop indices in a cycle (R109, R173). -/
def Tile.idxAt (x : Tile) (cycle : Nat) : List Nat :=
  match x.idxLog.find? fun e => decide (e.1 ≤ cycle) with
  | some e => e.2
  | none => [0, 0, 0, 0]

/-- The sequencer moves past the word at pc. -/
def Tile.advance (x : Tile) (cycles : Nat) : Tile :=
  let n := nextPc x.pc x.loops
  { x.setLoops n.2 with pc := n.1, cycle := x.cycle + cycles }

/-- The sequencer has issued every word that issues before a cycle, or can issue none now (R75: what starts in a cycle
depends on the words issued before it). -/
def Tile.reached (x : Tile) (cycle : Nat) : Bool := !x.canIssue || decide (x.cycle ≥ cycle)

/-- The last cycle for which the windows of the scene are known: no word is to come that could change them earlier. -/
def Tile.knownTo (x : Tile) : Nat := if x.state = tsIssue ∨ x.state = tsWait then x.cycle else 2 ^ 64

/-- Entries of a unit's queue (R74). -/
def queueDepth : Nat := 8

/-- Entries of a unit's queue that are occupied in a cycle: a command holds its entry up to the cycle of its start. -/
def TUnit.occupied (q : TUnit) (cycle : Nat) : Nat := q.queue.length + q.starts.countP fun c => decide (cycle ≤ c)

/-- Whether a unit's queue is full in the cycle of the next issue. -/
def Tile.full (x : Tile) (u : Nat) : Bool := decide (queueDepth ≤ (x.unit u).occupied x.cycle)

/-- The first cycle in which a queue that holds fewer than eight waiting commands has an entry free. -/
def TUnit.roomFrom (q : TUnit) : Nat :=
  match q.starts[queueDepth - 1 - q.queue.length]? with
  | some c => c + 1
  | none => 0

/-- m commands at the head of a queue start in a cycle. -/
def TUnit.started (q : TUnit) (m start : Nat) : TUnit :=
  { q with queue := q.queue.drop m, lastStart := start, starts := (List.replicate m start ++ q.starts).take queueDepth }

/-- The word at pc as a command. Bit 8 of an MM word names its bank. -/
def Tile.asCmd (x : Tile) : Cmd :=
  { word := BitVec.ofNat 128 x.word, addr := x.pc, seq := x.nextSeq, issue := x.cycle, idx := x.idx
    kind := tget 0 x.accKind (fld x.word 8 1) }

/-- The word at pc handed to a unit's queue (R73, R101). -/
def Tile.push (x : Tile) (u : Nat) : Tile :=
  ({ x with nextSeq := x.nextSeq + 1 }.modUnit u fun q => { q with queue := q.queue ++ [x.asCmd] }).advance 1

/-! ### Bank accesses -/

/-- The cycles of an access. -/
def BankUse.cycles (u : BankUse) : List Nat := (List.range u.count).map fun i => u.first + i * u.step

/-- The last cycle of an access. -/
def BankUse.last (u : BankUse) : Nat := u.first + (u.count - 1) * u.step

/-- Whether an access falls in a cycle. -/
def BankUse.hits (u : BankUse) (cycle : Nat) : Bool :=
  decide (0 < u.count) && decide (u.first ≤ cycle) && decide (cycle ≤ u.last) && (cycle - u.first) % max u.step 1 == 0

/-- R82, R191: two accesses clash in a cycle of both when they are of one bank, by different ports or both by the
vector-engine read port. -/
def usesClash (a b : BankUse) (cycle : Nat) : Bool := a.bank == b.bank && (a.port != b.port || a.port == 2) && b.hits cycle

/-- R83: whether a window holds a bank in a cycle of the scene. -/
def Tile.windowAt (x : Tile) (bank cycle : Nat) : Bool :=
  match x.winLog.find? fun e => decide (e.2.2 ≤ cycle) && e.1.testBit bank with
  | some e => e.2.1
  | none => false

/-- R45, R82, R83, R88: the first violation of each kind that an access commits in the cycles lo to hi, where the
accesses of before were named earlier. Of two that clash the later named is the command involved (DESIGN CHOICE,
log 126). -/
def useBreaches (i : Image) (t : Nat) (x : Tile) (before : List (BankUse × Nat)) (e : BankUse × Nat) (lo hi : Nat) :
    List Breach :=
  let u := e.1
  let cs := if hi < u.first ∨ u.last < lo then [] else u.cycles.filter fun c => decide (lo ≤ c) && decide (c ≤ hi)
  let rivals := before.filter fun v => v.1.bank == u.bank && decide (v.1.first ≤ u.last) && decide (u.first ≤ v.1.last)
  let one := fun (code : Nat) (test : Nat → Bool) => ((cs.find? test).map fun c => (⟨c, code, u.seq, e.2, u.bank⟩ : Breach)).toList
  (if rivals.isEmpty then [] else one fcBankClash fun c => rivals.any fun v => usesClash u v.1 c) ++
  (if i.bound t u.bank u.port then [] else one fcBankDenied fun _ => true) ++
  one fcWindow (x.windowAt u.bank)

/-- The violations of the accesses from the k-th on, in the cycles lo to hi. -/
def breachesFrom (i : Image) (t : Nat) (x : Tile) (us : List (BankUse × Nat)) (k lo hi : Nat) : List Breach :=
  ((us.zipIdx.drop k).flatMap fun e => useBreaches i t x (us.take e.2) e.1 lo hi)

/-- Violations are raised in the order of their cycles, then of their codes (R90). -/
def raiseBreaches (t : Nat) (bs : List Breach) (s : State) : State :=
  (bs.insertionSort fun a b => 256 * a.cycle + a.code ≤ 256 * b.cycle + b.code).foldl
    (fun s b => tileFaultAt t b.cycle b.seq b.addr b.code b.info0 s) s

/-- Violations found beforehand are raised when the sequencer has reached their cycles. -/
def raiseDues (t : Nat) (bs : List Breach) (s : State) : State :=
  let x := s.tile t
  let all := x.dues ++ bs
  raiseBreaches t (all.filter fun b => decide (b.cycle ≤ x.knownTo))
    (s.modTile t fun x => { x with dues := all.filter fun b => decide (x.knownTo < b.cycle) })

/-- The violations of the cycles after lo, up to hi, in which the tile's windows are now known: bank accesses and the
duty that falls due (R56, R88). -/
def judge (t lo hi : Nat) (s : State) : State :=
  if hi ≤ lo then s
  else
    let x := s.tile t
    raiseDues t [] (raiseBreaches t (breachesFrom s.image t x x.uses 0 (lo + 1) hi) s)

/-- The sequencer of tile t stood at cycle lo and has moved on: what the cycles since then hold is judged. -/
def judgeOn (t lo : Nat) (s : State) : State := judge t lo (s.tile t).knownTo s

/-- R45, R82, R83, R91: accesses by local ports for commands that start, or lines that land, in a cycle. Where one of
them breaks a rule in that cycle, the faults are raised, none of the accesses is made and the answer is false; what they
break in later cycles is raised in those cycles. -/
def useBanks (t start : Nat) (us : List (BankUse × Nat)) (s : State) : State × Bool :=
  let x := s.tile t
  let all := x.uses ++ us
  match breachesFrom s.image t x all x.uses.length 0 start with
  | [] =>
    let s := s.modTile t fun x => { x with uses := all }
    (raiseBreaches t (breachesFrom s.image t x all x.uses.length (start + 1) x.knownTo) s, true)
  | bs => (raiseBreaches t bs s, false)

/-! ### Duty (R56) -/

/-- An interval added to the active ones, latest first; one that meets the latest joins it. -/
def addActive (l : List (Nat × Nat)) (a b : Nat) : List (Nat × Nat) :=
  match l with
  | (x, y) :: t => if a ≤ y + 1 then (min x a, max y b) :: t else (a, b) :: (x, y) :: t
  | [] => [(a, b)]

/-- Active cycles of frame f. -/
def activeIn (l : List (Nat × Nat)) (f : Nat) : Nat :=
  (l.map fun p => min p.2 (2000 * f + 1999) + 1 - max p.1 (2000 * f)).sum

/-- The intervals of kind 0, the arrays, or 1, the vector engine. -/
def Tile.active (x : Tile) (kind : Nat) : List (Nat × Nat) := if kind = 0 then x.arrayActive else x.vectorActive

/-- R56: the frames, each with its first cycle beyond the cap, that the new active cycles a to b take beyond it. -/
def dutyExcess (old : List (Nat × Nat)) (cap a b : Nat) : List (Nat × Nat) :=
  let a' := match old with
    | p :: _ => max a (p.2 + 1)
    | [] => a
  (List.range (b / 2000 + 1 - a' / 2000)).filterMap fun i =>
    let f := a' / 2000 + i
    let c := max a' (2000 * f) + (cap - activeIn old f)
    if c ≤ min b (2000 * f + 1999) then some (f, c) else none

/-- R56: a command makes the cycles a to b of the scene active; DUTY is raised once for each frame whose count goes
beyond the cap, in the first cycle beyond it. -/
def duty (t kind a b seq addr : Nat) (s : State) : State :=
  if b < a then s
  else
    let x := s.tile t
    let lo := x.startCmp + a
    let hi := x.startCmp + b
    let caps := ((s.image.unitTroupe t).map s.image.powerOf).map fun p => if kind = 0 then p.arrayCap else p.vectorCap
    let news : List (Nat × Nat) := match caps with
      | some cap => (dutyExcess (x.active kind) cap lo hi).filter fun e => !x.dutyRaised.contains (2 * e.1 + kind)
      | none => []
    let s := s.modTile t fun x =>
      { (if kind = 0 then { x with arrayActive := addActive x.arrayActive lo hi }
         else { x with vectorActive := addActive x.vectorActive lo hi }) with
        dutyRaised := x.dutyRaised ++ news.map fun e => 2 * e.1 + kind }
    raiseDues t (news.map fun e => ⟨e.2 - x.startCmp, fcDuty, seq, addr, 0⟩) s

/-! ### Issue -/

/-- R103: the word at pc is malformed; the sequencer raises ENCODING and halts at it. -/
def encodingFault (t : Nat) (s : State) : State :=
  let x := s.tile t
  (tileFault t x.nextSeq x.pc fcEncoding 0 s).modTile t fun x => { x with halted := true }

/-- R189: a CT word may not issue while a chain is open. -/
def breaksChain (x : Tile) (w : Nat) : Bool := opcodeOf w / 16 == 0 && !x.vec.chain.isEmpty

/-- The event "tile t's sequencer issues the word at pc", for a word that a row's sel picks. A word for a full queue
holds issue (R74); a malformed word raises ENCODING (R103); any other acts. -/
def issueWord (t : Nat) (sel : Nat → Bool) (unit : Option Nat) (wellFormed : Tile → Nat → Bool)
    (act : Nat → State → State) (s : State) : Host.Outcome State Fault Refusal :=
  let x := s.tile t
  event s (x.canIssue && x.pcOk && sel x.word) fun s =>
    match unit with
    | some u =>
      if x.full u then s.modTile t fun x => { x with held := some u }
      else if !wellFormed x x.word then encodingFault t s
      else judgeOn t x.cycle (act x.word s)
    | none =>
      if breaksChain x x.word || !wellFormed x x.word then encodingFault t s else judgeOn t x.cycle (act x.word s)

/-- The action of a word that its unit's queue takes and nothing else. -/
def pushTo (t u : Nat) (_w : Nat) (s : State) : State := s.modTile t fun x => x.push u

/-! ### Completion entries -/

/-- R121, R122: the counts of a counted command that unit u finishes in a cycle. A sealed table is final (R125). -/
def countInto (t entry addr u cycle : Nat) (c : Counts) (s : State) : State :=
  s.modTile t fun x => if x.sealed then x else { x with adds := x.adds ++ [⟨entry, cycle, u, addr, c⟩] }

/-! ### Finishing, and the signals that wait for it (R80) -/

/-- Whether a unit has an unfinished command issued before number seq. -/
def Tile.unfinished (x : Tile) (u seq : Nat) : Bool :=
  (x.unit u).queue.any (fun c => decide (c.seq < seq)) ||
  (x.unit u).running.any (fun r => decide (r.cmd.seq < seq) || r.links.any fun l => decide (l.1.seq < seq)) ||
  (u == 4 && x.gate.fills.any fun f => decide (f.seq < seq))

/-- Whether the after-mask of a started TK.SIGNAL is satisfied. -/
def Tile.maskDone (x : Tile) (r : Run) : Bool :=
  (List.range 8).all fun u => !bitOf (fld r.cmd.word.toNat 8 8) u || !x.unfinished u r.cmd.seq

/-- A TK.SIGNAL is sent in cycle r.done (R73): a tile channel's count is visible two cycles later. -/
def sendTk (t : Nat) (r : Run) (s : State) : State :=
  let w := r.cmd.word.toNat
  if fld w 16 2 = 0 then signalTile t (fld w 32 16) (fld w 64 32) (r.done + 2) (r.done + 2) r.cmd.addr r.cmd.seq s
  else sendSignal t (fld w 32 16) (fld w 64 32) ((s.tile t).spanAt r.done) r.cmd.addr s

/-- Sends every started TK.SIGNAL whose after-mask is satisfied. -/
def pumpSignals (t : Nat) (s : State) : State :=
  (((s.tile t).unit 5).running).foldl (fun s r =>
    if (s.tile t).maskDone r then
      sendTk t r (s.modTile t fun x => x.modUnit 5 fun q => { q with running := q.running.filter fun y => y.cmd.seq != r.cmd.seq })
    else s) s

/-- A command of a unit has finished in a cycle: signals that wait for it are no earlier, and those whose mask is now
satisfied are sent. -/
def finished (t u seq cycle : Nat) (s : State) : State :=
  let hold := fun (r : Run) =>
    if bitOf (fld r.cmd.word.toNat 8 8) u && decide (seq < r.cmd.seq) then { r with done := max r.done cycle } else r
  let later := fun (q : TUnit) => { q with running := q.running.map hold }
  pumpSignals t (s.modTile t fun x => { x.modUnit 5 later with lastDone := max x.lastDone cycle })

/-- The signal of a mover's destination descriptor (R106): kind 1 a tile channel, kind 2 a device-wide channel. -/
def descSignal (t signal lo hi addr seq : Nat) (s : State) : State :=
  if signal / 2 ^ 14 = 1 then signalTile t (signal % 256) 1 lo hi addr seq s
  else if signal / 2 ^ 14 = 2 then sendSignal t (signal % 2 ^ 14) 1 ((s.tile t).spanAt lo) addr s
  else s

/-- Takes the head of a unit's queue, which starts in cycle start and occupies the unit to the cycle before free. -/
def Tile.takeHead (x : Tile) (u start free : Nat) : Tile :=
  x.modUnit u fun q => { q.started 1 start with freeAt := free }

/-- The cycle in which the head of a unit's queue starts (R73). -/
def TUnit.startOf (q : TUnit) (c : Cmd) : Nat := max (c.issue + 2) q.freeAt

/-- Slot 0's key in a cycle (R206). -/
def keyAt (ks : List (Nat × Word)) (cycle : Nat) : Word :=
  ks.foldl (fun k p => if p.1 ≤ cycle then p.2 else k) 0

/-- The first running command of a unit with an opcode. -/
def Tile.runOf (x : Tile) (u op : Nat) : Option Run := (x.unit u).running.find? fun r => opcodeOf r.cmd.word.toNat == op

/-- A running command leaves its unit. -/
def Tile.dropRun (x : Tile) (u seq : Nat) : Tile :=
  x.modUnit u fun q => { q with running := q.running.filter fun r => r.cmd.seq != seq }

/-! ### The tile and its scene -/

/-- TILE_CYCLES (R129): the cycles since the scene start, up to the scene's end; 0 before the first scene. -/
def Tile.cyclesNow (x : Tile) (span : Nat) : Nat :=
  if x.state = tsNone ∧ x.endCycle = none then 0 else x.endCycle.getD (span / 2 - x.startCmp)

/-- Every queue is empty and every command has finished (R111). -/
def Tile.quiet (x : Tile) : Bool :=
  (List.range 8).all (fun u => (x.unit u).queue.isEmpty && (x.unit u).running.isEmpty) && x.gate.fills.isEmpty

/-- R91, steps 2 and 3: the abort notice reaches a tile. Issue stops, waits and queued commands are dropped, lines
that have taken no slot and unsent signals are discarded; started commands, copies of fills among them, run on. Loops
stay open, since a loop closes only at its count (R109) and at a scene start (R99). -/
def Tile.abort (x : Tile) : Tile :=
  { x with
    state := tsAbort, held := none
    vec := { x.vec with chain := [] }
    units := x.units.map fun (u, q) => (u, { q with
      queue := []
      running := if u = 5 then [] else
        (q.running.map fun r => { r with
          lines := r.lines.filter fun l => decide (0 < l.stage)
          cut := r.lines.any fun l => l.stage == 0 }) }) }

/-- The abort notice reaches tile t; what its windows leave open is settled. -/
def abortTile (t : Nat) (s : State) : State := judgeOn t (s.tile t).cycle (s.modTile t Tile.abort)

end Sys2Proof.Machine
end

