-- ==== Sys2Proof/Machine/Special.lean ====
section
/-! DEFINITION. The special functions of family 0x55 (R203): the bits of a result are free within the bound that R203
gives. The exact result is enclosed in integer arithmetic, far more closely than the bound. -/

namespace Sys2Proof.Machine

open Sys2Proof

/-- An interval of exact values: lo × 2^exp to hi × 2^exp. -/
structure Span where
  lo : Int
  hi : Int
  exp : Int
deriving DecidableEq, Repr

/-- The interval of the negated values. -/
def Span.neg (s : Span) : Span := ⟨-s.hi, -s.lo, s.exp⟩

/-- The interval for a sign. -/
def Span.signed (s : Span) (n : Bool) : Span := if n then s.neg else s

/-- The interval widened by a distance in units of 2^exp. -/
def Span.within (s : Span) (d : Nat) : Span := ⟨s.lo - d, s.hi + d, s.exp⟩

/-- The ulp of the interval's smallest magnitude, in units of 2^exp: that of the exact result, which lies below a power
of two where the interval reaches one; results that are powers of two are enclosed exactly. -/
def Span.ulp (s : Span) : Nat := 2 ^ ((min s.lo.natAbs s.hi.natAbs).log2 - 23)

/-- The interval widened by n ulps. -/
def Span.ulps (s : Span) (n : Nat) : Span := s.within (n * s.ulp)

/-- Whether a × 2^ae is at most b × 2^be. -/
def scaledLe (a ae b be : Int) : Bool :=
  let e := min ae be
  decide (a * 2 ^ (ae - e).toNat ≤ b * 2 ^ (be - e).toNat)

/-- Whether an FP32 pattern, subnormals taken at their value, lies in the interval. -/
def Span.holds (s : Span) (r : W32) : Bool :=
  match ieeeOf parFp32 r.toNat with
  | .fin n m e =>
    let v : Int := if n then -(m : Int) else m
    scaledLe s.lo s.exp v e && scaledLe v e s.hi s.exp
  | _ => false

/-! ### Enclosures -/

/-- Newton's steps down to the integer square root. -/
def isqrtGo : Nat → Nat → Nat → Nat
  | 0, _, r => r
  | f + 1, n, r =>
    let q := (r + n / r) / 2
    if q < r then isqrtGo f n q else r

/-- The integer square root of a number below 2^400. -/
def isqrt (n : Nat) : Nat := if n = 0 then 0 else isqrtGo 400 n (2 ^ (n.log2 / 2 + 1))

/-- The product of the roots of 2 that the bits of a fraction name: bit n − 1 downwards, c the root before. -/
def pow2Go : Nat → Nat → Nat → Nat → Nat
  | 0, _, _, acc => acc
  | n + 1, c, f, acc =>
    let c := isqrt (c * 2 ^ 80)
    pow2Go n c f (if f.testBit n then acc * c / 2 ^ 80 else acc)

/-- 2 to the power v × 2^−64, as a value in [1, 2) with 80 fraction bits and a power of two; right to 2^−60. -/
def pow2Of (v : Int) : Nat × Int := (pow2Go 64 (2 ^ 81) (v % 2 ^ 64).toNat (2 ^ 80), v / 2 ^ 64)

/-- A magnitude in units of 2^−64, cut off. -/
def fixed64 (m : Nat) (e : Int) : Nat := if 0 ≤ e + 64 then m * 2 ^ (e + 64).toNat else m / 2 ^ (-(e + 64)).toNat

/-- 2 to the power x. -/
def exp2Span (n : Bool) (m : Nat) (e : Int) : Span :=
  let v : Int := fixed64 m e
  let p := pow2Of (if n then -v else v)
  Span.within ⟨p.1, p.1, p.2 - 80⟩ (if v % 2 ^ 64 = 0 ∧ 0 ≤ e + 64 then 0 else 2 ^ 20)

/-- The first bits of a binary logarithm of z, a value in [1, 2) with 80 fraction bits. -/
def log2Go : Nat → Nat → Nat → Nat
  | 0, _, acc => acc
  | n + 1, z, acc =>
    let q := z * z / 2 ^ 80
    if 2 ^ 81 ≤ q then log2Go n (q / 2) (2 * acc + 1) else log2Go n q (2 * acc)

/-- The binary logarithm of m × 2^e, where m has 24 bits. -/
def log2Span (m : Nat) (e : Int) : Span :=
  let l : Int := (e + 23) * 2 ^ 64 + log2Go 64 (m * 2 ^ 57) 0
  Span.within ⟨l, l, -64⟩ (if m = 2 ^ 23 then 0 else 2 ^ 10)

/-- 1 ÷ (m × 2^e). -/
def rcpSpan (m : Nat) (e : Int) : Span :=
  let q : Nat := (2 ^ 110 / m : Nat)
  ⟨q, if 2 ^ 110 % m = 0 then q else q + 1, -110 - e⟩

/-- 1 ÷ √(m × 2^e). -/
def rsqrtSpan (m : Nat) (e : Int) : Span :=
  let odd := e % 2
  let r : Nat := isqrt (2 ^ 160 / (m * 2 ^ odd.toNat))
  ⟨r, if r * r * (m * 2 ^ odd.toNat) = 2 ^ 160 then r else r + 2, -80 - (e - odd) / 2⟩

/-- x − x³ ÷ 3 times 2^96, and the same with k tenths of x^5 at most added, for x = m × 2^e below 2^−12: a factor of x. -/
def cubic (m k : Nat) (e : Int) : Nat × Nat :=
  let q : Nat := m * m * 2 ^ (2 * e + 196).toNat / 2 ^ 100
  let lo : Nat := 2 ^ 96 - (q + 2) / 3 - 1
  (lo, lo + 2 + (q + 1) * (q + 1) * k / 10 / 2 ^ 96 + 1)

/-- tanh of m × 2^e, where m has 24 bits: by (1 − t) ÷ (1 + t) with t the power −2x of e. 0x1_7154_… is log2 e. -/
def tanhSpan (m : Nat) (e : Int) : Span :=
  let k := flog2 m e
  if k < -49 then ⟨m * 2 ^ 96 - m, m * 2 ^ 96, e - 96⟩
  else if k < -12 then
    let c := cubic m 2 e
    ⟨m * c.1, m * c.2, e - 96⟩
  else if 5 ≤ k then ⟨2 ^ 64 - 1, 2 ^ 64, -64⟩
  else
    let w : Nat := m * 2 ^ (e + 40).toNat * 0x1_7154_7652_B82F_E177_7D0F_FDA0 / 2 ^ 71
    let p := pow2Of (-(w : Int))
    let t := p.1 / 2 ^ (-p.2).toNat
    let y := fun (t : Nat) => ((2 ^ 80 - t) * 2 ^ 80 / (2 ^ 80 + t) : Nat)
    ⟨y (t + 2 ^ 20), y (t - 2 ^ 20) + 1, -80⟩

/-- The alternating series of erf at x, squares and terms with 128 fraction bits. -/
def erfGo : Nat → Nat → Nat → Nat → Int → Int
  | 0, _, _, _, sum => sum
  | f + 1, n, x2, term, sum =>
    let t : Int := (term / (2 * n + 1) : Nat)
    erfGo f (n + 1) x2 (term * x2 / 2 ^ 128 / (n + 1)) (if n % 2 = 0 then sum + t else sum - t)

/-- 2 ÷ √π with 128 fraction bits. -/
def twoOverRootPi : Nat := 0x1_20DD_7504_29B6_D11A_E3A9_14FE_D7FD_8688

/-- erf of m × 2^e, where m has 24 bits. -/
def erfSpan (m : Nat) (e : Int) : Span :=
  let k := flog2 m e
  if k < -49 then ⟨m * twoOverRootPi - m * 2 ^ 32, m * (twoOverRootPi + 1), e - 128⟩
  else if k < -12 then
    let c := cubic m 1 e
    ⟨m * twoOverRootPi * c.1, m * (twoOverRootPi + 1) * c.2, e - 224⟩
  else if !numLt (.fin false m e) (.fin false 5 0) then ⟨2 ^ 64 - 28_400_000, 2 ^ 64, -64⟩
  else
    let x : Nat := m * 2 ^ (e + 40).toNat
    let y := erfGo 110 0 (x * x * 2 ^ 48) (x * 2 ^ 88) 0 * twoOverRootPi / 2 ^ 128
    Span.within ⟨y, y, -128⟩ (2 ^ 46)

/-! ### Lanes -/

/-- A lane's result: its value, whether it clamped, was flushed, or is non-finite from finite operands. -/
structure Lane where
  val : W32
  sat : Bool := false
  fl : Bool := false
  nf : Bool := false
deriving DecidableEq, Repr

/-- A result that the spec leaves open: below 2^−126 it is flushed (R203). -/
def laneOpen (r : W32) : Lane :=
  if isNan32 r then { val := nan32, nf := true }
  else if isInf32 r then { val := r, nf := true }
  else { val := canon32 r, fl := (num32 r).2 }

/-- A free result r where it lies in the interval that R203 allows; elsewhere the interval's middle stands for it. -/
def laneIn (s : Span) (r : W32) : Lane :=
  if s.holds r then laneOpen r
  else
    let mid := (s.lo + s.hi) / 2
    let q := round32 (decide (mid < 0)) mid.natAbs s.exp
    { val := q.val, fl := q.flushed }

/-- VX.LOG2's interval: an absolute error of 2^−24 for inputs from 0.5 to 2, else an ulp (R203). -/
def log2Allowed (m : Nat) (e : Int) : Span :=
  let s := log2Span m e
  if !numLt (.fin false m e) (.fin false 1 (-1)) && !numLt (.fin false 2 0) (.fin false m e) then s.within (2 ^ 40) else s.ulps 1

/-- R203: the special inputs of each function; any other input goes to the opaque function, held to its bound. An
exponential or a reciprocal below 2^−126 is flushed. The bounds are for normal inputs: of a zero, R203 gives no result
of VX.EXP2, VX.TANH and VX.ERF. -/
def laneSpecial (func : Nat) (a : W32) : Lane :=
  match (num32 a).1 with
  | .nan => { val := nan32 }
  | .inf n =>
    match func with
    | 0 => { val := if n then 0 else inf32 false }
    | 1 => { val := if n then nan32 else inf32 false }
    | 2 => { val := zero32 n }
    | 3 => { val := if n then nan32 else 0 }
    | _ => { val := if n then 0xBF80_0000#32 else 0x3F80_0000#32 }
  | .fin n m e =>
    match func with
    | 0 =>
      if m = 0 then laneOpen (Config.exp2 (canon32 a))
      else if !numLt (.fin n m e) (.fin false 128 0) then { val := inf32 false, nf := true }
      else if !numLt (.fin true 127 0) (.fin n m e) then { val := 0, fl := true }
      else laneIn ((exp2Span n m e).ulps 1) (Config.exp2 a)
    | 1 =>
      if m = 0 then { val := inf32 true, nf := true }
      else if n then { val := nan32, nf := true } else laneIn (log2Allowed m e) (Config.log2 a)
    | 2 =>
      if m = 0 then { val := inf32 n, nf := true }
      else if !numLt (.fin false m e) (.fin false 1 127) then { val := zero32 n, fl := true }
      else laneIn (((rcpSpan m e).ulps 1).signed n) (Config.rcp a)
    | 3 =>
      if m = 0 then { val := inf32 n, nf := true }
      else if n then { val := nan32, nf := true } else laneIn ((rsqrtSpan m e).ulps 1) (Config.rsqrt a)
    | 4 =>
      if m = 0 then laneOpen (Config.tanh (canon32 a))
      else laneIn (((tanhSpan m e).ulps 2).signed n) (Config.tanh a)
    | _ =>
      if m = 0 then laneOpen (Config.erf (canon32 a))
      else laneIn (((erfSpan m e).ulps 2).signed n) (Config.erf a)

end Sys2Proof.Machine
end

