-- ==== Sys2Proof/Machine/Lanes.lean ====
section
/-! DEFINITION. What a chain of the vector engine computes (08): lane functions, operands and masks, reductions,
compress and expand, the counts of R204 and the store conversion of R187. Memory is a function of the cycle: each row is
read in its own (R191). -/

namespace Sys2Proof.Machine

open Sys2Proof

/-- A result element of a vector chain: its position in the result's pattern, the cycle in which it is written (R190),
its value, and whether an operand element of it was counted as non-finite (R204). -/
structure VxOut where
  elem : Nat
  cycle : Nat
  val : W32
  bad : Bool := false
  /-- Its lane is active. -/
  live : Bool := true
deriving DecidableEq, Repr

/-! ### Lane arithmetic (R193 to R195, R203) -/

/-- A result of R168 on operands. -/
def laneFr (ops : List W32) (r : Fr) : Lane :=
  { val := r.val, fl := r.flushed, nf := nonFin32 r.val && ops.all fun x => !nonFin32 x }

/-- 1.0 or +0. -/
def one32 (b : Bool) : W32 := if b then 0x3F80_0000#32 else 0

/-- R195. -/
def laneInt (func : Nat) (a b : W32) : Lane :=
  match func with
  | 0 => let r := clamp32 (a.toInt + b.toInt); { val := r.1, sat := r.2 }
  | 1 => let r := clamp32 (a.toInt - b.toInt); { val := r.1, sat := r.2 }
  | 2 => { val := if a.toInt < b.toInt then b else a }
  | 3 => { val := if b.toInt < a.toInt then b else a }
  | 4 => { val := intToFp a.toInt }
  | _ => let r := fpToInt (num32 a).1; { val := r.1, sat := r.2.1 }

/-- R207: the word that element i of a command draws under a slot, and whether the element is kept. -/
def slotWord (k : KeySlot) (i : Nat) : Word := rattle k.key (BitVec.ofNat 64 (k.origin + i))
def wordTop (w : Word) : Nat := w.toNat / 2 ^ 40 % 2 ^ 24
def slotKeeps (k : KeySlot) (i : Nat) : Bool := decide (k.threshold ≤ wordTop (slotWord k i))

/-- The function of a link on one active lane, for element i of the command under key slot k (R193, R194). -/
def laneOp (v : Vx) (k : KeySlot) (i : Nat) (a b c : W32) : Lane :=
  match v.op with
  | 0x50 =>
    (match v.func with
    | 0 => laneFr [a, b] (fAdd a b)
    | 1 => laneFr [a, b] (fSub a b)
    | 2 => laneFr [a, b] (fMul a b)
    | 3 => { val := fMax a b }
    | _ => { val := fMin a b })
  | 0x51 =>
    laneFr [a, b, c] (match v.func with
    | 0 => fFma a b c
    | 1 => fFms a b c
    | _ => fFnma a b c)
  | 0x52 =>
    { val := if isNan32 a then nan32
        else match v.func with
          | 0 => canon32 a
          | 1 => canon32 a ^^^ 0x8000_0000#32
          | 2 => canon32 a &&& 0x7FFF_FFFF#32
          | _ => if a.msb then 0 else canon32 a }
  | 0x53 =>
    let x := (num32 a).1
    let y := (num32 b).1
    let nan := isNan32 a || isNan32 b
    { val := one32 (match v.func with
        | 0 => !nan && numLt y x
        | 1 => !nan && !numLt x y
        | 2 => numEq x y
        | _ => !numEq x y) }
  | 0x54 => { val := if !isNan32 c && numLt (.fin false 0 0) (num32 c).1 then canon32 a else canon32 b }
  | 0x55 => laneSpecial v.func a
  | 0x58 =>
    (match v.func / 16 with
    | 1 => if slotKeeps k i then laneFr [a, b] (fMul a b) else { val := 0 }
    | 2 => { val := one32 (slotKeeps k i) }
    | _ => { val := (round32 false (wordTop (slotWord k i)) (-24)).val })
  | _ => laneInt v.func a b

/-! ### Operands, masks and rows (R185, R186, R191, R196 to R198) -/

/-- An operand of a link: the bytes of its pattern, or a hand-off register. -/
inductive Opnd where
  | none
  | stream (fmt : Nat) (bytes : List Byte)
  | rowCast (fmt : Nat) (bytes : List Byte)
  | colCast (fmt : Nat) (bytes : List Byte)
  | hand (h : Nat)
deriving DecidableEq, Repr

/-- An element as a lane reads it: its value, and whether it counts as non-finite or flushed (R204). -/
structure Read where
  val : W32 := 0
  nf : Bool := false
  fl : Bool := false
deriving DecidableEq, Repr

/-- An element of a format, widened (R185, R186, R195). -/
def readElem (f : Nat) (bs : List Byte) (i : Nat) : Read :=
  let code := elemCode f bs i
  if f = fmInt8 then { val := BitVec.ofInt 32 (signedOf 8 code) }
  else if f = fmInt32 then { val := BitVec.ofNat 32 code }
  else
    let x := numOf f code
    let v := (roundNum x.1).val
    { val := v, nf := nonFin32 v, fl := x.2 }

/-- What lane l of row r reads of an operand. -/
def Opnd.at_ (o : Opnd) (hs : Tbl (List W32)) (r l : Nat) : Read :=
  match o with
  | .none => {}
  | .stream f bs => readElem f bs (128 * r + l)
  | .rowCast f bs => readElem f bs l
  | .colCast f bs => readElem f bs r
  | .hand h => { val := (tget [] hs h).getD l 0 }

/-- Whether an operand is streamed. -/
def Opnd.streamed : Opnd → Bool
  | .stream _ _ => true
  | _ => false

/-- Whether an operand is a broadcast. -/
def Opnd.cast : Opnd → Bool
  | .rowCast _ _ => true
  | .colCast _ _ => true
  | _ => false

/-- A link of a chain with what it reads. -/
structure Link8 where
  cmd : Cmd
  v : Vx
  a : Opnd
  b : Opnd
  c : Opnd
  mask : Option (List Byte)
  key : KeySlot

/-- Whether a lane is active (R197). -/
def Link8.active (k : Link8) (r l : Nat) : Bool :=
  match k.mask with
  | some bs => elemCode fmBit bs (128 * r + l) == 1
  | none => true

def Link8.opnds (k : Link8) : List Opnd := [k.a, k.b, k.c]

/-- A lane's part of a row: whether it is active, its value, its counts, and whether an operand element was counted
as non-finite. -/
structure LaneOut where
  act : Bool := false
  val : W32 := 0
  bad : Bool := false
  counts : Counts := {}
deriving DecidableEq, Repr

/-- R204: the counts that the streamed elements of a lane add at read. -/
def readCounts (reads : List (Opnd × Read)) : Counts :=
  let st := reads.filter fun p => p.1.streamed
  { flushed := st.countP fun p => p.2.fl, nonfinite := bit (st.any fun p => p.2.nf) }

/-- An element-wise link on lane l of row r. -/
def Link8.lane (k : Link8) (hs : Tbl (List W32)) (r l : Nat) : LaneOut :=
  if k.active r l then
    let reads := k.opnds.map fun o => (o, o.at_ hs r l)
    let o := laneOp k.v k.key (128 * r + l) (k.a.at_ hs r l).val (k.b.at_ hs r l).val (k.c.at_ hs r l).val
    let bad := reads.any fun p => p.2.nf
    { act := true, val := o.val, bad := bad
      counts := Counts.add (readCounts reads)
        { elements := 1, saturated := bit o.sat, flushed := bit o.fl, nonfinite := bit (o.nf && !bad) } }
  else {}

/-- A row of an element-wise link. -/
def Link8.row (k : Link8) (hs : Tbl (List W32)) (r : Nat) : List LaneOut := (List.range 128).map (k.lane hs r)

/-- Counts of a row. -/
def rowCounts (row : List LaneOut) : Counts := row.foldl (fun c o => c.add o.counts) {}

/-- Row r of a chain's element-wise links: the hand-off registers they leave, and each link's lanes. -/
def chainRow (ks : List Link8) (r : Nat) : Tbl (List W32) × List (List LaneOut) :=
  ks.foldl (fun p k =>
    let row := k.row p.1 r
    (match k.v.d with
      | .hand h => tset p.1 h (row.map LaneOut.val)
      | _ => p.1, p.2 ++ [row])) ([], [])

/-- R204: the counts of a link's broadcast elements, each once for the time it is read if it feeds a lane of those
for which the test holds. -/
def castCounts (k : Link8) (o : Opnd) (feeds : Nat → Nat → Bool) : Counts :=
  let rows := List.range k.v.rows
  let one := fun (e : Read) => ({ flushed := bit e.fl, nonfinite := bit e.nf } : Counts)
  match o with
  | .rowCast f bs => (List.range 128).foldl (fun c l =>
      if rows.any fun r => feeds r l then c.add (one (readElem f bs l)) else c) {}
  | .colCast f bs => rows.foldl (fun c r =>
      if (List.range 128).any fun l => feeds r l then c.add (one (readElem f bs r)) else c) {}
  | _ => {}

/-! ### Reductions (R201, R202) -/

/-- combine, with what it adds to flushed and nonfinite. -/
def combine (func : Nat) (p q : W32 × Counts) : W32 × Counts :=
  let c := p.2.add q.2
  match func % 4 with
  | 1 => (fMax p.1 q.1, c)
  | 2 => (fMin p.1 q.1, c)
  | _ =>
    let r := fAdd p.1 q.1
    (r.val, c.add { flushed := bit r.flushed, nonfinite := bit r.ovf32 })

/-- The identity of a reduction. -/
def identity32 (func : Nat) : W32 := if func % 4 = 1 then inf32 true else if func % 4 = 2 then inf32 false else 0

/-- The reduction that a function stands for: column sums, maxima and minima are those of rows; VX.RSSQ is 3. -/
def redKind (func : Nat) : Nat := if 4 ≤ func then func - 4 else func

/-- The value that lane l of row r brings to a reduction, with what its read and its square flush and overflow, and
whether the element read is NaN or infinite. -/
def Link8.redLane (k : Link8) (hs : Tbl (List W32)) (r l : Nat) : Option ((W32 × Counts) × Bool) :=
  if k.active r l then
    let e := k.a.at_ hs r l
    let c := readCounts [(k.a, e)]
    let flushed : Counts := { flushed := c.flushed }
    if redKind k.v.func = 3 then
      let q := fMul e.val e.val
      some ((q.val, flushed.add { flushed := bit q.flushed, nonfinite := bit q.ovf32 }), c.nonfinite != 0)
    else some ((e.val, flushed), c.nonfinite != 0)
  else none

/-- One level of the tree. -/
def treeLevel (func : Nat) : List (W32 × Counts) → List (W32 × Counts)
  | a :: b :: t => combine func a b :: treeLevel func t
  | t => t

/-- R201: the tree of 7 levels over 128 lanes. -/
def rowTree (func : Nat) (lanes : List (W32 × Counts)) : W32 × Counts :=
  ((List.range 7).foldl (fun l _ => treeLevel func l) lanes).headD (0, {})

/-- R202: a lane over the rows in ascending order. -/
def colFold (func : Nat) (vals : List (Option (W32 × Counts))) : W32 × Counts :=
  vals.foldl (fun p v => match v with
    | some q => combine func p q
    | none => p) (identity32 func, {})

/-! ### A whole chain -/

/-- λ of R190. -/
def lambda (v : Vx) : Nat := if v.op = 0x55 then 16 else 8

/-- What a chain leaves: its results, the counts of its links and the hand-off registers. -/
structure ChainOut where
  out : List VxOut
  counts : List Counts
  hand : Tbl (List W32) := []

/-- Counts of the broadcasts of an element-wise link or reduction. -/
def Link8.casts (k : Link8) : Counts :=
  k.opnds.foldl (fun c o => c.add (castCounts k o k.active)) {}

/-- A chain whose last link is element-wise: its result rows, written at s + m·r + (m − 1) + λ. -/
def chainElementwise (ks : List Link8) (v : Vx) (s : Nat) : ChainOut :=
  let m := ks.length
  let rows := (List.range v.rows).map (chainRow ks)
  { out := (rows.mapIdx fun r p => ((p.2.getLast?.getD []).mapIdx fun l o =>
      if o.act then [({ elem := 128 * r + l, cycle := s + m * r + (m - 1) + lambda v, val := o.val, bad := o.bad } : VxOut)]
      else []).flatten).flatten
    counts := ks.mapIdx fun i k => rows.foldl (fun c p => c.add (rowCounts (p.2.getD i []))) k.casts
    hand := (rows.getLast?.getD ([], [])).1 }

/-- A chain whose last link is a reduction (R190, R201, R202). A result element counts its non-finite operands once, and
each operation that overflows once (R204). -/
def chainReduction (ks : List Link8) (last : Link8) (s : Nat) : ChainOut :=
  let v := last.v
  let m := ks.length
  let func := redKind v.func
  let front := ks.dropLast
  let rows := (List.range v.rows).map (chainRow front)
  let lanes := rows.mapIdx fun r p => (List.range 128).map (last.redLane p.1 r)
  let read := fun (ls : List (Option ((W32 × Counts) × Bool))) =>
    ({ nonfinite := bit (ls.any fun x => (x.map Prod.snd).getD false) } : Counts)
  let frontCounts := front.mapIdx fun i k => rows.foldl (fun c p => c.add (rowCounts (p.2.getD i []))) k.casts
  let vals := if v.isRowReduction then
      lanes.map fun ls => (rowTree func (ls.map fun x => (x.map Prod.fst).getD (identity32 func, {})), read ls)
    else (List.range 128).map fun l =>
      let ls := lanes.map fun row => row.getD l none
      (colFold func (ls.map fun x => x.map Prod.fst), read ls)
  { out := vals.mapIdx fun e p =>
      { elem := e, val := p.1.1
        cycle := s + (m - 1) + 15 + m * (if v.isRowReduction then min (128 * (e / 128) + 127) (v.rows - 1) else v.rows - 1) }
    counts := frontCounts ++
      [vals.foldl (fun c p => (c.add p.1.2).add p.2) (Counts.add last.casts { elements := vals.length })]
    hand := (rows.getLast?.getD ([], [])).1 }

/-- Positions of a link's active lanes, in stream order. -/
def Link8.activeAll (k : Link8) : List Nat :=
  (List.range (128 * k.v.rows)).filter fun i => k.active (i / 128) (i % 128)

/-- VX.CMPR (R199): room is the number of elements of d. -/
def chainCompress (k : Link8) (room s : Nat) : ChainOut :=
  let acts := k.activeAll
  let reads := acts.map fun i => (k.a.at_ [] (i / 128) (i % 128), i)
  let kept := reads.take room
  { out := kept.mapIdx fun n p => { elem := n, cycle := s + p.2 / 128 + 8, val := p.1.val, bad := p.1.nf }
    counts := [{ elements := kept.length, saturated := acts.length - room
                 flushed := reads.countP fun p => p.1.fl, nonfinite := reads.countP fun p => p.1.nf }] }

/-- VX.EXPD (R200): size is the number of elements of a. The result of an inactive lane is that of c. -/
def chainExpand (k : Link8) (size s : Nat) : ChainOut :=
  let put := fun (p : List VxOut × Counts × Nat) (i : Nat) =>
    let r := i / 128
    let l := i % 128
    if k.active r l then
      if p.2.2 < size then
        let e := k.a.at_ [] (p.2.2 / 128) (p.2.2 % 128)
        (p.1 ++ [{ elem := i, cycle := s + r + 8, val := e.val, bad := e.nf }],
         p.2.1.add { elements := 1, flushed := bit e.fl, nonfinite := bit e.nf }, p.2.2 + 1)
      else
        (p.1 ++ [{ elem := i, cycle := s + r + 8, val := 0 }], p.2.1.add { elements := 1, saturated := 1 }, p.2.2 + 1)
    else
      let e := k.c.at_ [] r l
      (p.1 ++ [{ elem := i, cycle := s + r + 8, val := e.val, bad := e.nf, live := false }],
       p.2.1.add (readCounts [(k.c, e)]), p.2.2)
  let r := (List.range (128 * k.v.rows)).foldl put ([], castCounts k k.c (fun r l => !k.active r l), 0)
  { out := r.1, counts := [r.2.1] }

/-! ### A chain that runs -/

/-- What an operand selector of link i of m reads in a chain that starts in cycle s: row r in cycle s + m · r + i, a row
broadcast in that of row 0, block q of a column broadcast in that of row 128 q (R190, R191). -/
def opndOf (mem : Nat → List Host.Cell) (x : Tile) (c : Cmd) (s m i : Nat) (used : Bool) (k : Sel) : Opnd :=
  let fmt := fun j => (descAt x.imem j).format
  let read := fun (j step : Nat) => (descAt x.imem j).blocks mem c.idx (s + i) step 128
  if used then
    match k with
    | .stream j => .stream (fmt j) (read j m)
    | .rowCast j => .rowCast (fmt j) (read j m)
    | .colCast j => .colCast (fmt j) (read j (128 * m))
    | .hand h => .hand h
    | _ => .none
  else .none

/-- Link i of m of a chain that starts in cycle s, with the key slot that it names. -/
def linkOf (mem : Nat → List Host.Cell) (x : Tile) (s m i : Nat) (l : Cmd × KeySlot) : Link8 :=
  let c := l.1
  let v := vxOf c.word.toNat
  let o := opndOf mem x c s m i
  { cmd := c, v := v
    a := o v.uses.1 v.a, b := o v.uses.2.1 v.b, c := o v.uses.2.2 v.c
    mask := if v.maskEn then some ((descAt x.imem v.mask).blocks mem c.idx (s + i) m 128) else none
    key := l.2 }

/-- The results of a started chain, where mem gives the memory of each cycle. -/
def chainRun (mem : Nat → List Host.Cell) (x : Tile) (r : Run) : ChainOut :=
  let ks := r.links.mapIdx fun i l => linkOf mem x r.start r.links.length i l
  let n := fun (q : Sel) => match q.desc with
    | some i => (descAt x.imem i).elements
    | none => 0
  match ks.getLast? with
  | none => ⟨[], [], []⟩
  | some k =>
    if k.v.isKey then ⟨[], [{}], []⟩
    else if k.v.isPack then (if k.v.func = 0 then chainCompress k (n k.v.d) r.start else chainExpand k (n k.v.a) r.start)
    else if k.v.isReduction then chainReduction ks k r.start
    else chainElementwise ks k.v r.start

/-! ### Results of the vector engine on their way to scratchpad -/

/-- A result converted into its descriptor's format (R187). Key is that of slot 0 in the write cycle. -/
def storeCode (f : FormatRec) (fmt : Nat) (key : Word) (addr : Nat) (val : W32) : Cv :=
  if fmt = fmFp32 ∨ fmt = fmInt32 then { code := val.toNat }
  else if fmt = fmBit then toBit (num32 val)
  else narrow fmt f.fp8Overflow (f.bf16Round == 1) (stochWord key addr) (num32 val) val.toNat

/-- What a result writes: its address, its bytes in a memory, and what its conversion adds to the counts. Of an inactive
lane it adds nothing (R198). -/
def outWrite (f : FormatRec) (d : Desc) (idx : List Nat) (ks : List (Nat × Word)) (m : List Host.Cell) (o : VxOut) :
    Write × Counts :=
  let n := fmBits d.format
  let addr := d.byteAt idx false (o.elem * n / 8)
  let c := storeCode f d.format (keyAt ks o.cycle) addr o.val
  let bytes := if n = 1 then
      let old := (memRead m addr).toNat
      let i := o.elem % 8
      leBytes 1 (old - old / 2 ^ i % 2 * 2 ^ i + c.code * 2 ^ i)
    else leBytes (n / 8) c.code
  (⟨addr, bytes, o.cycle⟩,
   if o.live then { saturated := bit c.sat, flushed := bit c.fl, nonfinite := bit (c.nf && !nonFin32 o.val && !o.bad) } else {})

/-- The memory of each cycle with what a chain has written before it. -/
def chainStores (f : FormatRec) (x : Tile) (r : Run) (mem : Nat → List Host.Cell) : Nat → List Host.Cell :=
  match (vxOf r.cmd.word.toNat).d with
  | .stream i => fun c =>
    ((chainRun mem x r).out.filter fun o => decide (o.cycle < c)).foldl (fun m o =>
      let w := (outWrite f (descAt x.imem i) r.cmd.idx x.vec.key0 m o).1
      memWrites m w.addr w.data) (mem c)
  | _ => mem

/-- The memory of each cycle with what running chains have written before it, the earliest chain first. -/
def withChains (f : FormatRec) (x : Tile) : List Run → (Nat → List Host.Cell) → Nat → List Host.Cell
  | [], mem => mem
  | r :: rs, mem => withChains f x rs (chainStores f x r mem)

end Sys2Proof.Machine
end

