-- ==== Sys2Proof/Machine/Timeline.lean ====
section
/-! DEFINITION. A tile's course in a scene: the cycles in which queued commands start (R73, R140, R141, R147, R149,
R190, R206), what has to be taken before a cycle's events, and what stands in scratchpad in a cycle, whatever the order
in which the events that write it are taken (R73, R82). -/

namespace Sys2Proof.Machine

open Sys2Proof

/-! ### The cycles of starts -/

/-- Fields of MM.ACC (R115). -/
structure Acc where
  bank : Nat
  init : Nat
  westT : Bool
  northT : Bool
  gate : Bool
  count : Bool
  north : Nat
  west : Nat
  entry : Nat
  kStart : Nat
  kCount : Nat
deriving DecidableEq, Repr

def accOf (w : Nat) : Acc where
  bank := fld w 8 1
  init := fld w 9 2
  westT := bitOf w 11
  northT := bitOf w 12
  gate := bitOf w 13
  count := bitOf w 14
  north := fld w 16 12
  west := fld w 32 12
  entry := fld w 48 8
  kStart := fld w 64 32
  kCount := fld w 96 32

/-- Whether the head command of the arrays' queue waits for a fire (R149). -/
def arrayBlocked (x : Tile) (c : Cmd) : Bool :=
  opcodeOf c.word.toNat == 0x40 && (accOf c.word.toNat).gate && x.gate.fired.isNone

/-- The cycle in which an MM.ACC starts (R140, R141, R149). -/
def accStart (x : Tile) (a : Acc) (c : Cmd) : Nat :=
  let u := x.unit 0
  let b := max (max (u.startOf c) (tget 0 x.accDrained a.bank)) u.lastStart
  if a.gate then max b (x.gate.firedAt + 1) else b

/-- The cycle in which the drain path accepts an MM.DRAIN (R140). -/
def drainAccept (x : Tile) (c : Cmd) : Nat := max (max (c.issue + 2) x.drainFree) (x.unit 0).lastStart

/-- The cycle in which it starts: its bank's last MM.ACC has completed (R117, R141). -/
def drainStart (x : Tile) (c : Cmd) : Nat := max (drainAccept x c) (tget 0 x.accDone (fld c.word.toNat 8 1))

/-- R148: a GT.FIRE that starts in the very cycle in which another condition fired the round: one fire. -/
def joinsFire (x : Tile) (c : Cmd) : Bool :=
  opcodeOf c.word.toNat == 0x62 && x.gate.fired.isSome && (x.unit 4).startOf c + 4 == x.gate.firedAt

/-- Whether the head command of the gate's queue must wait for the fired round's release (R147). -/
def gateBlocked (x : Tile) (c : Cmd) : Bool := opcodeOf c.word.toNat != 0x61 && x.gate.fired.isSome && !joinsFire x c

/-- The cycle in which the gate's head command starts (R73, R147). -/
def gateStart (x : Tile) (c : Cmd) : Nat :=
  if opcodeOf c.word.toNat = 0x61 ∨ joinsFire x c = true then (x.unit 4).startOf c
  else max ((x.unit 4).startOf c) x.gate.freeFrom

/-- Whether a word ends its chain (R188): its selector d names a descriptor, or it is VX.KEY. -/
def endsChain (v : Vx) : Bool :=
  v.isKey || (match v.d with
  | .hand _ => false
  | _ => true)

/-- The commands of the first whole chain of the queue. -/
def firstChain : List Cmd → Option (List Cmd)
  | [] => none
  | c :: cs => if endsChain (vxOf c.word.toNat) then some [c] else (firstChain cs).map fun l => c :: l

/-- The cycle in which a chain starts (R190, R206). -/
def chainStart (x : Tile) (cs : List Cmd) (last : Cmd) : Nat :=
  cs.foldl (fun m c => match (vxOf c.word.toNat).slot with
    | some j => max m (tget {} x.vec.keys j).readyAt
    | none => m) ((x.unit 1).startOf last)

/-- The cycle of the event that starts the head of a unit's queue, where nothing but time keeps it back. The logger acts
at start + 4 (R73). -/
def Tile.headStart (x : Tile) (u : Nat) : Option Nat :=
  if u = 1 then (firstChain (x.unit 1).queue).bind fun cs => cs.getLast?.map (chainStart x cs)
  else (x.unit u).queue.head?.bind fun c =>
    if u = 0 then
      (if arrayBlocked x c then none
       else some (if opcodeOf c.word.toNat = 0x40 then accStart x (accOf c.word.toNat) c else drainStart x c))
    else if u = 4 then (if gateBlocked x c then none else some (gateStart x c))
    else some ((x.unit u).startOf c + (if u = 7 then 4 else 0))

/-! ### The order of a tile's events (R75; DESIGN CHOICE, log 132) -/

/-- Every word and every start that comes before a cycle has been taken. -/
def Tile.settled (x : Tile) (cycle : Nat) : Bool :=
  x.reached cycle && (List.range 8).all fun u => match x.headStart u with
    | some c => decide (cycle ≤ c)
    | none => true

/-- Every command of the arrays and the vector engine, and every copy of the gate, that finishes before a cycle has been
taken as finished. -/
def Tile.caughtUp (x : Tile) (cycle : Nat) : Bool :=
  ((x.unit 0).running ++ (x.unit 1).running).all (fun r => decide (cycle ≤ r.done)) &&
  x.gate.fills.all fun f => decide (cycle ≤ f.endsAt + 1)

/-! ### Scratchpad as of a cycle -/

/-- The memory without the writes of cycle c and later. -/
def undoFrom (past : List PadWrite) (c : Nat) (m : List Host.Cell) : List Host.Cell :=
  (past.takeWhile fun w => decide (c ≤ w.cycle)).foldl (fun m w => memWrites m w.addr w.old) m

/-- The memory as a port of tile t finds it in cycle c of the scene (R73): without what events already taken wrote in
later cycles, with what running drains and chains wrote in earlier ones. -/
def padAt (t : Nat) (s : State) (c : Nat) : List Host.Cell :=
  let x := s.tile t
  let drained := fun c => (x.unit 0).running.foldl (fun m r =>
    (r.writes.filter fun w => decide (w.cycle < c)).foldl (fun m w => memWrites m w.addr w.data) m) (undoFrom x.past c s.mem)
  withChains (s.image.formatOf t 4) x (x.unit 1).running drained c

/-- Bytes written by a local port of tile t in cycle c: they stand before what later cycles have written. -/
def padStore (t c a : Nat) (bs : List Byte) (s : State) : State :=
  let x := s.tile t
  let later := x.past.takeWhile fun w => decide (c < w.cycle)
  let m0 := undoFrom x.past (c + 1) s.mem
  let put := fun (p : List PadWrite × List Host.Cell) (w : PadWrite) =>
    ({ w with old := memReads p.2 w.addr w.new.length } :: p.1, memWrites p.2 w.addr w.new)
  let r := (⟨c, a, [], bs⟩ :: later.reverse).foldl put (x.past.drop later.length, m0)
  (s.setMem r.2).modTile t fun x => { x with past := r.1 }

/-- Several writes of a tile's own ports, in order. -/
def padWrites (t : Nat) (ws : List Write) (s : State) : State := ws.foldl (fun s w => padStore t w.cycle w.addr w.data s) s

end Sys2Proof.Machine
end

