-- ==== Sys2Proof/Machine/Gate.lean ====
section
/-! DEFINITION. The batching gate (R144 to R155): fills, arming, firing and the gate map. -/

namespace Sys2Proof.Machine

open Sys2Proof

/-- West formats of R116. -/
def westFormat (f : Nat) : Bool := (decide (2 ≤ f) && decide (f ≤ 7)) || f == fmInt8

/-- Bytes of a fill row's elements (R145). -/
def fillRowBytes : Nat := 512

/-- GT_ARM (R119, R147). -/
def execGtArm (t : TileId) (s : State) : Host.Outcome State Fault Refusal :=
  issueWord t (fun w => opcodeOf w == 0x60) (some 4)
    (fun _ w => reservedClear w [(64, 9), (96, 32)] && decide (1 ≤ fld w 64 9) && decide (fld w 64 9 ≤ 256))
    (pushTo t 4) s

/-- GT_FILL (R119, R145): every fill of a scene uses the first one's format. -/
def execGtFill (t : TileId) (s : State) : Host.Outcome State Fault Refusal :=
  issueWord t (fun w => opcodeOf w == 0x61) (some 4)
    (fun x w =>
      let d := descAt x.imem (fld w 32 12)
      reservedClear w [(16, 7), (32, 12)] && decide (fld w 16 7 ≤ 95) && d.ok && westFormat d.format &&
      (x.gate.format == none || x.gate.format == some d.format))
    (fun w s => s.modTile t fun x =>
      { x with gate := { x.gate with format := some (descAt x.imem (fld w 32 12)).format } }.push 4) s

/-- GT_FIRE (R119, R148). -/
def execGtFire (t : TileId) (s : State) : Host.Outcome State Fault Refusal :=
  issueWord t (fun w => opcodeOf w == 0x62) (some 4) (fun _ w => reservedClear w []) (pushTo t 4) s

/-- Rows counted in a round. -/
def GateRound.count (r : GateRound) : Nat := (r.counted.map Prod.snd).sum

/-- The cycle in which a fill's copy begins. -/
def GateFill.begins (f : GateFill) : Nat := f.endsAt + 1 - f.units

/-- The reads of a fill's copy. -/
def GateFill.uses (f : GateFill) : List (BankUse × Nat) :=
  f.reads.map fun r => (⟨r.1, 0, f.begins + r.2.1, 1, r.2.2, f.seq⟩, f.addr)

/-- The fills not counted when a round fires in cycle c: a copy under way restarts at c + 4, and each follows the one
before it (R146, R148). free is the first cycle in which the copy path is free. -/
def retime (c : Nat) : Nat → List GateFill → List GateFill
  | _, [] => []
  | free, f :: fs =>
    let b := max (if f.begins ≤ c then c + 4 else f.begins) free
    { f with endsAt := b + f.units - 1 } :: retime c (b + f.units) fs

/-- The cycle from which the copy path is free after these fills. -/
def copyEnd (free : Nat) (fs : List GateFill) : Nat := fs.foldl (fun m f => max m (f.endsAt + 1)) free

/-- R148: the fire whose condition is met in cycle c. -/
def Gate.fire (g : Gate) (c : Nat) : Gate :=
  let fs := retime c 0 g.fills
  { g with
    fired := some { g.openRound with armed := false }
    openRound := {}
    firedAt := c + 4
    fires := (g.fires + 1) % 2 ^ 32
    fills := fs
    copyFree := copyEnd g.copyFree fs
    holdSince := none }

/-- R148: the round of tile t fires in cycle c; the reads of copies that move are made in their new cycles (R82,
R145), and those made up to c stand. -/
def fireRound (t c : Nat) (s : State) : State :=
  let old := (s.tile t).gate.fills
  let s := s.modTile t fun x => { x with gate := x.gate.fire c }
  let moved := (s.tile t).gate.fills.filter fun f => !old.contains f
  let kept := fun (u : BankUse × Nat) =>
    if u.1.port = 0 ∧ (moved.any fun f => f.seq == u.1.seq) = true then
      (if u.1.first ≤ c then some ({ u.1 with count := min u.1.count (c + 1 - u.1.first) }, u.2) else none)
    else some u
  if moved.isEmpty then s
  else moved.foldl (fun s f => (useBanks t c f.uses s).1) (s.modTile t fun x => { x with uses := x.uses.filterMap kept })

/-- The rows of a fill counted into the open round, after those the context has there (R145). -/
def Gate.countFill (g : Gate) (f : GateFill) (rows : List (List Byte)) : Gate :=
  let slot := tget {} g.map f.context
  let done := tget 0 g.openRound.counted f.context
  let put := (List.range f.rows.length).foldl (fun (r : GateRound) i =>
    { r with rows := tset r.rows (slot.base + done + i) (rows.getD i [])
             owner := tset r.owner (slot.base + done + i) f.context }) g.openRound
  { g with openRound := { put with counted := tset put.counted f.context (done + f.rows.length) } }

/-- Whether the armed open round has the rows that its threshold asks. -/
def Gate.met (g : Gate) : Bool := g.openRound.armed && decide (g.openRound.threshold ≤ g.openRound.count)

/-- Rows that a context has in the open round, pending fills included. -/
def Gate.placed (g : Gate) (c : Nat) : Nat :=
  tget 0 g.openRound.counted c + ((g.fills.filter fun f => f.context == c).map fun f => f.rows.length).sum

/-- 128-byte units of a stored row. -/
def unitsOf (n : Nat) : Nat := (n + 127) / 128

/-- A source row in the fill buffer: its elements padded to 512 bytes, then its block scales (R145, R146). -/
def fillRow (d : Desc) (bs : List Byte) : List Byte :=
  let e := bs.take d.rowBytes
  e ++ List.replicate (fillRowBytes - e.length) 0 ++ (bs.drop d.rowBytes).take d.scales

/-- The rows that a copy reads, row q from the cycle on in which its first unit is read (R146). -/
def fillRows (t : Nat) (s : State) (f : GateFill) : List (List Byte) :=
  let d := descAt (s.tile t).imem f.desc
  f.rows.mapIdx fun q a => fillRow d (memReads (padAt t s (f.begins + q * f.perRow)) a (d.stored false))

/-- GT.FILL starts (R145, R146). -/
def startFill (t : Nat) (c : Cmd) (start : Nat) (s : State) : State :=
  let w := c.word.toNat
  let x := s.tile t
  let ctx := fld w 16 7
  let d := descAt x.imem (fld w 32 12)
  let slot := tget {} x.gate.map ctx
  let bad := !slot.enabled || decide (slot.rows < x.gate.placed ctx + d.nRows) || decide (fillRowBytes < d.rowBytes) ||
    !d.pitchOk false || !d.allRows c.idx false (fun a n => inPad t a n)
  if bad then tileFaultAt t start c.seq c.addr fcAddress ctx s
  else
    let upr := unitsOf (d.stored false)
    let first := max start x.gate.copyFree
    let units := upr * d.nRows
    let f : GateFill :=
      { context := ctx, units := units, endsAt := first + units - 1, seq := c.seq, addr := c.addr
        rows := (List.range d.nRows).map fun q => (d.rowQ c.idx q).toNat
        desc := fld w 32 12, perRow := upr
        reads := (List.range d.nRows).flatMap fun q =>
          (banksOf (d.rowQ c.idx q).toNat (d.stored false)).map fun b => (b, q * upr, upr) }
    let (s, ok) := useBanks t start f.uses s
    if !ok then s
    else s.modTile t fun x => { x with gate := { x.gate with fills := x.gate.fills ++ [f], copyFree := first + units } }

/-- GT.ARM starts (R147): the round fires at once if its rows are already counted. -/
def startArm (t : Nat) (c : Cmd) (start : Nat) (s : State) : State :=
  let w := c.word.toNat
  let s := s.modTile t fun x => { x with gate := { x.gate with openRound := { x.gate.openRound with
    armed := true, threshold := fld w 64 9, deadline := if fld w 96 32 = 0 then 0 else start + fld w 96 32 } } }
  if (s.tile t).gate.met then fireRound t start s else s

/-- Whether every copy that counts, and every deadline that falls, up to the start of a GT.ARM or GT.FIRE has been taken
(R147, R148: rows counted in the cycle of the fire are included). -/
def gateReady (x : Tile) (c : Cmd) : Bool :=
  opcodeOf c.word.toNat == 0x61 || gateBlocked x c ||
  ((x.gate.fills.all fun f => decide (gateStart x c < f.endsAt + 1)) &&
    !(x.gate.openRound.armed && x.gate.openRound.deadline != 0 && decide (x.gate.openRound.deadline ≤ gateStart x c)))

/-- The batching gate's command starts; joined: a GT.FIRE whose round has fired in this cycle already. -/
def startGate (t : Nat) (c : Cmd) (start : Nat) (joined : Bool) (s : State) : State :=
  let op := opcodeOf c.word.toNat
  if op = 0x61 then startFill t c start s
  else if op = 0x60 then finished t 4 c.seq start (startArm t c start s)
  else finished t 4 c.seq start (if joined then s else fireRound t start s)

/-- FILL_COUNTED (R146, R148): the rows of the first copy count in the cycle after its last unit, and may fire the
round. A deadline that comes first is met first. -/
def execFillCounted (t : TileId) (s : State) : Host.Outcome State Fault Refusal :=
  let g := (s.tile t).gate
  event s (match g.fills with
    | f :: _ => (s.tile t).settled (f.endsAt + 1) && !(g.openRound.armed && g.openRound.deadline != 0 && decide (g.openRound.deadline < f.endsAt + 1))
    | [] => false) fun s =>
      match (s.tile t).gate.fills with
      | f :: fs =>
        let rows := fillRows t s f
        let s := s.modTile t fun x => { x with gate := { x.gate with fills := fs }.countFill f rows }
        finished t 4 f.seq (f.endsAt + 1) (if (s.tile t).gate.met then fireRound t (f.endsAt + 1) s else s)
      | [] => s

/-- GATE_DEADLINE (R148): the deadline cycle of the armed round; rows counted in that cycle are included. -/
def execGateDeadline (t : TileId) (s : State) : Host.Outcome State Fault Refusal :=
  let g := (s.tile t).gate
  event s (g.openRound.armed && g.openRound.deadline != 0 && (s.tile t).settled g.openRound.deadline &&
      (g.fills.all fun f => decide (g.openRound.deadline < f.endsAt + 1))) fun s =>
    fireRound t (s.tile t).gate.openRound.deadline s

/-- R152: the signals of a released round, visible 4 cycles after the drain's last cycle. -/
def signalContexts (t last addr seq : Nat) (g : Gate) (r : GateRound) (s : State) : State :=
  r.counted.foldl (fun s e =>
    let slot := tget {} g.map e.1
    if slot.enabled && slot.sigEn && decide (0 < e.2) then
      signalTile t slot.channel e.2 (last + 4) (last + 4) addr seq s
    else s) s

/-- R150, R152: the fired round is released after the drain's last cycle. -/
def releaseRound (t last addr seq : Nat) (s : State) : State :=
  let g := (s.tile t).gate
  match g.fired with
  | none => s
  | some r =>
    signalContexts t last addr seq g r (s.modTile t fun x =>
      { x with gate := { x.gate with fired := none, freeFrom := last + 1, holdSince := none } })

/-! ### The gate map (R144, R155) -/

/-- The entry that a GATE_MAP value describes. -/
def gateSlotOf (v : Nat) : GateSlot where
  base := bitsOf v 0 8
  rows := bitsOf v 8 9
  enabled := bitOf v 19
  scatter := bitsOf v 20 12
  channel := bitsOf v 32 8
  sigEn := bitOf v 40

/-- The value of a GATE_MAP entry. -/
def GateSlot.word (g : GateSlot) : Nat :=
  g.base + g.rows * 2 ^ 8 + bit g.enabled * 2 ^ 19 + g.scatter * 2 ^ 20 + g.channel * 2 ^ 32 + bit g.sigEn * 2 ^ 40

/-- Whether two slots share a fill row. -/
def slotsMeet (a b : GateSlot) : Bool := decide (a.base < b.base + b.rows) && decide (b.base < a.base + a.rows)

/-- R144: whether a write of the map is taken. The state is that of TILE_STATUS, fenced included. -/
def mapWriteOk (g : Gate) (state : Nat) (fenced : Bool) (c : Nat) (e : GateSlot) : Bool :=
  (fenced || state == tsNone || state == tsEnded) &&
  (!e.enabled || (decide (1 ≤ e.rows) && decide (e.base + e.rows ≤ 256) &&
    g.map.all fun p => p.1 == c || !p.2.enabled || !slotsMeet e p.2))

/-- A GATE_MAP write (R144, R155). -/
def writeGateMap (t c : Nat) (v : Word) (s : State) : State :=
  s.modTile t fun x =>
    let e := gateSlotOf v.toNat
    if mapWriteOk x.gate x.state (s.fence t).fenced c e then { x with gate := { x.gate with map := tset x.gate.map c e } }
    else { x with gate := { x.gate with mapReject := true } }

/-- GATE_MAP_WRITE (R144, R155). -/
def execGateMapWrite (t : TileId) (context : Fin 96) (v : Word) (s : State) : Host.Outcome State Fault Refusal :=
  event s true fun s => writeGateMap t context v s

/-- GATE_STATUS (R155). -/
def Gate.status (g : Gate) : Nat :=
  g.fires + (match g.fired with
    | some r => r.count
    | none => 0) * 2 ^ 39 + g.openRound.count * 2 ^ 48 + bit g.fired.isSome * 2 ^ 57 + bit g.openRound.armed * 2 ^ 58 +
  bit g.mapReject * 2 ^ 63

end Sys2Proof.Machine
end

