-- ==== Sys2Proof/Machine/Arrays.lean ====
section
/-! DEFINITION. The matrix arrays (05, 06): MM.ACC and MM.DRAIN, the feeders, the accumulators and their counts. -/

namespace Sys2Proof.Machine

open Sys2Proof

/-! ### Words -/

/-- Format pairs of R116, and the group size n; 0 where the pair is not permitted. -/
def groupSize (north west : Nat) : Nat :=
  if 4 ≤ north ∧ north ≤ 8 ∧ 4 ≤ west ∧ west ≤ 7 then 8
  else if north = fmBf16 ∧ west = fmBf16 then 4
  else if north = fmFp16 ∧ west = fmFp16 then 4
  else if north = fmInt8 ∧ west = fmInt8 then 8
  else 0

/-- Whether an MM.ACC starts its bank from zero: init 1, or init 2 while every loop index is 0 (R115). -/
def Acc.fresh (a : Acc) (idx : List Nat) : Bool := a.init == 1 || (a.init == 2 && idx.all fun i => i == 0)

/-- The format of the west operand: the descriptor's, or the fill buffer's (R145, R149). Before the scene's first
GT.FILL it is taken as one that the north operand admits. -/
def Acc.westFmt (a : Acc) (x : Tile) (n : Nat) : Nat :=
  if a.gate then x.gate.format.getD (if n = fmMx4 then fmE4m3 else n) else (descAt x.imem a.west).format

/-- The kind that the sequencer records for a bank (R143): 1 floating point, 2 INT8. -/
def kindOf (north : Nat) : Nat := if north = fmInt8 then 2 else 1

/-- The checks of an MM.ACC word at issue (R103, R115, R116, R143). -/
def accOk (x : Tile) (w : Nat) : Bool :=
  let a := accOf w
  let n := descAt x.imem a.north
  reservedClear w [(8, 1), (9, 2), (11, 1), (12, 1), (13, 1), (14, 1), (16, 12), (32, 12), (48, 8), (64, 32), (96, 32)] &&
  a.init != 3 && a.kCount != 0 && n.ok &&
  (if a.gate then a.west == 0 else (descAt x.imem a.west).ok) &&
  groupSize n.format (a.westFmt x n.format) != 0 &&
  (a.fresh x.idx || tget 0 x.accKind a.bank == kindOf n.format)

/-- MM_ACC (R115, R143): the sequencer records the bank's kind. -/
def execMmAcc (t : TileId) (s : State) : Host.Outcome State Fault Refusal :=
  issueWord t (fun w => opcodeOf w == 0x40) (some 0) accOk
    (fun w s => s.modTile t fun x =>
      { x with accKind := tset x.accKind (accOf w).bank (kindOf (descAt x.imem (accOf w).north).format) }.push 0) s

/-- The checks of an MM.DRAIN word at issue (R117, R143, R150). -/
def drainOk (x : Tile) (w : Nat) : Bool :=
  let d := descAt x.imem (fld w 16 12)
  let k := tget 0 x.accKind (fld w 8 1)
  reservedClear w [(8, 1), (13, 1), (16, 12)] && k != 0 &&
  (if bitOf w 13 then fld w 16 12 == 0 else d.ok && d.format == (if k = 2 then fmInt32 else fmFp32))

/-- MM_DRAIN (R117). -/
def execMmDrain (t : TileId) (s : State) : Host.Outcome State Fault Refusal :=
  issueWord t (fun w => opcodeOf w == 0x41) (some 0) drainOk (pushTo t 0) s

/-! ### Feeders (R136 to R138) -/

/-- One operand element at a cell: its value, its block-scale exponent, and what it adds to the counts of R164. -/
structure Elem where
  num : Num := .fin false 0 0
  scale : Int := 0
  int : Int := 0
  flushed : Bool := false
  nonfinite : Bool := false
deriving DecidableEq, Repr

/-- The element of a format with its block's scale. -/
def elemOf (f code scale : Nat) : Elem :=
  if f = fmInt8 then { int := signedOf 8 code }
  else
    let v := numOf f code
    if fmMx f && scale == 0xFF then { num := .nan, nonfinite := true }
    else
      { num := v.1
        scale := if fmMx f then (scale : Int) - 127 else 0
        flushed := v.2
        nonfinite := match v.1 with
          | .fin _ _ _ => false
          | _ => true }

/-- The element at a pattern's row and position along the row, displaced by some bytes. -/
def patElem (m : List Host.Cell) (d : Desc) (idx : List Nat) (disp row pos : Nat) : Elem :=
  let a := (d.rowAt idx 0 row).toNat + disp
  let n := fmBits d.format
  let code :=
    if n = 4 then (memRead m (a + pos / 2)).toNat / 2 ^ (4 * (pos % 2)) % 16
    else leNat (memReads m (a + pos * (n / 8)) (n / 8))
  elemOf d.format code (if fmMx d.format then (memRead m (a + d.rowBytes + pos / 32)).toNat else 0)

/-- The element of a fill row (R149). -/
def fillElem (f : Nat) (row : List Byte) (k : Nat) : Elem :=
  let n := fmBits f / 8
  elemOf f (fieldAt row (k * n) n) (if fmMx f then (row.getD (fillRowBytes + k / 32) 0).toNat else 0)

/-- The element that the feeder delivers for K index k and lane m (R138). -/
def laneElem (mem : List Host.Cell) (d : Desc) (idx : List Nat) (trans kRows : Bool) (disp k m : Nat) : Elem :=
  if trans = kRows then patElem mem d idx disp k m else patElem mem d idx disp m k

/-- R138: whether an operand pattern has the shape that its feeder mode asks. kRows: K runs across stored rows. Rows and
row_bytes for which the table gives one number must have it: one that is larger is no shape of the table either (DESIGN
CHOICE, log 130). -/
def shapeOk (d : Desc) (kRows : Bool) (kEnd : Nat) : Bool :=
  d.planes == 1 && (!fmMx d.format || !kRows) &&
  (if kRows then decide (kEnd ≤ d.rows) && d.rowBytes * 8 == 64 * fmBits d.format
   else d.rows == 64 && decide (kEnd * fmBits d.format ≤ d.rowBytes * 8))

/-- Accesses that fall in consecutive cycles, one bank after another. -/
def bankRuns (port seq : Nat) : Nat → List Nat → List BankUse
  | _, [] => []
  | c, b :: bs =>
    match bankRuns port seq (c + 1) bs with
    | u :: us => if u.bank = b then { u with first := c, count := u.count + 1 } :: us else ⟨b, port, c, 1, 1, seq⟩ :: u :: us
    | [] => [⟨b, port, c, 1, 1, seq⟩]

/-- The feeder's reads of one operand: group g is read in cycle start + g, from the single bank in which the pattern lies
in that cycle (R136): that of the group's first byte (DESIGN CHOICE, log 131, for a pattern spread over several). -/
def feedUses (d : Desc) (idx : List Nat) (kRows : Bool) (disp port seq start kStart n groups : Nat) : List BankUse :=
  bankRuns port seq start ((List.range groups).map fun g =>
    let k := kStart + g * n
    bankOf (if kRows then (d.rowAt idx 0 k).toNat + disp
            else (d.rowAt idx 0 0).toNat + disp + k * fmBits d.format / 8))

/-! ### MM.ACC -/

/-- Groups of n (R134). -/
def groupsOf (kCount n : Nat) : Nat := (kCount + n - 1) / n

/-- R115: the K_GROUP check. -/
def kGroupBad (a : Acc) (nFmt wFmt n : Nat) : Bool :=
  a.kStart % n != 0 || ((fmMx nFmt || fmMx wFmt) && a.kStart % 32 != 0)

/-- Operands of an MM.ACC as its cells meet them. -/
structure Feed where
  n : Nat
  groups : Nat
  kStart : Nat
  kEnd : Nat
  int : Bool
  west : Nat → Nat → Elem
  north : Nat → Nat → Elem

/-- The K indices of group g. -/
def Feed.ks (f : Feed) (g : Nat) : List Nat :=
  (List.range f.n).filterMap fun e =>
    let k := f.kStart + g * f.n + e
    if k < f.kEnd then some k else none

/-- A cell's accumulator with its counts: value, flushed steps, overflowed steps, clamped steps. -/
structure Cell where
  val : W32 := 0
  flushed : Nat := 0
  over32 : Nat := 0
  clamped : Nat := 0
deriving DecidableEq, Repr

/-- One step of cell (r, j) for group g (R161, R162, R165). -/
def Feed.step (f : Feed) (r j : Nat) (c : Cell) (g : Nat) : Cell :=
  let ks := f.ks g
  if f.int then
    let v := cellInt c.val (ks.map fun k => ((f.west k r).int, (f.north k j).int))
    { c with val := v.1, clamped := c.clamped + bit v.2 }
  else
    let k0 := f.kStart + g * f.n
    let v := cellStep c.val (ks.map fun k => ((f.west k r).num, (f.north k j).num)) ((f.west k0 r).scale + (f.north k0 j).scale)
    { c with val := v.val, flushed := c.flushed + bit v.flushed, over32 := c.over32 + bit v.ovf32 }

/-- Cell (r, j) after every group, in ascending order (R134). -/
def Feed.cell (f : Feed) (acc : W32) (r j : Nat) : Cell :=
  (List.range f.groups).foldl (f.step r j) { val := acc }

/-- Elements that a feeder reads: every K index of the command on each of its lanes. -/
def Feed.read (f : Feed) (e : Nat → Nat → Elem) (lanes : Nat) : List Elem :=
  (List.range (f.kEnd - f.kStart)).flatMap fun i => (List.range lanes).map fun m => e (f.kStart + i) m

/-- R164: the counts of an MM.ACC. -/
def Feed.counts (f : Feed) (cells : List Cell) : Counts :=
  let es := f.read f.west 256 ++ f.read f.north 64
  { elements := 16384
    saturated := (cells.map Cell.clamped).sum
    flushed := (es.countP fun e => e.flushed) + (cells.map Cell.flushed).sum
    nonfinite := (es.countP fun e => e.nonfinite) + (cells.map Cell.over32).sum }

/-- Key of an accumulator: bank, row of the 256 × 64 block, column. -/
def accKey (bank r j : Nat) : Nat := 16384 * bank + 64 * r + j

/-- The 16,384 cells of a bank after a feed. -/
def Feed.cells (f : Feed) (acc : Nat → W32) (bank : Nat) (fresh : Bool) : List Cell :=
  (List.range 16384).map fun i => f.cell (if fresh then 0 else acc (16384 * bank + i)) (i / 64) (i % 64)

/-- An accumulator; one that nothing has written in the scene holds a free value (R143). -/
def Tile.accAt (x : Tile) (k : Nat) : W32 := tget (Config.freeAcc x.accDraw k) x.acc k

/-- A bank's accumulators replaced. -/
def setBank (acc : Tbl W32) (bank : Nat) (vs : List W32) : Tbl W32 :=
  let new := vs.mapIdx fun i v => (16384 * bank + i, v)
  if bank = 0 then new ++ acc.filter fun p => decide (16384 ≤ p.1)
  else (acc.filter fun p => decide (p.1 < 16384)) ++ new

/-- The feed of an MM.ACC; group g is read from the memory that mem gives for it, or from the fill rows. -/
def feedOf (mem : Nat → List Host.Cell) (x : Tile) (a : Acc) (idx : List Nat) (rows : Tbl (List Byte)) (n : Nat) : Feed :=
  let nd := descAt x.imem a.north
  let wd := descAt x.imem a.west
  { n := n
    groups := groupsOf a.kCount n
    kStart := a.kStart
    kEnd := a.kStart + a.kCount
    int := nd.format == fmInt8
    west := fun k r =>
      if a.gate then
        (if thas rows r then fillElem (a.westFmt x nd.format) (tget [] rows r) k else {})
      else laneElem (mem ((k - a.kStart) / n)) wd idx a.westT true (r / 64 * 0x8_0000) k (r % 64)
    north := fun k j => laneElem (mem ((k - a.kStart) / n)) nd idx a.northT false 0 k j }

/-- Whether an MM.ACC's operand patterns have their shapes and lie in the tile's scratchpad (R106, R115, R138, R149). -/
def accAddrOk (t : Nat) (x : Tile) (a : Acc) (idx : List Nat) : Bool :=
  let nd := descAt x.imem a.north
  let wd := descAt x.imem a.west
  let kEnd := a.kStart + a.kCount
  shapeOk nd (!a.northT) kEnd && nd.pitchOk false && nd.allRows idx false (fun p n => inPad t p n) &&
  (if a.gate then decide (kEnd * fmBits (a.westFmt x nd.format) ≤ 8 * fillRowBytes)
   else shapeOk wd a.westT kEnd && wd.pitchOk false &&
     wd.allRows idx false fun p n => inPad t p n && inPad t (p + 3 * 0x8_0000) n)

/-- MM.ACC starts: it is checked, each rule that it breaks raising its fault (R90). Its feeders read in the cycles from
start on; the accumulators count as complete at start + G + 128 (R135). -/
def startAcc (t : Nat) (c : Cmd) (s : State) : State :=
  let x := s.tile t
  let a := accOf c.word.toNat
  let nd := descAt x.imem a.north
  let wd := descAt x.imem a.west
  let wf := a.westFmt x nd.format
  let n := groupSize nd.format wf
  let start := accStart x a c
  let g := groupsOf a.kCount n
  let drop := fun (s : State) => s.modTile t fun x => x.modUnit 0 fun q => q.started 1 start
  let bad : List Breach := (if accAddrOk t x a c.idx then [] else [⟨start, fcAddress, c.seq, c.addr, 0⟩]) ++
    (if kGroupBad a nd.format wf n then [⟨start, fcKGroup, c.seq, c.addr, a.kStart⟩] else [])
  if n = 0 then drop s
  else if bad ≠ [] then raiseBreaches t bad (drop s)
  else
    let west := if a.gate then [] else (List.range 4).flatMap fun i =>
      feedUses wd c.idx a.westT (i * 0x8_0000) 0 c.seq start a.kStart n g
    let north := feedUses nd c.idx (!a.northT) 0 1 c.seq start a.kStart n g
    let (s, ok) := useBanks t start ((north ++ west).map fun u => (u, c.addr)) s
    if !ok then drop s
    else
      let done := start + g + 128
      let r : Run := { cmd := c, start := start, busyTo := start + g - 1, done := done
                       fill := if a.gate then (x.gate.fired.map GateRound.rows).getD [] else [] }
      let s := s.modTile t fun x => { x.modUnit 0 fun q =>
          { q.started 1 start with running := q.running ++ [r], freeAt := start + g } with
        accDone := tset x.accDone a.bank done }
      duty t 0 (start + 1) (start + g + 126) c.seq c.addr s

/-! ### MM.DRAIN -/

/-- The 32 accumulators that drain cycle m writes for an array: row ⌊m / 2⌋, half m mod 2 (R142). -/
def drainBytes (acc : Nat → W32) (bank r half : Nat) : List Byte :=
  (List.range 32).flatMap fun i => leBytes 4 (acc (accKey bank r (32 * half + i))).toNat

/-- The writes of a plain drain that starts in a cycle: array a's row i at dst row i, displaced by a banks, half m mod 2
in drain cycle m. -/
def drainWrites (acc : Nat → W32) (d : Desc) (idx : List Nat) (bank start : Nat) : List Write :=
  (List.range 128).flatMap fun m => (List.range 4).map fun a =>
    ⟨(d.rowAt idx 0 (m / 2)).toNat + a * 0x8_0000 + 128 * (m % 2), drainBytes acc bank (64 * a + m / 2) (m % 2), start + m⟩

/-- The bank accesses of a drain's writes: one array's in the cycles start to start + 127. -/
def drainUses (seq start : Nat) (rowAddr : Nat → Option Nat) : List BankUse :=
  (List.range 64).flatMap fun i =>
    match rowAddr i with
    | some a => [⟨bankOf a, 6, start + 2 * i, 1, 2, seq⟩]
    | none => []

/-- R151: the address at which fill row r's output lands, where j rows of its context come before it. -/
def scatterAddr (d : Desc) (j : Nat) : Nat := (d.rowQ [0, 0, 0, 0] (j % d.nRows)).toNat

/-- The filled rows of a round, ascending, each with its context and its number among the context's deliveries. -/
def deliveries (delivered : Tbl Nat) (r : GateRound) : List (Nat × Nat × Nat) :=
  (r.rows.foldl (fun (p : List (Nat × Nat × Nat) × Tbl Nat) e =>
    let c := tget 0 r.owner e.1
    let j := tget 0 p.2 c
    (p.1 ++ [(e.1, c, j)], tset p.2 c (j + 1))) ([], delivered)).1

/-- R117, R151: whether a scatter descriptor may take a drain's rows. -/
def scatterOk (t : Nat) (d : Desc) (fmt : Nat) : Bool :=
  d.ok && d.format == fmt && d.rowBytes == 256 && d.allRows [0, 0, 0, 0] false fun a n => inPad t a n

/-- MM.DRAIN leaves the queue when the drain path accepts it, and starts when the bank's last MM.ACC completes
(R117, R140, R141). Its format is that of the bank's kind at its issue (R143). Its writes stand each in its cycle. -/
def startDrain (t : Nat) (c : Cmd) (s : State) : State :=
  let x := s.tile t
  let w := c.word.toNat
  let bank := fld w 8 1
  let gated := bitOf w 13
  let accept := drainAccept x c
  let start := drainStart x c
  let d := descAt x.imem (fld w 16 12)
  let fmt := if c.kind = 2 then fmInt32 else fmFp32
  let dels := match x.gate.fired with
    | some r => deliveries x.gate.delivered r
    | none => []
  let scat := fun (e : Nat × Nat × Nat) => descAt x.imem (tget {} x.gate.map e.2.1).scatter
  let s := s.modTile t fun x => x.modUnit 0 fun q => q.started 1 accept
  let bad := if gated then dels.any fun e => !scatterOk t (scat e) fmt
    else d.planes != 1 || d.rows != 64 || d.rowBytes != 256 ||
      !d.allRows c.idx false fun a n => inPad t a n && inPad t (a + 3 * 0x8_0000) n
  if bad then tileFaultAt t start c.seq c.addr fcAddress 0 s
  else
    let rowAddr := fun (a i : Nat) =>
      if gated then (dels.find? fun e => e.1 == 64 * a + i).map fun e => scatterAddr (scat e) e.2.2
      else some ((d.rowAt c.idx 0 i).toNat + a * 0x8_0000)
    let clash : List Breach := if gated then ((List.range 64).find? fun i =>
        !decide ((List.range 4).filterMap fun a => (rowAddr a i).map bankOf).Nodup).toList.map fun i =>
          ⟨start + 2 * i, fcBankClash, c.seq, c.addr, 0⟩
      else []
    let s := raiseDues t clash s
    let (s, ok) := useBanks t start (((List.range 4).flatMap fun a => drainUses c.seq start (rowAddr a)).map fun u =>
      (u, c.addr)) s
    if !ok || clash.any fun b => b.cycle == start then s
    else
      let ws := if gated then dels.flatMap fun e =>
          [⟨scatterAddr (scat e) e.2.2, drainBytes x.accAt bank e.1 0, start + 2 * (e.1 % 64)⟩,
           ⟨scatterAddr (scat e) e.2.2 + 128, drainBytes x.accAt bank e.1 1, start + 2 * (e.1 % 64) + 1⟩]
        else drainWrites x.accAt d c.idx bank start
      let r : Run := { cmd := c, start := start, busyTo := start + 127, done := start + 127, writes := ws }
      s.modTile t fun x => { x.modUnit 0 fun q => { q with running := q.running ++ [r] } with
        drainFree := start + 128
        accDrained := tset x.accDrained bank (start + 128)
        gate := if gated then { x.gate with delivered := dels.foldl (fun m e => tset m e.2.1 (e.2.2 + 1)) x.gate.delivered }
                else x.gate }

/-- The array unit's command starts. -/
def startArray (t : Nat) (c : Cmd) (s : State) : State :=
  if opcodeOf c.word.toNat = 0x40 then startAcc t c s else startDrain t c s

/-- The feed of a product that has started: group g is read in cycle start + g. -/
def runFeed (t : Nat) (s : State) (r : Run) : Feed :=
  let x := s.tile t
  let a := accOf r.cmd.word.toNat
  let nf := (descAt x.imem a.north).format
  feedOf (fun g => padAt t s (r.start + g)) x a r.cmd.idx r.fill (groupSize nf (a.westFmt x nf))

/-- ACCUMULATORS_COMPLETE (R134, R135, R164): the oldest product has taken its steps; its accumulators stand and its counts
are added. -/
def execAccumulatorsComplete (t : TileId) (s : State) : Host.Outcome State Fault Refusal :=
  eventOf s (((s.tile t).runOf 0 0x40).filter fun r => (s.tile t).settled r.done) fun r s =>
    let a := accOf r.cmd.word.toNat
    let f := runFeed t s r
    let cells := f.cells (s.tile t).accAt a.bank (a.fresh r.cmd.idx)
    let s := s.modTile t fun x => { x.dropRun 0 r.cmd.seq with acc := setBank x.acc a.bank (cells.map Cell.val) }
    let s := if a.count then countInto t a.entry r.cmd.addr 0 r.done (f.counts cells) s else s
    finished t 0 r.cmd.seq r.done s

/-- DRAIN_END (R142, R150, R152): the drain's rows stand in scratchpad; a gated drain releases its round. -/
def execDrainEnd (t : TileId) (s : State) : Host.Outcome State Fault Refusal :=
  eventOf s (((s.tile t).runOf 0 0x41).filter fun r => (s.tile t).settled r.done) fun r s =>
    let s := padWrites t r.writes (s.modTile t fun x => x.dropRun 0 r.cmd.seq)
    let s := if bitOf r.cmd.word.toNat 13 then releaseRound t r.busyTo r.cmd.addr r.cmd.seq s else s
    finished t 0 r.cmd.seq r.done s

end Sys2Proof.Machine
end

