-- ==== Sys2Proof/Machine/Dram.lean ====
section
/-! DEFINITION. The memories of both tiers (10, 14): channels and interleave (R233), owner words and the boot
timetable (R47, R229, R232), what the error code does to each requester (R236), and writes of whole lines. -/

namespace Sys2Proof.Machine

open Sys2Proof

/-- Memory and offset of a tier address: memories 0 to 11 are the stacks, 12 to 15 the Grottos' slow tiers. -/
def memOf (a : Nat) : Option (Nat × Nat) :=
  match placeOf a with
  | .fast m o => some (m, o)
  | .slow g o => some (12 + g, o)
  | .winFast m o => some (m, o)
  | _ => none

/-- Address of byte 0 of a memory. -/
def memBase (m : Nat) : Nat := if m < 12 then m * 0xC_0000_0000 else 0x100_0000_0000 + (m - 12) * 0x80_0000_0000

/-- log2 of a memory's channel count (R226, R233). -/
def chanBits (m : Nat) : Nat := if m < 12 then 6 else 5

/-- Slots of a timetable frame (R48). -/
def memSlots (m : Nat) : Nat := if m < 12 then 4096 else 3200

/-- Channel-local lines of a channel. -/
def chanLines (m : Nat) : Nat := if m < 12 then 6_291_456 else 134_217_728

/-- The die of a memory's controller. -/
def memDie (m : Nat) : Nat := if m < 12 then 1 + m / 3 else 5 + (m - 12)

/-- The exclusive or of the c-bit chunks of b (R233). -/
def foldChunks (c : Nat) : Nat → Nat → Nat
  | 0, _ => 0
  | n + 1, b => (b % 2 ^ c) ^^^ foldChunks c n (b / 2 ^ c)

/-- R233: channel and channel-local line of an offset. -/
def chanLine (limit m off : Nat) : Nat × Nat :=
  let c := chanBits m
  if off < limit then (off / 128 % 2 ^ c, off / 128 / 2 ^ c)
  else (foldChunks c 8 (off / 4096), off / 4096 / 2 ^ c * 32 + off / 128 % 32)

/-- The offset of a channel's line: the inverse of R233. -/
def lineOffset (limit m ch line : Nat) : Nat :=
  let c := chanBits m
  if line < limit / (128 * 2 ^ c) then (line * 2 ^ c + ch) * 128
  else
    let hi := line / 32
    (hi * 2 ^ c + (ch ^^^ foldChunks c 8 hi)) * 4096 + line % 32 * 128

/-- Channel of a tier address under the image in force. -/
def channelOf (i : Image) (a : Nat) : Option (Nat × Nat) :=
  (memOf a).map fun p => (p.1, (chanLine (i.linearLimit p.1) p.1 p.2).1)

/-- Owner kinds of R47, by word. -/
def owIdle : Nat := 0
def owRefresh : Nat := 0x4000_0000
/-- The boot class of R232 has no word of R47; the model writes it so. -/
def owBoot : Nat := 0xF000_0000
def owFree (cls : Nat) : Nat := 0x2000_0000 + cls
def owPort (unit port : Nat) : Nat := 0x5000_0000 + unit * 16 + port
def owFlow (flow : Nat) : Nat := 0x3000_0000 + flow

/-- MEMTT record of a channel. -/
def Image.memttRec (i : Image) (m ch : Nat) : Option TimetableRec := i.memtt.find? fun r => r.a == m && r.b == ch

/-- The owner word that governs a slot of a channel (R229), or the boot timetable's (R232). -/
def ownerWord (s : State) (m ch slot : Nat) : Nat :=
  match s.img.inForce with
  | some i => (match i.memttRec m ch with
    | some r => r.owners.getD slot 0
    | none => 0)
  | none => if slot % 16 = 15 then owRefresh else owBoot

/-- Whether a scheduled port owns a slot of a channel (R85). -/
def ownsChannel (i : Image) (m ch unit port : Nat) : Bool :=
  match i.memttRec m ch with
  | some r => r.owners.contains (owPort unit port)
  | none => false

/-- The link index on a die towards another die (R16); none where no link joins them. -/
def linkTo (d e : Nat) : Option Nat :=
  if d = e then none
  else if d = 0 then some (e - 1)
  else if d ≤ 4 then
    (if e = 0 then some 0
     else if e ≤ 4 then some (if e < d then e else e - 1)
     else some (4 + (e - 5)))
  else if e = 0 then some 0
  else if e ≤ 4 then some e
  else none

/-- R16: the die at the far end of link l of die d. -/
def linkPeer (d l : Nat) : Option Nat := (List.range 9).find? fun e => linkTo d e == some l

/-- LINKTT record of a transmit end. -/
def Image.linkttRec (i : Image) (d l : Nat) : Option TimetableRec := i.linktt.find? fun r => r.a == d && r.b == l

/-- Whether a flow of a troupe owns a slot on the link from die d to die e (R85). No link lies inside a die. -/
def linkSlotFor (i : Image) (d e tr : Nat) : Bool :=
  d == e || (match (linkTo d e).bind fun l => i.linkttRec d l with
    | some r => r.owners.any fun w => w / 2 ^ 28 == 3 &&
        (match i.flowRec (w % 2 ^ 18) with
        | some f => f.troupe == tr
        | none => false)
    | none => false)

/-! ### Slots in time (R18, R78, R228) -/

/-- Span time in a timetable frame at which a slot of a memory begins, whole CMP cycles: 16 STR cycles a fast-tier slot,
20.48 a slow-tier one (R48, R78). -/
def slotBegin (m slot : Nat) : Nat := if m < 12 then 16 * slot else 2 * (slot * 256 / 25)

/-- Span time at which slot g of a memory, counted from span time 0, begins. -/
def memSlotAt (m g : Nat) : Nat := g / memSlots m * 65536 + slotBegin m (g % memSlots m)

/-- Slots of a link in a frame (R13), by the dies that it joins. -/
def linkSlots (d e : Nat) : Nat :=
  if 5 ≤ d ∨ 5 ≤ e then 3125 else if d = 0 ∨ e = 0 then 7500 else 11250

/-- Span time at which slot g of the link from d to e, counted from span time 0, begins (R18). -/
def linkSlotAt (d e g : Nat) : Nat := g / linkSlots d e * 4000 + 2 * (g % linkSlots d e * 2000 / linkSlots d e)

/-- Whether what begins at a span time begins now: within the reference period that span time stands at. -/
def State.beginsNow (s : State) (t : Nat) : Bool := decide (s.time.span ≤ t) && decide (t < s.time.span + 40)

/-- Whether none of the slots before slot g that begin at lo or later is one that the test picks, over at most fuel
slots. -/
def noneSince (begins : Nat → Nat) (test : Nat → Bool) (lo : Nat) : Nat → Nat → Bool
  | 0, _ => false
  | _, 0 => true
  | fuel + 1, g + 1 => decide (begins g < lo) || (!test g && noneSince begins test lo fuel g)

/-- R17: whether the link between two dies carries traffic: neither end retrains or is down. -/
def linkCarries (s : State) (d e : Nat) : Bool :=
  let up := fun (a b : Nat) => match linkTo a b with
    | some l => (s.link a l).state != 3 && (s.link a l).state != 4
    | none => true
  up d e && up e d

/-- R7, R18, R22, R23: whether traffic of a free class moves from die d to die e: the link carries, and the class owns a
slot of its timetable. -/
def linkServes (s : State) (d e cls : Nat) : Bool :=
  linkCarries s d e && (match s.img.inForce.bind fun i => (linkTo d e).bind fun l => i.linkttRec d l with
    | some r => r.owners.contains (owFree cls)
    | none => true)

/-! ### Errors (R236, R244, R245) -/

/-- Rows of R236, as info1 of an ECC_UE record numbers them (DEDUCED, log 29). -/
def rqPort : Nat := 0
def rqCache : Nat := 1
def rqWindow : Nat := 2
def rqMerge : Nat := 3
def rqScrub : Nat := 4

/-- Whether a line of memory holds data that was read with an uncorrectable error and has not been written whole
since. -/
def State.badLine (s : State) (a : Nat) : Bool := s.coh.poisoned.contains (a / 128)

/-- What a read of a line finds: an uncorrectable error stays until the line is written (R236). -/
def effEcc (s : State) (a : Nat) (e : Ecc) : Finding := if s.badLine a then .uncorrectable else e.finding

/-- The counters of R244 to R246 for one error. -/
def MemCtl.note (c : MemCtl) (ue : Bool) (ch off : Nat) : MemCtl :=
  let c := if ue then { c with ue := satAdd 16 c.ue 1 }
    else { c with ce := satAdd 32 c.ce 1, ceTotal := c.ceTotal + 1 }
  if c.lastValid && c.lastKind == 1 && !ue then c
  else { c with lastValid := true, lastKind := bit ue, lastChannel := ch, lastOffset := off / 128 * 128 }

/-- A read of the line at a by a requester: the error counters and records of R236. Only a scheduled port's record
names a troupe. A line that is corrected wrongly holds bytes that nothing constrains, and counts as corrected (R235). -/
def eccRead (a : Nat) (e : Ecc) (requester unit troupe : Nat) (s : State) : State :=
  match memOf a with
  | none => s
  | some (m, off) =>
    let ch := (chanLine (s.image.linearLimit m) m off).1
    let base : ErrRec := { unit := unit, code := if m < 12 then 1 else 2, troupe := troupe, addr := a / 128 * 128,
                           sceneId := if troupe = 0xFF then 0 else (s.troupe troupe).sceneId,
                           info0 := m * 256 + ch }
    let corrected := fun (s : State) =>
      let s := s.modMem m fun c => c.note false ch off
      if requester = rqPort then formRecord (memDie m) { base with cls := 3, severity := sevCorrected } s else s
    match effEcc s a e with
    | .clean => s
    | .corrected => corrected s
    | .miscorrected => corrected (s.freeFill (a / 128 * 128) 128)
    | .uncorrectable =>
      let s := s.modMem m fun c => c.note true ch off
      let s := if s.badLine a then s else { s with coh := { s.coh with poisoned := s.coh.poisoned ++ [a / 128] } }
      formRecord (memDie m) { base with cls := 4, severity := sevDeferred, info1 := requester } s

/-! ### Requests (R22, R77, R229, R234) -/

/-- Free classes of R47. -/
def clsCoh : Nat := 0
def clsWin : Nat := 1
def clsQue : Nat := 2
def clsPlc : Nat := 3
def clsVcd : Nat := 4
def clsDat : Nat := 5

/-- A request joins the queue of its memory. -/
def askLine (q : MemReq) (s : State) : State :=
  match memOf (128 * q.line) with
  | some (m, _) => s.modMem m fun c => { c with reqs := c.reqs ++ [{ q with since := s.time.span }] }
  | none => s

/-- The bytes of a line that lie in a range, as a mask. -/
def rangeMask (line a n : Nat) : List Bool :=
  (List.range 128).map fun i => decide (a ≤ 128 * line + i) && decide (128 * line + i < a + n)

/-- Line numbers of n bytes from a. -/
def linesOf (a n : Nat) : List Nat := if n = 0 then [] else (List.range ((a + n - 1) / 128 + 1 - a / 128)).map (· + a / 128)

/-- The lines of a range in the tiers are requested: each read in a slot, or, the bytes standing in memory, written in one
slot if whole and in two if not (R234). -/
def askRange (owner die a n : Nat) (write : Bool) (who : MemUser) (s : State) : State :=
  (linesOf a n).foldl (fun s l =>
    let mask := rangeMask l a n
    askLine { owner := owner, die := die, line := l, write := write, who := who
              mask := if write && !mask.all id then mask else [] } s) s

/-- The requests of a user that still wait. -/
def State.asks (s : State) (p : MemUser → Bool) : Bool := s.mems.any fun m => m.2.reqs.any fun q => p q.who

/-- The requests of a user that have taken no slot are discarded (R91). -/
def State.dropAsks (s : State) (p : MemUser → Bool) : State :=
  let keep := fun (q : MemReq) => !p q.who
  { s with mems := s.mems.map fun m => (m.1, { m.2 with reqs := m.2.reqs.filter keep }) }

/-- A request's class is one of R22. -/
def MemReq.free (q : MemReq) : Bool := q.owner / 2 ^ 28 == 2

/-- R17, R22: the link between the die that a request comes from and its memory's die carries the request and its answer. -/
def MemReq.carried (s : State) (q : MemReq) : Bool :=
  match memOf (128 * q.line) with
  | some (m, _) =>
    if q.free then linkServes s q.die (memDie m) (q.owner % 16) && linkServes s (memDie m) q.die (q.owner % 16)
    else linkCarries s q.die (memDie m) && linkCarries s (memDie m) q.die
  | none => false

/-- A home's own access. -/
def MemUser.coherent : MemUser → Bool
  | .home => true
  | .writeBack _ _ => true
  | .dataHome => true
  | _ => false

/-- Whether a request's turn has come: a home's accesses to one line keep their order (R396). -/
def MemReq.first (q : MemReq) (l : List MemReq) : Bool :=
  !q.who.coherent || (l.find? fun r => r.who.coherent && r.line == q.line) == some q

/-- R77: STR cycles from a scheduled port's request to the first slot that it may take, 20 ns. -/
def slotLead : Nat := 80

/-- The first request that a slot of channel ch, which begins at a span time and has an owner word, serves: one of that
owner, or any of a free class in the boot timetable (R23, R232). A scheduled port's waits 20 ns (R77). -/
def slotTaker (s : State) (m ch owner begins : Nat) : Option MemReq :=
  (s.memCtl m).reqs.find? fun q =>
    (channelOf s.image (128 * q.line)).any (fun p => p.2 == ch) &&
      (if owner = owBoot then q.free else q.owner == owner) && (q.free || decide (q.since + slotLead ≤ begins)) &&
      q.carried s && q.first (s.memCtl m).reqs

/-! ### Whole lines -/

/-- A write to the line at a cancels the scrub write-back of that line (R239). -/
def cancelWriteBack (a : Nat) (s : State) : State :=
  match memOf a with
  | none => s
  | some (m, off) =>
    let p := chanLine (s.image.linearLimit m) m off
    if tget none (s.memCtl m).writeBack p.1 = some p.2 then
      s.modMem m fun c => { c with writeBack := tset c.writeBack p.1 none }
    else s

/-- A whole line written to a tier: its bytes, fresh check bits, and no write-back of what stood there. -/
def storeLine (a : Nat) (bs : List Byte) (s : State) : State :=
  let s := cancelWriteBack a (s.store a bs)
  { s with coh := { s.coh with poisoned := without s.coh.poisoned (a / 128) } }

end Sys2Proof.Machine
end

