-- ==== Sys2Proof/Machine/Coherence.lean ====
section
/-! DEFINITION. The coherence protocol (16, R377 to R402): homes and their directories, caching agents, agent 12's
requests, directory eviction and purges. A line is named by A[47:7] and a home by 0 to 7: compute dies 0 to 3, then
Grottos 0 to 3. -/

namespace Sys2Proof.Machine

open Sys2Proof

/-! ### Homes and messages -/

/-- R27: home of a line. -/
def homeOf (line : Nat) : Option Nat := (memOf (128 * line)).map fun p => if p.1 < 12 then p.1 / 3 else p.1 - 8

/-- Agent identifier of a home (R377), and the die on which it lies. -/
def homeAgent (h : Nat) : Nat := 16 + h
def homeDie (h : Nat) : Nat := 1 + h

/-- R378: the L3 slice of a line. -/
def sliceOf (line : Nat) : Nat := foldChunks 3 14 line

/-- R379: set of a line at its home. -/
def setOf (h line : Nat) : Nat := if h < 4 then foldChunks 16 3 line else foldChunks 15 3 line

/-- A device die is out of reset (R549). -/
def State.dieUp (s : State) (d : Nat) : Bool := bitOf s.boot.dieMask (d - 1)

/-- Codes of R382. -/
def mRdShared : Nat := 0x01
def mRdUnique : Nat := 0x02
def mUpgrade : Nat := 0x03
def mRdOnce : Nat := 0x04
def mWrFull : Nat := 0x05
def mWrPart : Nat := 0x06
def mSnpShared : Nat := 0x11
def mSnpUnique : Nat := 0x12
def mSnpInv : Nat := 0x13
def mSnpCur : Nat := 0x14
def mRspI : Nat := 0x21
def mRspFwdS : Nat := 0x22
def mRspFwdSWb : Nat := 0x23
def mRspFwdI : Nat := 0x24
def mRspIWb : Nat := 0x25
def mRspFwdEvict : Nat := 0x26
def mRspIEvict : Nat := 0x27
def mRspCur : Nat := 0x28
def mCmp : Nat := 0x29
def mAck : Nat := 0x2A
def mWbAck : Nat := 0x2B
def mDataE : Nat := 0x31
def mDataS : Nat := 0x32
def mDataM : Nat := 0x33
def mDataHome : Nat := 0x34
def mDataI : Nat := 0x35
def mWbDirty : Nat := 0x41
def mWbClean : Nat := 0x42

/-- The I/O agent. -/
def ioAgent : Nat := 12

/-- A message goes into flight. -/
def cohSend (m : CohMsg) (s : State) : State := { s with coh := { s.coh with msgs := s.coh.msgs ++ [m] } }

/-- The die of an agent (R377). -/
def agentDie (a : Nat) : Nat := if a < 8 ∨ a = 12 then 0 else if a < 16 then 1 + (a - 8) else 1 + (a - 16)

/-- The first message in flight of a kind, of those that their class's slots carry over their link (R17, R22). -/
def cohFind (s : State) (p : CohMsg → Bool) : Option CohMsg :=
  s.coh.msgs.find? fun m => p m && linkServes s (agentDie m.src) (agentDie m.dst) m.cls

/-- A message has arrived. -/
def cohTake (m : CohMsg) (s : State) : State := { s with coh := { s.coh with msgs := s.coh.msgs.erase m } }

/-- A message of op on a line, to dst or from src. -/
def msgTo (op line dst : Nat) (m : CohMsg) : Bool := m.op == op && m.line == line && m.dst == dst
def msgFrom (op line src : Nat) (m : CohMsg) : Bool := m.op == op && m.line == line && m.src == src

def State.cline (s : State) (a line : Nat) : CLine := tget {} (tget [] s.coh.caches a) line
def State.setCline (s : State) (a line : Nat) (c : CLine) : State :=
  { s with coh := { s.coh with caches := tmod [] s.coh.caches a fun t => if c = {} then tdel t line else tset t line c } }

/-! ### Memory as a home sees it -/

/-- A home's read of a line in its slot: its bytes, and whether they are poisoned (R236). -/
def homeRead (line : Nat) (s : State) : List Byte × Bool := (s.bytes (128 * line) 128, s.badLine (128 * line))

/-- A whole line written by its home; poisoned data leaves the line poisoned. -/
def homeWrite (line : Nat) (data : List Byte) (poison : Bool) (s : State) : State :=
  let s := storeLine (128 * line) data s
  if poison then { s with coh := { s.coh with poisoned := s.coh.poisoned ++ [line] } } else s

/-- Masked bytes merged into a line (R234). -/
def homeMerge (line : Nat) (data : List Byte) (mask : List Bool) (s : State) : State :=
  cancelWriteBack (128 * line) { s with mem := memMasked s.mem (128 * line) data mask }

/-- The memory effect of a WrFull or WrPart. -/
def writeEffect (line : Nat) (r : HomeReq) (s : State) : State :=
  if r.op = mWrFull then homeWrite line r.data false s else if r.op = mWrPart then homeMerge line r.data r.mask s else s

/-- A home asks for a slot of a class on a line's channel: COH (R385), or that of agent 12's request (R22, R435). -/
def askHome (cls line : Nat) (write : Bool) (who : MemUser) (data : List Byte) (mask : List Bool) (poison : Bool) (s : State) : State :=
  askLine { owner := owFree cls, die := (homeOf line).elim 0 homeDie, line := line, write := write, who := who, data := data,
            mask := mask, poison := poison } s

/-! ### Credits (R383, R384) -/

/-- The home of a line as destination of an Ack; an owner may have sent the data. -/
def ackHome (line : Nat) : Nat := match homeOf line with
  | some h => homeAgent h
  | none => 0

/-- WB credits of a cache towards a home, request credits of an agent, and snoop credits of a cache (R384). -/
def wbCredits : Nat := 16
def reqCredits : Nat := 64
def snpCredits : Nat := 64

/-- Transaction identifiers of an agent's outstanding requests to a home: on their way, waiting there, or under way until
their transaction ends (R383, R384). -/
def txnsOut (s : State) (a h : Nat) : List Nat :=
  let x := s.home h
  ((s.coh.msgs.filter fun m => decide (m.op ≤ mWrPart) && m.src == a && m.dst == homeAgent h).map CohMsg.txn) ++
  (((x.lineQ ++ x.setQ).filter fun p => p.2.req == a).map fun p => p.2.txn) ++
  ((x.txns.filter fun p => !p.2.backInv && p.2.req.req == a).map fun p => p.2.req.txn)

/-- The least transaction identifier that no outstanding request of the agent to the home uses (R383). -/
def freeTxn (s : State) (a h : Nat) : Nat := ((List.range reqCredits).find? fun n => !(txnsOut s a h).contains n).getD reqCredits

/-- Whether an agent has a request credit of a home (R384). -/
def hasReqCredit (s : State) (a h : Nat) : Bool := decide ((txnsOut s a h).length < reqCredits)

/-- A request of agent 12 leaves if it has a credit of its home. -/
def ioSend (s : State) (p : Nat × CohMsg) : State :=
  let h := p.2.dst - 16
  if hasReqCredit s ioAgent h then
    let n := freeTxn s ioAgent h
    cohSend { p.2 with txn := n } { s with coh := { s.coh with ioWait := s.coh.ioWait.erase p, ioSent := s.coh.ioSent ++ [(h, n, p.1)] } }
  else s

/-- The requests of agent 12 leave as their homes have credits for them, in order. -/
def ioPump (s : State) : State := s.coh.ioWait.foldl ioSend s

/-- Snoops of a home that a cache has still to answer. -/
def Home.snpsOut (x : Home) (a : Nat) : Nat :=
  (x.txns.countP fun p => p.2.awaiting.contains a) - x.snpQ.countP fun m => m.dst == a

/-- A snoop of a transaction goes to its cache, or waits for a credit of it. -/
def sendSnoop (h : Nat) (m : CohMsg) (s : State) : State :=
  if (s.home h).snpsOut m.dst ≤ snpCredits then cohSend m s else s.modHome h fun x => { x with snpQ := x.snpQ ++ [m] }

/-- A cache has answered: the first snoop that waits for its credit leaves. -/
def releaseSnoop (h a : Nat) (s : State) : State :=
  match (s.home h).snpQ.find? fun m => m.dst == a with
  | some m => cohSend m (s.modHome h fun x => { x with snpQ := x.snpQ.erase m })
  | none => s

/-! ### Directory and ways -/

/-- Sharers of a vector, ascending. -/
def sharerList (v : Nat) : List Nat := bitsSet 12 0 v

def addSharer (v a : Nat) : Nat := if bitOf v a then v else v + 2 ^ a

def Home.entry (x : Home) (line : Nat) : Option DirState :=
  (x.dir.find? fun p => p.1 == line).map fun p => p.2.st

def Home.busy (x : Home) (line : Nat) : Bool := thas x.txns line

/-- Entries of a line's set. -/
def Home.ways (x : Home) (h line : Nat) : Tbl DirEntry := x.dir.filter fun p => setOf h p.1 == setOf h line

/-- R392: what a line that needs an entry finds: an invalid way, a victim, or nothing. -/
inductive Way where
  | invalid
  | victim (line : Nat)
  | none
deriving DecidableEq, Repr

/-- The pair with the oldest stamp. -/
def oldest : Tbl DirEntry → Option (Nat × DirEntry)
  | [] => none
  | p :: t => match oldest t with
    | some q => if q.2.stamp < p.2.stamp then some q else some p
    | none => some p

def Home.way (x : Home) (h line : Nat) : Way :=
  let ws := x.ways h line
  if ws.length < 16 then .invalid
  else match oldest (ws.filter fun p => !x.busy p.1) with
    | some p => .victim p.1
    | none => .none

/-- An entry is written with the home's next stamp. -/
def Home.allocate (x : Home) (line : Nat) (st : DirState) : Home :=
  { x with dir := tset x.dir line { st := st, stamp := x.stamp }, stamp := x.stamp + 1 }

/-- The directory state of a line after a transaction. -/
def Home.settle (x : Home) (line : Nat) (final : Option DirState) : Home :=
  match final with
  | none => { x with dir := tdel x.dir line }
  | some st => { x with dir := tset x.dir line { st := st, stamp := (tget { st := st, stamp := x.stamp } x.dir line).stamp } }

/-! ### Transactions -/

/-- Whether a request needs a directory entry when the line has none (R385). -/
def needsEntry (op : Nat) : Bool := op == mRdShared || op == mRdUnique || op == mUpgrade

/-- Snoops of a transaction. -/
def sendSnoops (h line op : Nat) (r : HomeReq) (targets : List Nat) (s : State) : State :=
  targets.foldl (fun s a => sendSnoop h { op := op, line := line, txn := r.txn, req := r.req, dst := a, src := homeAgent h } s) s

/-- R385: the transaction of a request, its snoop, by directory state. -/
def planTxn (r : HomeReq) (d : Option DirState) (now : Nat) : Txn × Nat :=
  let t : Txn := { req := r, since := now }
  let em : Option DirState := some (.EM r.req)
  let unique := mDataM
  match d with
  | none =>
    if r.op = mRdShared then ({ t with give := some mDataE, final := em }, 0)
    else if r.op = mRdOnce then ({ t with give := some mDataI }, 0)
    else if needsEntry r.op then ({ t with give := some unique, final := em }, 0)
    else ({ t with give := some mCmp }, 0)
  | some (.S v) =>
    let others := without (sharerList v) r.req
    if r.op = mRdShared then ({ t with give := some mDataS, final := some (.S (addSharer v r.req)) }, 0)
    else if r.op = mRdOnce then ({ t with give := some mDataI, final := d }, 0)
    else if r.op = mUpgrade ∧ bitOf v r.req = true then
      ({ t with give := some mCmp, final := em, awaiting := others }, mSnpInv)
    else if needsEntry r.op then ({ t with give := some unique, final := em, awaiting := others }, mSnpInv)
    else ({ t with give := some mCmp, awaiting := others }, mSnpInv)
  | some (.EM o) =>
    if r.op = mRdShared then ({ t with give := some mDataE, final := em, awaiting := [o] }, mSnpShared)
    else if r.op = mRdOnce then ({ t with give := some mDataI, final := d, awaiting := [o] }, mSnpCur)
    else if needsEntry r.op then ({ t with give := some unique, final := em, awaiting := [o] }, mSnpUnique)
    else ({ t with give := some mCmp, awaiting := [o] }, mSnpInv)

/-- A WB's data goes to memory in a slot of the home, and WbAck follows it; a clean one is acknowledged at once (R388,
R389). -/
def absorbWb (h line agent : Nat) (data : Option (List Byte × Bool)) (s : State) : State :=
  match data with
  | some d => askHome clsCoh line true (.writeBack agent 0) d.1 [] d.2 s
  | none => cohSend { op := mWbAck, line := line, req := agent, dst := agent, src := homeAgent h } s

/-- R388: a WB against the directory state of a line that is not busy; from an agent that is not the recorded owner
it is a fatal error. The record's info1 has no encoding in the spec and is free. -/
def applyWb (h line : Nat) (w : HeldWb) (s : State) : State :=
  if (s.home h).entry line = some (.EM w.agent) then
    absorbWb h line w.agent (if w.dirty then some (w.data, w.poison) else none)
      (s.modHome h fun x => { x with dir := tdel x.dir line })
  else
    let s := s.draw
    formRecord (homeDie h) { cls := 6, severity := sevFatal, code := 1, addr := 128 * line, info0 := w.agent,
                             info1 := (Config.freeWord64 s.fresh).toNat } s

/-- R389, first: an announced WB goes to memory behind its transaction; where the transaction wrote the line itself,
that write stays on top (R396; DEDUCED). -/
def applyAnnounced (h line : Nat) (r : HomeReq) (w : HeldWb) (s : State) : State :=
  let data := if r.op = mWrFull then r.data
    else if r.op = mWrPart then (List.range 128).map fun i => if r.mask.getD i false then r.data.getD i 0 else w.data.getD i 0
    else w.data
  absorbWb h line w.agent (if w.dirty then some (data, w.poison && r.op != mWrFull) else none) s

/-- The memory access of a transaction's effect (R385): a write, with the bytes that it covers, or a read. -/
def Txn.access (t : Txn) : Option (Bool × List Bool) :=
  if t.req.op = mWrFull then some (true, []) else if t.req.op = mWrPart then some (true, t.req.mask)
  else match t.give with
    | some op => if op = mCmp then none else some (false, [])
    | none => none

/-- The effect of a transaction whose responses are in and whose slots have come: data, Cmp or memory write, and the final
state (R385). A partial write whose line cannot be read is dropped (R236). -/
def giveEffect (h line : Nat) (t : Txn) (dropped : Bool) (s : State) : State :=
  let s := if dropped then s else writeEffect line t.req s
  let reply : CohMsg := { op := t.give.getD 0, line := line, txn := t.req.txn, req := t.req.req, dst := t.req.req, src := homeAgent h, cls := t.req.cls }
  let s := match t.give with
    | none => s
    | some op =>
      if op = mCmp then cohSend reply s
      else
        let r := homeRead line s
        cohSend { reply with data := r.1, poison := r.2 } s
  s.modHome h fun x => { (x.settle line t.final) with txns := tset x.txns line { t with effectDue := false, memWait := false } }

/-- Every response, and every DataHome announced, has come. -/
def Txn.answered (t : Txn) : Bool := !t.waitWay && t.awaiting.isEmpty && t.dataDue.all t.dataGot.contains

/-- A back-invalidation begins on a line with an entry (R392, R399). -/
def startBackInv (h line : Nat) (forLine : Option Nat) (s : State) : State :=
  let targets := match (s.home h).entry line with
    | some (.S v) => sharerList v
    | some (.EM o) => [o]
    | none => []
  let r : HomeReq := { op := 0, req := homeAgent h, txn := 0 }
  let t : Txn := { req := r, awaiting := targets, acked := true, backInv := true, forLine := forLine, since := s.time.span }
  sendSnoops h line mSnpInv r targets
    (s.modHome h fun x => { x with txns := tset x.txns line t, backInv := satAdd 16 x.backInv 1 })

/-- Enough turns for every chain of ends that one event can start. -/
def cohFuel : Nat := 8

/-- A transaction goes as far as it can: its effect once it is answered, its end under R386 once it is acknowledged
and every announced WB is here. At the end the held WBs are applied (R389), a way freed for a waiting line is
handed over (R392), and a purge that found the line busy takes its turn (R399). -/
def advanceTxn (h line : Nat) : Nat → State → State
  | 0, s => s
  | fuel + 1, s =>
    match (s.home h).txns.find? fun p => p.1 == line with
    | none => s
    | some (_, t) =>
      if t.effectDue && t.answered then
        if t.memWait then s
        else match t.access with
          | some a => askHome t.req.cls line a.1 .home [] a.2 false (s.modHome h fun x => { x with txns := tset x.txns line { t with memWait := true } })
          | none => advanceTxn h line fuel (giveEffect h line t false s)
      else if !t.effectDue && t.answered && t.acked && t.announced.isEmpty then
        let mine := ((s.home h).heldWbs.filter fun p => p.1 == line).map Prod.snd
        let s := s.modHome h fun x => { x with
          txns := tdel x.txns line
          heldWbs := x.heldWbs.filter fun p => p.1 != line
          purgeLeft := if t.backInv then without x.purgeLeft line else x.purgeLeft }
        let s := (mine.filter HeldWb.announced).foldl (fun s w => applyAnnounced h line t.req w s) s
        let s := (mine.filter fun w => !w.announced).foldl (fun s w => applyWb h line w s) s
        let s := if t.req.req = ioAgent then ioPump s else s
        match t.forLine with
        | some l =>
          advanceTxn h l fuel (s.modHome h fun x =>
            let w := tget { req := { op := 0, req := 0, txn := 0 } } x.txns l
            { (x.allocate l (w.final.getD (.EM w.req.req))) with txns := tset x.txns l { w with waitWay := false } })
        | none =>
          if (s.home h).purgeLeft.contains line then
            if ((s.home h).entry line).isSome then advanceTxn h line fuel (startBackInv h line none s)
            else s.modHome h fun x => { x with purgeLeft := without x.purgeLeft line }
          else s
      else s

/-- The slot that a transaction's effect awaits has come (R385). -/
def homeServed (line : Nat) (dropped : Bool) (s : State) : State :=
  match homeOf line with
  | none => s
  | some h => match (s.home h).txns.find? fun p => p.1 == line && p.2.memWait with
    | some p => advanceTxn h line cohFuel (giveEffect h line p.2 dropped s)
    | none => s

/-- A WB's data has been written: its cache is told (R389). -/
def backWritten (line agent : Nat) (s : State) : State :=
  match homeOf line with
  | some h => cohSend { op := mWbAck, line := line, req := agent, dst := agent, src := homeAgent h } s
  | none => s

/-- R385, R392: a request starts on a line that is not busy, with a way where it needs one. -/
def beginTxn (h line : Nat) (r : HomeReq) (s : State) : State :=
  let d := (s.home h).entry line
  let p := planTxn r d s.time.span
  let s := s.modHome h fun x => { x with requests := satAdd 32 x.requests 1 }
  if d.isNone && needsEntry r.op then
    match (s.home h).way h line with
    | .victim v =>
      let s := s.modHome h fun x => { x with txns := tset x.txns line { p.1 with waitWay := true } }
      advanceTxn h v cohFuel (startBackInv h v (some line) s)
    | _ => advanceTxn h line cohFuel (s.modHome h fun x =>
        { (x.allocate line (.EM r.req)) with txns := tset x.txns line p.1 })
  else
    let s := s.modHome h fun x => { x with txns := tset x.txns line p.1 }
    advanceTxn h line cohFuel (sendSnoops h line p.2 r p.1.awaiting s)

/-- Whether a request can have the way it needs. -/
def Home.canStart (x : Home) (h line op : Nat) : Bool :=
  (x.entry line).isSome || !needsEntry op || x.way h line != .none

/-- A request reaches its home: it starts, or waits behind its line (R386) or in its set's queue (R393). -/
def homeRequest (h line : Nat) (r : HomeReq) (s : State) : State :=
  let x := s.home h
  if x.busy line || x.lineQ.any fun p => p.1 == line then
    s.modHome h fun x => { x with lineQ := x.lineQ ++ [(line, r)] }
  else if (x.setQ.any fun p => p.1 == line) ||
      ((x.entry line).isNone && needsEntry r.op && x.setQ.any fun p => setOf h p.1 == setOf h line) ||
      !x.canStart h line r.op then
    s.modHome h fun x =>
      let q := x.setQ ++ [(line, r)]
      { x with setQ := q, qpeak := max x.qpeak (min 255 (q.filter fun p => setOf h p.1 == setOf h line).length) }
  else beginTxn h line r s

/-- A request message arrives at the home of its line. -/
def requestRow (op a line : Nat) (txn : Nat) (s : State) : Host.Outcome State Fault Refusal :=
  match homeOf line with
  | none => .next s
  | some h => eventOf s (cohFind s fun m => msgFrom op line a m && m.txn == txn) fun m s =>
      homeRequest h line { op := op, req := a, txn := txn, data := m.data, mask := m.mask, cls := m.cls } (cohTake m s)

/-- RD_SHARED (R385, R392). -/
def execRdShared (a : AgentId) (line txn : Nat) (s : State) : Host.Outcome State Fault Refusal :=
  requestRow mRdShared a line txn s

/-- RD_UNIQUE (R385, R392). -/
def execRdUnique (a : AgentId) (line txn : Nat) (s : State) : Host.Outcome State Fault Refusal :=
  requestRow mRdUnique a line txn s

/-- UPGRADE (R385, R391). -/
def execUpgrade (a : AgentId) (line txn : Nat) (s : State) : Host.Outcome State Fault Refusal :=
  requestRow mUpgrade a line txn s

/-- RD_ONCE (R385). -/
def execRdOnce (line txn : Nat) (s : State) : Host.Outcome State Fault Refusal := requestRow mRdOnce ioAgent line txn s

/-- WR_FULL (R385). -/
def execWrFull (line txn : Nat) (s : State) : Host.Outcome State Fault Refusal := requestRow mWrFull ioAgent line txn s

/-- WR_PART (R385). -/
def execWrPart (line txn : Nat) (s : State) : Host.Outcome State Fault Refusal := requestRow mWrPart ioAgent line txn s

/-- QUEUED_REQUEST_START (R386). A request for the line that waits in its set's queue came earlier and goes first. -/
def execQueuedRequestStart (line : Nat) (s : State) : Host.Outcome State Fault Refusal :=
  match homeOf line with
  | none => .next s
  | some h =>
    let x := s.home h
    eventOf s (if x.busy line || x.setQ.any (fun p => p.1 == line) then none
        else x.lineQ.find? fun p => p.1 == line) fun p s =>
      let s := s.modHome h fun x => { x with lineQ := x.lineQ.erase p }
      if x.canStart h line p.2.op then beginTxn h line p.2 s
      else s.modHome h fun x => { x with setQ := x.setQ ++ [p] }

/-- SET_QUEUE_REQUEST_START (R393). -/
def execSetQueueRequestStart (home : AgentId) (set : Nat) (s : State) : Host.Outcome State Fault Refusal :=
  let h := home.val - 16
  let x := s.home h
  let front := x.setQ.find? fun p => setOf h p.1 == set
  eventOf s (if home.val < 16 then none
      else front.filter fun p => !x.busy p.1 && x.canStart h p.1 p.2.op) fun p s =>
    beginTxn h p.1 p.2 (s.modHome h fun x => { x with setQ := x.setQ.erase p })

/-! ### Caches answer snoops (R387) -/

/-- The code with which a cache answers a snoop: its response, the data that it forwards to the requester, whether
DataHome follows, and its next state. -/
structure Answer where
  rsp : Nat
  fwd : Option Nat := none
  toHome : Bool := false
  next : CState
deriving DecidableEq, Repr

/-- R387. -/
def answerOf (snp : Nat) (st : CState) : Answer :=
  match st with
  | .I => { rsp := mRspI, next := .I }
  | .IS => { rsp := mRspI, next := .IS }
  | .IM => { rsp := mRspI, next := .IM }
  | .S => { rsp := mRspI, next := .I }
  | .SM => { rsp := mRspI, next := .IM }
  | .E =>
    if snp = mSnpShared then { rsp := mRspFwdS, fwd := some mDataS, next := .S }
    else if snp = mSnpUnique then { rsp := mRspFwdI, fwd := some mDataM, next := .I }
    else if snp = mSnpInv then { rsp := mRspI, next := .I }
    else { rsp := mRspCur, fwd := some mDataI, next := .E }
  | .M =>
    if snp = mSnpShared then { rsp := mRspFwdSWb, fwd := some mDataS, toHome := true, next := .S }
    else if snp = mSnpUnique then { rsp := mRspFwdI, fwd := some mDataM, next := .I }
    else if snp = mSnpInv then { rsp := mRspIWb, toHome := true, next := .I }
    else { rsp := mRspCur, fwd := some mDataI, next := .M }
  | .WBP =>
    if snp = mSnpShared then { rsp := mRspFwdEvict, fwd := some mDataS, next := .WBP }
    else if snp = mSnpUnique then { rsp := mRspFwdEvict, fwd := some mDataM, next := .WBP }
    else if snp = mSnpInv then { rsp := mRspIEvict, next := .WBP }
    else { rsp := mRspFwdEvict, fwd := some mDataI, next := .WBP }

/-- A line of a cache in a next state: in I nothing is held, in IM the copy is gone and the store still waits. -/
def CLine.to (c : CLine) (n : CState) : CLine :=
  match n with
  | .I => {}
  | .IM => { c with st := .IM, data := [], poison := false }
  | n => { c with st := n }

/-! ### The harts' caches and reservations (R451, R454)

R454 gives each cache's size and ways; no rule gives its index and replacement (DESIGN CHOICE, log 116). -/

/-- Ways and sets of an L2, 1 MiB of lines of 128 bytes, and of an L1, 64 KiB of blocks of 64 bytes. -/
def l2Ways : Nat := 8
def l2Sets : Nat := 1024
def l1Ways : Nat := 4
def l1Sets : Nat := 256

/-- An entry comes into a cache, or is used there: the entry of its set longest unused makes room. -/
def cacheUse (ways sets e : Nat) (held : List Nat) : List Nat :=
  let rest := without held e
  let mine := rest.filter fun l => l % sets == e % sets
  e :: (if mine.length < ways then rest else without rest (mine.getLastD 0))

/-- A block is used, by a fetch or by another access: its line is in the L2, which includes both L1 caches. -/
def Hart.useBlock (x : Hart) (fetch : Bool) (block : Nat) : Hart :=
  let l2 := cacheUse l2Ways l2Sets (block / 2) x.l2
  let kept := fun (bs : List Nat) => bs.filter fun b => l2.contains (b / 2)
  let into := cacheUse l1Ways l1Sets block
  { x with l2 := l2, l1i := (if fetch then into else id) (kept x.l1i), l1d := (if fetch then id else into) (kept x.l1d) }

/-- The one or two blocks of n bytes of a line are used. -/
def Hart.useBytes (x : Hart) (fetch : Bool) (addr n : Nat) : Hart :=
  let x := x.useBlock fetch (addr / 64)
  if (addr + n - 1) / 64 = addr / 64 + 1 then x.useBlock fetch (addr / 64 + 1) else x

/-- The L3 is inclusive: a line that an L3 slice loses leaves every L1 and L2, and reservations in it are lost (R377, R454). -/
def leaveSlice (a line : Nat) (s : State) : State :=
  let out := fun (bs : List Nat) => bs.filter fun b => b / 2 != line
  let gone := fun (x : Hart) => { x with l2 := without x.l2 line, l1i := out x.l1i, l1d := out x.l1d, reserved := x.reserved.filter fun b => b / 2 != line }
  if 8 ≤ a then s else { s with host := { s.host with harts := s.host.harts.map fun p => (p.1, gone p.2) } }

/-- A write by a hart takes away other harts' reservations of the block. -/
def breakReservations (h block : Nat) (s : State) : State :=
  let other := fun (p : Nat × Hart) => if p.1 = h then p.2 else { p.2 with reserved := p.2.reserved.filter fun b => b != block }
  { s with host := { s.host with harts := s.host.harts.map fun p => (p.1, other p) } }

/-- A snoop reaches a cache. -/
def snoopRow (op a line : Nat) (s : State) : Host.Outcome State Fault Refusal :=
  eventOf s (cohFind s (msgTo op line a)) fun m s =>
    let c := s.cline a line
    let r := answerOf op c.st
    let s := (cohTake m s).setCline a line (c.to r.next)
    let s := if r.next = .I ∨ r.next = .IM then leaveSlice a line s else s
    let base : CohMsg := { op := r.rsp, line := line, txn := m.txn, req := m.req, dst := m.src, src := a }
    let s := cohSend base s
    let s := match r.fwd with
      | some d => cohSend { base with op := d, dst := m.req, data := c.data, poison := c.poison } s
      | none => s
    if r.toHome then cohSend { base with op := mDataHome, data := c.data, poison := c.poison } s else s

/-- SNP_SHARED (R387). -/
def execSnpShared (a : AgentId) (line : Nat) (s : State) : Host.Outcome State Fault Refusal := snoopRow mSnpShared a line s

/-- SNP_UNIQUE (R387). -/
def execSnpUnique (a : AgentId) (line : Nat) (s : State) : Host.Outcome State Fault Refusal := snoopRow mSnpUnique a line s

/-- SNP_INV (R387, R391). -/
def execSnpInv (a : AgentId) (line : Nat) (s : State) : Host.Outcome State Fault Refusal := snoopRow mSnpInv a line s

/-- SNP_CUR (R387). -/
def execSnpCur (a : AgentId) (line : Nat) (s : State) : Host.Outcome State Fault Refusal := snoopRow mSnpCur a line s

/-! ### Responses at the home -/

/-- The owner has forwarded the data: the home sends none. -/
def Txn.forwarded (t : Txn) (final : Option DirState) : Txn := { t with give := none, final := final }

/-- A response's mark on its transaction, of agent a. -/
def Txn.respond (t : Txn) (op a : Nat) : Txn :=
  let t := { t with awaiting := without t.awaiting a }
  let req := t.req.op
  if op = mRspFwdS then t.forwarded (some (.S (addSharer (2 ^ a) t.req.req)))
  else if op = mRspFwdSWb then { (t.forwarded (some (.S (addSharer (2 ^ a) t.req.req)))) with dataDue := t.dataDue ++ [a] }
  else if op = mRspFwdI then t.forwarded t.final
  else if op = mRspIWb then { t with dataDue := t.dataDue ++ [a] }
  else if op = mRspCur then t.forwarded t.final
  else if op = mRspFwdEvict then
    t.forwarded (if req = mRdShared then some (.S (2 ^ t.req.req)) else if req = mRdOnce then none else t.final)
  else t

/-- A response reaches the home. A crossing eviction announces its WB, unless the WB is here already (R389). -/
def responseRow (op a line : Nat) (s : State) : Host.Outcome State Fault Refusal :=
  match homeOf line with
  | none => .next s
  | some h => eventOf s (cohFind s (msgFrom op line a)) fun m s =>
      let s := cohTake m s
      match (s.home h).txns.find? fun p => p.1 == line with
      | none => s
      | some (_, t) =>
        let t := t.respond op a
        let evict := op == mRspFwdEvict || op == mRspIEvict
        let here := (s.home h).heldWbs.any fun p => p.1 == line && p.2.agent == a
        let t := if evict && !here then { t with announced := t.announced ++ [a] } else t
        advanceTxn h line cohFuel (releaseSnoop h a (s.modHome h fun x => { x with
          txns := tset x.txns line t
          crossings := if evict then satAdd 16 x.crossings 1 else x.crossings
          heldWbs := if evict then x.heldWbs.map fun p =>
              if p.1 = line ∧ p.2.agent = a then (p.1, { p.2 with announced := true }) else p
            else x.heldWbs }))

/-- RSP_I (R387). -/
def execRspI (a : AgentId) (line : Nat) (s : State) : Host.Outcome State Fault Refusal := responseRow mRspI a line s

/-- RSP_FWD_S (R387). -/
def execRspFwdS (a : AgentId) (line : Nat) (s : State) : Host.Outcome State Fault Refusal := responseRow mRspFwdS a line s

/-- RSP_FWD_S_WB (R385, R387). -/
def execRspFwdSWb (a : AgentId) (line : Nat) (s : State) : Host.Outcome State Fault Refusal := responseRow mRspFwdSWb a line s

/-- RSP_FWD_I (R387). -/
def execRspFwdI (a : AgentId) (line : Nat) (s : State) : Host.Outcome State Fault Refusal := responseRow mRspFwdI a line s

/-- RSP_I_WB (R387). -/
def execRspIWb (a : AgentId) (line : Nat) (s : State) : Host.Outcome State Fault Refusal := responseRow mRspIWb a line s

/-- RSP_FWD_EVICT (R389). -/
def execRspFwdEvict (a : AgentId) (line : Nat) (s : State) : Host.Outcome State Fault Refusal := responseRow mRspFwdEvict a line s

/-- RSP_I_EVICT (R389). -/
def execRspIEvict (a : AgentId) (line : Nat) (s : State) : Host.Outcome State Fault Refusal := responseRow mRspIEvict a line s

/-- RSP_CUR (R387). -/
def execRspCur (a : AgentId) (line : Nat) (s : State) : Host.Outcome State Fault Refusal := responseRow mRspCur a line s

/-- DATA_HOME (R385, R387): it goes to memory in a slot of the home. -/
def execDataHome (a : AgentId) (line : Nat) (s : State) : Host.Outcome State Fault Refusal :=
  match homeOf line with
  | none => .next s
  | some h => eventOf s (cohFind s (msgFrom mDataHome line a)) fun m s =>
      let s := askHome clsCoh line true .dataHome m.data [] m.poison (cohTake m s)
      advanceTxn h line cohFuel (s.modHome h fun x => { x with
        txns := x.txns.map fun p => if p.1 = line then (p.1, { p.2 with dataGot := p.2.dataGot ++ [a.val] }) else p })

/-- ACK (R386). -/
def execAck (a : AgentId) (line : Nat) (s : State) : Host.Outcome State Fault Refusal :=
  match homeOf line with
  | none => .next s
  | some h => eventOf s (cohFind s (msgFrom mAck line a)) fun m s =>
      advanceTxn h line cohFuel ((cohTake m s).modHome h fun x => { x with
        txns := x.txns.map fun p => if p.1 = line then (p.1, { p.2 with acked := true }) else p })

/-! ### What a cache sends -/

/-- Lines of a cache in some of the states whose home is h. -/
def linesIn (s : State) (a h : Nat) (sts : List CState) : Nat :=
  ((tget [] s.coh.caches a).filter fun p => sts.contains p.2.st && homeOf p.1 == some h).length

/-- Whether a cache has a WB credit for a line's home. -/
def hasWbCredit (s : State) (a line : Nat) : Bool :=
  (homeOf line).any fun h => decide (linesIn s a h [.WBP] < wbCredits)

/-- Lines that a cache holds (R377): a slice of 24 MiB or an edge cache of 64 MiB. The spec gives no set index, so only
the whole cache is bounded. -/
def cacheLines (a : Nat) : Nat := if a < 8 then 196_608 else 524_288

/-- R380: a line in E or M is evicted. -/
def evictLine (a line : Nat) (s : State) : State :=
  let c := s.cline a line
  let m := decide (c.st = .M)
  let s := cohSend { op := if m then mWbDirty else mWbClean, line := line, req := a, dst := ackHome line, src := a,
                     data := if m then c.data else [], poison := m && c.poison } s
  leaveSlice a line (s.setCline a line { c with st := .WBP, dirty := m })

/-- A cache sends a request of a class and enters a state (R380), where it has a request credit (R384) and room for the
line (R377). -/
def cacheRequest (cls a line op : Nat) (c : CLine) (s : State) : State :=
  match homeOf line with
  | none => s
  | some h =>
    if hasReqCredit s a h = true ∧ (thas (tget [] s.coh.caches a) line ∨ (tget [] s.coh.caches a).length < cacheLines a) then
      let n := freeTxn s a h
      (cohSend { op := op, line := line, txn := n, req := a, dst := homeAgent h, src := a, cls := cls } s).setCline a line { c with txn := n }
    else s

/-- Whether a cache holds a line that may be read, and one that may be written. -/
def sliceHas (s : State) (a line : Nat) : Bool := [CState.S, .E, .M, .SM].contains (s.cline a line).st
def sliceOwns (s : State) (a line : Nat) : Bool := (s.cline a line).st == .M || (s.cline a line).st == .E

/-- Bytes of a line with a store made. -/
def patch (data : List Byte) (off : Nat) (bs : List Byte) : List Byte := data.take off ++ bs ++ data.drop (off + bs.length)

/-! ### Edge caches (R377, R468, R473, R478, R483)

A free engine reads and writes through agent 8 + d. Each access of it is an entry of CohState.edge: a line that it needs and
the cache does not hold as needed is requested, in the class of the engine (R468, R483); once the line is there the access
is made, at the latest as the line's data arrives. Accesses to one line keep their order. -/

/-- The lines that an access touches: one, or two where an element of R473 lies across them. -/
def EdgeAsk.lines (q : EdgeAsk) : List Nat := linesOf q.addr (max 1 q.data.length)

/-- Class of an engine's accesses (R22, R468, R483). -/
def EdgeUser.cls : EdgeUser → Nat
  | .data _ => clsDat
  | _ => clsVcd

/-- A line that an access needs is requested where the cache does not hold it so. -/
def edgeFetch (cls a : Nat) (own : Bool) (s : State) (line : Nat) : State :=
  let c := s.cline a line
  match c.st with
  | .I => cacheRequest cls a line (if own then mRdUnique else mRdShared) { st := if own then .IM else .IS } s
  | .S => if own then cacheRequest cls a line mUpgrade { c with st := .SM } s else s
  | _ => s

/-- Bytes put into a line that the cache holds in E or M (R380). A line written whole is no longer poisoned (R236). -/
def edgePut (a addr : Nat) (bs : List Byte) (s : State) : State :=
  let c := s.cline a (addr / 128)
  s.setCline a (addr / 128) { c with st := .M, data := patch c.data (addr % 128) bs, poison := c.poison && decide (bs.length < 128) }

/-- FP32 elements of a row added to another's (R473). -/
def addRow (old new : List Byte) : List Byte :=
  (List.range (old.length / 4)).flatMap fun k =>
    leBytes 4 (fAdd (BitVec.ofNat 32 (fieldAt old (4 * k) 4)) (BitVec.ofNat 32 (fieldAt new (4 * k) 4))).val.toNat

/-- An element added to the one at its address, in one line or across two. -/
def edgeAdd (a : Nat) (q : EdgeAsk) (s : State) : State :=
  let held := fun (i : Nat) => (s.cline a ((q.addr + i) / 128)).data.getD ((q.addr + i) % 128) 0
  let sum := addRow ((List.range q.data.length).map held) q.data
  let k := 128 - q.addr % 128
  let s := edgePut a q.addr (sum.take k) s
  if k < sum.length then edgePut a (q.addr + k) (sum.drop k) s else s

/-- A line that has been written is evicted (R483): written back where it is dirty, and gone once WbAck has come. -/
def edgeOut (a : Nat) (q : EdgeAsk) (s : State) : EdgeAsk × State :=
  let line := q.addr / 128
  match (s.cline a line).st with
  | .M | .E => (q, if hasWbCredit s a line then evictLine a line s else s)
  | .S => ({ q with done := true }, s.setCline a line {})
  | .WBP => (q, s)
  | _ => ({ q with done := true }, s)

/-- An access is made, or what it still needs is asked for. An element in a poisoned line is not added to. -/
def edgeStep (a : Nat) (q : EdgeAsk) (s : State) : EdgeAsk × State :=
  let line := q.addr / 128
  let ask := fun (own : Bool) => (q, q.lines.foldl (edgeFetch q.who.cls a own) s)
  let ready := q.lines.all (sliceOwns s a)
  match q.kind with
  | .read =>
    if sliceHas s a line then ({ q with done := true, data := (s.cline a line).data, poison := (s.cline a line).poison }, s) else ask false
  | .write => if ready then ({ q with done := true }, edgePut a q.addr q.data s) else ask true
  | .add =>
    if !ready then ask true
    else if q.lines.any fun l => (s.cline a l).poison then ({ q with done := true, poison := true }, s)
    else ({ q with done := true }, edgeAdd a q s)
  | .out =>
    if q.put then edgeOut a q s
    else if ready then edgeOut a { q with put := true } (edgePut a q.addr q.data s)
    else ask true

/-- The accesses at an edge cache in order; one to a line of which an earlier one is not done waits behind it. -/
def edgeGo (a : Nat) : List EdgeAsk → List Nat → State → List EdgeAsk × State
  | [], _, s => ([], s)
  | q :: t, held, s =>
    if q.done || 8 + q.die != a || q.lines.any held.contains then
      let r := edgeGo a t (if q.done || 8 + q.die != a then held else q.lines ++ held) s
      (q :: r.1, r.2)
    else
      let p := edgeStep a q s
      let r := edgeGo a t (if p.1.done then held else q.lines ++ held) p.2
      (p.1 :: r.1, r.2)

/-- The accesses at an edge cache take their turns. -/
def edgeTurn (a : Nat) (s : State) : State :=
  if s.coh.edge.all fun q => q.done || 8 + q.die != a then s
  else
    let r := edgeGo a s.coh.edge [] s
    { r.2 with coh := { r.2.coh with edge := r.1 } }

/-- The lines of ranges are to be read through the edge cache of compute die d. -/
def askEdgeReads (d : Nat) (who : EdgeUser) (rs : List (Nat × Nat)) (s : State) : State :=
  let ls := (rs.flatMap fun r => linesOf r.1 r.2).eraseDups
  edgeTurn (8 + d) { s with coh := { s.coh with edge := s.coh.edge ++ ls.map fun l => { die := d, who := who, kind := .read, addr := 128 * l } } }

/-- A byte string cut at the lines' bounds. -/
def linePieces : Nat → Nat → List Byte → List (Nat × List Byte)
  | 0, _, _ => []
  | fuel + 1, a, bs =>
    if bs.isEmpty then [] else (a, bs.take (128 - a % 128)) :: linePieces fuel (a + (128 - a % 128)) (bs.drop (128 - a % 128))

/-- The accesses that put a byte string: by line, or, where they add, by element. -/
def edgePuts (d : Nat) (who : EdgeUser) (kind : EdgeKind) (a : Nat) (bs : List Byte) : List EdgeAsk :=
  let ps := if kind = .add then (List.range (bs.length / 4)).map fun k => (a + 4 * k, (bs.drop (4 * k)).take 4)
    else linePieces (bs.length / 128 + 2) a bs
  ps.map fun p => { die := d, who := who, kind := kind, addr := p.1, data := p.2 }

/-- Byte strings are to be put through the edge cache of compute die d. -/
def askEdgePuts (d : Nat) (who : EdgeUser) (ps : List (EdgeKind × Nat × List Byte)) (s : State) : State :=
  edgeTurn (8 + d) { s with coh := { s.coh with edge := s.coh.edge ++ ps.flatMap fun p => edgePuts d who p.1 p.2.1 p.2.2 } }

/-- Whether accesses of a user are still to be made. -/
def State.edgeOpen (s : State) (who : EdgeUser) : Bool := s.coh.edge.any fun q => q.who == who && !q.done

/-- Whether an access of a user met poisoned data. -/
def State.edgeBad (s : State) (who : EdgeUser) : Bool := s.coh.edge.any fun q => q.who == who && q.poison

/-- A user has no accesses any more. -/
def State.edgeDrop (s : State) (who : EdgeUser) : State :=
  { s with coh := { s.coh with edge := s.coh.edge.filter fun q => q.who != who } }

/-- n bytes from a, as a user has read them. -/
def State.edgeBytes (s : State) (who : EdgeUser) (a n : Nat) : List Byte :=
  (List.range n).map fun i =>
    ((s.coh.edge.find? fun q => q.who == who && q.kind == .read && q.addr == (a + i) / 128 * 128).map EdgeAsk.data).elim 0
      fun d => d.getD ((a + i) % 128) 0

/-! ### Data and completions at the requester -/

/-- A cache has its data: it acknowledges, and a store that waited for the line is made. -/
def acknowledge (a line : Nat) (m : CohMsg) (s : State) : State :=
  cohSend { op := mAck, line := line, txn := m.txn, req := a, dst := m.src, src := a, cls := m.cls } s

/-- The line after its data has come: a store that waited makes it M. -/
def CLine.fill (c : CLine) (st : CState) (data : List Byte) (poison : Bool) : CLine :=
  match c.store with
  | some (off, bs) => { st := .M, data := patch data off bs, poison := poison && decide (bs.length < 128) }
  | none => { st := st, data := data, poison := poison }

/-- A data message reaches a cache that awaits it. -/
def dataRow (op a line : Nat) (wait st : CState) (s : State) : Host.Outcome State Fault Refusal :=
  eventOf s (if (s.cline a line).st = wait then cohFind s (msgTo op line a) else none) fun m s =>
    edgeTurn a (acknowledge a line { m with src := ackHome line }
      ((cohTake m s).setCline a line ((s.cline a line).fill st m.data m.poison)))

/-- DATA_E (R385). -/
def execDataE (a : AgentId) (line : Nat) (s : State) : Host.Outcome State Fault Refusal := dataRow mDataE a line .IS .E s

/-- DATA_S (R385). -/
def execDataS (a : AgentId) (line : Nat) (s : State) : Host.Outcome State Fault Refusal := dataRow mDataS a line .IS .S s

/-- DATA_M (R385, R391): a cache in IM takes it whether it sent RdUnique or Upgrade. -/
def execDataM (a : AgentId) (line : Nat) (s : State) : Host.Outcome State Fault Refusal := dataRow mDataM a line .IM .M s

/-- WB_ACK (R390). -/
def execWbAck (a : AgentId) (line : Nat) (s : State) : Host.Outcome State Fault Refusal :=
  eventOf s (if (s.cline a line).st = .WBP then cohFind s (msgTo mWbAck line a) else none) fun m s =>
    edgeTurn a ((cohTake m s).setCline a line {})

/-! ### Agent 12 -/

/-- The number of agent 12's request on a line that has a transaction identifier. -/
def ioKey (s : State) (line txn : Nat) : Option Nat :=
  (s.coh.ioSent.find? fun p => homeOf line == some p.1 && p.2.1 == txn).map fun p => p.2.2

/-- Agent 12 has a request of a class to send; the answer is its number. -/
def ioRequest (cls op line : Nat) (data : List Byte) (mask : List Bool) (s : State) : Nat × State :=
  let k := s.coh.ioNext
  let m : CohMsg := { op := op, line := line, req := ioAgent, dst := ackHome line, src := ioAgent, data := data, mask := mask, cls := cls }
  (k, ioPump { s with coh := { s.coh with ioNext := k + 1, ioOut := s.coh.ioOut ++ [k], ioWait := s.coh.ioWait ++ [(k, m)] } })

/-- The mask of bytes off to off + n − 1 of a line. -/
def lineMask (off n : Nat) : List Bool := (List.range 128).map fun i => decide (off ≤ i) && decide (i < off + n)

/-- Agent 12 writes bytes inside one line, coherently: WrFull for a whole line, else WrPart. -/
def ioWriteLine (cls a : Nat) (bs : List Byte) (s : State) : Nat × State :=
  let off := a % 128
  if bs.length = 128 then ioRequest cls mWrFull (a / 128) bs [] s
  else ioRequest cls mWrPart (a / 128) (List.replicate off 0 ++ bs ++ List.replicate (128 - off - bs.length) 0)
    (lineMask off bs.length) s

/-- Agent 12 writes a byte string, line by line; the answer lists the requests. -/
def ioWrites (cls : Nat) : Nat → Nat → List Byte → State → List Nat × State
  | 0, _, _, s => ([], s)
  | fuel + 1, a, bs, s =>
    if bs.isEmpty then ([], s)
    else
      let n := 128 - a % 128
      let w := ioWriteLine cls a (bs.take n) s
      let r := ioWrites cls fuel (a + n) (bs.drop n) w.2
      (w.1 :: r.1, r.2)

/-- Agent 12 writes a byte string to a coherent address. -/
def ioWrite (cls a : Nat) (bs : List Byte) (s : State) : List Nat × State := ioWrites cls (bs.length / 128 + 2) a bs s

/-- The commands of the queues that await one last Cmp, that of request k: INLINE_WRITE completes with it (R414). -/
def inlineDone (s : State) (k : Nat) : List (Nat × Nat) :=
  s.queues.flatMap fun p => (p.2.started.filter fun c => c.txns.contains k && (without c.txns k).isEmpty).map fun c => (p.1, c.number)

/-- A write of agent 12 has its Cmp: nobody awaits it any more. -/
def ioDone (k : Nat) (s : State) : State :=
  let ends := inlineDone s k
  let s := { s with
    coh := { s.coh with ioOut := without s.coh.ioOut k, ioSent := s.coh.ioSent.filter fun p => p.2.2 != k }
    queues := s.queues.map fun p => (p.1, { p.2 with
      started := p.2.started.map fun c => { c with txns := without c.txns k }
      msisReady := p.2.msisReady + (if p.2.msis.contains k then 1 else 0)
      msis := without p.2.msis k })
    plc := { s.plc with regions := s.plc.regions.map fun p => (p.1, { p.2 with
      inflight := p.2.inflight.map fun w => { w with txns := without w.txns k } }) }
    sec := { s.sec with quoteTxns := without s.sec.quoteTxns k } }
  ends.foldl (fun s e => completeQ e.1 e.2 0 0 s) s

/-- CMP (R385): an Upgrade's requester takes the line modified; agent 12's write is visible (R396). -/
def execCmp (a : AgentId) (line : Nat) (s : State) : Host.Outcome State Fault Refusal :=
  if a.val = ioAgent then
    eventOf s (cohFind s (msgTo mCmp line a)) fun m s =>
      acknowledge ioAgent line m ((ioKey s line m.txn).elim id ioDone (cohTake m s))
  else
    eventOf s (if (s.cline a line).st = .SM then cohFind s (msgTo mCmp line a) else none) fun m s =>
      let c := s.cline a line
      edgeTurn a (acknowledge a line m ((cohTake m s).setCline a line (c.fill .M c.data c.poison)))

/-- A coherent read of an adapter whose lines have all come is answered (R435). No rule says how the root port completes a
read of a poisoned line: its bytes are free. -/
def finishRead (r : PlcRead) (s : State) : State :=
  let got := r.keys.filterMap fun k => (s.coh.ioData.find? fun p => p.1 == k).map Prod.snd
  if got.length < r.keys.length then s
  else
    let s := { s with
      plc := { s.plc with reads := s.plc.reads.erase r }
      coh := { s.coh with ioData := s.coh.ioData.filter fun p => !r.keys.contains p.1 } }
    if got.any Prod.fst then s.draw.reply { data := freeBytes s.fresh r.len }
    else s.reply { data := ((got.flatMap Prod.snd).drop (r.addr % 128)).take r.len }

/-- Data of agent 12's request k has come: it is kept where a queue or an adapter awaits it. -/
def ioReceive (m : CohMsg) (k : Nat) (s : State) : State :=
  let wanted := (s.queues.any fun q => q.2.reading.contains k) || s.plc.reads.any fun r => r.keys.contains k
  let s := { s with coh := { s.coh with
    ioOut := without s.coh.ioOut k
    ioSent := s.coh.ioSent.filter fun p => p.2.2 != k
    ioData := if wanted then s.coh.ioData ++ [(k, m.poison, m.data)] else s.coh.ioData } }
  s.plc.reads.foldl (fun s r => finishRead r s) s

/-- DATA_I (R385): agent 12 has the value. -/
def execDataI (a : AgentId) (line : Nat) (s : State) : Host.Outcome State Fault Refusal :=
  eventOf s (if a.val = ioAgent then cohFind s (msgTo mDataI line a) else none) fun m s =>
    (ioKey s line m.txn).elim id (ioReceive m) (acknowledge ioAgent line { m with src := ackHome line } (cohTake m s))

/-! ### Evictions and hart accesses -/

/-- CACHE_EVICTION (R380, R384): a line in S is dropped silently. -/
def execCacheEviction (a : AgentId) (line : Nat) (s : State) : Host.Outcome State Fault Refusal :=
  let st := (s.cline a line).st
  event s (st == .S || ((st == .E || st == .M) && hasWbCredit s a line)) fun s =>
    if st = .S then leaveSlice a line (s.setCline a line {}) else evictLine a line s

/-- A write-back reaches its home (R388, R389). -/
def wbRow (op a line : Nat) (s : State) : Host.Outcome State Fault Refusal :=
  match homeOf line with
  | none => .next s
  | some h => eventOf s (cohFind s (msgFrom op line a)) fun m s =>
      let s := cohTake m s
      let w : HeldWb := { agent := a, dirty := op == mWbDirty, data := m.data, poison := m.poison }
      match (s.home h).txns.find? fun p => p.1 == line with
      | none => applyWb h line w s
      | some (_, t) =>
        let w := { w with announced := t.announced.contains a }
        advanceTxn h line cohFuel (s.modHome h fun x => { x with
          heldWbs := x.heldWbs ++ [(line, w)]
          txns := tset x.txns line { t with announced := without t.announced a } })

/-- WB_DIRTY (R388, R389). -/
def execWbDirty (a : AgentId) (line : Nat) (s : State) : Host.Outcome State Fault Refusal := wbRow mWbDirty a line s

/-- WB_CLEAN (R388, R389). -/
def execWbClean (a : AgentId) (line : Nat) (s : State) : Host.Outcome State Fault Refusal := wbRow mWbClean a line s

/-- A store of a hart at offset off of a line. -/
def hartStore (a line off : Nat) (bs : List Byte) (s : State) : State :=
  let c := s.cline a line
  match c.st with
  | .M | .E => s.setCline a line { c with st := .M, data := patch c.data off bs, poison := c.poison && decide (bs.length < 128) }
  | .S => cacheRequest clsCoh a line mUpgrade { c with st := .SM, store := some (off, bs) } s
  | .I => cacheRequest clsCoh a line mRdUnique { st := .IM, store := some (off, bs) } s
  | _ => s

/-- A load or fetch of n bytes: a poisoned line raises an access fault (R236). -/
def hartLoad (a line off n : Nat) (s : State) : State :=
  let c := s.cline a line
  match c.st with
  | .S | .E | .M | .SM =>
    if c.poison then s.reply { accessFault := true }
    else s.reply { data := (c.data.drop off).take n, value := BitVec.ofNat 64 (fieldAt c.data off (min n 8)) }
  | .I => cacheRequest clsCoh a line mRdShared { st := .IS } s
  | _ => s

/-- An AMO: it acts on a line in E or M, and otherwise brings it there first. -/
def hartAmo (a line off : Nat) (bs : List Byte) (s : State) : State :=
  let c := s.cline a line
  match c.st with
  | .M | .E => if c.poison then s.reply { accessFault := true }
      else hartStore a line off bs (s.reply { data := (c.data.drop off).take bs.length, value := BitVec.ofNat 64 (fieldAt c.data off (min bs.length 8)) })
  | .S => cacheRequest clsCoh a line mUpgrade { c with st := .SM } s
  | .I => cacheRequest clsCoh a line mRdUnique { st := .IM } s
  | _ => s

/-- A hart's access to a line that its slice holds brings its blocks into the hart's caches (R454). -/
def useCaches (h a : Nat) (fetch : Bool) (addr n : Nat) (s : State) : State :=
  if sliceHas s a (addr / 128) then s.modHart h fun x => x.useBytes fetch addr n else s

/-- A write of a hart, with the loss of other harts' reservations once it is made. -/
def hartWrite (h a line off n : Nat) (act : State → State) (s : State) : State :=
  if sliceOwns s a line then breakReservations h (2 * line + off / 64) (act (useCaches h a false (128 * line + off) n s)) else act s

/-- A load-reserved: a load that reserves its block of 64 bytes (R451). -/
def hartLoadReserved (h a line off n : Nat) (s : State) : State :=
  let s' := hartLoad a line off n (useCaches h a false (128 * line + off) n s)
  if sliceHas s a line && !(s.cline a line).poison then s'.modHart h fun x => { x with reserved := some (2 * line + off / 64) } else s'

/-- A store-conditional: it stores and answers 0 where the hart's reservation of the block stands, and otherwise answers 1
(PRESUMED, the RISC-V manual's; log 116). A line that is shared is first upgraded. -/
def hartStoreConditional (h a line off : Nat) (bs : List Byte) (s : State) : State :=
  let drop := fun (s : State) => s.modHart h fun x => { x with reserved := none }
  if (s.hart h).reserved ≠ some (2 * line + off / 64) then (drop s).reply { value := 1 }
  else if sliceOwns s a line then drop (hartWrite h a line off bs.length (hartStore a line off bs) (s.reply { value := 0 }))
  else if (s.cline a line).st = .S then cacheRequest clsCoh a line mUpgrade { s.cline a line with st := .SM } s
  else s

/-- cbo.clean, cbo.flush and cbo.inval (R451): the protocol writes a line back only by evicting it (R380; DEDUCED). -/
def hartCbo (a line : Nat) (clean : Bool) (s : State) : State :=
  match (s.cline a line).st with
  | .M => if hasWbCredit s a line then evictLine a line s else s
  | .E => if clean || !hasWbCredit s a line then s else evictLine a line s
  | .S => if clean then s else leaveSlice a line (s.setCline a line {})
  | _ => s

/-- Bytes of the boot RAM (R536): the first 32 MiB of the fast tier, served from locked ways. -/
def inBootRam (s : State) (addr n : Nat) : Bool := s.boot.bootRam && decide (addr + n ≤ 0x200_0000)

/-- An access to the boot RAM (R536). Its bytes and those of the DRAM behind it are one storage in the model
(DESIGN CHOICE). -/
def bootRamAccess (kind : HartAccess) (addr : Nat) (data : List Byte) (s : State) : State :=
  match kind with
  | .load | .loadReserved | .fetch => s.reply { data := s.bytes addr data.length, value := BitVec.ofNat 64 (leNat (s.bytes addr (min 8 data.length))) }
  | .amo => (s.store addr data).reply
      { data := s.bytes addr data.length, value := BitVec.ofNat 64 (leNat (s.bytes addr (min 8 data.length))) }
  | .store => s.store addr data
  | .storeConditional => (s.store addr data).reply { value := 0 }
  | .cboZero => s.store (addr / 64 * 64) (List.replicate 64 0)
  | .cboClean | .cboFlush | .cboInval | .prefetch => s

/-- HART_MEMORY_ACCESS (R25, R28, R236, R378, R380, R384, R451, R455). An access lies in one line; a load, fetch or
AMO that finds no copy sends its request and is made again once the data has come. The operand data holds the
bytes stored, or as many bytes as are read. -/
def execHartMemoryAccess (h : HartId) (kind : HartAccess) (addr : Nat) (data : List Byte) (s : State) :
    Host.Outcome State Fault Refusal :=
  let line := addr / 128
  let off := addr % 128
  let a := sliceOf line
  let fault (s : State) : State := s.reply { accessFault := true }
  event s (if h.val < 64 then bitOf s.host.run0.toNat h else bitOf s.host.run1.toNat (h.val - 64)) fun s =>
    match placeOf addr with
    | .fast _ _ | .slow _ _ =>
      if inBootRam s addr data.length then bootRamAccess kind addr data s
      else if !(homeOf line).any (fun h => s.dieUp (homeDie h)) then (if kind = .prefetch then s else fault s)
      else if off + data.length ≤ 128 then
        match kind with
        | .load => hartLoad a line off data.length (useCaches h a false addr data.length s)
        | .fetch => hartLoad a line off data.length (useCaches h a true addr data.length s)
        | .store => hartWrite h a line off data.length (hartStore a line off data) s
        | .amo => hartWrite h a line off data.length (hartAmo a line off data) s
        | .loadReserved => hartLoadReserved h a line off data.length s
        | .storeConditional => hartStoreConditional h a line off data s
        | .cboClean => hartCbo a line true s
        | .cboFlush => hartCbo a line false s
        | .cboInval => hartCbo a line false s
        | .cboZero => hartWrite h a line (off / 64 * 64) 64 (hartStore a line (off / 64 * 64) (List.replicate 64 0)) s
        | .prefetch => if (s.cline a line).st = .I then cacheRequest clsCoh a line mRdShared { st := .IS } s else s
      else s
    | .regs _ _ | .winFast _ _ | .winPad _ _ _ => if kind.atomic ∨ kind = .fetch then fault s else s
    | .pcie _ _ =>
      if kind = .prefetch then s
      else if kind.atomic ∨ kind = .fetch ∨ addr % (max 1 data.length) ≠ 0 then fault s else s
    | _ => if kind = .prefetch then s else fault s

/-! ### Limits and purges -/

/-- STR cycles of 2 ms. -/
def busyLimitCycles : Nat := 8_000_000

/-- BUSY_LIMIT (R394). -/
def execBusyLimit (line : Nat) (s : State) : Host.Outcome State Fault Refusal :=
  match homeOf line with
  | none => .next s
  | some h =>
    eventOf s ((s.home h).txns.find? fun p => p.1 == line && decide (p.2.since + busyLimitCycles ≤ s.time.span)) fun p s =>
      let s := s.draw
      formRecord (homeDie h) { cls := 6, severity := sevFatal, code := 2, addr := 128 * line,
                               info0 := p.2.req.txn % 256 * 256 + p.2.req.req,
                               info1 := (Config.freeWord64 s.fresh).toNat } s

/-- Whether a range of lines lies wholly in a home's memory. -/
def homeHolds (h base lines : Nat) : Bool := homeOf base == some h && homeOf (base + lines - 1) == some h

/-- PURGE_START (R399, R400): a write of COH_PURGE_CTL with start 1. A start while busy, of no line or of a range
outside this home's memory is ignored. -/
def startPurge (h : Nat) (v : Word) (s : State) : State :=
  let w := v.toNat
  let lines := bitsOf w 0 32
  let x := s.home h
  let x := { x with
    purgeReject := x.purgeReject && !bitOf w 61
    purgeSig := bitOf w 46
    purgeChan := bitsOf w 32 14
    purgeLines := lines }
  let s := s.modHome h fun _ => x
  if !bitOf w 62 then s
  else if x.purgeBusy || lines == 0 || !homeHolds h x.purgeBase lines then
    s.modHome h fun x => { x with purgeReject := true }
  else
    let ls := (x.dir.map Prod.fst).filter fun l => decide (x.purgeBase ≤ l) && decide (l < x.purgeBase + lines)
    let s := s.modHome h fun x => { x with purgeBusy := true, purgeLeft := ls, purgeSince := s.time.span }
    ls.foldl (fun s l => if (s.home h).busy l then s else advanceTxn h l cohFuel (startBackInv h l none s)) s

/-- PURGE_START (R399, R400). -/
def execPurgeStart (home : Fin 8) (v : Word) (s : State) : Host.Outcome State Fault Refusal :=
  event s (bitOf v.toNat 62) (startPurge home v)

/-- Whether a write-back to a line of a range waits for its slot. -/
def writesWait (s : State) (base lines : Nat) : Bool :=
  s.mems.any fun m => m.2.reqs.any fun q =>
    q.who.coherent && q.write && decide (base ≤ q.line) && decide (q.line < base + lines)

/-- STR cycles in which a purge walks the directory, 4 sets per MEM cycle (R400): 16,384 MEM cycles on a compute die and 8,192
on a Grotto, at 1.5 GHz. -/
def walkCycles (h : Nat) : Nat := if h < 4 then 43_691 else 21_846

/-- PURGE_COMPLETE (R399, R400): the directory has been walked, and memory holds the latest value of every line of the range. -/
def execPurgeComplete (home : Fin 8) (s : State) : Host.Outcome State Fault Refusal :=
  let x := s.home home
  event s (x.purgeBusy && x.purgeLeft.isEmpty && decide (x.purgeSince + walkCycles home ≤ s.time.span) && !writesWait s x.purgeBase x.purgeLines) fun s =>
    let s := s.modHome home fun x => { x with purgeBusy := false }
    if x.purgeSig then sendSignal 0xFF x.purgeChan 1 0 0 s else s

end Sys2Proof.Machine
end

