-- ==== Sys2Proof/Machine/Sequencer.lean ====
section
/-! DEFINITION. The sequencer's own words (CT, R108 to R111), tokens (TK, R112), Strings operations (ST, R113) and
the logger (LG, R120), and the start and end of a tile's scene (R99, R111). -/

namespace Sys2Proof.Machine

open Sys2Proof

/-! ### CT -/

/-- A word that no row but CT_NOP stands for: a reserved opcode, a reserved VX function, or issue beyond the command
area (R100, R103, R193). -/
def noRow (w : Nat) : Bool :=
  !opcodeInForce (opcodeOf w) || (opcodeOf w / 16 == 5 && !(vxOf w).funcOk)

/-- CT_NOP (R108): issues in one cycle and does nothing. The row also holds the check of R103 on words that no other
row stands for. -/
def execCtNop (t : TileId) (s : State) : Host.Outcome State Fault Refusal :=
  let x := s.tile t
  event s (x.canIssue && (!x.pcOk || opcodeOf x.word == 0x00 || noRow x.word)) fun s =>
    if !x.pcOk || noRow x.word || breaksChain x x.word || !reservedClear x.word [] then encodingFault t s
    else judgeOn t x.cycle (s.modTile t fun x => x.advance 1)

/-- CT_IDLE (R108): the next word issues at this word's issue + 1 + n. -/
def execCtIdle (t : TileId) (s : State) : Host.Outcome State Fault Refusal :=
  issueWord t (fun w => opcodeOf w == 0x01) none
    (fun _ w => reservedClear w [(8, 32)] && fld w 8 32 != 0)
    (fun w s => s.modTile t fun x => x.advance (1 + fld w 8 32)) s

/-- R110: the level is free, at most four loops are open, and the body ends inside every enclosing body. -/
def loopOk (x : Tile) (w : Nat) : Bool :=
  reservedClear w [(8, 32), (40, 14), (56, 2)] && fld w 8 32 != 0 && fld w 40 14 != 0 &&
  decide (x.loops.length < 4) && x.loops.all fun l =>
    l.level != fld w 56 2 && decide (x.pc + 16 + 16 * fld w 40 14 ≤ l.last)

/-- CT_LOOP (R109). -/
def execCtLoop (t : TileId) (s : State) : Host.Outcome State Fault Refusal :=
  issueWord t (fun w => opcodeOf w == 0x02) none loopOk
    (fun w s => s.modTile t fun x =>
      let l : Loop := ⟨fld w 56 2, fld w 8 32, 0, x.pc + 16, x.pc + 16 + 16 * fld w 40 14⟩
      { x.setLoops (l :: x.loops) with pc := x.pc + 16, cycle := x.cycle + 1 }) s

/-- The windows of the banks in a mask, open to a port or closed. -/
def setWindows (ws : Tbl (Option Nat)) (banks : Nat) (p : Option Nat) : Tbl (Option Nat) :=
  (bitsSet 32 0 banks).foldl (fun m b => tset m b p) ws

/-- CT_OPEN (R83). -/
def execCtOpen (t : TileId) (s : State) : Host.Outcome State Fault Refusal :=
  issueWord t (fun w => opcodeOf w == 0x03) none
    (fun _ w => reservedClear w [(8, 32), (40, 4)] && decide (7 ≤ fld w 40 4) && decide (fld w 40 4 ≤ 9))
    (fun w s => s.modTile t fun x =>
      { x with windows := setWindows x.windows (fld w 8 32) (some (fld w 40 4))
               winLog := (fld w 8 32, true, x.cycle + 1) :: x.winLog }.advance 1) s

/-- CT_CLOSE (R83). -/
def execCtClose (t : TileId) (s : State) : Host.Outcome State Fault Refusal :=
  issueWord t (fun w => opcodeOf w == 0x04) none
    (fun _ w => reservedClear w [(8, 32)])
    (fun w s => s.modTile t fun x =>
      { x with windows := setWindows x.windows (fld w 8 32) none
               winLog := (fld w 8 32, false, x.cycle + 1) :: x.winLog }.advance 1) s

/-- CT_END (R111): issue ends and every window closes; a loop still open is malformed (R110). No word is left to issue,
and pc keeps the address of CT.END (DESIGN CHOICE, log 128). -/
def execCtEnd (t : TileId) (s : State) : Host.Outcome State Fault Refusal :=
  issueWord t (fun w => opcodeOf w == 0x05) none
    (fun x w => reservedClear w [] && x.loops.isEmpty)
    (fun _ s => s.modTile t fun x => { x with
      state := tsEnding, endAddr := x.pc, windows := [], cycle := x.cycle + 1
      winLog := (2 ^ 32 - 1, false, x.cycle + 1) :: x.winLog }) s

/-! ### TK -/

/-- Channel values that a scope allows (R112). -/
def channelOk (scope ch : Nat) : Bool :=
  (scope == 0 && decide (ch ≤ 255)) || (scope == 1 && decide (ch ≤ 16383)) || (scope == 2 && decide (ch ≤ 4095))

/-- TK_SIGNAL (R80, R112): the word goes to the token logic. -/
def execTkSignal (t : TileId) (s : State) : Host.Outcome State Fault Refusal :=
  issueWord t (fun w => opcodeOf w == 0x10) (some 5)
    (fun _ w => reservedClear w [(8, 8), (16, 2), (32, 16), (64, 32)] && !bitOf w 13 && decide (fld w 16 2 ≤ 1) &&
      channelOk (fld w 16 2) (fld w 32 16) && fld w 64 32 != 0)
    (pushTo t 5) s

/-- Whether the package is the root of a Strings object: no STRROUTE record, or one with up_port 0xFF (R250). -/
def isRoot (i : Image) (kind id : Nat) : Bool :=
  match i.routeRec kind id with
  | some r => r.upPort == 0xFF
  | none => true

/-- R88, R251, R438: the fault of a wait by unit u on a device-wide channel (kind 2) or a region (kind 3), if any. -/
def waitFault (s : State) (u kind ch : Nat) : Option Nat :=
  let tr := s.image.unitTroupe u
  if kind = 2 then
    (if tr.isNone || s.image.tokenTroupe ch != tr || !isRoot s.image 0 ch then some fcRange
     else if (s.token ch).waiter.isSome then some fcWaiterClash else none)
  else
    let r := s.region ch
    if tr.isNone || !r.valid || !bitOf r.troupes (tr.getD 0) then some fcRange
    else if r.waiter.isSome then some fcWaiterClash else none

/-- The waiter of a channel or region. -/
def setWaiter (kind ch : Nat) (w : Option Nat) (s : State) : State :=
  if kind = 2 then s.modToken ch fun x => { x with waiter := w }
  else if kind = 3 then s.modRegion ch fun x => { x with waiter := w }
  else s

/-- TK_WAIT (R79, R112): the tile blocks. A wait that raises a fault is not placed. -/
def execTkWait (t : TileId) (s : State) : Host.Outcome State Fault Refusal :=
  issueWord t (fun w => opcodeOf w == 0x11) none
    (fun _ w => reservedClear w [(16, 2), (32, 16), (64, 32), (96, 32)] && channelOk (fld w 16 2) (fld w 32 16) &&
      fld w 64 32 != 0)
    (fun w s =>
      let x := s.tile t
      let kind := 1 + fld w 16 2
      let ch := fld w 32 16
      let bad := if kind = 1 then none else waitFault s t kind ch
      let s := s.modTile t fun x => { x with nextSeq := x.nextSeq + 1 }.advance 1
      match bad with
      | some code => tileFault t x.nextSeq x.pc code ch s
      | none =>
        setWaiter kind ch (some t.val)
          ((beginWait t kind ch (fld w 64 32) (fld w 96 32) x.cycle x.pc s).modTile t fun x =>
            { x with state := tsWait })) s

/-! ### ST -/

/-- ST_ARRIVE (R113). -/
def execStArrive (t : TileId) (s : State) : Host.Outcome State Fault Refusal :=
  issueWord t (fun w => opcodeOf w == 0x20) (some 6)
    (fun _ w => reservedClear w [(48, 16)]) (pushTo t 6) s

/-- A blocking Strings operation: the word goes to the Strings port and the tile blocks. -/
def pushAndBlock (t kind : Nat) (w : Nat) (s : State) : State :=
  let x := s.tile t
  let s := s.modTile t fun x => { x.push 6 with state := tsWait }
  let s := beginWait t 4 (fld w 48 16) 0 (fld w 96 32) x.cycle x.pc s
  let wait : StrWait := { kind := kind, obj := fld w 48 16, seq := x.nextSeq, addr := x.pc, queued := true }
  { s with str := { s.str with waits := tset s.str.waits t wait } }

/-- ST_SYNC (R113, R253). -/
def execStSync (t : TileId) (s : State) : Host.Outcome State Fault Refusal :=
  issueWord t (fun w => opcodeOf w == 0x21) (some 6)
    (fun _ w => reservedClear w [(48, 16), (96, 32)]) (pushAndBlock t 1) s

/-- ST_RED (R113, R254). -/
def execStRed (t : TileId) (s : State) : Host.Outcome State Fault Refusal :=
  issueWord t (fun w => opcodeOf w == 0x22) (some 6)
    (fun x w => reservedClear w [(8, 4), (16, 12), (32, 12), (48, 16), (96, 32)] && decide (fld w 8 4 ≤ 4) &&
      (descAt x.imem (fld w 16 12)).ok && (descAt x.imem (fld w 32 12)).ok)
    (pushAndBlock t 2) s

/-- ST_VOTE (R113, R257). With vote_src 0 the word reads nothing at src, and the descriptor that src names is not
checked (DESIGN CHOICE, log 127). -/
def execStVote (t : TileId) (s : State) : Host.Outcome State Fault Refusal :=
  issueWord t (fun w => opcodeOf w == 0x23) (some 6)
    (fun x w => reservedClear w [(12, 1), (13, 1), (16, 12), (32, 12), (48, 16), (96, 32)] &&
      (!bitOf w 12 || (descAt x.imem (fld w 16 12)).ok) && (descAt x.imem (fld w 32 12)).ok)
    (pushAndBlock t 3) s

/-- Address of the 8-byte word that a descriptor names for ST.RED and ST.VOTE (R113), or none where it is misaligned
or outside the tile's scratchpad. -/
def stWord (t : Nat) (x : Tile) (i : Nat) (idx : List Nat) : Option Nat :=
  let a := (descAt x.imem i).rowAt idx 0 0
  if 0 ≤ a ∧ a % 8 = 0 ∧ inPad t a.toNat 8 then some a.toNat else none

/-- R88, R251: the fault of naming a Strings object, if any. Kind 1 barrier, 2 reduction, 3 vote. -/
def objectFault (s : State) (t kind obj : Nat) : Option Nat :=
  let i := s.image
  match i.routeRec kind obj with
  | some r =>
    if !maskHas r.tiles r.engines t then some fcRange
    else if kind = 1 ∧ i.barrierTroupe obj ≠ i.unitTroupe t then some fcRange else none
  | none =>
    if kind = 1 then (if i.unitTroupe t = none ∨ i.barrierTroupe obj ≠ i.unitTroupe t then some fcRange else none)
    else some fcRange

/-- The waiting operation of a tile has left the queue; its result goes to dst. -/
def strStarted (t dst : Nat) (s : State) : State :=
  { s with str := { s.str with waits := s.str.waits.map fun p => if p.1 = t then (t, { p.2 with dst := dst, queued := false }) else p } }

/-- A Strings operation starts: it is checked, reads its operand through mover 1's port, and is handed to Strings
(R73, R113, R251). ST.ARRIVE has no limit field (R253). -/
def startStrings (t : Nat) (c : Cmd) (start : Nat) (s : State) : State :=
  let w := c.word.toNat
  let x := s.tile t
  let op := opcodeOf w
  let kind := if op ≤ 0x21 then 1 else if op = 0x22 then 2 else 3
  let obj := fld w 48 16
  let msg : StrMsg := { kind := kind, obj := obj, unit := t, addr := c.addr, sent := x.spanAt start
                        limit := if op = 0x20 then 0 else fld w 96 32 }
  match objectFault s t kind obj with
  | some code => tileFaultAt t start c.seq c.addr code obj s
  | none =>
    if op = 0x20 then sendStr msg s
    else if kind = 1 then sendStr msg (strStarted t 0 s)
    else
      let reads := kind = 2 ∨ bitOf w 12 = true
      match (if reads then stWord t x (fld w 16 12) c.idx else some (padBase t)), stWord t x (fld w 32 12) c.idx with
      | some a, some d =>
        let (s, ok) := if reads then useBanks t start ((banksOf a 8).map fun b => (⟨b, 5, start, 1, 1, c.seq⟩, c.addr)) s
          else (s, true)
        if !ok then s
        else
          let v := leNat (memReads (padAt t s start) a 8)
          let go := if bitOf w 12 then decide (v = 1) else bitOf w 13
          sendStr (if kind = 2 then { msg with op := fld w 8 4, value := BitVec.ofNat 64 v }
                   else { msg with value := if go then 1 else 0 }) (strStarted t d s)
      | _, _ => tileFaultAt t start c.seq c.addr fcAddress obj s

/-! ### LG -/

/-- LG_REC (R120). -/
def execLgRec (t : TileId) (s : State) : Host.Outcome State Fault Refusal :=
  issueWord t (fun w => opcodeOf w == 0x70) (some 7)
    (fun _ w => reservedClear w [(8, 8), (32, 32)]) (pushTo t 7) s

/-- LG_MARK (R120). -/
def execLgMark (t : TileId) (s : State) : Host.Outcome State Fault Refusal :=
  issueWord t (fun w => opcodeOf w == 0x71) (some 7)
    (fun _ w => reservedClear w [(32, 32), (64, 64)]) (pushTo t 7) s

/-- LG_CLR (R120). -/
def execLgClr (t : TileId) (s : State) : Host.Outcome State Fault Refusal :=
  issueWord t (fun w => opcodeOf w == 0x72) (some 7)
    (fun _ w => reservedClear w [(8, 8), (16, 8)] && decide (fld w 8 8 ≤ fld w 16 8)) (pushTo t 7) s

/-- R124: a record in the ring, or dropped where it would make wr equal to rd. -/
def Tile.putLog (x : Tile) (r : LogRec) : Tile :=
  if (x.logWr + 1) % 1024 = x.logRd then { x with logDropped := satAdd 16 x.logDropped 1 }
  else { x with log := tset x.log x.logWr r, logWr := (x.logWr + 1) % 1024 }

/-- The logger's command starts (R73, R120, R122, R123): at start + 4 its record is written, of the entry as it stands
before that cycle's additions, or its entries are cleared, after them. -/
def startLogger (t : Nat) (c : Cmd) (start : Nat) (s : State) : State :=
  let w := c.word.toNat
  let op := opcodeOf w
  let base : LogRec := { tile := t, troupe := (s.image.unitTroupe t).getD 0, sceneId := (s.tile t).sceneId,
                         cycle := c.issue, addr := c.addr, tag := fld w 32 32 }
  if op = 0x72 then
    s.modTile t fun x => { x with clears := x.clears ++ [(start + 4, fld w 8 8, fld w 16 8)] }
  else if op = 0x70 then s.modTile t fun x => x.putLog { base with kind := 1, body := x.entryAt (start + 4) (fld w 8 8) }
  else s.modTile t fun x => x.putLog { base with kind := 2, value := BitVec.ofNat 64 (fld w 64 64) }

/-- The token logic's command starts (R73, R80, R88): a channel outside the troupe's own raises RANGE; otherwise the
signal waits for its after-mask. -/
def startToken (t : Nat) (c : Cmd) (start : Nat) (s : State) : State :=
  let w := c.word.toNat
  let ch := fld w 32 16
  let bad := fld w 16 2 = 1 ∧ (s.image.unitTroupe t = none ∨ s.image.tokenTroupe ch ≠ s.image.unitTroupe t)
  if bad then tileFaultAt t start c.seq c.addr fcRange ch s
  else pumpSignals t (s.modTile t fun x => x.modUnit 5 fun q =>
    { q with running := q.running ++ [{ cmd := c, start := start, busyTo := start, done := start }] })

/-! ### Holds, scene start and scene end -/

/-- ISSUE_RESUME (R74): an entry of the full queue is free; the held word issues no earlier than the cycle after the
start that freed it. -/
def execIssueResume (t : TileId) (s : State) : Host.Outcome State Fault Refusal :=
  let x := s.tile t
  event s (match x.held with
    | some u => x.state == tsIssue && decide ((x.unit u).queue.length < queueDepth)
    | none => false) fun s => judgeOn t x.cycle (s.modTile t fun x =>
      { x with held := none, cycle := max x.cycle (x.unit (x.held.getD 0)).roomFrom })

/-- The eight key slots at scene start (R205): slot 0 is derived, slots 1 to 7 are not. -/
def startKeys (ks : Tbl KeySlot) (seed step : Word) : Tbl KeySlot :=
  (0, { key := rattleKey seed 0x02 0 step, domain := 0x02, tensorId := 0, origin := 0, threshold := 0, derived := true }) ::
  (List.range 7).map fun j => (j + 1, { tget {} ks (j + 1) with derived := false, readyAt := 0 })

/-- A tile as a scene start leaves it (R99, R121, R129, R143, R155, R205). The cycles that count as active in the frame
stand (R56). -/
def Tile.startScene (x : Tile) (sceneId entry cmp draw : Nat) (seed step : Word) : Tile :=
  { x with
    state := tsIssue, pc := entry, sceneId := sceneId, cycle := 0, endAddr := 0, endCycle := none, lastDone := 0
    loops := [], idxLog := [], nextSeq := 0
    held := none, halted := false, units := [], tokens := [], tokenLog := [], adds := [], clears := [], sealed := false
    windows := [], winLog := [], uses := [], past := [], acc := [], accDraw := draw, accKind := [], accDone := [], accDrained := [], drainFree := 0
    gate := { x.gate with openRound := {}, fired := none, firedAt := 0, fills := [], fires := 0, delivered := [],
                          format := none, copyFree := 0, freeFrom := 0, holdSince := none }
    vec := { chain := [], handoff := [], keys := startKeys x.vec.keys seed step,
             key0 := [(0, rattleKey seed 0x02 0 step)], rngStep := step, seed := seed }
    startCmp := cmp, dues := [], raised := [] }

/-- TILE_SCENE_START (R99): the scene start reaches the tile. -/
def execTileSceneStart (t : TileId) (s : State) : Host.Outcome State Fault Refusal :=
  eventOf s ((s.image.unitTroupe t).filter fun tr => (s.troupe tr).starting.contains t.val) fun tr s =>
    let x := s.troupe tr
    ((s.modTroupe tr fun x => { x with starting := without x.starting t }).modTile t fun y =>
      y.startScene x.sceneId (tget 0 x.entries t) (s.time.span / 2) s.fresh x.capSeed x.capStep).draw

/-- A unit arrives at the troupe's end barrier (R111). -/
def arriveAtEnd (tr u : Nat) (s : State) : State := s.modTroupe tr fun x => { x with arrived := withOne x.arrived u }

/-- TILE_SCENE_END (R111, R154): every queue is empty and every command has finished; the tile arrives at the end
barrier and the gate discards its rounds. -/
def execTileSceneEnd (t : TileId) (s : State) : Host.Outcome State Fault Refusal :=
  let x := s.tile t
  event s (x.state == tsEnding && x.quiet) fun s =>
    let s := s.modTile t fun x =>
      { x with state := tsEnded, endCycle := some (max x.cycle x.lastDone), gate := { x.gate with openRound := {}, fired := none, holdSince := none } }
    match s.image.unitTroupe t with
    | some tr => arriveAtEnd tr t s
    | none => s

end Sys2Proof.Machine
end

