-- ==== Sys2Proof/Machine/Strings.lean ====
section
/-! DEFINITION. Strings (11): tokens, barriers, reductions and votes as their messages reach the package's routers,
vetoes, and membership. A contribution of this package that goes up leaves the model; what comes down is an event's
operand. -/

namespace Sys2Proof.Machine

open Sys2Proof

/-! ### Phases -/

def State.barrier (s : State) (b : Nat) : Barrier := tget {} s.str.barriers b
def State.modBarrier (s : State) (b : Nat) (f : Barrier → Barrier) : State :=
  { s with str := { s.str with barriers := tmod {} s.str.barriers b f } }
def State.redObj (s : State) (o : Nat) : RedObj := tget {} s.str.reds o
def State.modRedObj (s : State) (o : Nat) (f : RedObj → RedObj) : State :=
  { s with str := { s.str with reds := tmod {} s.str.reds o f } }
def State.voteObj (s : State) (o : Nat) : VoteObj := tget {} s.str.votes o
def State.modVote (s : State) (o : Nat) (f : VoteObj → VoteObj) : State :=
  { s with str := { s.str with votes := tmod {} s.str.votes o f } }

/-- Local members of an object. -/
def Image.members (i : Image) (kind obj : Nat) : List Nat :=
  match i.routeRec kind obj with
  | some r => maskUnits r.tiles r.engines
  | none => []

/-- Ports of an object's down_ports, ascending. -/
def Image.downs (i : Image) (kind obj : Nat) : List Nat :=
  match i.routeRec kind obj with
  | some r => bitsSet 8 0 r.downPorts
  | none => []

/-- Whether a phase has every contribution it waits for (R253). -/
def phaseFull (i : Image) (kind obj : Nat) (member port : Nat → Bool) : Bool :=
  (i.members kind obj).all member && (i.downs kind obj).all port

/-- A barrier's phase is complete at this package. A local barrier without a record completes on an arrival. -/
def barrierFull (s : State) (b : Nat) : Bool :=
  let x := s.barrier b
  phaseFull s.image 1 b x.arrived.contains x.ports.contains && ((s.image.routeRec 1 b).isSome || !x.arrived.isEmpty)

def redFull (s : State) (o : Nat) : Bool :=
  let x := s.redObj o
  (s.image.routeRec 2 o).isSome && phaseFull s.image 2 o (thas x.operands) (thas x.ports)

/-- R258: a lost port counts as reported in every phase. -/
def voteFull (s : State) (o : Nat) : Bool :=
  let x := s.voteObj o
  (s.image.routeRec 3 o).isSome && phaseFull s.image 3 o (thas x.votes) fun p => thas x.ports p || s.str.lost.contains p

/-- R258, R263: the way to the object's root leads through a lost package; the vote completes here, no-go. -/
def voteCut (s : State) (o : Nat) : Bool := (s.image.routeRec 3 o).any fun r => s.str.lost.contains r.upPort

/-- Whether a lost port has cast no-go for its members in the phase (R258). -/
def voteLost (s : State) (o : Nat) : Bool :=
  voteCut s o || (s.image.downs 3 o).any fun p => s.str.lost.contains p && !thas (s.voteObj o).ports p

/-- A contribution that is complete goes up where this package is not the root. -/
def pumpBarrier (b : Nat) (s : State) : State :=
  if barrierFull s b && !isRoot s.image 1 b then s.modBarrier b fun x => { x with forwarded := true } else s
def pumpRed (o : Nat) (s : State) : State :=
  if redFull s o && !isRoot s.image 2 o then s.modRedObj o fun x => { x with forwarded := true } else s
def pumpVote (o : Nat) (s : State) : State :=
  if voteFull s o && !isRoot s.image 3 o && !voteCut s o then s.modVote o fun x => { x with forwarded := true } else s

/-! ### Messages on their way (R247, R248) -/

/-- The die of a unit's router; a message of no unit comes from the host die. -/
def routerDie (u : Nat) : Nat := if u < 76 then unitDie u else 0

/-- The die on which an object of kind 0 token, 1 barrier, 2 reduction or 3 vote is held (R250). -/
def objectDie (kind obj : Nat) : Nat := 1 + obj / [4096, 1024, 256, 64].getD kind 1

/-- The way of a message: the router that it waits at, and the die that holds its object here or serves the port to its
root. Credit returns and repeat requests follow their flow. -/
def strPath (i : Image) (m : StrMsg) : Nat × Nat :=
  (routerDie m.unit,
   if 4 ≤ m.kind then 16 * m.kind + m.obj
   else match i.routeRec m.kind m.obj with
     | some r => if r.upPort = 0xFF then objectDie m.kind m.obj else 1 + r.upPort / 2
     | none => objectDie m.kind m.obj)

/-- The class of a message (R248): a vote that an engine casts is one of the hardware's. -/
def strClass (m : StrMsg) : Nat := if m.kind = 3 ∧ 48 ≤ m.unit then 3 else 4

/-- The messages that wait for one way, in the order in which they leave: class by class, and within a class as they
came. -/
def strQueue (s : State) (m : StrMsg) : List StrMsg :=
  let l := s.str.msgs.filter fun k => strPath s.image k == strPath s.image m
  (l.filter fun k => strClass k == 3) ++ l.filter fun k => strClass k != 3

/-- R17: whether the link that a message crosses between its router and its object carries it. -/
def strCarried (s : State) (m : StrMsg) : Bool :=
  decide (4 ≤ m.kind) || linkCarries s (strPath s.image m).1 (strPath s.image m).2

/-- Whether a message is the next to leave on its way. -/
def strNext (s : State) (m : StrMsg) : Bool := (strQueue s m).head? == some m && strCarried s m

/-- The first message of a kind, object and unit, where it is the next to leave. -/
def State.strMsg (s : State) (kind obj unit : Nat) : Option StrMsg :=
  (s.str.msgs.find? fun m => m.kind == kind && m.obj == obj && m.unit == unit).filter (strNext s)

/-- Whether such a message is still on its way. -/
def State.strSent (s : State) (kind obj unit : Nat) : Bool :=
  s.str.msgs.any fun m => m.kind == kind && m.obj == obj && m.unit == unit

/-- That message leaves the network. -/
def State.dropMsg (s : State) (m : StrMsg) : State := { s with str := { s.str with msgs := s.str.msgs.erase m } }

/-- R253: a second contribution held; its limit is that of its command, or the troupe's. -/
def heldOf (s : State) (m : StrMsg) : HeldArrival :=
  { unit := m.unit, op := m.op, value := m.value, addr := m.addr, since := s.time.span, limit := waitLimitOf s m.unit m.limit }

/-- Span time at which a message counts as having come. -/
def arrivedAt (s : State) (m : StrMsg) : Nat := max m.sent s.time.span

/-- Whether a port's neighbour may send Strings messages here: its Strings lanes are up, and it is not miswired (state
6, R275, R277). -/
def portHears (s : State) (p : Nat) : Bool := (s.port p).stringsUp && (s.port p).state != 6

/-- Members of a completed phase that are blocked on it are released; a member whose own blocking contribution is
held, on its way, or not yet started is not. since is the time from which the bound of R76 runs. -/
def releaseMembers (kind obj since : Nat) (units : List Nat) (held : List HeldArrival) (f : StrWait → StrWait) (s : State) :
    State :=
  let free := units.filter fun u => !held.any (fun h => h.unit == u) && !s.strSent kind obj u
  let waits := s.str.waits.map fun p =>
    if free.contains p.1 && p.2.kind == kind && p.2.obj == obj && !p.2.released && !p.2.queued then
      (p.1, { f p.2 with released := true, since := since })
    else p
  { s with str := { s.str with waits := waits } }

/-! ### Tokens (R79, R248, R250, R252) -/

/-- How many of the first messages add up to k. -/
def prefixLen : Nat → List Nat → Option Nat
  | 0, _ => some 0
  | _, [] => none
  | k, a :: l => if a ≤ k then (prefixLen (k - a) l).map (· + 1) else none

/-- Messages that merged at the router of a compute die (R248, R269). -/
def countMerged (d n : Nat) (s : State) : State :=
  if d = 0 ∨ 4 < d then s
  else { s with str := { s.str with merged := tmod 0 s.str.merged (d - 1) fun x => satAdd 32 x n } }

/-- k reaches the router of a channel: its holder adds it, any other package sends it on. -/
def tokenAt (unit ch k sent addr : Nat) (s : State) : State :=
  if isRoot s.image 0 ch then signalDevice unit ch k sent addr s else s

/-- The messages of one kind and object that leave as one: the first is the next on its way, and the others wait for the
same way (R248). -/
def mergeable (s : State) (kind obj : Nat) : List StrMsg :=
  match s.str.msgs.find? fun m => m.kind == kind && m.obj == obj && strNext s m with
  | some m => (strQueue s m).filter fun k => k.kind == kind && k.obj == obj
  | none => []

/-- TOKEN_SIGNAL_MESSAGE (R79, R248, R252): the channel's next signals in flight, merged where k is their sum, or a
signal from another package through a port of the channel's route. -/
def execTokenSignalMessage (port : Option PortId) (ch : Fin 16384) (k : W32) (s : State) :
    Host.Outcome State Fault Refusal :=
  match port with
  | none =>
    let mine := mergeable s 0 ch.val
    eventOf s ((prefixLen k.toNat (mine.map fun m => m.value.toNat)).filter fun n => decide (0 < n)) fun n s =>
      let first := mine.take n
      let s := first.foldl State.dropMsg s
      let m := first.headD { kind := 0, obj := ch }
      tokenAt m.unit ch k.toNat (first.foldl (fun t m => max t m.sent) 0) m.addr (countMerged (routerDie m.unit) (n - 1) s)
  | some p =>
    event s (portHears s p && (s.image.downs 0 ch).contains p.val) fun s => tokenAt 0xFF ch k.toNat s.time.span 0 s

/-! ### Barriers (R253) -/

/-- A local member's arrival is counted, or held where the phase already has it. -/
def arriveLocal (m : StrMsg) (s : State) : State :=
  let x := s.barrier m.obj
  pumpBarrier m.obj (s.modBarrier m.obj fun b =>
    if x.arrived.contains m.unit || x.forwarded then { b with held := b.held ++ [heldOf s m] }
    else { b with arrived := b.arrived ++ [m.unit], lastAt := max b.lastAt (arrivedAt s m) })

/-- BARRIER_ARRIVAL (R248, R253): a local member's arrival, or several of them merged into one message, or the report of a
port. -/
def execBarrierArrival (port : Option PortId) (obj : Nat) (a : Arrivals) (s : State) : Host.Outcome State Fault Refusal :=
  match port with
  | none =>
    let mine := mergeable s 1 obj
    event s ((mine.head?.map StrMsg.unit) == some a.unit && decide (0 < a.count) && decide (a.count ≤ mine.length)) fun s =>
      let s := (mine.take a.count).foldl State.dropMsg s
      (mine.take a.count).foldl (fun s m => arriveLocal m s) (countMerged (routerDie a.unit) (a.count - 1) s)
  | some p =>
    event s (portHears s p && (s.image.downs 1 obj).contains p.val && !(s.barrier obj).ports.contains p.val) fun s =>
      pumpBarrier obj (s.modBarrier obj fun b => { b with ports := b.ports ++ [p.val], lastAt := max b.lastAt s.time.span })

/-- From when the bound of R76 runs: the last arrival here; where the phase completed at another package, the release's
coming if that is later. -/
def releaseFrom (s : State) (root : Bool) (lastAt : Nat) : Nat := if root then lastAt else max lastAt s.time.span

/-- Held arrivals enter the new phase, which opens at a span time; a member's further ones stay held. -/
def refillBarrier (hs : List HeldArrival) (opens : Nat) : Barrier :=
  hs.foldl (fun b h => if b.arrived.contains h.unit then { b with held := b.held ++ [h] }
    else { b with arrived := b.arrived ++ [h.unit], lastAt := opens }) {}

/-- BARRIER_RELEASE (R81, R253): the phase has completed at the root; members are released and the next phase opens
with what was held. Publications over the barrier's route come before its release (R363). -/
def execBarrierRelease (obj : Nat) (s : State) : Host.Outcome State Fault Refusal :=
  let x := s.barrier obj
  let root := isRoot s.image 1 obj
  event s ((if root then barrierFull s obj else x.forwarded) && s.pubs.all fun q => q.barrier != obj) fun s =>
    let since := releaseFrom s root x.lastAt
    pumpBarrier obj ((releaseMembers 1 obj since x.arrived x.held id s).modBarrier obj fun b => refillBarrier b.held since)

/-! ### Reductions (R254, R255) -/

/-- combine of R254. -/
def redCombine (op : Nat) (a b : Word) : Word :=
  match op with
  | 0 => a &&& b
  | 1 => a ||| b
  | 2 => if a.toInt < b.toInt then a else b
  | 3 => if a.toInt < b.toInt then b else a
  | _ => (fAdd (a.setWidth 32) (b.setWidth 32)).val.setWidth 64

/-- One level of the local tree. -/
def redLevel (op : Nat) : List Word → List Word
  | a :: b :: t => redCombine op a b :: redLevel op t
  | t => t

/-- The local tree over at most 128 operands. -/
def redTree (op : Nat) (l : List Word) : Option Word :=
  ((List.range 7).foldl (fun l _ => redLevel op l) l).head?

/-- node of R255: the local value, then the ports in ascending order. -/
def redNode (op : Nat) (locals : List Word) (ports : List (Option Word)) : Option Word :=
  ports.foldl (fun r c => match r, c with
    | none, c => c
    | some r, some c => some (redCombine op r c)
    | some r, none => some r) (redTree op locals)

/-- A red_op that no command names: the contributions beyond a port do not agree. -/
def redMixed : Nat := 5

/-- The red_ops that a phase's contributions name. -/
def RedObj.ops (x : RedObj) : List Nat :=
  ((x.operands.map fun p => p.2.1) ++ x.ports.filterMap fun p => p.2.2.map fun _ => p.2.1).dedup

/-- The phase's value at this package; none after a mismatch of red_op (R254). -/
def RedObj.value (x : RedObj) : Option Word :=
  match x.ops.filter fun op => x.ops.length == 1 && op != redMixed with
  | [op] => redNode op (x.operands.map fun p => p.2.2) (x.ports.map fun p => p.2.2)
  | _ => none

/-- An operand as it is contributed: an FP32 operand is its low half. -/
def redOperand (op : Nat) (v : Word) : Word := if op = 4 then (v.setWidth 32).setWidth 64 else v

/-- A local member's operand is taken, or held where the phase already has one. -/
def operandLocal (m : StrMsg) (s : State) : State :=
  let x := s.redObj m.obj
  pumpRed m.obj (s.modRedObj m.obj fun b =>
    if thas x.operands m.unit || x.forwarded then { b with held := b.held ++ [heldOf s m] }
    else { b with operands := tset b.operands m.unit (m.op, redOperand m.op m.value), lastAt := max b.lastAt (arrivedAt s m) })

/-- REDUCTION_OPERAND (R254, R255): a local member's operand, or a port's partial result. From a port, no red_op says
that the operands beyond it do not agree, and no value that no member lies beyond it. -/
def execReductionOperand (port : Option PortId) (obj : Fin 1024) (unit : Nat) (redOp : Option (Fin 5)) (value : Option Word)
    (s : State) : Host.Outcome State Fault Refusal :=
  let op := (redOp.map Fin.val).getD redMixed
  match port with
  | none =>
    eventOf s ((s.strMsg 2 obj unit).filter fun m => m.op == op && some m.value == value) fun m s =>
      operandLocal m (s.dropMsg m)
  | some p =>
    event s (portHears s p && (s.image.downs 2 obj).contains p.val && !thas (s.redObj obj).ports p.val) fun s =>
      pumpRed obj (s.modRedObj obj fun b =>
        { b with ports := tset b.ports p.val (op, value.map (redOperand op)), lastAt := max b.lastAt s.time.span })

/-- Held operands enter the new phase, which opens at a span time. -/
def refillRed (hs : List HeldArrival) (opens : Nat) : RedObj :=
  hs.foldl (fun b h => if thas b.operands h.unit then { b with held := b.held ++ [h] }
    else { b with operands := tset b.operands h.unit (h.op, redOperand h.op h.value), lastAt := opens }) {}

/-- REDUCTION_RESULT (R254, R255): the result, formed here at the root or come down from it, goes to every member; none
is a mismatch of red_op. -/
def execReductionResult (obj : Fin 1024) (fromRoot : Option Word) (s : State) : Host.Outcome State Fault Refusal :=
  let x := s.redObj obj
  let root := isRoot s.image 2 obj
  event s (if root then redFull s obj else x.forwarded) fun s =>
    let v := if root then x.value else fromRoot
    let since := releaseFrom s root x.lastAt
    pumpRed obj ((releaseMembers 2 obj since (x.operands.map Prod.fst) x.held
      (fun w => { w with result := v, mismatch := v.isNone }) s).modRedObj obj fun b => refillRed b.held since)

/-! ### Step outcomes -/

/-- FP32 comparison a ≤ b of R304; false where either is a NaN. -/
def leF32 (a b : W32) : Bool :=
  !isNan32 a && !isNan32 b && (numLt (num32 a).1 (num32 b).1 || numEq (num32 a).1 (num32 b).1)

/-- R317: the lowest local reason that applies to a decline, or the one given where none does. -/
def declineReason (x : Troupe) (otherwise : Nat) : Nat :=
  let rest := if x.refused ≠ 0 then 3 else if x.stepCause ≠ 0 then x.stepCause else otherwise
  match x.norm with
  | some v => if nonFin32 v then 1 else if !leF32 v x.capCeil then 2 else rest
  | none => rest

/-- R311, R316, R317: the step declines. -/
def declineStep (tr reason : Nat) (s : State) : State :=
  evtSend 2 (s.modTroupe tr fun x => { x with
    stepState := 5
    declines := satAdd 16 x.declines 1
    stepDone := true
    decline := { step := x.capStep, norm := x.norm.getD 0xFFFF_FFFF#32, reason := reason, grottos := x.refused,
                 spanTime := s.time.span, sceneId := x.sceneId } })

/-- R316, R369: the step commits; a sweep falls due each time commits becomes a multiple of CTL_SWEEP.steps. -/
def commitStep (tr : Nat) (s : State) : State :=
  let n := ((s.troupe tr).commits + 1) % 2 ^ 40
  let due := (s.troupe tr).sweepSteps != 0 && n % (s.troupe tr).sweepSteps == 0
  let rises := due && !(s.troupe tr).sweepDue
  let s := evtSend 2 (s.modTroupe tr fun x => { x with
    stepState := 4, declines := 0, commits := n, stepDone := true, sweepDue := x.sweepDue || due })
  if rises then evtSend 6 s else s

/-- The outcome of a commit scene at the package, once (R311). -/
def stepOutcome (tr : Nat) (go : Bool) (s : State) : State :=
  let t := s.troupe tr
  if t.commitScene && !t.stepDone then (if go then commitStep tr s else declineStep tr (declineReason t 7) s) else s

/-- R310: the step of a troupe becomes unknown. -/
def unknownStep (tr : Nat) (s : State) : State :=
  if (s.troupe tr).stepState = 6 then s else evtSend 2 (s.modTroupe tr fun x => { x with stepState := 6 })

/-! ### Votes (R257, R258) -/

/-- A local member's vote is taken, or held where the phase already has it. -/
def voteLocal (m : StrMsg) (s : State) : State :=
  let x := s.voteObj m.obj
  pumpVote m.obj (s.modVote m.obj fun b =>
    if thas x.votes m.unit || x.forwarded then { b with held := b.held ++ [heldOf s m] }
    else { b with votes := tset b.votes m.unit (m.value == 1) })

/-- VOTE_CAST (R257): a local member's vote, or a port's. -/
def execVoteCast (port : Option PortId) (obj : Fin 256) (unit : Nat) (go : Bool) (s : State) :
    Host.Outcome State Fault Refusal :=
  match port with
  | none =>
    eventOf s ((s.strMsg 3 obj unit).filter fun m => (m.value == 1) == go) fun m s => voteLocal m (s.dropMsg m)
  | some p =>
    event s (portHears s p && (s.image.downs 3 obj).contains p.val && !thas (s.voteObj obj).ports p.val) fun s =>
      pumpVote obj (s.modVote obj fun b => { b with ports := tset b.ports p.val go })

/-- Whether every contribution of the phase is go. -/
def VoteObj.go (x : VoteObj) : Bool := x.votes.all (fun p => p.2) && x.ports.all (fun p => p.2) && !x.veto

/-- The lower of two causes of R317, 0 being none. -/
def lowCause (a b : Nat) : Nat := if a = 0 then b else if b = 0 then a else min a b

/-- R258: the package's contribution to an object becomes no-go; one already forwarded leaves the next phase so. -/
def vetoVote (obj cause : Nat) (s : State) : State :=
  pumpVote obj (s.modVote obj fun b =>
    if b.forwarded then { b with vetoNext := true } else { b with veto := true, cause := lowCause b.cause cause })

/-- Held votes enter the new phase. -/
def refillVote (x : VoteObj) : VoteObj :=
  x.held.foldl (fun b h => if thas b.votes h.unit then { b with held := b.held ++ [h] }
    else { b with votes := tset b.votes h.unit (h.value == 1) }) { veto := x.vetoNext, cause := if x.vetoNext then 5 else 0 }

/-- R358: a go outcome of a vote object advances the entries bound to it. -/
def tagGo (obj : Nat) (s : State) : State :=
  { s with tag := { s.tag with tags := s.tag.tags.map fun p =>
      if p.2.valid && p.2.vote == obj then (p.1, { p.2 with current := (p.2.current + 1) % 2 ^ 32, done := 0 }) else p } }

/-- R317: a cause of a no-go is noted for the commit scenes whose update processors vote on the object. -/
def noteCause (obj cause : Nat) (s : State) : State :=
  ((s.image.members 3 obj).filter fun u => decide (64 ≤ u) && decide (u ≤ 67)).foldl (fun s u =>
    match s.image.unitTroupe u with
    | some tr => s.modTroupe tr fun x => { x with stepCause := lowCause x.stepCause cause }
    | none => s) s

/-- R309, R311: a no-go outcome declines the step of a troupe that has aborted, where no update processor of it still awaits
the outcome. -/
def declineAborted (obj : Nat) (s : State) : State :=
  (((s.image.members 3 obj).filter fun u => decide (64 ≤ u) && decide (u ≤ 67)).filterMap s.image.unitTroupe).dedup.foldl
    (fun s tr => if (s.troupe tr).state != 1 && (s.troupe tr).stepState != 6 then stepOutcome tr false s else s) s

/-- VOTE_OUTCOME (R257, R358): the outcome, formed here at the root or come down from it, advances tag entries on go
and goes to every member. -/
def execVoteOutcome (obj : Fin 256) (fromRoot : Bool) (s : State) : Host.Outcome State Fault Refusal :=
  let x := s.voteObj obj
  let root := isRoot s.image 3 obj || voteCut s obj
  event s (if root then voteFull s obj else x.forwarded) fun s =>
    let lost := voteLost s obj
    let go := if root then x.go && !lost else fromRoot
    let s := if go then tagGo obj s else declineAborted obj (noteCause obj (if lost then lowCause x.cause 6 else x.cause) s)
    pumpVote obj ((releaseMembers 3 obj s.time.span (x.votes.map Prod.fst) x.held
      (fun w => { w with result := some (if go then 1 else 0) }) s).modVote obj refillVote)

/-- STR_VETO_WRITE (R258, R269). -/
def execStrVetoWrite (v : Word) (s : State) : Host.Outcome State Fault Refusal :=
  event s true fun s => vetoVote (v.toNat % 256) 5 s

/-- R299, R309: whether an object is one on which an update processor of unit u's troupe votes in a commit scene. -/
def commitVote (s : State) (u : Nat) (r : StrRouteRec) : Bool :=
  match s.image.unitTroupe u with
  | some tr => (s.troupe tr).commitScene && !(s.troupe tr).stepDone &&
      (s.image.units tr).any fun v => decide (64 ≤ v) && decide (v < 68) && maskHas r.tiles r.engines v
  | none => false

/-- R92, R258, R309: votes of a unit whose troupe's abort notice has reached its router: on every open vote object of
which it is a member it votes no-go if it has not voted. An object is open when its phase has begun here, or when a commit
scene is to vote on it; the commit scene's contribution, if not yet forwarded, becomes no-go (DEDUCED, log 134). -/
def abortVotes (u : Nat) (s : State) : State :=
  (s.image.route.filter fun r => r.kind == 3 && maskHas r.tiles r.engines u).foldl (fun s r =>
    let x := s.voteObj r.id
    let commit := commitVote s u r
    if x.forwarded || (!commit && ((x.votes.isEmpty && x.ports.isEmpty) || thas x.votes u)) then s
    else pumpVote r.id (s.modVote r.id fun b =>
      { b with votes := if thas b.votes u then b.votes else tset b.votes u false
               veto := b.veto || commit, cause := lowCause b.cause 4 })) s

/-! ### Membership (R262, R263) -/

/-- R258: a port is lost: no-go for the members beyond it, on every vote object routed through it, from now on. -/
def departVotes (p : Nat) (s : State) : State :=
  let s := { s with str := { s.str with lost := withOne s.str.lost p } }
  (s.image.route.filter fun r => r.kind == 3 && r.downPorts.testBit p).foldl (fun s r => pumpVote r.id s) s

/-- Troupes with a token channel, barrier counter or reduction object routed through a port. -/
def troupesThrough (i : Image) (p : Nat) : List Nat :=
  ((i.route.filter fun r => decide (r.kind ≤ 2) && (r.upPort == p || r.downPorts.testBit p)).flatMap fun r =>
    if r.kind = 0 then (i.tokenTroupe r.id).toList
    else if r.kind = 1 then (i.barrierTroupe r.id).toList
    else (maskUnits r.tiles r.engines).filterMap i.unitTroupe).dedup

/-- R263, R294: a LINK record that aborts a troupe. The record is formed on the die that serves the port. -/
def linkAbort (code p tr info1 : Nat) (s : State) : State :=
  formRecord (1 + p / 2) { cls := 5, severity := sevDeferred, code := code, troupe := tr,
                           sceneId := (s.troupe tr).sceneId, info0 := p, info1 := info1 } s

/-- R71, R263: an epoch change that is pending fails. -/
def failEpoch (s : State) : State :=
  if s.img.op = .voting ∨ s.img.op = .activating then
    evtSend 7 { s with img := { s.img with op := .idle, code := 0x13, sec := 0xFFFF, record := 0xFFFF_FFFF, votedGo := false } }
  else s

/-- R262, R269: STR_MEMBER takes a notice. -/
def noteMember (join : Bool) (span x y z : Nat) (s : State) : State :=
  evtSend 5 { s with str := { s.str with
    changes := (s.str.changes + 1) % 2 ^ 32
    members := if join then min (s.str.members + 1) 1024 else max (s.str.members - 1) 1
    lastKind := if join then 2 else 1
    lastSpan := span % 2 ^ 8, lastX := x % 16, lastY := y % 8, lastZ := z % 8 } }

/-- MEMBERSHIP_NOTICE (R262, R263): STR_MEMBER is updated; a departure resolves votes and aborts the troupes whose
objects are routed through the lost package, and any change fails a pending epoch change. viaPort is the port that
leads to the package. -/
def execMembershipNotice (join : Bool) (span x y z : Nat) (viaPort : Option PortId) (s : State) :
    Host.Outcome State Fault Refusal :=
  event s true fun s =>
    let s := failEpoch (noteMember join span x y z s)
    match viaPort with
    | some p =>
      if join then { s with str := { s.str with lost := without s.str.lost p } }
      else (troupesThrough s.image p).foldl (fun s tr =>
        linkAbort 6 p tr (span % 256 * 2 ^ 24 + x % 256 * 2 ^ 16 + y % 256 * 2 ^ 8 + z % 256) s) (departVotes p s)
    | none => s

end Sys2Proof.Machine
end

