-- ==== Sys2Proof/Machine/Engines.lean ====
section
/-! DEFINITION. What the engines' command rings share (R98, R289, R302, R325, R475), the outcome of a training step
(R306 to R318), and the reduction engine (R290, R302 to R304, R588). -/

namespace Sys2Proof.Machine

open Sys2Proof

/-! ### Command rings -/

/-- Entry e of a ring of 32-byte entries. -/
def ringEntry (ring : Tbl Byte) (e : Nat) : List Byte := imemBytes ring (32 * e) 32

/-- Engine states: idle, running, blocked on a wait, END executed, arrived at the end barrier. -/
def esIdle : Nat := 0
def esRun : Nat := 1
def esWait : Nat := 2
def esEnd : Nat := 3
def esDone : Nat := 4

/-- The state of the engine that is unit u. -/
def setEngState (u n : Nat) (s : State) : State :=
  if u < 52 then s.modRed (u - 48) fun x => { x with state := n }
  else if u < 64 then s.modDat (u - 52) fun x => { x with state := n }
  else if u < 68 then s.modGrot (u - 64) fun x => { x with state := n }
  else if 72 ≤ u then s.modFab (u - 72) fun x => { x with state := n }
  else s

/-- A contract fault of an engine's entry: its ring stops there. addr is the ring index (R552). -/
def engineFault (u code entry info0 : Nat) (s : State) : State := unitFault u code entry info0 (setEngState u esIdle s)

/-- An entry begins its wait on a device-wide channel as the channel's waiter (R79, R289), or raises the wait's
fault. -/
def engineWait (u ch k limit entry : Nat) (s : State) : State :=
  match waitFault s u 2 ch with
  | some code => engineFault u code entry ch s
  | none => setWaiter 2 ch (some u) (beginWait u 2 ch k limit 0 entry (setEngState u esWait s))

/-- A blocking Strings operation of an engine: the unit waits for the object's outcome. -/
def engineStrWait (u kind obj limit entry : Nat) (s : State) : State :=
  let s := beginWait u 4 obj 0 limit 0 entry (setEngState u esWait s)
  { s with str := { s.str with waits := tset s.str.waits u { kind := kind, obj := obj, addr := entry } } }

/-- A finishing signal of an engine: channel 0xFFFF signals nothing. -/
def engineSignal (u ch : Nat) (s : State) : State := if ch = 0xFFFF then s else sendSignal u ch 1 0 0 s

/-- The engine arrives at its troupe's end barrier (R111). -/
def engineArrive (u : Nat) (s : State) : State :=
  let s := setEngState u esDone s
  match s.image.unitTroupe u with
  | some tr => arriveAtEnd tr u s
  | none => s

/-- Whether the abort notice of its troupe has reached a unit (R91). -/
def State.noticed (s : State) (u : Nat) : Bool :=
  match s.image.unitTroupe u with
  | some tr => (s.troupe tr).state == 2 && (s.troupe tr).noticed.contains u
  | none => false

/-! ### The reduction engine -/

/-- Unit number of a reduction engine. -/
def redUnit (d : Nat) : Nat := 48 + d

/-- FP32 elements of a line. -/
def lineF32 (bs : List Byte) : List W32 := (List.range 32).map fun i => BitVec.ofNat 32 (fieldAt bs (4 * i) 4)

/-- R303: the norm accumulator after a line. -/
def normLine (acc : W32) (bs : List Byte) : W32 := (lineF32 bs).foldl (fun a x => (fFma x x a).val) acc

/-- The entry in progress of a reduction engine. -/
def RedEngine.cur (x : RedEngine) : List Byte := ringEntry x.ring x.entry

/-- The entry in progress ends. -/
def RedEngine.next (x : RedEngine) : RedEngine := { x with entry := x.entry + 1, released := false, contributed := false, state := esRun }

/-- An entry that waits first: it begins its wait, or goes on where it has none or has been released. -/
def redEntry (d : Nat) (act : List Byte → State → State) (s : State) : State :=
  let x := s.redEng d
  let e := x.cur
  let ch := fieldAt e 0x02 2
  if ch = 0xFFFF ∨ x.released = true then act e s
  else engineWait (redUnit d) ch (fieldAt e 0x04 4) (fieldAt e 0x16 2) x.entry s

/-- NORM (R302, R303). -/
def runNorm (d : Nat) (e : List Byte) (s : State) : State :=
  let a := fieldAt e 0x08 8
  let n := fieldAt e 0x10 4
  if a % 128 = 0 ∧ inRed d a (128 * n) = true then
    if !((List.range n).all fun i => s.image.bound (0xF0 + d) ((a + 128 * i - redBase d) / 0x80_0000) 9) then
      engineFault (redUnit d) fcBankDenied (s.redEng d).entry a s
    else s.modRed d fun x =>
      { x with norm := (List.range n).foldl (fun acc i => normLine acc (s.bytes (a + 128 * i) 128)) x.norm }.next
  else engineFault (redUnit d) fcAddress (s.redEng d).entry a s

/-- RED_NORM (R302, R303). The row also holds the check of R302 on an op that no entry has. -/
def execRedNorm (d : ChipId) (s : State) : Host.Outcome State Fault Refusal :=
  let x := s.redEng d
  let op := fieldAt x.cur 0 1
  event s (x.state == esRun && op != 0x22 && op != 0x2F) fun s =>
    if op ≠ 0x21 then engineFault (redUnit d) fcEncoding x.entry 0 s else redEntry d (runNorm d) s

/-- NORM_VOTE contributes its accumulator and waits for the sum (R304). -/
def contributeNorm (d : Nat) (e : List Byte) (s : State) : State :=
  let u := redUnit d
  let x := s.redEng d
  let obj := fieldAt e 0x14 2
  match (objectFault s u 2 obj).or (objectFault s u 3 (fieldAt e 0x18 1)) with
  | some code => engineFault u code x.entry obj s
  | none =>
    let s := sendStr { kind := 2, obj := obj, unit := u, op := 4, value := x.norm.setWidth 64, addr := x.entry
                       limit := fieldAt e 0x16 2 } s
    engineStrWait u 2 obj (fieldAt e 0x16 2) x.entry
      (s.modRed d fun x => { x with norm := 0, contributed := true, released := false })

/-- NORM_VOTE casts its vote on the sum (R304). The sum stands in norm since the release of the wait. -/
def voteNorm (d : Nat) (e : List Byte) (s : State) : State :=
  let u := redUnit d
  let x := s.redEng d
  let tr := (s.image.unitTroupe u).getD 0xFF
  let go := !nonFin32 x.norm && leF32 x.norm (s.troupe tr).capCeil
  let s := sendStr { kind := 3, obj := fieldAt e 0x18 1, unit := u, value := if go then 1 else 0, addr := x.entry } s
  (s.modTroupe tr fun y => { y with norm := some x.norm }).modRed d fun x => { x with norm := 0 }.next

/-- RED_NORM_VOTE (R304). -/
def execRedNormVote (d : ChipId) (s : State) : Host.Outcome State Fault Refusal :=
  let x := s.redEng d
  event s (x.state == esRun && fieldAt x.cur 0 1 == 0x22) fun s =>
    if x.contributed then voteNorm d x.cur s else redEntry d (contributeNorm d) s

/-- RED_END (R302): END has been executed; the engine arrives once it has accumulated every line it accepted. -/
def execRedEnd (d : ChipId) (s : State) : Host.Outcome State Fault Refusal :=
  let x := s.redEng d
  event s ((x.state == esRun && fieldAt x.cur 0 1 == 0x2F) || x.state == esEnd) fun s =>
    if x.inputs.isEmpty && x.reorder.isEmpty then engineArrive (redUnit d) s else setEngState (redUnit d) esEnd s

/-! ### Accumulation -/

/-- Lines of the reorder area (R87). -/
def reorderLines : Nat := 32768

/-- A line of sums as bytes. -/
def sumBytes (l : List W32) : List Byte := l.flatMap fun w => leBytes 4 w.toNat

/-- One contribution is added in its turn; after the last the result replaces the line (R290). -/
def addContribution (d total : Nat) (c : Contribution) (s : State) : State :=
  let l := tget {} (s.redEng d).lines (c.addr / 128)
  let old := if l.next = 0 then List.replicate 32 (0 : W32) else l.sum
  let sum := List.zipWith (fun a b => (fAdd a b).val) old (lineF32 c.data)
  if total ≤ l.next + 1 then
    (s.modRed d fun x => { x with lines := tdel x.lines (c.addr / 128) }).store c.addr (sumBytes sum)
  else s.modRed d fun x => { x with lines := tset x.lines (c.addr / 128) { next := l.next + 1, sum := sum } }

/-- Waiting contributions whose turn has come are added, at most fuel of them. -/
def drainReorder (d total addr : Nat) : Nat → State → State
  | 0, s => s
  | fuel + 1, s =>
    let x := s.redEng d
    let next := (tget {} x.lines (addr / 128)).next
    match x.reorder.find? fun c => c.addr == addr && c.position == next with
    | some c => drainReorder d total addr fuel
        (addContribution d total c (s.modRed d fun x => { x with reorder := x.reorder.erase c }))
    | none => s

/-- Lines of a flow that are complete at the package: forwarded, written or accepted, or both (R286). -/
def FlowCtx.done (x : FlowCtx) (kind : Nat) : Nat := if kind = 0 then x.left else if kind = 3 then min x.written x.left else x.written

/-- Lines written or forwarded: those that this completes count for the next return of credits. -/
def FlowCtx.progress (x : FlowCtx) (kind written left : Nat) : FlowCtx :=
  let y := { x with written := x.written + written, left := x.left + left }
  { y with completed := x.completed + (y.done kind - x.done kind) }

/-- A fault of a reduction engine, once for each command and code (R90): the storing command's of a local contribution,
otherwise the engine's entry. -/
def contributionFault (d code : Nat) (c : Contribution) (s : State) : State :=
  let key := (c.flow, c.cause, code)
  if (s.redEng d).raised.contains key then s
  else
    let isLocal := (s.image.flowRec c.flow).any fun r => r.inPort == 8
    unitFault (redUnit d) code (if isLocal then c.cause else (s.redEng d).entry) c.addr
      (s.modRed d fun x => { x with raised := x.raised ++ [key] })

/-- R283: STR cycles from a contribution's arrival to its earliest acceptance, 10 ns. -/
def acceptLead : Nat := 40

/-- REDUCTION_CONTRIBUTION (R87, R88, R283, R290, R588): a contribution, the first of its flow, is accepted: it is added in
its turn, or waits in the reorder area. One of an aborting troupe is discarded (R91). -/
def execReductionContribution (d : ChipId) (i : Nat) (s : State) : Host.Outcome State Fault Refusal :=
  let l := (s.redEng d).inputs
  eventOf s ((l[i]?).filter fun c => (l.take i).all (fun b => b.flow != c.flow) && decide (c.since + acceptLead ≤ s.time.span)) fun c s =>
    let s := s.modRed d fun x => { x with inputs := x.inputs.eraseIdx i }
    let rec? := s.image.flowRec c.flow
    let total := (rec?.map FlowRec.contributors).getD 1
    let s := if rec?.any fun r => r.inPort != 8 then
        s.modFlow c.flow fun x => { (x.progress 2 1 0) with accepted := x.accepted + 1 }
      else s
    if s.noticed (redUnit d) then s
    else if !s.image.bound (0xF0 + d) ((c.addr - redBase d) / 0x80_0000) 9 then
      contributionFault d fcBankDenied c s
    else if (tget {} (s.redEng d).lines (c.addr / 128)).next = c.position then
      let s := addContribution d total c s
      drainReorder d total c.addr (s.redEng d).reorder.length s
    else if (s.redEng d).reorder.length < reorderLines then
      s.modRed d fun x => { x with reorder := x.reorder ++ [c] }
    else contributionFault d fcReorderFull c s

end Sys2Proof.Machine
end

