-- ==== Sys2Proof/Machine/DataDesc.lean ====
section
/-! DEFINITION. Job descriptors of the data engines (R468, R469, R472 to R474). -/

namespace Sys2Proof.Machine

open Sys2Proof

/-! ### Descriptors (R469) -/

/-- The fields of a job descriptor. -/
structure DatDesc where
  op : Nat
  mode : Nat
  elem : Nat
  waitCh : Nat
  signalCh : Nat
  waitK : Nat
  limit : Nat
  a : Nat
  b : Nat
  status : Nat
  p0 : Nat
  p1 : Nat
  p2 : Nat
  /-- Bytes 0x03, 0x0E and 0x0F. -/
  reserved : Nat
deriving DecidableEq, Repr

/-- R469. -/
def datDesc (b : List Byte) : DatDesc where
  op := fieldAt b 0 1
  mode := fieldAt b 1 1
  elem := fieldAt b 2 1
  waitCh := fieldAt b 4 2
  signalCh := fieldAt b 6 2
  waitK := fieldAt b 8 4
  limit := fieldAt b 0x0C 2
  a := fieldAt b 0x10 8
  b := fieldAt b 0x18 8
  status := fieldAt b 0x20 8
  p0 := fieldAt b 0x28 8
  p1 := fieldAt b 0x30 8
  p2 := fieldAt b 0x38 8
  reserved := fieldAt b 3 1 + fieldAt b 0x0E 2

/-- Fields of GATHER and SCATTER. -/
def DatDesc.count (d : DatDesc) : Nat := bitsOf d.p1 0 32
def DatDesc.rowBytes (d : DatDesc) : Nat := bitsOf d.p1 32 16
def DatDesc.tableRows (d : DatDesc) : Nat := bitsOf d.p2 0 32
def DatDesc.rowPitch (d : DatDesc) : Nat := bitsOf d.p2 32 32
def DatDesc.idxBytes (d : DatDesc) : Nat := if d.elem = 0 then 4 else 8

/-- Fields of LAYOUT. -/
def DatDesc.rows (d : DatDesc) : Nat := bitsOf d.p0 0 32
def DatDesc.cols (d : DatDesc) : Nat := bitsOf d.p0 32 32
def DatDesc.srcPitch (d : DatDesc) : Nat := bitsOf d.p1 0 32
def DatDesc.dstPitch (d : DatDesc) : Nat := bitsOf d.p1 32 32
def DatDesc.batches (d : DatDesc) : Nat := bitsOf d.p2 0 32
def DatDesc.elemBytes (d : DatDesc) : Nat := 2 ^ d.elem
/-- Rows of a destination matrix, and the bytes that one carries (R474). -/
def DatDesc.dstRows (d : DatDesc) : Nat := if d.mode = 0 then d.rows else d.cols
def DatDesc.dstRowBytes (d : DatDesc) : Nat := (if d.mode = 0 then d.cols else d.rows) * d.elemBytes

/-- Whether the fields hold values that R469 gives. -/
def DatDesc.fieldsOk (d : DatDesc) : Bool :=
  d.reserved == 0 &&
  (match d.op with
   | 1 => decide (d.mode ≤ 2) && d.elem == 0 && d.p1 % 128 == 0 && d.p2 == 0
   | 2 | 3 => decide (d.mode ≤ d.op - 2) && decide (d.elem ≤ 1) && bitsOf d.p1 48 16 == 0 && d.rowBytes % 4 == 0 &&
       decide (4 ≤ d.rowBytes) && decide (d.rowBytes ≤ 4096) && decide (d.rowBytes ≤ d.rowPitch)
   | 4 => decide (d.mode ≤ 1) && decide (d.elem ≤ 4) && bitsOf d.p2 32 32 == 0 && decide (1 ≤ d.batches)
   | _ => false)

/-- R474: each pitch is at least the row that it carries. -/
def DatDesc.pitchOk (d : DatDesc) : Bool :=
  d.op != 4 || (decide (d.cols * d.elemBytes ≤ d.srcPitch) && decide (d.dstRowBytes ≤ d.dstPitch))

/-- Byte ranges in which a job reads and in which it writes, whatever its indices. -/
def DatDesc.reads (d : DatDesc) : List (Nat × Nat) :=
  match d.op with
  | 1 => [(d.a, d.p0)]
  | 2 => [(d.a, d.count * d.idxBytes), (d.p0, if d.tableRows = 0 then 0 else (d.tableRows - 1) * d.rowPitch + d.rowBytes)]
  | 3 => [(d.a, d.count * d.idxBytes), (d.b, d.count * d.rowBytes)]
  | _ => [(d.a, if d.rows = 0 then 0 else (d.batches * d.rows - 1) * d.srcPitch + d.cols * d.elemBytes)]

def DatDesc.writes (d : DatDesc) : List (Nat × Nat) :=
  match d.op with
  | 1 => [(d.b, d.p1)]
  | 2 => [(d.b, d.count * d.rowBytes)]
  | 3 => [(d.p0, if d.tableRows = 0 then 0 else (d.tableRows - 1) * d.rowPitch + d.rowBytes)]
  | _ => [(d.b, if d.dstRows = 0 then 0 else (d.batches * d.dstRows - 1) * d.dstPitch + d.dstRowBytes)]

/-- R468, R472, R473: a scheduled engine writes whole lines only. -/
def DatDesc.aligned (d : DatDesc) : Bool :=
  match d.op with
  | 1 => d.b % 128 == 0
  | 2 => d.b % 128 == 0 && d.count * d.rowBytes % 128 == 0
  | 3 => d.p0 % 128 == 0 && d.rowBytes % 128 == 0 && d.rowPitch % 128 == 0
  | _ => d.b % 128 == 0 &&
      (if d.dstPitch = d.dstRowBytes then d.batches * d.dstRows * d.dstRowBytes % 128 == 0
       else d.dstRowBytes % 128 == 0 && d.dstPitch % 128 == 0)

/-- Whether a range lies in the scratchpad of a tile of the troupe. -/
def inTroupePad (i : Image) (tr a n : Nat) : Bool := (i.units tr).any fun u => decide (u < 48) && inPad u a n

/-- R468: ranges that an engine may address. tr: the troupe of a scheduled engine. -/
def mayAddress (i : Image) (tr : Option Nat) (r : Nat × Nat) : Bool :=
  r.2 == 0 || inTier r.1 r.2 || tr.any fun t => inTroupePad i t r.1 r.2

/-- R468: the ADDRESS check of a job. -/
def DatDesc.addressOk (d : DatDesc) (i : Image) (tr : Option Nat) : Bool :=
  (d.reads ++ d.writes).all (mayAddress i tr) &&
    (d.status == 0 || (d.status % 8 == 0 && mayAddress i tr (d.status, 8)))

end Sys2Proof.Machine
end

