-- ==== Sys2Proof/Machine/Movers.lean ====
section
/-! DEFINITION. The movers (07): MV.LD, MV.ST and MV.CP, the lines they move (R73, R76, R77) and what they convert
(R173 to R183). -/

namespace Sys2Proof.Machine

open Sys2Proof

/-! ### Conversion of a whole pattern -/

/-- Format pairs of R175 for an operation: 0x30 load, 0x31 store, 0x32 copy. -/
def pairOk (op s d : Nat) : Bool :=
  s == d || (op != 0x32 &&
    ((s == fmFp32 && (d == fmBf16 || d == fmFp16)) ||
     ((s == fmFp32 || s == fmBf16) && (d == fmE4m3 || d == fmE5m2)) ||
     (op == 0x31 && (s == fmFp32 || s == fmBf16) && (fmMx d || d == fmBit)) ||
     (op == 0x30 && s == fmBit && (d == fmFp32 || d == fmBf16 || d == fmE4m3))))

/-- Stored position of element e's first bit's byte in a pattern. -/
def elemPos (d : Desc) (tier : Bool) (e : Nat) : Nat :=
  e / d.perRow * d.stored tier + e % d.perRow * fmBits d.format / 8

/-- Source positions that feed stored byte k of the destination: first and last (R173, R179). A pad byte comes from the
same place of a source of the same shape (R176); between shapes that differ none feeds it (DESIGN CHOICE, log 135). -/
def feedRange (sd dd : Desc) (sTier dTier : Bool) (k : Nat) : Option (Nat × Nat) :=
  let q := k / dd.stored dTier
  let o := k % dd.stored dTier
  let db := fmBits dd.format
  let whole := fun (e0 e1 : Nat) => (elemPos sd sTier e0, elemPos sd sTier e1 + (fmBits sd.format - 1) / 8)
  if o < dd.rowBytes then
    let b := (q * dd.rowBytes + o) * 8
    let e0 := b / db
    let e1 := (b + 7) / db
    if fmMx dd.format && !fmMx sd.format then some (whole (e0 / 32 * 32) (e1 / 32 * 32 + 31)) else some (whole e0 e1)
  else
    let i := o - dd.rowBytes
    if i < dd.scales then
      let b := q * dd.scales + i
      if fmMx sd.format then
        let p := b / sd.scales * sd.stored sTier + sd.rowBytes + b % sd.scales
        some (p, p)
      else some (whole (32 * b) (32 * b + 31))
    else if fmMx sd.format && sd.rowBytes == dd.rowBytes && sd.stored sTier == dd.stored dTier then some (k, k)
    else none

/-- What a mover's conversion depends on beside its bytes (R174). -/
structure ConvPar where
  src : Desc
  dst : Desc
  srcTier : Bool
  dstTier : Bool
  fmt : FormatRec
  key : Word
  /-- Loop indices in the command's start cycle (R173). -/
  idx : List Nat
deriving DecidableEq, Repr

/-- Element i converted (R177, R178, R182), for a destination that is no MX format. -/
def convElem (p : ConvPar) (codes : Nat → Nat) (i : Nat) : Cv :=
  let s := p.src.format
  let d := p.dst.format
  if s = fmBit then { code := fromBit d (codes i) }
  else if d = fmBit then toBit (numOf s (codes i))
  else narrow d p.fmt.fp8Overflow (p.fmt.bf16Round == 1)
    (stochWord p.key (p.dst.byteAt p.idx p.dstTier (elemPos p.dst p.dstTier i))) (numOf s (codes i)) (codes i)

/-- The destination's stored bytes and its converted elements, from the source's stored bytes; a copy converts none. -/
def convertAll (p : ConvPar) (bs : List Byte) : List Byte × List Cv :=
  let n := p.dst.elements
  let codes := elemCode p.src.format bs
  if p.src.format = p.dst.format then
    if fmMx p.src.format then
      ((List.range (p.dst.byteCount p.dstTier)).map fun k =>
        match feedRange p.src p.dst p.srcTier p.dstTier k with
        | some (a, _) => bs.getD a 0
        | none => 0, [])
    else (bs, [])
  else if fmMx p.dst.format then
    let blocks := (List.range (n / 32)).map fun b =>
      mxBlock p.dst.format ((List.range 32).map fun i => numOf p.src.format (codes (32 * b + i)))
    let perRow := p.dst.perRow / 32
    let row := fun (q : Nat) =>
      let mine := (blocks.drop (q * perRow)).take perRow
      let body := packCodes p.dst.format (mine.flatMap fun b => b.2.map Cv.code) ++
        mine.map fun b => BitVec.ofNat 8 b.1
      body ++ List.replicate (p.dst.stored p.dstTier - body.length) 0
    ((List.range p.dst.nRows).flatMap row, blocks.flatMap Prod.snd)
  else
    let cs := (List.range n).map (convElem p codes)
    (packCodes p.dst.format (cs.map Cv.code), cs)

/-- What converted elements add to the counts of R183, elements aside. -/
def convCounts (cs : List Cv) : Counts :=
  { saturated := cs.countP fun c => c.sat, flushed := cs.countP fun c => c.fl, nonfinite := cs.countP fun c => c.nf }

/-! ### Words -/

/-- Whether an address lies in a tier. -/
def isTier (a : Int) : Bool := decide (0 ≤ a) && inTier a.toNat 1

/-- The checks of an MV word at issue (R103, R114, R173, R175). Conversion into an MX format is a store's into a tier
(R216). -/
def mvOk (op : Nat) (x : Tile) (w : Nat) : Bool :=
  let s := descAt x.imem (fld w 16 12)
  let d := descAt x.imem (fld w 32 12)
  let blocks := fun (e : Desc) => !fmMx e.format || e.rowBytes % mxBlockBytes e.format == 0
  reservedClear w [(8, 1), (9, 1), (16, 12), (32, 12), (48, 8)] && (bitOf w 9 || fld w 48 8 == 0) &&
  s.ok && d.ok && pairOk op s.format d.format && s.elements == d.elements && blocks s && blocks d &&
  (!fmMx d.format || s.format == d.format || isTier (d.rowQ x.idx 0))

/-- An MV word goes to the mover that it names (R102). -/
def issueMv (t op m : Nat) (s : State) : Host.Outcome State Fault Refusal :=
  issueWord t (fun w => opcodeOf w == op) (some (2 + m)) (mvOk op) (pushTo t (2 + m)) s

/-- MV_LD (R114). -/
def execMvLd (t : TileId) (s : State) : Host.Outcome State Fault Refusal := issueMv t 0x30 (fld (s.tile t).word 8 1) s

/-- MV_ST (R114). -/
def execMvSt (t : TileId) (s : State) : Host.Outcome State Fault Refusal := issueMv t 0x31 (fld (s.tile t).word 8 1) s

/-- MV_CP (R114). -/
def execMvCp (t : TileId) (s : State) : Host.Outcome State Fault Refusal := issueMv t 0x32 (fld (s.tile t).word 8 1) s

/-! ### Start -/

/-- What a mover command that starts in a cycle converts. -/
def convParOf (i : Image) (t m : Nat) (x : Tile) (c : Cmd) (start : Nat) : ConvPar :=
  let w := c.word.toNat
  let s := descAt x.imem (fld w 16 12)
  let d := descAt x.imem (fld w 32 12)
  let idx := x.idxAt start
  { src := s, dst := d, srcTier := isTier (s.rowQ idx 0), dstTier := isTier (d.rowQ idx 0)
    fmt := i.formatOf t (2 * m + bit (opcodeOf w == 0x31)), key := keyAt x.vec.key0 start, idx := idx }

/-- R106, R114: a row on the tier side lies in one tier on line boundaries, or in a region of the tile's own die. -/
def reachOuter (t a n : Nat) : Bool := (inTier a n && a % 128 == 0 && n % 128 == 0) || inRed (t / 12) a n

/-- R114: a row of a copy's destination lies in the scratchpad of one other tile of the same troupe. -/
def reachPeer (i : Image) (t first a n : Nat) : Bool :=
  inPads a n &&
  (let p := (a - 0x400_0000_0000) / 0x100_0000
   p == (first - 0x400_0000_0000) / 0x100_0000 && inPad p a n && p != t && i.unitTroupe p == i.unitTroupe t)

/-- The patterns' addresses are all permitted (R106, R114, R179). -/
def mvAddrOk (i : Image) (t op : Nat) (p : ConvPar) : Bool :=
  let own := fun a n => inPad t a n
  let outer := fun a n => reachOuter t a n
  let peer := fun a n => reachPeer i t (p.dst.rowQ p.idx 0).toNat a n
  p.src.pitchOk p.srcTier && p.dst.pitchOk p.dstTier &&
  p.src.allRows p.idx p.srcTier (if op = 0x30 then outer else own) &&
  p.dst.allRows p.idx p.dstTier (if op = 0x30 then own else if op = 0x31 then outer else peer)

/-- R360: the fault of a load's generation check, if any. -/
def tagFault (s : State) (tag : Nat) : Option Nat :=
  if tag = 0 then none
  else if 4095 < tag then some fcAddress
  else
    let e := tget {} s.tag.tags tag
    if e.valid && e.copy == e.current then none else some fcStaleCopy

/-- The local reduce flow that a store contributes to (R588): none where red_flow is 0. -/
def redFlowOf (d : Desc) : Option Nat := if d.redFlow.testBit 31 then some (d.redFlow % 2 ^ 18) else none

/-- R588: the fault of a contributing store at its start, if any. -/
def redFault (i : Image) (t : Nat) (p : ConvPar) : Option Nat :=
  match redFlowOf p.dst with
  | none => none
  | some f =>
    match i.flowRec f with
    | none => some fcRange
    | some r =>
      if r.kind ≠ 2 ∨ r.inPort ≠ 8 ∨ i.unitTroupe t ≠ some r.troupe ∨ !inRed (t / 12) r.address 128 then some fcRange
      else if p.dst.allRows p.idx p.dstTier fun a n =>
          a % 128 == 0 && n % 128 == 0 && decide (r.address ≤ a) && decide (a + n ≤ r.address + 128 * r.lines) then none
      else some fcAddress

/-- The faults of a mover command at its start (R106, R183, R588). -/
def mvFaults (s : State) (t op : Nat) (p : ConvPar) : List Nat :=
  ((if mvAddrOk s.image t op p then [] else [fcAddress]) ++
    (if op = 0x30 then tagFault s p.src.tagRef else if op = 0x31 then redFault s.image t p else none).toList).dedup

/-- Lines of a command on the side that moves (R114). -/
def lineCount (op : Nat) (p : ConvPar) : Nat :=
  ((if op = 0x30 then p.src.byteCount p.srcTier else p.dst.byteCount p.dstTier) + 127) / 128

/-- Address of stored byte k on the side that moves. -/
def movingByte (op : Nat) (p : ConvPar) (k : Nat) : Nat :=
  if op = 0x30 then p.src.byteAt p.idx p.srcTier k else p.dst.byteAt p.idx p.dstTier k

/-- Bytes of line j on the side that moves. -/
def lineSpan (op : Nat) (p : ConvPar) (j : Nat) : List Nat :=
  let total := if op = 0x30 then p.src.byteCount p.srcTier else p.dst.byteCount p.dstTier
  (List.range (min 128 (total - 128 * j))).map fun i => 128 * j + i

/-- R73: the reads of the source banks, each in the cycle in which a line that it feeds is requested. -/
def sourceUses (m seq start : Nat) (p : ConvPar) (op lines : Nat) : List BankUse :=
  ((List.range lines).flatMap fun j =>
    ((lineSpan op p j).flatMap fun k =>
      match feedRange p.src p.dst p.srcTier p.dstTier k with
      | some (a, b) => p.src.banks p.idx p.srcTier a (b + 1 - a)
      | none => []).dedup.map fun b => (start + j / 4, b)).dedup.map fun e => ⟨e.2, 4 + m, e.1, 1, 1, seq⟩

/-- A mover command starts (R73, R106, R183): it is checked, and four lines a cycle enter the port's queue, from start. -/
def startMover (t m : Nat) (c : Cmd) (start : Nat) (s : State) : State :=
  let x := s.tile t
  let op := opcodeOf c.word.toNat
  let p := convParOf s.image t m x c start
  let n := lineCount op p
  let drop := fun (s : State) (free : Nat) => s.modTile t fun x => x.takeHead (2 + m) start free
  match mvFaults s t op p with
  | code :: more =>
    raiseBreaches t ((code :: more).map fun k => ⟨start, k, c.seq, c.addr, 0⟩) (drop s (x.unit (2 + m)).freeAt)
  | [] =>
    let (s, ok) := if op = 0x30 then (s, true)
      else useBanks t start ((sourceUses m c.seq start p op n).map fun u => (u, c.addr)) s
    if !ok then drop s (x.unit (2 + m)).freeAt
    else
      let lines := (List.range n).map fun j => ({ idx := j, addr := movingByte op p (128 * j), req := start + j / 4 } : MvLine)
      (drop s (start + (n + 3) / 4)).modTile t fun x => x.modUnit (2 + m) fun q => { q with running := q.running ++
        [{ cmd := c, start := start, busyTo := start + (n + 3) / 4 - 1, done := start, lines := lines }] }

/-! ### Lines -/

/-- Whether a line needs a slot: a line of a tier always, a copy's line when it leaves the die (R76, R77, R114). -/
def needsSlot (t op : Nat) (l : MvLine) : Bool :=
  match placeOf l.addr with
  | .fast _ _ => true
  | .slow _ _ => true
  | .pad p _ _ => op == 0x32 && p / 12 != t / 12
  | _ => false

/-- The die at the far end of a line's movement. -/
def farDie (a : Nat) : Nat :=
  match placeOf a with
  | .fast m _ => memDie m
  | .slow g _ => memDie (12 + g)
  | .pad p _ _ => 1 + p / 12
  | _ => 0

/-- R85: whether the port, and the troupe's flows on the link that the line crosses, own slots for it. -/
def lineHasSlots (i : Image) (t m op : Nat) (l : MvLine) : Bool :=
  let near := 1 + t / 12
  let far := farDie l.addr
  let tr := (i.unitTroupe t).getD 0xFF
  (match channelOf i l.addr with
  | some (mem, ch) => ownsChannel i mem ch t m
  | none => true) &&
  (if op = 0x30 then linkSlotFor i far near tr else linkSlotFor i near far tr)

/-- What a line's slot belongs to: its channel, or the link to its tile's die. -/
def lineWay (i : Image) (l : MvLine) : Nat × Nat := (channelOf i l.addr).getD (16, farDie l.addr)

/-- R17, R77: whether slot number slot of a line's channel, or of its link, that begins in a cycle is the first from lo on
that the line may take: its own port's, or for a copy to another die one of the troupe's flows that nothing has taken. -/
def slotServes (s : State) (t m op slot cycle lo : Nat) (l : MvLine) : Bool :=
  let i := s.image
  let near := 1 + t / 12
  let at_ := (s.tile t).spanAt cycle
  let carries := if op = 0x30 then linkCarries s (farDie l.addr) near else linkCarries s near (farDie l.addr)
  carries && decide (lo ≤ at_) &&
  (match channelOf i l.addr with
  | some (mem, ch) =>
    let g := at_ / 65536 * memSlots mem + slot
    let mine := fun g => ((i.memttRec mem ch).map fun r => r.owners.getD (g % memSlots mem) 0) == some (owPort t m)
    decide (slot < memSlots mem) && memSlotAt mem g == at_ && mine g && noneSince (memSlotAt mem) mine lo (memSlots mem) g
  | none =>
    let far := farDie l.addr
    let n := linkSlots near far
    let g := at_ / 4000 * n + slot
    let mine := fun g => (((linkTo near far).bind fun k => i.linkttRec near k).any fun r =>
        let w := r.owners.getD (g % n) 0
        w / 2 ^ 28 == 3 && (i.flowRec (w % 2 ^ 18)).any fun f => i.unitTroupe t == some f.troupe) &&
      !((linkTo near far).any fun k => (s.link near k).taken.contains g)
    op == 0x32 && decide (slot < n) && linkSlotAt near far g == at_ && mine g && noneSince (linkSlotAt near far) mine lo n g)

/-- The span time from which a line may take a slot: 20 ns after its request, and after the last slot that the port has
taken on the way (R77). -/
def slotFrom (i : Image) (x : Tile) (all : List MvLine) (l : MvLine) : Nat :=
  (all.filter fun k => decide (0 < k.stage) && lineWay i k == lineWay i l).foldl (fun n k => max n (x.spanAt k.slotAt + 1))
    (x.spanAt (l.req + 40))

/-- The requested lines of a mover, in request order, with the command they belong to. -/
def requested (q : TUnit) : List (Run × MvLine) := q.running.flatMap fun r => r.lines.map fun l => (r, l)

/-- The line that a slot moves: the first that waits for the way, in request order (R77). -/
def pickLine (s : State) (t m slot cycle : Nat) : Option (Run × MvLine) :=
  let x := s.tile t
  let ls := requested (x.unit (2 + m))
  let waits := fun (e : Run × MvLine) => e.2.stage == 0 && needsSlot t (opcodeOf e.1.cmd.word.toNat) e.2
  (ls.filter waits).find? fun e =>
    slotServes s t m (opcodeOf e.1.cmd.word.toNat) slot cycle (slotFrom s.image x (ls.map Prod.snd) e.2) e.2 &&
    (((ls.filter waits).find? fun k => lineWay s.image k.2 == lineWay s.image e.2) == some e)

/-- The first requested line for which the port owns no slot. -/
def unownedLine (i : Image) (t m : Nat) (q : TUnit) : Option (Run × MvLine) :=
  (requested q).find? fun e =>
    let op := opcodeOf e.1.cmd.word.toNat
    e.2.stage == 0 && needsSlot t op e.2 && !lineHasSlots i t m op e.2

/-- A line of a running command changed, or removed. -/
def Tile.modLine (x : Tile) (u seq idx : Nat) (f : MvLine → Option MvLine) : Tile :=
  x.modUnit u fun q => { q with running := q.running.map fun r =>
    if r.cmd.seq = seq then { r with lines := r.lines.filterMap fun l => if l.idx = idx then f l else some l } else r }

/-- The bytes of line j of a store or copy and what the elements that begin in it add to the counts, from the source as it
stands in the cycle of the line's request (R73, R183). -/
def lineData (t : Nat) (s : State) (p : ConvPar) (l : MvLine) : List Byte × Counts :=
  let r := convertAll p (p.src.read (padAt t s l.req) p.idx p.srcTier)
  let mine := (r.2.zipIdx.filter fun e => elemPos p.dst p.dstTier e.2 / 128 == l.idx).map Prod.fst
  ((r.1.drop (128 * l.idx)).take 128, convCounts mine)

/-- A line as it leaves its port: a load's is read where it stands, a store's or copy's was read and converted at its
request. -/
def leave (t m : Nat) (s : State) (r : Run) (l : MvLine) : MvLine :=
  let op := opcodeOf r.cmd.word.toNat
  let p := convParOf s.image t m (s.tile t) r.cmd r.start
  if op = 0x30 then { l with data := (lineSpan op p l.idx).map fun k => memRead s.mem (movingByte op p k) }
  else
    let d := lineData t s p l
    { l with data := d.1, counts := d.2 }

/-- A slot of a link that a line has taken. -/
def takeLinkSlot (near far at_ slot : Nat) (s : State) : State :=
  match linkTo near far with
  | some k => s.modLink near k fun x => { x with taken := x.taken ++ [at_ / 4000 * linkSlots near far + slot] }
  | none => s

/-- MOVER_LINE_SLOT (R17, R19, R77, R85, R236): a line for which the port owns no slot raises NO_SLOT; otherwise the slot
moves the line whose turn it is. A load's line is read in its slot. -/
def execMoverLineSlot (t : TileId) (mover : Fin 2) (slot : Nat) (cycle : Nat) (ecc : Ecc) (s : State) :
    Host.Outcome State Fault Refusal :=
  let u := 2 + mover.val
  match unownedLine s.image t mover ((s.tile t).unit u) with
  | some (r, l) => event s true fun s =>
      tileFault t r.cmd.seq r.cmd.addr fcNoSlot l.addr (s.modTile t fun x => x.modLine u r.cmd.seq l.idx fun _ => none)
  | none =>
    eventOf s (if (s.tile t).settled cycle then pickLine s t mover slot cycle else none) fun e s =>
      let (r, l) := e
      let s := if opcodeOf r.cmd.word.toNat = 0x30 then eccRead l.addr ecc rqPort t ((s.image.unitTroupe t).getD 0xFF) s
        else if (channelOf s.image l.addr).isNone then
          takeLinkSlot (1 + t / 12) (farDie l.addr) ((s.tile t).spanAt cycle) slot s
        else s
      let l := { leave t mover s r l with stage := 1, slotAt := cycle }
      s.modTile t fun x => x.modLine u r.cmd.seq l.idx fun _ => some l

/-- R76: whether a line may land in a cycle. -/
def landsIn (t op cycle : Nat) (l : MvLine) : Bool :=
  let within := fun (lo hi : Nat) => decide (l.slotAt + lo ≤ cycle) && decide (cycle ≤ l.slotAt + hi)
  if needsSlot t op l then
    l.stage == 1 &&
    (if op = 0x32 then within 60 140
     else if op = 0x31 then within 0 200
     else match placeOf l.addr with
      | .fast _ _ => within 100 160
      | _ => within 180 300)
  else l.stage == 0 && decide (l.req + 12 ≤ cycle) && decide (cycle ≤ l.req + 40)

/-- A running command of a mover with a line of an index that may land now. Lines that take no slot move in request
order (R76). -/
def landing (t line cycle : Nat) (q : TUnit) : Option (Run × MvLine) :=
  (requested q).find? fun e =>
    let op := opcodeOf e.1.cmd.word.toNat
    e.2.idx == line && landsIn t op cycle e.2 &&
    (needsSlot t op e.2 || e.1.lines.all fun k => decide (line ≤ k.idx) || k.stage == 2)

/-- The source bytes that have landed of a load. -/
def landedBytes (r : Run) (total : Nat) : List Byte :=
  ((List.range ((total + 127) / 128)).flatMap fun j =>
    match r.lines.find? fun l => l.idx == j && l.stage == 2 with
    | some l => l.data
    | none => List.replicate 128 0).take total

/-- The destination positions that the landing of line j completes (R73): every line that feeds them has landed. Pad
goes with the last line. -/
def completedBy (r : Run) (p : ConvPar) (j : Nat) : List Nat :=
  let landed := fun i => r.lines.any fun l => l.idx == i && l.stage == 2
  let all := r.lines.all fun l => l.stage == 2
  (List.range (p.dst.byteCount p.dstTier)).filter fun k =>
    match feedRange p.src p.dst p.srcTier p.dstTier k with
    | some (a, b) => decide (a / 128 ≤ j) && decide (j ≤ b / 128) &&
        (List.range (b / 128 + 1 - a / 128)).all fun i => landed (a / 128 + i)
    | none => all

/-- A fault of a bank that an asynchronous port reaches, against the command that reaches it. -/
def bankFault (t peer seq addr code info0 : Nat) (s : State) : State :=
  if (s.tile t).raised.contains (seq, code) then s
  else unitFault peer code addr info0 (s.modTile t fun x => { x with raised := x.raised ++ [(seq, code)] })

/-- R45, R83: whether an asynchronous port may reach the banks of an address range: the fault code, if not. -/
def asyncFault (s : State) (peer bank port : Nat) : Option Nat :=
  if tget none (s.tile peer).windows bank ≠ some port then some fcWindow
  else if !s.image.bound peer bank port then some fcBankDenied
  else none

/-- Bytes of a line at their addresses on the side that moves. -/
def putLine (op : Nat) (p : ConvPar) (l : MvLine) (s : State) : State :=
  ((lineSpan op p l.idx).zip l.data).foldl (fun s a => s.store (movingByte op p a.1) [a.2]) s

/-- A copy's line reaches the other tile through its remote port (R83, R114). -/
def landPeer (t : Nat) (r : Run) (p : ConvPar) (l : MvLine) (s : State) : State :=
  let peer := (l.addr - 0x400_0000_0000) / 0x100_0000
  match (p.dst.banks p.idx p.dstTier (128 * l.idx) l.data.length).filterMap fun b => asyncFault s peer b 7 with
  | [] => putLine 0x32 p l s
  | codes => codes.foldl (fun s code => bankFault t peer r.cmd.seq r.cmd.addr code l.addr s) s

/-- R45: whether the mover may reach every reduction-buffer region that a line touches on the moving side. -/
def regionsBound (i : Image) (m op : Nat) (p : ConvPar) (j : Nat) : Bool :=
  (lineSpan op p j).all fun k =>
    match placeOf (movingByte op p k) with
    | .red d o => i.bound (0xF0 + d) (o / 0x80_0000) (4 + m)
    | _ => true

/-- The destination bytes that the landing of a load's line completes, written in its cycle (R73). -/
def landLoad (t m cycle : Nat) (r : Run) (p : ConvPar) (line : Nat) (s : State) : State :=
  let out := (convertAll p (landedBytes r (p.src.byteCount p.srcTier))).1
  let addrs := (completedBy r p line).map fun k => (p.dst.byteAt p.idx p.dstTier k, out.getD k 0)
  let (s, ok) := useBanks t cycle ((addrs.map fun a => bankOf a.1).dedup.map fun b => (⟨b, 4 + m, cycle, 1, 1, r.cmd.seq⟩, r.cmd.addr)) s
  if ok then addrs.foldl (fun s a => padStore t cycle a.1 [a.2] s) s else s

/-- MOVER_LINE_LANDS (R76, R88, R588): the line is written in its bank, region or DRAM, or handed to the reduction
engine. -/
def execMoverLineLands (t : TileId) (mover : Fin 2) (line : Nat) (cycle : Nat) (s : State) :
    Host.Outcome State Fault Refusal :=
  let u := 2 + mover.val
  eventOf s (if (s.tile t).settled cycle then landing t line cycle ((s.tile t).unit u) else none) fun e s =>
    let (r, l) := e
    let op := opcodeOf r.cmd.word.toNat
    let p := convParOf s.image t mover (s.tile t) r.cmd r.start
    let l := { (if l.stage = 0 then leave t mover s r l else l) with stage := 2 }
    let s := s.modTile t fun x => (x.modLine u r.cmd.seq line fun _ => some l).modUnit u fun q =>
      { q with running := q.running.map fun y => if y.cmd.seq = r.cmd.seq then { y with done := max y.done cycle } else y }
    if !regionsBound s.image mover op p line then tileFaultAt t cycle r.cmd.seq r.cmd.addr fcBankDenied l.addr s
    else if op = 0x30 then
      landLoad t mover cycle { r with lines := r.lines.map fun k => if k.idx = line then l else k } p line s
    else if op = 0x32 then landPeer t r p l s
    else match redFlowOf p.dst with
      | some f => (s.modRed (t / 12) fun q => { q with inputs := q.inputs ++
          [{ flow := f, addr := l.addr, position := ((s.image.flowRec f).map FlowRec.contributor).getD 0, data := l.data
             since := s.time.span, cause := r.cmd.addr }] }).modFlow f fun x => { x with lines := x.lines + 1 }
      | none => if (memOf l.addr).isSome then storeLine l.addr l.data s else putLine op p l s

/-- R359: one part of a copy is counted. -/
def tagPart (tag : Nat) (s : State) : State :=
  if tag = 0 ∨ 4095 < tag then s
  else { s with tag := { s.tag with tags := tmod {} s.tag.tags tag fun e =>
    if !e.valid then e
    else if e.parts ≤ e.done + 1 then { e with done := 0, copy := e.current } else { e with done := (e.done + 1) % 2 ^ 16 } } }

/-- The counts of a mover command whose lines are all written (R183). -/
def moverCounts (op : Nat) (p : ConvPar) (r : Run) : Counts :=
  let c := if op = 0x30 then convCounts (convertAll p (landedBytes r (p.src.byteCount p.srcTier))).2
    else r.lines.foldl (fun c l => c.add l.counts) {}
  { c with elements := p.dst.elements }

/-- MOVER_FINISH (R76, R80, R91, R106, R183): every line of the oldest command is written; its counts are added, its tag
part is counted, and its token is visible in a cycle 2 to 4 later. A command whose requests an abort discarded adds nothing;
one that ran to its end does, and after the notice none signals. -/
def execMoverFinish (t : TileId) (mover : Fin 2) (cycle : Nat) (s : State) : Host.Outcome State Fault Refusal :=
  let u := 2 + mover.val
  eventOf s (((s.tile t).unit u).running.head?.filter fun r =>
      r.lines.all (fun l => l.stage == 2) && decide (r.done + 2 ≤ cycle) && decide (cycle ≤ r.done + 4)) fun r s =>
    let x := s.tile t
    let w := r.cmd.word.toNat
    let op := opcodeOf w
    let p := convParOf s.image t mover x r.cmd r.start
    let s := s.modTile t fun x => x.dropRun u r.cmd.seq
    if r.cut then s
    else
      let s := if bitOf w 9 then countInto t (fld w 48 8) r.cmd.addr u r.done (moverCounts op p r) s else s
      let s := if op = 0x31 then tagPart p.dst.tagRef s else s
      let s := if x.state = tsAbort then s else descSignal t p.dst.signal cycle cycle r.cmd.addr r.cmd.seq s
      finished t u r.cmd.seq r.done s

end Sys2Proof.Machine
end

