-- ==== Sys2Proof/Machine/Tags.lean ====
section
/-! DEFINITION. Generation tags, the fetch board, publications and the fetch check (15, R354 to R376). -/

namespace Sys2Proof.Machine

open Sys2Proof

/-- Whether a troupe's scene is running or aborting. -/
def troupeBusy (s : State) (tr : Nat) : Bool := (s.troupe tr).state == 1 || (s.troupe tr).state == 2

/-- Whether a running or aborting troupe has a member of a vote object (R357). -/
def voteBusy (s : State) (v : Nat) : Bool :=
  s.image.route.any fun r => r.kind == 3 && r.id == v &&
    (maskUnits r.tiles r.engines).any fun u => (s.image.unitTroupe u).any (troupeBusy s)

def State.tagEntry (s : State) (e : Nat) : TagEntry := tget {} s.tag.tags e
def State.boardEntry (s : State) (n : Nat) : BoardEntry := tget {} s.tag.board n
def State.modBoard (s : State) (n : Nat) (f : BoardEntry → BoardEntry) : State :=
  { s with tag := { s.tag with board := tmod {} s.tag.board n f } }

/-- R357: a tag or board write that breaks a rule is ignored and noted. -/
def rejectTag (s : State) : State := { s with tag := { s.tag with reject := true } }

/-- TAG_ENTRY_WRITE (R357, R372): a write of RED_TAG_CTL. -/
def writeTag (e : Nat) (v : Word) (s : State) : State :=
  let x := s.tagEntry e
  let valid := bitOf v.toNat 63
  let vote := bitsOf v.toNat 48 8
  let parts := bitsOf v.toNat 32 16
  if voteBusy s x.vote || (x.valid && (vote != x.vote || parts != x.parts)) then rejectTag s
  else
    let y := { x with valid := valid, vote := vote, parts := parts }
    let y := if valid && !x.valid then { y with current := 0, copy := 0xFFFF_FFFF, done := 0 } else y
    { s with tag := { s.tag with tags := tset s.tag.tags e y } }

/-- TAG_ENTRY_WRITE (R357). -/
def execTagEntryWrite (e : Nat) (v : Word) (s : State) : Host.Outcome State Fault Refusal :=
  event s (decide (1 ≤ e) && decide (e ≤ 4095)) (writeTag e v)

/-- A write of BRD_KEY (register 0) or BRD_FLOW (register 1) (R364, R374). -/
def writeBoard (n reg : Nat) (v : Word) (s : State) : State :=
  let x := s.boardEntry n
  let w := v.toNat
  let y := if reg = 0 then { x with valid := bitOf w 63, key := bitsOf w 0 32 }
    else { x with tag := bitsOf w 52 12, flow := bitsOf w 32 18, lines := bitsOf w 0 32 }
  let busy := match s.image.flowRec x.flow with
    | some r => troupeBusy s r.troupe
    | none => false
  if busy || (x.valid && decide ({ y with valid := x.valid } ≠ x)) then rejectTag s
  else s.modBoard n fun _ => if y.valid && !x.valid then { y with matched := 0 } else y

/-- BOARD_ENTRY_WRITE (R364). -/
def execBoardEntryWrite (n : Fin 1024) (reg : Fin 2) (v : Word) (s : State) : Host.Outcome State Fault Refusal :=
  event s true (writeBoard n reg v)

/-- PUBLICATION_RECEIPT (R363): digest and gen are written into every valid board entry whose key matches. -/
def execPublicationReceipt (key : W32) (digest : Word) (gen : W32) (s : State) : Host.Outcome State Fault Refusal :=
  event s true fun s =>
    let board := s.tag.board.map fun p =>
      if p.2.valid && p.2.key == key.toNat then (p.1, { p.2 with digest := digest, gen := gen.toNat }) else p
    { s with
      pubs := s.pubs.eraseP fun q => q.key == key.toNat && q.digest == digest && q.gen == gen.toNat
      tag := { s.tag with board := board } }

/-- The valid board entry of a flow, with its number. -/
def boardOf (s : State) (flow : Nat) : Option (Nat × BoardEntry) := s.tag.board.find? fun p => p.2.valid && p.2.flow == flow

/-- FETCH_CHECK (R365): a complete copy's digest against the board's. -/
def execFetchCheck (n : Fin 1024) (s : State) : Host.Outcome State Fault Refusal :=
  let b := s.boardEntry n
  eventOf s (if b.valid then (s.flowCtx b.flow).copies.head? else none) fun found s =>
    let s := s.modFlow b.flow fun x => { x with copies := x.copies.drop 1, matched := found == b.digest }
    if found = b.digest then
      tagPart b.tag ((s.modFlow b.flow fun x => { x with accepted := x.accepted + b.lines }).modBoard n fun y =>
        { y with misses := 0, matched := satAdd 16 y.matched 1 })
    else
      let misses := min (b.misses + 1) 3
      let s := s.modBoard n fun y => { y with misses := misses }
      if misses < 3 then s.modFlow b.flow fun x => { x with asked := x.asked + 1 }
      else match s.image.flowRec b.flow with
        | some r => formRecord (1 + r.inPort / 2)
            { cls := 0x0B, severity := sevDeferred, unit := 72 + r.inPort / 2, code := 1, troupe := r.troupe,
              sceneId := (s.troupe r.troupe).sceneId, info0 := n, info1 := b.digest.toNat, info2 := found.toNat } s
        | none => s

/-- REPEAT_REQUEST (R366): at the flow's source its SEND is owed once more; a kind 3 package whose own check matched
will forward the repeated lines without writing them. -/
def execRepeatRequest (flow : Fin 262144) (s : State) : Host.Outcome State Fault Refusal :=
  eventOf s (s.image.flowRec flow) fun r s =>
    if r.inPort = 8 then
      let d := r.outPort / 2
      let x := s.fabEng d
      if thas x.lastSend flow && x.state != 0 && x.state != 4 then
        s.modFab d fun x => { x with repeats := x.repeats ++ [(flow.val, 0)] }
      else s
    else if r.kind = 3 ∧ (s.flowCtx flow).matched = true then
      s.modFlow flow fun x => { x with skip := ((boardOf s flow).map fun p => p.2.lines).getD 0 }
    else s

end Sys2Proof.Machine
end

