-- ==== Sys2Proof/Machine/Fabric.lean ====
section
/-! DEFINITION. The Abasis fabric (12, R273 to R298): ports, flits and replay, flows and credits, and the fabric
engine's SEND and RECV entries. -/

namespace Sys2Proof.Machine

open Sys2Proof

/-! ### Ports -/

/-- Port states (R295). -/
def psReset : Nat := 0
def psTraining : Nat := 1
def psFenced : Nat := 2
def psActive : Nat := 3
def psRetrain : Nat := 4
def psDown : Nat := 5
def psMiswired : Nat := 6

/-- The peer's identity as info1 of a LINK record (R552). -/
def Port.identity (x : Port) : Nat := x.peerSpan * 2 ^ 24 + x.peerX * 2 ^ 16 + x.peerY * 2 ^ 8 + x.peerZ

/-- A position in a dimension, moved by one forwards or backwards. -/
def stepIn (v size : Nat) (back : Bool) : Nat := if back then (v + size - 1) % size else (v + 1) % size

/-- R273: whether the identity received on port p is that of the neighbour required there. Without an image any is. -/
def identityOk (s : State) (p : Nat) : Bool :=
  match s.img.inForce with
  | none => true
  | some i =>
    let c := i.clockRec
    let x := s.port p
    let back := p % 2 == 1
    let m := fun (k v size : Nat) => if p / 2 = k then stepIn v size back else v
    x.peerPort == (if back then p - 1 else p + 1) &&
    x.peerX == m 0 c.x c.sizeX && x.peerY == m 1 c.y c.sizeY && x.peerZ == m 2 c.z c.sizeZ &&
    x.peerSpan == m 3 c.spanIndex c.spanCount

/-- R274: whether a port is in use: its dimension has more than one position. Without an image every port is. -/
def portUsed (s : State) (p : Nat) : Bool :=
  match s.img.inForce with
  | none => true
  | some i =>
    let c := i.clockRec
    decide (1 < [c.sizeX, c.sizeY, c.sizeZ, c.spanCount].getD (p / 2) 1)

/-- The opener that a port sends at the start of a frame (R275, R280). -/
def openerOf (s : State) (p : Nat) : List Byte :=
  let c := match s.img.inForce with
    | some i => i.clockRec
    | none => {}
  let flags := bit (s.image.portEnabled p) + 2 * bit ((s.port p).state == psFenced)
  let bs := List.replicate 16 (0xA5 : Byte) ++ leBytes 8 c.spanId ++ leBytes 2 c.spanIndex ++ leBytes 1 c.x ++ leBytes 1 c.y ++
    leBytes 1 c.z ++ leBytes 1 p ++ leBytes 2 flags ++ leBytes 4 s.img.changes ++ leBytes 4 s.frame ++ List.replicate 0x13E 0
  bs ++ leBytes 4 (crc32 bs)

/-- Troupes with a flow whose record names a port (R294). -/
def troupesOnPort (i : Image) (p : Nat) : List Nat :=
  ((i.flow.filter fun r => r.inPort == p || r.outPort == p).map FlowRec.troupe).dedup

/-- R560: a fabric engine is fenced by hardware when neither of its ports is active. -/
def fenceFabric (d : Nat) (s : State) : State :=
  if (s.port (2 * d)).state ≠ psActive ∧ (s.port (2 * d + 1)).state ≠ psActive then
    s.modFence (72 + d) fun x => { x with fenced := true, cause := if x.fenced then x.cause else 3 }
  else s

/-- A port's sequence numbers and flits after its lanes have left (R282): what was in transit is lost. -/
def Port.cleared (x : Port) : Port :=
  { x with rxPlace := 0, rxNext := 0, rxDue := 0, rxSync := false, rxHeld := [], rxFails := [], nakDue := false, nakSent := false
           rxThird := 0, txBase := 0, txKept := [], toReplay := [], nakFlit := none }

/-- R282, R294: a port is lost: LINK records, and every troupe with a flow on it aborts. -/
def losePort (p code state : Nat) (s : State) : State :=
  let s := s.modPort p fun x => { x.cleared with state := state, leftAt := s.time.span, upBefore := false }
  let s := match troupesOnPort s.image p with
    | [] => formRecord (1 + p / 2) { cls := 5, severity := sevDeferred, code := code, info0 := p, info1 := (s.port p).identity } s
    | l => l.foldl (fun s tr => linkAbort code p tr (s.port p).identity s) s
  fenceFabric (p / 2) s

/-- R275: a port with the identity last received: a fenced or active one with a wrong neighbour is miswired, an active one
as a port that is lost; a miswired one with the right neighbour is fenced. -/
def judgePort (p : Nat) (s : State) : State :=
  let x := s.port p
  let ok := identityOk s p
  if !x.identified then s
  else if x.state = psActive ∧ ok = false then losePort p 4 psMiswired s
  else if x.state = psFenced ∧ ok = false then s.modPort p fun x => { x with state := psMiswired }
  else if x.state = psMiswired ∧ ok = true then s.modPort p fun x => { x with state := psFenced }
  else s

/-- OPENER_RECEIVED (R275, R278, R280): a frame of the neighbour begins; a valid opener's identity is kept and checked. -/
def execOpenerReceived (p : PortId) (opener : List Byte) (s : State) : Host.Outcome State Fault Refusal :=
  event s (opener.length == 362 && (s.port p).state != psReset) fun s =>
    let s := s.modPort p fun x => { x with rxPlace := 0 }
    if crc32 (opener.take 0x166) ≠ fieldAt opener 0x166 4 then s
    else judgePort p (s.modPort p fun x => { x with
      identified := true, peerSpanId := fieldAt opener 0x10 8, peerSpan := fieldAt opener 0x18 2
      peerX := fieldAt opener 0x1A 1, peerY := fieldAt opener 0x1B 1, peerZ := fieldAt opener 0x1C 1
      peerPort := fieldAt opener 0x1D 1 })

/-- One-way delay above which a port does not come up: 50 ns in STR cycles (R277). -/
def delayLimit : Nat := 200

/-- PORT_TRAINED (R274, R275, R277, R292): the data lanes have trained; the port is up and fenced once its delay is within
bounds and its Strings lanes are up, and miswired where its neighbour is known to be another. -/
def execPortTrained (p : PortId) (delay : Nat) (stringsUp : Bool) (s : State) : Host.Outcome State Fault Refusal :=
  let st := (s.port p).state
  event s (portUsed s p && (st == psReset || st == psTraining || st == psRetrain || st == psDown)) fun s =>
    let near := decide (delay ≤ delayLimit)
    judgePort p (s.modPort p fun x => { x.cleared with
      delay := delay % 2 ^ 16, stringsUp := stringsUp && near, upBefore := false
      state := if near && stringsUp then psFenced else psTraining })

/-- PORT_RETRAIN (R282, R297): a flit failed three times, a lane lost alignment, or a lane delivered four uncorrectable
codewords in a row. -/
def execPortRetrain (p : PortId) (cause : RetrainCause) (s : State) : Host.Outcome State Fault Refusal :=
  let x := s.port p
  event s ((x.state == psFenced || x.state == psActive || x.state == psMiswired) &&
      (cause != .flitFailedThrice || x.rxFails.any fun f => decide (3 ≤ f.2))) fun s =>
    losePort p 3 psRetrain (s.modPort p fun x => { x with
      retrains := satAdd 16 x.retrains 1
      fecUncorr := if cause = .fecFailed then satAdd 16 x.fecUncorr 4 else x.fecUncorr })

/-- PORT_RETRAIN_TIMEOUT (R282): the data lanes are not up 2 ms after they left. -/
def execPortRetrainTimeout (p : PortId) (s : State) : Host.Outcome State Fault Refusal :=
  event s ((s.port p).state == psRetrain && decide ((s.port p).leftAt + 8_000_000 ≤ s.time.span)) (losePort p 4 psDown)

/-- R310: every update processor that has cast go and has no outcome. -/
def unknownAll (s : State) : State :=
  (List.range 4).foldl (fun s g =>
    if (s.grot g).castGo then
      match s.image.unitTroupe (64 + g) with
      | some tr => unknownStep tr (s.modGrot g fun x => { x with unknown := true })
      | none => s
    else s) s

/-- Whether the package is its span's time master (R55, R259). -/
def isMaster (s : State) : Bool := s.img.inForce.any fun i => i.clockRec.timeParent == 0xFF

/-- Whether the package is a member of a span with others (R262, R293): it has joined one, or others have joined it. -/
def spanMember (s : State) : Bool := s.str.inSpan || (isMaster s && decide (1 < s.str.members))

/-- R67, R71, R262, R293, R310: the package leaves the span: a pending epoch change fails, and it joins again only after the
sequence of R293. Its own STR_MEMBER takes the notice that it sends, and counts it alone (DEDUCED, log 141). -/
def leaveSpan (s : State) : State :=
  let was := spanMember s
  let c := s.image.clockRec
  let s := { s with str := { s.str with inSpan := false, joinRun := 0 } }
  if was then
    let s := noteMember false c.spanIndex c.x c.y c.z s
    unknownAll (failEpoch { s with str := { s.str with members := 1 } })
  else s

/-- STRINGS_LANE_LOST (R282): the port is down for data and for Strings, and the package leaves the span. -/
def execStringsLaneLost (p : PortId) (s : State) : Host.Outcome State Fault Refusal :=
  event s ((s.port p).stringsUp) fun s =>
    leaveSpan (losePort p 4 psDown (s.modPort p fun x => { x with stringsUp := false }))

/-! ### Flits (R278 to R281) -/

/-- Field [lo + n − 1:lo] of a flit's trailer. -/
def trailer (flit : List Byte) (lo n : Nat) : Nat := bitsOf (fieldAt flit 384 16) lo n

/-- Whether a flit passes its check. -/
def flitOk (flit : List Byte) : Bool :=
  flit.length == 400 && crc32 (flit.take 396) == trailer flit 96 32

/-- Lines of a flit, with their flows. -/
def flitLines (flit : List Byte) : List (Nat × List Byte) :=
  (List.range 3).filterMap fun k =>
    if trailer flit (50 + 19 * k) 1 = 1 then some (trailer flit (32 + 19 * k) 18, (flit.drop (128 * k)).take 128) else none

/-- Held flits that follow in order are accepted, at most fuel of them. -/
def acceptHeld : Nat → Port → Port
  | 0, x => x
  | fuel + 1, x =>
    match x.rxHeld.find? fun h => h.1 == x.rxNext with
    | some h => acceptHeld fuel { x with
        rxHeld := x.rxHeld.erase h, arrived := x.arrived ++ flitLines h.2, rxNext := (x.rxNext + 1) % 4096 }
    | none => x

/-- R281: the flit that is awaited is naked once it is known to have failed. -/
def Port.nakNext (x : Port) : Port := { x with nakDue := thas x.rxFails x.rxNext, nakSent := false }

/-- The receiver takes a slot flit, or the replay of one, that passed its check (R281). -/
def Port.accept (x : Port) (flit : List Byte) : Port :=
  let seq := trailer flit 0 12
  let ahead := (seq + 4096 - x.rxNext) % 4096
  if ahead = 0 then
    (acceptHeld x.rxHeld.length { x with
      arrived := x.arrived ++ flitLines flit, rxNext := (x.rxNext + 1) % 4096, rxFails := tdel x.rxFails seq }).nakNext
  else if ahead < 2048 ∧ !(x.rxHeld.any fun h => h.1 == seq) then { x with rxHeld := x.rxHeld ++ [(seq, flit)] }
  else x

/-- A slot flit has failed its check, at its own position or as a replay (R281): the first failure of the flit that is
awaited is naked, and each failure of its replay again. -/
def Port.fail (x : Port) (seq : Nat) : Port :=
  let x := { x with crcFail := satAdd 16 x.crcFail 1, rxFails := tmod 0 x.rxFails seq (· + 1) }
  if seq = x.rxNext then { x with nakDue := true, nakSent := false } else x

/-- The transmitter takes a flit's acknowledgement, where it is valid: flits up to ack_seq are released, and a naked flit is
to be replayed, once (R281). -/
def Port.acked (x : Port) (flit : List Byte) (now : Nat) : Port :=
  let ack := trailer flit 12 12
  let named := (ack + 1) % 4096
  if trailer flit 24 1 = 0 then x
  else
    let x := { x with txKept := x.txKept.filter fun k => decide (2048 ≤ (ack + 4096 - k.1) % 4096) }
    if trailer flit 25 1 = 1 ∧ !(x.toReplay.any fun r => r.1 == named) then { x with toReplay := x.toReplay ++ [(named, now)] } else x

/-- R278: positions of a frame that carry replays. -/
def replayPlaces : List Nat := [334, 668, 1002]

/-- An idle replay position: seq 0 and no valid tag (R278). -/
def idleFlit (flit : List Byte) : Bool := trailer flit 0 12 == 0 && (flitLines flit).isEmpty

/-- The flit at the next position of the neighbour's frame. The first good slot flit since training gives the numbers; an
idle flit at a replay position is no replay of slot flit 0 (DESIGN CHOICE, log 138). -/
def Port.receive (x : Port) (flit : List Byte) (now : Nat) : Port :=
  let k := x.rxPlace
  let x := { x with rxPlace := k + 1, rxThird := if k = 0 ∨ replayPlaces.contains (k - 1) = true then 0 else x.rxThird }
  let good := flitOk flit
  let x := if good then x.acked flit now else x
  if replayPlaces.contains k then
    if !x.rxSync then x
    else if good then (if idleFlit flit then x else x.accept flit)
    else if x.nakSent then x.fail x.rxNext else x
  else if good then
    let x := if x.rxSync then x else { x with rxSync := true, rxNext := trailer flit 0 12 }
    { x.accept flit with rxDue := (trailer flit 0 12 + 1) % 4096 }
  else
    let y := if x.rxSync then { x.fail x.rxDue with rxDue := (x.rxDue + 1) % 4096 } else { x with crcFail := satAdd 16 x.crcFail 1 }
    { y with rxThird := y.rxThird + 1, overran := y.overran || decide (1 ≤ y.rxThird) }

/-- SLOT_FLIT_RECEIVED (R278, R281, R283): the next flit of the neighbour's frame is checked, and accepted in sequence
order. -/
def execSlotFlitReceived (p : PortId) (flit : List Byte) (s : State) : Host.Outcome State Fault Refusal :=
  let x := s.port p
  event s ((x.state == psActive || x.state == psFenced) && decide (x.rxPlace ≤ 1002)) fun s =>
    s.modPort p fun x => x.receive flit s.time.span

/-- The flit of a sequence number with its lines, by position, flow and bytes (R279). -/
def flitBytes (x : Port) (seq : Nat) (lines : List (Nat × Nat × List Byte)) : List Byte :=
  let line := fun (k : Nat) => lines.find? fun l => l.1 == k
  let body := (List.range 3).flatMap fun k => match line k with
    | some l => l.2.2
    | none => List.replicate 128 0
  let tags := (List.range 3).foldl (fun w k => match line k with
    | some l => w + (2 ^ 18 + l.2.1) * 2 ^ (32 + 19 * k)
    | none => w) 0
  let nak := x.nakDue || x.nakFlit == some seq
  let ack := if x.rxSync then (x.rxNext + 4095) % 4096 * 2 ^ 12 + 2 ^ 24 + bit nak * 2 ^ 25 else 0
  let bs := body ++ leBytes 12 (seq + ack + tags)
  bs ++ leBytes 4 (crc32 bs)

/-- A flit leaves: a nak that is due goes with it (R281). -/
def Port.send (x : Port) (seq : Nat) (lines : List (Nat × Nat × List Byte)) : Port :=
  { x with
    sentFlit := flitBytes x seq lines
    nakFlit := if x.nakDue then some seq else x.nakFlit
    nakSent := x.nakSent || x.nakDue, nakDue := false }

/-- STR cycle of a frame in which position k begins (R278). -/
def placeAt (k : Nat) : Nat := (900 + 996 * k) / 250

/-- Span time at which slot g, and replay position r, of a port begin, counted from span time 0 (R278). -/
def portSlotAt (g : Nat) : Nat :=
  let f := g % 3000 / 3
  g / 3000 * 4000 + placeAt (if f < 334 then f else if f < 667 then f + 1 else f + 2)
def replayAt (r : Nat) : Nat := r / 3 * 4000 + placeAt (replayPlaces.getD (r % 3) 0)

/-- R281: STR cycles from a nak's arrival to the earliest replay, 5 ns. -/
def replayLead : Nat := 20

/-- REPLAY_SEND (R278, R281): a replay position passes. It carries the first flit whose nak came 5 ns before, with its number
and its lines, or an idle flit. -/
def execReplaySend (p : PortId) (position : Fin 3) (s : State) : Host.Outcome State Fault Refusal :=
  let x := s.port p
  let r := s.frame * 3 + position.val
  event s ((x.state == psActive || x.state == psFenced) && decide (x.txReplay ≤ r) && s.beginsNow (replayAt r)) fun s =>
    s.modPort p fun x =>
      let x := { x with txReplay := r + 1 }
      match x.toReplay.find? fun n => decide (n.2 + replayLead ≤ replayAt r) with
      | some n => { (x.send n.1 (((x.txKept.find? fun k => k.1 == n.1).map Prod.snd).getD [])) with
          toReplay := x.toReplay.erase n, replays := satAdd 16 x.replays 1 }
      | none => x.send 0 []

/-! ### Launching -/

/-- Owner of slot number slot of port p in the FABTT record. -/
def fabOwner (i : Image) (p slot : Nat) : Nat :=
  match i.fabtt.find? fun r => r.a == p && r.b == 1 with
  | some r => r.owners.getD slot 0
  | none => 0

/-- Whether a flow owns a slot of a port (R85). -/
def ownsFabSlot (i : Image) (p flow : Nat) : Bool :=
  i.fabtt.any fun r => r.a == p && r.b == 1 && r.owners.contains (owFlow flow)

/-- A line finds no credit (R286): it is counted once, and the frame's bounds are not promised (R283). -/
def holdForCredit (p : Nat) (waited : Bool) (s : State) : State :=
  s.modPort p fun x => { x with held := if waited then x.held else satAdd 16 x.held 1, overran := true }

/-- A slot of a port's frame that begins now and has not passed (R278). -/
def slotDue (s : State) (p slot : Nat) : Bool :=
  decide (slot < 3000) && decide ((s.port p).txSlot ≤ s.frame * 3000 + slot) && s.beginsNow (portSlotAt (s.frame * 3000 + slot))

/-- A slot passes, with a line or idle: its flit leaves with the lines that it has so far, and is kept until it is
acknowledged (R278, R281). -/
def passSlot (p slot : Nat) (line : Option (Nat × List Byte)) (s : State) : State :=
  s.modPort p fun x =>
    let seq := (x.txBase + slot / 3) % 4096
    let old := ((x.txKept.find? fun k => k.1 == seq).map Prod.snd).getD []
    let lines := match line with
      | some l => old ++ [(slot % 3, l.1, l.2)]
      | none => old
    let x := { x.send seq lines with txSlot := s.frame * 3000 + slot + 1 }
    if lines.isEmpty then x else { x with txKept := (x.txKept.filter fun k => k.1 != seq) ++ [(seq, lines)] }

/-- A line leaves in a slot of a port: it takes a credit (R286). -/
def launch (p slot flow : Nat) (data : List Byte) (s : State) : State :=
  passSlot p slot (some (flow, data)) (s.modFlow flow fun x => { x with credits := x.credits - 1 })

/-- R283: STR cycles from a line's arrival to the earliest slot in which it is forwarded, 20 ns. -/
def forwardLead : Nat := 80

/-- FORWARD_LAUNCH (R278, R283, R286, R292): a slot that no flow from here owns passes: with the first buffered line of the
flow that owns it, if that came 20 ns before and has a credit, or idle. -/
def execForwardLaunch (p : PortId) (slot : Nat) (s : State) : Host.Outcome State Fault Refusal :=
  let w := fabOwner s.image p slot
  let flow := w % 2 ^ 18
  let own := if w / 2 ^ 28 = 3 then s.image.flowRec flow else none
  let st := (s.port p).state
  event s ((st == psActive || st == psFenced) && slotDue s p slot && !own.any fun r => r.inPort == 8 && r.outPort == p.val) fun s =>
    match own.filter fun r => r.outPort == p.val && st == psActive with
    | none => passSlot p slot none s
    | some r =>
      match (s.port r.inPort).forward.find? fun l => l.flow == flow with
      | none => passSlot p slot none s
      | some l =>
        if portSlotAt (s.frame * 3000 + slot) < l.since + forwardLead then passSlot p slot none s
        else if (s.flowCtx flow).credits = 0 then
          let mark := fun (k : FwdLine) => if k = l then { k with waited := true } else k
          holdForCredit p l.waited (passSlot p slot none (s.modPort r.inPort fun x => { x with forward := x.forward.map mark }))
        else
          (launch p slot flow l.data (s.modPort r.inPort fun x => { x with forward := x.forward.erase l })).modFlow flow fun x =>
            x.progress r.kind 0 1

/-- CREDIT_RETURN (R286). -/
def execCreditReturn (flow : Fin 262144) (n : W32) (s : State) : Host.Outcome State Fault Refusal :=
  event s ((s.image.flowRec flow).any fun r => r.outPort != 0xFF && portHears s r.outPort) fun s =>
    s.modFlow flow fun x => { x with credits := satAdd 32 x.credits n.toNat }

/-! ### Arrival -/

/-- Unit number of a fabric engine. -/
def fabUnit (d : Nat) : Nat := 72 + d

/-- Address of line i of a flow's region (R285). -/
def FlowRec.lineAt (r : FlowRec) (i : Nat) : Nat := r.address + 128 * (i % max r.lines 1)

/-- R85: whether fabric engine d may reach a line: its own slots on the line's channel, and the flow's slots on the
mesh link between the dies. -/
def fabReach (i : Image) (d port flow a : Nat) (write : Bool) : Bool :=
  let far := match placeOf a with
    | .fast m _ => memDie m
    | .slow g _ => memDie (12 + g)
    | .red e _ => 1 + e
    | _ => 1 + d
  let mesh := fun (x y : Nat) => x == y || (match (linkTo x y).bind fun l => i.linkttRec x l with
    | some r => r.owners.contains (owFlow flow)
    | none => false)
  (match channelOf i a with
  | some (m, ch) => ownsChannel i m ch (fabUnit d) port
  | none => true) && (if write then mesh (1 + d) far else mesh far (1 + d))

/-- A delivered line has been written (R286, R289): a RECV that claims it may go on, but for a copy that the fetch board
checks (R365). -/
def lineWritten (flow : Nat) (s : State) : State :=
  let kind := ((s.image.flowRec flow).map FlowRec.kind).getD 1
  let plain := (boardOf s flow).isNone
  s.modFlow flow fun x => { x.progress kind 1 0 with accepted := if plain then x.accepted + 1 else x.accepted }

/-- A delivered line is written, in a slot of the engine's port 1 where it lies in a tier, and enters the fetch check of its
board entry (R284, R365). -/
def deliverLine (d : Nat) (r : FlowRec) (data : List Byte) (s : State) : State :=
  let x := s.flowCtx r.flow
  let a := r.lineAt x.lines
  let s := s.modFlow r.flow fun x => { x with lines := x.lines + 1 }
  if 0 < x.skip then s.modFlow r.flow fun x => { x.progress r.kind 1 0 with skip := x.skip - 1 }
  else if !fabReach s.image d 1 r.flow a true then unitFault (fabUnit d) fcNoSlot (s.fabEng d).entry a s
  else
    let s := match boardOf s r.flow with
      | none => s
      | some b =>
        let n := max b.2.lines 1
        let digest := x.digest ^^^ lineDigest (128 * (x.lines % n)) data
        let full := x.lines % n == n - 1
        s.modFlow r.flow fun x => { x with
          digest := if full then 0 else digest
          copies := if full then x.copies ++ [digest] else x.copies }
    if inTier a 128 then
      askLine { owner := owPort (fabUnit d) 1, die := 1 + d, line := a / 128, write := true, who := .fabWrite r.flow } (storeLine a data s)
    else lineWritten r.flow (s.store a data)

/-- A line is put in the forward buffer of the port on which it arrived (R287). -/
def bufferLine (p : Nat) (r : FlowRec) (data : List Byte) (s : State) : State :=
  if ownsFabSlot s.image r.outPort r.flow then
    s.modPort p fun x => { x with forward := x.forward ++ [{ flow := r.flow, data := data, since := s.time.span }] }
  else unitFault (fabUnit (p / 2)) fcNoSlot (s.fabEng (p / 2)).entry r.flow s

/-- A line of a reduce flow is handed to the reduction engine of its region's die (R284, R290). -/
def reduceLine (d : Nat) (r : FlowRec) (data : List Byte) (s : State) : State :=
  let x := s.flowCtx r.flow
  let a := r.lineAt x.lines
  if !fabReach s.image d 1 r.flow a true then unitFault (fabUnit d) fcNoSlot (s.fabEng d).entry a s
  else
    (s.modRed ((a - 0x500_0000_0000) / 0x800_0000) fun q => { q with inputs := q.inputs ++
      [{ flow := r.flow, addr := a, position := r.contributor, data := data, since := s.time.span }] }).modFlow r.flow fun x =>
        { x with lines := x.lines + 1 }

/-- R284: a line with no record here, or one that names another port, is discarded with a LINK record. -/
def discardLine (p : Nat) (s : State) : State :=
  formRecord (1 + p / 2) { cls := 5, severity := sevCorrected, code := 5, info0 := p, info1 := (s.port p).identity } s

/-- R91: whether lines of a troupe's flows are discarded at a die's ports: the abort notice has come, or the troupe names no
engine there, and no scene has started since. -/
def abortedHere (s : State) (tr d : Nat) : Bool :=
  let x := s.troupe tr
  x.state == 3 || (x.state == 2 && (x.noticed.contains (fabUnit d) || s.image.unitTroupe (fabUnit d) != some tr))

/-- FABRIC_LINE_ARRIVAL (R284 to R287): the first line that port p has accepted. -/
def execFabricLineArrival (p : PortId) (s : State) : Host.Outcome State Fault Refusal :=
  eventOf s ((s.port p).arrived.head?) fun l s =>
    let s := s.modPort p fun x => { x with arrived := x.arrived.drop 1 }
    let d := p.val / 2
    match (s.image.flowRec l.1).filter fun r => r.inPort == p.val with
    | none => discardLine p s
    | some r =>
      if abortedHere s r.troupe d then s
      else if r.kind = 0 then bufferLine p r l.2 (s.modFlow r.flow fun x => { x with lines := x.lines + 1 })
      else if r.kind = 1 then deliverLine d r l.2 s
      else if r.kind = 2 then reduceLine d r l.2 s
      else bufferLine p r l.2 (deliverLine d r l.2 s)

/-! ### The command ring (R288, R289) -/

def FabEngine.cur (x : FabEngine) : List Byte := ringEntry x.ring x.entry
def FabEngine.next (x : FabEngine) : FabEngine :=
  { x with entry := x.entry + 1, released := false, asked := false, sent := 0, waited := false, state := esRun }

/-- The fault of a SEND or RECV at its start, if any (R289). -/
def fabEntryFault (s : State) (d : Nat) (e : List Byte) : Option Nat :=
  match s.image.flowRec (fieldAt e 8 4 % 2 ^ 18) with
  | none => some fcRange
  | some r =>
    if s.image.unitTroupe (fabUnit d) ≠ some r.troupe then some fcRange
    else if fieldAt e 0x10 4 = 0 then some fcEncoding
    else if fieldAt e 0 1 = 1 then
      (if r.inPort ≠ 8 then some fcEncoding
       else if r.outPort / 2 ≠ d ∨ ownsFabSlot s.image r.outPort r.flow = false then some fcNoSlot else none)
    else none

/-- The lines of a SEND, or of the copy that it owes, are requested (R289), unless one has no slot on its way (R85, R88). Lines
of a reduction buffer take no memory slot. -/
def askSend (d : Nat) (r : FlowRec) (first count : Nat) (s : State) : State :=
  let is := (List.range count).map (first + ·)
  match is.find? fun i => !fabReach s.image d 0 r.flow (r.lineAt i) false with
  | some i => engineFault (fabUnit d) fcNoSlot (s.fabEng d).entry (r.lineAt i) s
  | none => is.foldl (fun s i =>
      if inTier (r.lineAt i) 128 then
        askLine { owner := owPort (fabUnit d) 0, die := 1 + d, line := r.lineAt i / 128, write := false, who := .fabRead r.flow i } s
      else s) (s.modFab d fun x => { x with asked := true })

/-- The slot of a line that a SEND has requested has come. -/
def lineFetched (d flow i line : Nat) (s : State) : State :=
  s.modFab d fun x => { x with fetched := x.fetched ++ [(flow, i, s.bytes (128 * line) 128)] }

/-- The bytes of line i of a flow that are ready to be sent. -/
def readyLine (s : State) (d i : Nat) (r : FlowRec) : Option (List Byte) :=
  if inTier (r.lineAt i) 128 then ((s.fabEng d).fetched.find? fun l => l.1 == r.flow && l.2.1 == i).map fun l => l.2.2
  else some (s.bytes (r.lineAt i) 128)

/-- A slot of a flow from here passes: with its line i where the line is ready and has a credit, or idle. -/
def sendLine (d slot i : Nat) (r : FlowRec) (count : State → State) (s : State) : State :=
  match readyLine s d i r with
  | none => passSlot r.outPort slot none s
  | some data =>
    if (s.flowCtx r.flow).credits = 0 then
      (holdForCredit r.outPort (s.fabEng d).waited (passSlot r.outPort slot none s)).modFab d fun x => { x with waited := true }
    else
      let keep := fun (l : Nat × Nat × List Byte) => !(l.1 == r.flow && l.2.1 == i)
      count ((launch r.outPort slot r.flow data (s.modFlow r.flow fun x => { x with lines := x.lines + 1 })).modFab d fun x =>
        { x with fetched := x.fetched.filter keep, waited := false })

/-- A repeated line (R366): the copy is requested first, and done after its last line. -/
def repeatLine (d slot : Nat) (rep : Nat × Nat) (r : FlowRec) (s : State) : State :=
  let p := tget (0, 0) (s.fabEng d).lastSend rep.1
  if !(s.fabEng d).asked then askSend d r p.1 p.2 s
  else
    let last := decide (p.2 ≤ rep.2 + 1)
    let rest := fun (l : List (Nat × Nat)) => if last then l.drop 1 else (rep.1, rep.2 + 1) :: l.drop 1
    sendLine d slot (p.1 + rep.2) r (fun s => s.modFab d fun x => { x with repeats := rest x.repeats, asked := !last }) s

/-- Whether a slot of the flow's port, one that begins now, carries the flow, the port being active. -/
def slotOfFlow (s : State) (slot : Nat) (r : FlowRec) : Bool :=
  fabOwner s.image r.outPort slot == owFlow r.flow && (s.port r.outPort).state == psActive && slotDue s r.outPort slot

/-- FAB_SEND (R288, R289, R366): the SEND at the ring's head waits, requests its lines, or launches the next one in a slot of
its flow; a copy owed goes between entries. The row also holds the check of R288 on an op that no entry has. -/
def execFabSend (d : ChipId) (slot : Nat) (s : State) : Host.Outcome State Fault Refusal :=
  let x := s.fabEng d
  let e := x.cur
  let op := fieldAt e 0 1
  let u := fabUnit d
  let first := fieldAt e 0x0C 4
  let count := fieldAt e 0x10 4
  event s (!(s.fence u).fenced && (x.state == esRun || x.state == esEnd)) fun s =>
    if !x.released && x.sent == 0 && !x.repeats.isEmpty then
      (match x.repeats.head? with
      | some rep => (match s.image.flowRec rep.1 with
        | some r => if !x.asked || slotOfFlow s slot r then repeatLine d slot rep r s else s
        | none => s)
      | none => s)
    else if x.state = esEnd ∨ op = 2 ∨ op = 3 then s
    else if op ≠ 1 then engineFault u fcEncoding x.entry 0 s
    else match fabEntryFault s d e with
      | some code => engineFault u code x.entry (fieldAt e 8 4 % 2 ^ 18) s
      | none =>
        if fieldAt e 2 2 ≠ 0xFFFF ∧ x.released = false then
          engineWait u (fieldAt e 2 2) (fieldAt e 4 4) (fieldAt e 0x16 2) x.entry s
        else match s.image.flowRec (fieldAt e 8 4 % 2 ^ 18) with
          | some r =>
            if !x.asked then askSend d r first count (s.modFab d fun x => { x with released := true })
            else if slotOfFlow s slot r && decide (x.sent < count) then
              sendLine d slot (first + x.sent) r (fun s => s.modFab d fun x => { x with sent := x.sent + 1 }) s
            else s
          | none => s

/-- FAB_SEND_COMPLETE (R289): the last line has been launched. -/
def execFabSendComplete (d : ChipId) (s : State) : Host.Outcome State Fault Refusal :=
  let x := s.fabEng d
  let e := x.cur
  event s (x.state == esRun && fieldAt e 0 1 == 1 && decide (0 < x.sent) && x.sent == fieldAt e 0x10 4) fun s =>
    engineSignal (fabUnit d) (fieldAt e 0x14 2) (s.modFab d fun x =>
      { x.next with lastSend := tset x.lastSend (fieldAt e 8 4 % 2 ^ 18) (fieldAt e 0x0C 4, fieldAt e 0x10 4) })

/-- RECVs that may be pending (R289). -/
def recvLimit : Nat := 64

/-- FAB_RECV (R289): a RECV is registered for count further lines of its flow. -/
def execFabRecv (d : ChipId) (s : State) : Host.Outcome State Fault Refusal :=
  let x := s.fabEng d
  let e := x.cur
  let flow := fieldAt e 8 4 % 2 ^ 18
  event s (x.state == esRun && !(s.fence (fabUnit d)).fenced && fieldAt e 0 1 == 2 && decide (x.recvs.length < recvLimit)) fun s =>
    match fabEntryFault s d e with
    | some code => engineFault (fabUnit d) code x.entry flow s
    | none =>
      let target := (s.flowCtx flow).claimed + fieldAt e 0x10 4
      (s.modFlow flow fun y => { y with claimed := target }).modFab d fun x =>
        { x.next with recvs := x.recvs ++ [{ flow := flow, target := target, signal := fieldAt e 0x14 2 }] }

/-- FAB_RECV_COMPLETE (R289): the lines of a pending RECV have been written or accepted. -/
def execFabRecvComplete (d : ChipId) (i : Nat) (s : State) : Host.Outcome State Fault Refusal :=
  eventOf s (((s.fabEng d).recvs[i]?).filter fun r => decide (r.target ≤ (s.flowCtx r.flow).accepted)) fun r s =>
    engineSignal (fabUnit d) r.signal (s.modFab d fun x => { x with recvs := x.recvs.eraseIdx i })

/-- FAB_END (R289): the engine arrives once END is executed and no RECV, and no copy owed, is pending. -/
def execFabEnd (d : ChipId) (s : State) : Host.Outcome State Fault Refusal :=
  let x := s.fabEng d
  event s ((x.state == esRun && !(s.fence (fabUnit d)).fenced && fieldAt x.cur 0 1 == 3) || x.state == esEnd) fun s =>
    if x.recvs.isEmpty && x.repeats.isEmpty then engineArrive (fabUnit d) s else setEngState (fabUnit d) esEnd s

end Sys2Proof.Machine
end

