-- ==== Sys2Proof/Machine/Vector.lean ====
section
/-! DEFINITION. The vector engine (08): the words of families 0x50 to 0x59, chains, masks, broadcasts, reductions,
compress and expand, key slots, and the counts of R204. -/

namespace Sys2Proof.Machine

open Sys2Proof

/-! ### Checks at issue (R103, R118, R186, R189, R193, R196, R197, R199 to R202, R206) -/

/-- Formats that the vector engine reads and writes (R186). -/
def vxOperandFmt (v : Vx) (f : Nat) : Bool :=
  if v.isKey then f == fmRaw
  else if v.intOperands then f == fmInt8 || f == fmInt32
  else (decide (fmFp32 ≤ f) && decide (f ≤ fmE5m2)) || f == fmBit

def vxResultFmt (v : Vx) (f : Nat) : Bool :=
  if v.intResult then f == fmInt32
  else (decide (fmFp32 ≤ f) && decide (f ≤ fmE5m2)) || (f == fmBit && v.op != 0x59)

/-- Elements that operand a's pattern may describe: those of the rows streamed, any number up to that for VX.EXPD,
the 32 bytes of VX.KEY. -/
def streamCountOk (v : Vx) (first : Bool) (n : Nat) : Bool :=
  if v.isKey then n == 32
  else if v.op == 0x57 && v.func == 1 && first then decide (n ≤ 128 * v.rows)
  else n == 128 * v.rows

/-- Whether an operand that the function reads is in order. A broadcast does not serve as operand a of VX.CMPR and
VX.EXPD, nor of VX.KEY; a hand-off register must have been written earlier in the chain, by a link whose result is
of the kind that this link reads. -/
def vxOperandOk (x : Tile) (v : Vx) (first : Bool) (s : Sel) : Bool :=
  let d := fun i => descAt x.imem i
  let plain := fun i => (d i).ok && vxOperandFmt v (d i).format
  match s with
  | .stream i => plain i && streamCountOk v first (d i).elements
  | .rowCast i => plain i && (d i).elements == 128 && !v.isKey && !(v.isPack && first)
  | .colCast i => plain i && (d i).elements == v.rows && !v.isKey && !(v.isPack && first)
  | .hand h =>
    match (x.vec.chain.filter fun c => (vxOf c.word.toNat).d == .hand h).getLast? with
    | some c => (vxOf c.word.toNat).intResult == v.intOperands
    | none => false
  | .unused => false
  | .reserved => false

/-- Whether the result selector is in order. -/
def vxResultOk (x : Tile) (v : Vx) : Bool :=
  match v.d with
  | .stream i =>
    let d := descAt x.imem i
    d.ok && vxResultFmt v d.format &&
    (if v.isRowReduction then d.elements == v.rows
     else if v.isReduction then d.elements == 128
     else (v.isPack && v.func == 0) || d.elements == 128 * v.rows)
  | .hand _ => !v.isReduction && !v.isPack
  | _ => false

/-- Whether a word is a VX.KEY to a slot. -/
def keysSlot (j : Nat) (c : Cmd) : Bool :=
  opcodeOf c.word.toNat == 0x58 && (vxOf c.word.toNat).isKey && (vxOf c.word.toNat).dRaw == j

/-- Whether a VX.KEY has named a slot since scene start (R206). -/
def slotNamed (x : Tile) (j : Nat) : Bool :=
  (tget {} x.vec.keys j).derived || (x.unit 1).queue.any (keysSlot j) || (x.unit 1).running.any fun r => keysSlot j r.cmd

/-- R206: slot and domain of VX.KEY. -/
def keyOk (v : Vx) : Bool :=
  v.rows == 1 && decide (v.dRaw ≤ 7) && ((v.func % 0x80 == 2) == (v.dRaw == 0))

/-- The checks of a VX word at issue. With mask_en 0 the word uses no mask, and the descriptor that its mask field names
is not checked (DESIGN CHOICE, log 127). -/
def vxOk (x : Tile) (w : Nat) : Bool :=
  let v := vxOf w
  let u := v.uses
  let sel := fun (used first : Bool) (s : Sel) => if used then vxOperandOk x v first s else s == .unused
  reservedClear w [(8, 8), (16, 14), (32, 14), (48, 14), (64, 14), (80, 12), (92, 1), (93, 1), (96, 8), (104, 24)] &&
  v.funcOk && v.rows != 0 && sel u.1 true v.a && sel u.2.1 false v.b && sel u.2.2 false v.c &&
  (if v.isKey then keyOk v else vxResultOk x v) &&
  (!v.maskEn || ((descAt x.imem v.mask).ok && (descAt x.imem v.mask).format == fmBit &&
    (descAt x.imem v.mask).elements == 128 * v.rows)) &&
  (!v.isPack || v.maskEn) &&
  (match v.slot with
  | some j => slotNamed x j
  | none => true) &&
  (match x.vec.chain with
  | [] => true
  | c :: cs => decide (cs.length + 2 ≤ 8) && (vxOf c.word.toNat).rows == v.rows && !v.isPack && !v.isKey)

/-- A VX word joins the open chain, which its descriptor result closes. -/
def Tile.pushVx (x : Tile) : Tile :=
  let c := x.asCmd
  { x with vec := { x.vec with chain := if endsChain (vxOf c.word.toNat) then [] else x.vec.chain ++ [c] } }.push 1

/-- Issue of a VX word of one row of the table: its family and its function. A ninth link is malformed although the
queue has no entry for it. -/
def issueVx (t op : Nat) (sel : Nat → Bool) (s : State) : Host.Outcome State Fault Refusal :=
  issueWord t (fun w => opcodeOf w == op && sel (vxOf w).func)
    (if (s.tile t).vec.chain.length < 8 then some 1 else none) vxOk (fun _ s => s.modTile t Tile.pushVx) s

/-- VX_ADD (R193). -/
def execVxAdd (t : TileId) (s : State) : Host.Outcome State Fault Refusal := issueVx t 0x50 (· == 0x00) s

/-- VX_SUB (R193). -/
def execVxSub (t : TileId) (s : State) : Host.Outcome State Fault Refusal := issueVx t 0x50 (· == 0x01) s

/-- VX_MUL (R193). -/
def execVxMul (t : TileId) (s : State) : Host.Outcome State Fault Refusal := issueVx t 0x50 (· == 0x02) s

/-- VX_MAX (R194). -/
def execVxMax (t : TileId) (s : State) : Host.Outcome State Fault Refusal := issueVx t 0x50 (· == 0x03) s

/-- VX_MIN (R194). -/
def execVxMin (t : TileId) (s : State) : Host.Outcome State Fault Refusal := issueVx t 0x50 (· == 0x04) s

/-- VX_FMA (R193). -/
def execVxFma (t : TileId) (s : State) : Host.Outcome State Fault Refusal := issueVx t 0x51 (· == 0x00) s

/-- VX_FMS (R193). -/
def execVxFms (t : TileId) (s : State) : Host.Outcome State Fault Refusal := issueVx t 0x51 (· == 0x01) s

/-- VX_FNMA (R193). -/
def execVxFnma (t : TileId) (s : State) : Host.Outcome State Fault Refusal := issueVx t 0x51 (· == 0x02) s

/-- VX_MOV (R193). -/
def execVxMov (t : TileId) (s : State) : Host.Outcome State Fault Refusal := issueVx t 0x52 (· == 0x00) s

/-- VX_NEG (R194). -/
def execVxNeg (t : TileId) (s : State) : Host.Outcome State Fault Refusal := issueVx t 0x52 (· == 0x01) s

/-- VX_ABS (R194). -/
def execVxAbs (t : TileId) (s : State) : Host.Outcome State Fault Refusal := issueVx t 0x52 (· == 0x02) s

/-- VX_RELU (R194). -/
def execVxRelu (t : TileId) (s : State) : Host.Outcome State Fault Refusal := issueVx t 0x52 (· == 0x03) s

/-- VX_CGT (R194). -/
def execVxCgt (t : TileId) (s : State) : Host.Outcome State Fault Refusal := issueVx t 0x53 (· == 0x00) s

/-- VX_CGE (R194). -/
def execVxCge (t : TileId) (s : State) : Host.Outcome State Fault Refusal := issueVx t 0x53 (· == 0x01) s

/-- VX_CEQ (R194). -/
def execVxCeq (t : TileId) (s : State) : Host.Outcome State Fault Refusal := issueVx t 0x53 (· == 0x02) s

/-- VX_CNE (R194). -/
def execVxCne (t : TileId) (s : State) : Host.Outcome State Fault Refusal := issueVx t 0x53 (· == 0x03) s

/-- VX_SEL (R194). -/
def execVxSel (t : TileId) (s : State) : Host.Outcome State Fault Refusal := issueVx t 0x54 (· == 0x00) s

/-- VX_EXP2 (R203). -/
def execVxExp2 (t : TileId) (s : State) : Host.Outcome State Fault Refusal := issueVx t 0x55 (· == 0x00) s

/-- VX_LOG2 (R203). -/
def execVxLog2 (t : TileId) (s : State) : Host.Outcome State Fault Refusal := issueVx t 0x55 (· == 0x01) s

/-- VX_RCP (R203). -/
def execVxRcp (t : TileId) (s : State) : Host.Outcome State Fault Refusal := issueVx t 0x55 (· == 0x02) s

/-- VX_RSQRT (R203). -/
def execVxRsqrt (t : TileId) (s : State) : Host.Outcome State Fault Refusal := issueVx t 0x55 (· == 0x03) s

/-- VX_TANH (R203). -/
def execVxTanh (t : TileId) (s : State) : Host.Outcome State Fault Refusal := issueVx t 0x55 (· == 0x04) s

/-- VX_ERF (R203). -/
def execVxErf (t : TileId) (s : State) : Host.Outcome State Fault Refusal := issueVx t 0x55 (· == 0x05) s

/-- VX_RSUM (R201). -/
def execVxRsum (t : TileId) (s : State) : Host.Outcome State Fault Refusal := issueVx t 0x56 (· == 0x00) s

/-- VX_RMAX (R201). -/
def execVxRmax (t : TileId) (s : State) : Host.Outcome State Fault Refusal := issueVx t 0x56 (· == 0x01) s

/-- VX_RMIN (R201). -/
def execVxRmin (t : TileId) (s : State) : Host.Outcome State Fault Refusal := issueVx t 0x56 (· == 0x02) s

/-- VX_RSSQ (R201). -/
def execVxRssq (t : TileId) (s : State) : Host.Outcome State Fault Refusal := issueVx t 0x56 (· == 0x03) s

/-- VX_CSUM (R202). -/
def execVxCsum (t : TileId) (s : State) : Host.Outcome State Fault Refusal := issueVx t 0x56 (· == 0x04) s

/-- VX_CMAX (R202). -/
def execVxCmax (t : TileId) (s : State) : Host.Outcome State Fault Refusal := issueVx t 0x56 (· == 0x05) s

/-- VX_CMIN (R202). -/
def execVxCmin (t : TileId) (s : State) : Host.Outcome State Fault Refusal := issueVx t 0x56 (· == 0x06) s

/-- VX_CMPR (R199). -/
def execVxCmpr (t : TileId) (s : State) : Host.Outcome State Fault Refusal := issueVx t 0x57 (· == 0x00) s

/-- VX_EXPD (R200). -/
def execVxExpd (t : TileId) (s : State) : Host.Outcome State Fault Refusal := issueVx t 0x57 (· == 0x01) s

/-- VX_KEY (R206): the domains that a tile derives. -/
def execVxKey (t : TileId) (s : State) : Host.Outcome State Fault Refusal :=
  issueVx t 0x58 (fun f => f == 0x81 || f == 0x82 || f == 0x84 || f == 0x85) s

/-- VX_DROP (R207). -/
def execVxDrop (t : TileId) (s : State) : Host.Outcome State Fault Refusal :=
  issueVx t 0x58 (fun f => decide (0x11 ≤ f) && decide (f ≤ 0x17)) s

/-- VX_KEEP (R207). -/
def execVxKeep (t : TileId) (s : State) : Host.Outcome State Fault Refusal :=
  issueVx t 0x58 (fun f => decide (0x21 ≤ f) && decide (f ≤ 0x27)) s

/-- VX_UNIF (R193, R207). -/
def execVxUnif (t : TileId) (s : State) : Host.Outcome State Fault Refusal :=
  issueVx t 0x58 (fun f => decide (0x31 ≤ f) && decide (f ≤ 0x37)) s

/-- VX_IADD (R195). -/
def execVxIadd (t : TileId) (s : State) : Host.Outcome State Fault Refusal := issueVx t 0x59 (· == 0x00) s

/-- VX_ISUB (R195). -/
def execVxIsub (t : TileId) (s : State) : Host.Outcome State Fault Refusal := issueVx t 0x59 (· == 0x01) s

/-- VX_IMAX (R193). -/
def execVxImax (t : TileId) (s : State) : Host.Outcome State Fault Refusal := issueVx t 0x59 (· == 0x02) s

/-- VX_IMIN (R193). -/
def execVxImin (t : TileId) (s : State) : Host.Outcome State Fault Refusal := issueVx t 0x59 (· == 0x03) s

/-- VX_ITOF (R195). -/
def execVxItof (t : TileId) (s : State) : Host.Outcome State Fault Refusal := issueVx t 0x59 (· == 0x04) s

/-- VX_FTOI (R195). -/
def execVxFtoi (t : TileId) (s : State) : Host.Outcome State Fault Refusal := issueVx t 0x59 (· == 0x05) s

/-! ### Bank accesses (R191) -/

/-- An access joins the run of accesses that it continues. -/
def addUse (us : List BankUse) (u : BankUse) : List BankUse :=
  match us with
  | [] => [u]
  | w :: ws =>
    if w.bank = u.bank ∧ (w.first + w.step * w.count = u.first) then { w with count := w.count + 1 } :: ws
    else w :: addUse ws u

/-- Accesses of one port, one set of banks in each of the cycles first, first + step, and so on. -/
def rowUses (port seq first step : Nat) (rows : List (List Nat)) : List BankUse :=
  ((rows.mapIdx fun r bs => bs.map fun b => (⟨b, port, first + step * r, step, 1, seq⟩ : BankUse)).flatten).foldl
    addUse []

/-- The banks that hold n elements of a pattern from element e on. -/
def elemBanks (d : Desc) (idx : List Nat) (e n : Nat) : List Nat :=
  let b := e * fmBits d.format / 8
  d.banks idx false b (((e + n) * fmBits d.format + 7) / 8 - b)

/-- The reads of an operand by link i of a chain of m links that starts in cycle s. -/
def operandUses (d : Desc) (idx : List Nat) (kind : Sel) (seq s m i rows : Nat) : List BankUse :=
  let n := d.elements
  match kind with
  | .rowCast _ => rowUses 2 seq (s + i) m [elemBanks d idx 0 128]
  | .colCast _ => rowUses 2 seq (s + i) (128 * m)
      ((List.range ((rows + 127) / 128)).map fun q => elemBanks d idx (128 * q) (min 128 (rows - 128 * q)))
  | _ => rowUses 2 seq (s + i) m
      ((List.range (min rows ((n + 127) / 128))).map fun r => elemBanks d idx (128 * r) (min 128 (n - 128 * r)))

/-- The writes of a chain: the rows of its result, each in its cycle. VX.CMPR may write any bank that its result
descriptor spans in any of its cycles, and holds them all (R198, R199). -/
def resultUses (d : Desc) (idx : List Nat) (v : Vx) (seq s m : Nat) : List BankUse :=
  if v.isPack && v.func == 0 then (elemBanks d idx 0 d.elements).map fun b => ⟨b, 3, s + 8, 1, v.rows, seq⟩
  else if v.isReduction then
    let n := if v.isRowReduction then v.rows else 128
    (((List.range ((n + 127) / 128)).map fun q =>
      let at_ := if v.isRowReduction then min (128 * q + 127) (v.rows - 1) else v.rows - 1
      (elemBanks d idx (128 * q) (min 128 (n - 128 * q))).map fun b =>
        (⟨b, 3, s + m * at_ + (m - 1) + 15, 1, 1, seq⟩ : BankUse)).flatten).foldl addUse []
  else rowUses 3 seq (s + (m - 1) + lambda v) m ((List.range v.rows).map fun r => elemBanks d idx (128 * r) 128)

/-! ### CHAIN_START -/

/-- Operand selectors that a word uses. -/
def Vx.sels (v : Vx) : List Sel :=
  (if v.uses.1 then [v.a] else []) ++ (if v.uses.2.1 then [v.b] else []) ++ (if v.uses.2.2 then [v.c] else [])

/-- The descriptors that a link uses: operands, mask and result. -/
def Vx.descs (v : Vx) : List Nat :=
  v.sels.filterMap Sel.desc ++ (if v.maskEn then [v.mask] else []) ++
  (if v.isKey then [] else match v.d with
    | .stream i => [i]
    | _ => [])

/-- The reads of link i. -/
def linkUses (x : Tile) (c : Cmd) (s m i : Nat) : List BankUse :=
  let v := vxOf c.word.toNat
  let one := fun (k : Sel) (j : Nat) => operandUses (descAt x.imem j) c.idx k c.seq s m i v.rows
  (v.sels.flatMap fun k => match k.desc with
    | some j => one k j
    | none => []) ++ (if v.maskEn then one (.stream v.mask) v.mask else [])

/-- R206: the slot that a VX.KEY derives from its 32 parameter bytes, for the scene's seed, step and attempt. -/
def deriveSlot (vec : VecState) (v : Vx) (bs : List Byte) (s : Nat) : KeySlot :=
  let tensor := fieldAt bs 0 8 % 2 ^ 56
  let domain := v.func % 0x80
  { key := rattleKey vec.seed domain tensor vec.rngStep
    domain := domain, tensorId := tensor, origin := fieldAt bs 8 8 % 2 ^ 48, threshold := fieldAt bs 16 4 % 2 ^ 24
    derived := true, readyAt := s + 9 }

/-- The last cycle of a chain: that of its last result (R190, R192, R199, R206). -/
def chainDone (v : Vx) (s m : Nat) : Nat :=
  if v.isKey then s + 8
  else s + m * (v.rows - 1) + (m - 1) + (if v.isReduction then 15 else lambda v)

/-- The slot that a VX.KEY derives from the bytes that it reads in its start cycle. -/
def keySlotOf (t : Nat) (s : State) (c : Cmd) (start : Nat) : Option (Nat × KeySlot) :=
  let x := s.tile t
  let v := vxOf c.word.toNat
  if v.isKey then v.a.desc.map fun i => (v.dRaw, deriveSlot x.vec v ((descAt x.imem i).read (padAt t s start) c.idx false) start)
  else none

/-- The accesses of a chain that starts in a cycle, each with the address of its command. -/
def chainUses (x : Tile) (cs : List Cmd) (last : Cmd) (start : Nat) : List (BankUse × Nat) :=
  let v := vxOf last.word.toNat
  (cs.mapIdx fun i c => (linkUses x c start cs.length i).map fun u => (u, c.addr)).flatten ++
  (if v.isKey then [] else match v.d with
    | .stream i => (resultUses (descAt x.imem i) last.idx v last.seq start cs.length).map fun u => (u, last.addr)
    | _ => [])

/-- A chain starts: it leaves the queue, its addresses and banks are checked, and a VX.KEY derives its slot (R106, R190,
R191, R198, R206). What its links read in its cycles is found when it finishes. -/
def startChain (t : Nat) (cs : List Cmd) (last : Cmd) (s : State) : State :=
  let x := s.tile t
  let v := vxOf last.word.toNat
  let m := cs.length
  let start := chainStart x cs last
  let drop := fun (free : Nat) => s.modTile t fun x => x.modUnit 1 fun q => { q.started m start with freeAt := free }
  let inPadAll := fun (c : Cmd) => (vxOf c.word.toNat).descs.all fun i =>
    (descAt x.imem i).allRows c.idx false fun a n => inPad t a n
  match cs.filter fun c => !inPadAll c with
  | c :: more => raiseBreaches t ((c :: more).map fun c => ⟨start, fcAddress, c.seq, c.addr, 0⟩) (drop (x.unit 1).freeAt)
  | [] =>
    let (s, ok) := useBanks t start (chainUses x cs last start) (drop (start + m * v.rows))
    if !ok then s.modTile t fun y => y.modUnit 1 fun q => { q with freeAt := (x.unit 1).freeAt }
    else
      let slot := keySlotOf t s last start
      let named := fun (c : Cmd) => tget {} x.vec.keys ((vxOf c.word.toNat).slot.getD 0)
      let r : Run := { cmd := last, start := start, busyTo := start + m * v.rows - 1, done := chainDone v start m
                       links := cs.map fun c => (c, named c) }
      let s := s.modTile t fun x => { x.modUnit 1 fun q => { q with running := q.running ++ [r] } with
        vec := match slot with
          | some p => { x.vec with
              keys := tset x.vec.keys p.1 p.2
              key0 := if p.1 = 0 then x.vec.key0 ++ [(start + 8, p.2.key)] else x.vec.key0 }
          | none => x.vec }
      duty t 1 start (start + m * v.rows - 1) last.seq last.addr s

/-- Whether the tile's started and queued work still goes on (R91): it issues, waits, or ends its scene. -/
def Tile.works (x : Tile) : Bool := x.state == tsIssue || x.state == tsWait || x.state == tsEnding

/-- CHAIN_START (R188, R190, R191). -/
def execChainStart (t : TileId) (s : State) : Host.Outcome State Fault Refusal :=
  let x := s.tile t
  eventOf s (if x.works && ((x.headStart 1).map x.settled).getD false then firstChain (x.unit 1).queue else none) fun cs s =>
    match cs.getLast? with
    | some last => startChain t cs last s
    | none => s

/-! ### CHAIN_FINISH -/

/-- The running chain whose last result is written first. -/
def firstDone (rs : List Run) : Option Run :=
  rs.foldl (fun m r => match m with
    | some q => if r.done < q.done then some r else m
    | none => some r) none

/-- One result written in its cycle, with what its conversion adds to the counts. -/
def writeOut (t : Nat) (f : FormatRec) (d : Desc) (idx : List Nat) (p : State × Counts) (o : VxOut) : State × Counts :=
  let x := p.1.tile t
  let w := outWrite f d idx x.vec.key0 (undoFrom x.past (o.cycle + 1) p.1.mem) o
  (padStore t o.cycle w.1.addr w.1.data p.1, p.2.add w.2)

/-- The hand-off registers as a chain leaves them. -/
def handTable (hand : Tbl (List W32)) : Tbl W32 :=
  (List.range 4).flatMap fun h => (tget [] hand h).mapIdx fun l w => (128 * h + l, w)

/-- CHAIN_FINISH (R187, R192, R204): the chain's results stand in scratchpad, its counted links add their counts,
and every word of it has finished. -/
def execChainFinish (t : TileId) (s : State) : Host.Outcome State Fault Refusal :=
  eventOf s ((firstDone ((s.tile t).unit 1).running).filter fun r => (s.tile t).settled r.done) fun r s =>
    let v := vxOf r.cmd.word.toNat
    let s := s.modTile t fun x => x.dropRun 1 r.cmd.seq
    let out := chainRun (padAt t s) (s.tile t) r
    let s := if v.isKey then s
      else s.modTile t fun x => { x with vec := { x.vec with handoff := handTable out.hand } }
    let (s, conv) := match v.d with
      | .stream i => out.out.foldl (writeOut t (s.image.formatOf t 4) (descAt (s.tile t).imem i) r.cmd.idx) (s, {})
      | _ => (s, {})
    let s := ((r.links.map Prod.fst).zip out.counts).foldl (fun s l =>
      let w := vxOf l.1.word.toNat
      if w.count then
        countInto t w.entry l.1.addr 1 r.done (if l.1.seq = r.cmd.seq then l.2.add conv else l.2) s
      else s) s
    r.links.foldl (fun s l => finished t 1 l.1.seq r.done s) s

end Sys2Proof.Machine
end

