-- ==== Sys2Proof/Machine/Grotto.lean ====
section
/-! DEFINITION. The Grottos (14, R319 to R353): shards, the update processor's ring and programs, the root unit, the
digest unit, commit and flip. -/

namespace Sys2Proof.Machine

open Sys2Proof

/-! ### Shards -/

/-- Unit number of an update processor. -/
def updUnit (g : Nat) : Nat := 64 + g

/-- Region of a shard's generation: active (R322) or inactive. -/
def Shard.region (x : Shard) (inactive : Bool) : Nat :=
  if (x.gen % 2 == 1) != inactive then x.base1 else x.base0

def Grotto.shard (x : Grotto) (i : Nat) : Shard := tget {} x.shards i
def State.shard (s : State) (g i : Nat) : Shard := (s.grot g).shard i
def State.modShard (s : State) (g i : Nat) (f : Shard → Shard) : State :=
  s.modGrot g fun x => { x with shards := tmod {} x.shards i f }

/-- A line of a shard's inactive generation, at an offset, has been written: it enters digest_i, and the head digest
below head (R345, R362). -/
def digestLine (g i off : Nat) (s : State) : State :=
  let x := s.shard g i
  let d := lineDigest off (s.bytes (x.region true + off) 128)
  s.modShard g i fun x => { x with
    digestI := x.digestI ^^^ d, headDigest := if off < x.head then x.headDigest ^^^ d else x.headDigest }

/-- Bytes written to a tier, every line that they touch as a whole. -/
def storeSpan (a : Nat) (bs : List Byte) (s : State) : State :=
  (linesOf a bs.length).foldl (fun s l => storeLine (128 * l) (s.bytes (128 * l) 128) s) (s.store a bs)

/-- Bytes written to a shard's inactive generation at an offset, in slots of a port; the lines that the write completes
enter the digest. -/
def writeGen (g unit : Nat) (who : MemUser) (i off : Nat) (bs : List Byte) (dirty : Bool) (completes : Nat → Bool) (s : State) : State :=
  let a := (s.shard g i).region true + off
  let s := askRange (owPort unit 1) (5 + g) a bs.length true who (storeSpan a bs s)
  let s := ((linesOf off bs.length).filter completes).foldl (fun s l => digestLine g i (128 * l) s) s
  s.modShard g i fun x => { x with dirty := x.dirty || dirty }

/-- R85, R88: the first line of a range on whose channel a port of R319 owns no slot. -/
def noSlot (i : Image) (unit port a n : Nat) : Option Nat :=
  ((linesOf a n).find? fun l => match channelOf i (128 * l) with
    | some (m, ch) => !ownsChannel i m ch unit port
    | none => false).map (128 * ·)

/-- R339: the processor will refuse its commit vote. -/
def refuseCommit (g : Nat) (s : State) : State := s.modGrot g fun x => { x with refuse := true }

/-- The troupe of an update processor. -/
def updTroupe (s : State) (g : Nat) : Nat := (s.image.unitTroupe (updUnit g)).getD 0xFF

/-- A read of a line by a unit of the Grotto: its errors, and the refusal of R321 in a commit scene. -/
def grottoRead (g unit a : Nat) (e : Ecc) (s : State) : State :=
  let tr := updTroupe s g
  let bad := effEcc s a e == .uncorrectable
  let s := eccRead a e rqPort unit tr s
  if bad && (s.troupe tr).commitScene then refuseCommit g s else s

/-! ### The ring -/

def Grotto.cur (x : Grotto) : List Byte := ringEntry x.ring x.entry
def Grotto.op (x : Grotto) : Nat := fieldAt x.cur 0 1
def Grotto.next (x : Grotto) : Grotto :=
  { x with entry := x.entry + 1, released := false, begun := false, asked := false, state := esRun }

/-- The entry in progress completes. -/
def nextEntry (g : Nat) (s : State) : State := s.modGrot g Grotto.next

/-- An entry's fault. -/
def grottoFault (g code info0 : Nat) (s : State) : State :=
  engineFault (updUnit g) code (s.grot g).entry info0 (s.modGrot g fun x => { x with begun := false })

/-- The row of an entry op: the entry at the ring's head is of that op and has not begun. -/
def atEntry (s : State) (g op : Nat) : Bool := (s.grot g).state == esRun && !(s.grot g).begun && (s.grot g).op == op

/-- Every line that the processor's entry has requested has had its slot. -/
def entrySlotted (s : State) (g : Nat) : Bool := !s.asks (· == .update g)

/-- An entry that reads tier lines: it requests them once, and acts when all have had their slots. -/
def afterReads (g port a n : Nat) (act : State → State) (s : State) : State :=
  if (s.grot g).asked then act s
  else askRange (owPort (updUnit g) port) (5 + g) a n false (.update g) (s.modGrot g fun x => { x with asked := true })

/-- R326: after a no-go norm outcome every entry but COMMIT and END completes without executing. -/
def unlessSkipping (g : Nat) (f : State → State) (s : State) : State :=
  if (s.grot g).skipping then nextEntry g s else f s

/-- Ops of R325. -/
def ringOp (op : Nat) : Bool := (decide (0x31 ≤ op) && decide (op ≤ 0x37)) || op == 0x3F

/-- UPD_NORM_WAIT (R326): go is cast on the norm vote and its outcome awaited. The row also holds the check of R325 on
an op that no entry has. -/
def execUpdNormWait (g : GrottoId) (s : State) : Host.Outcome State Fault Refusal :=
  let x := s.grot g
  let u := updUnit g
  let vote := fieldAt x.cur 1 1
  event s (atEntry s g 0x31 || (x.state == esRun && !x.begun && !ringOp x.op)) fun s =>
    if !ringOp x.op then grottoFault g fcEncoding 0 s
    else unlessSkipping g (fun s =>
      match objectFault s u 3 vote with
      | some code => grottoFault g code vote s
      | none =>
        engineStrWait u 3 vote (fieldAt x.cur 4 2) x.entry
          (sendStr { kind := 3, obj := vote, unit := u, value := 1, addr := x.entry }
            (s.modGrot g fun x => { x with begun := true }))) s

/-- The released outcome of a vote that an update processor awaits. -/
def voteResult (s : State) (u : Nat) : Option Bool :=
  let w := tget { kind := 0, obj := 0 } s.str.waits u
  if w.kind = 3 ∧ w.released = true then some (w.result == some 1) else none

/-- The wait of a vote ends. -/
def endVote (u : Nat) (s : State) : State :=
  ({ s with str := { s.str with waits := tdel s.str.waits u } } : State).setWait u none

/-- NORM_OUTCOME (R306, R311, R316, R326): a step declines at a no-go outcome. -/
def execNormOutcome (g : GrottoId) (s : State) : Host.Outcome State Fault Refusal :=
  let x := s.grot g
  eventOf s (if x.state = esWait ∧ x.op = 0x31 then voteResult s (updUnit g) else none) fun go s =>
    let s := (endVote (updUnit g) s).modGrot g fun x => { x.next with normGo := go, skipping := !go }
    if go then s.modTroupe (updTroupe s g) fun t => if t.commitScene && t.stepState == 1 then { t with stepState := 2 } else t
    else stepOutcome (updTroupe s g) false s

/-- CONST (R327). -/
def runConst (g : Nat) (s : State) : State :=
  let x := s.grot g
  let e := x.cur
  let first := fieldAt e 1 1
  let count := fieldAt e 2 1
  let mode := fieldAt e 3 1
  let a := fieldAt e 8 8
  let row := a + (x.capStep.toNat % 2 ^ 48) * 128
  if count = 0 ∨ 32 < first + count ∨ 1 < mode ∨ (mode = 0 ∧ 4 < count) then grottoFault g fcEncoding 0 s
  else if mode = 1 ∧ (a % 128 ≠ 0 ∨ inTier row 128 = false) then grottoFault g fcAddress row s
  else if mode = 1 ∧ noSlot s.image (updUnit g) 0 row 128 ≠ none then grottoFault g fcNoSlot row s
  else
    let fill := fun (s : State) =>
      let value := fun i => BitVec.ofNat 32
        (if mode = 0 then fieldAt e (0x10 + 4 * i) 4 else leNat (s.bytes (row + 4 * (first + i)) 4))
      nextEntry g (s.modGrot g fun x => { x with
        consts := (List.range count).foldl (fun m i => tset m (first + i) (value i)) x.consts })
    if mode = 1 then afterReads g 0 row 128 fill s else fill s

/-- UPD_CONST (R327). A row of the step table is requested first, and taken when it has had its slot. -/
def execUpdConst (g : GrottoId) (s : State) : Host.Outcome State Fault Refusal :=
  event s (atEntry s g 0x36 && entrySlotted s g) (unlessSkipping g (runConst g))

/-! ### INIT (R328) -/

/-- Element k of consecutive row-major b × b identity blocks. -/
def identityElem (b k : Nat) : W32 := if k % (b * b) / b = k % (b * b) % b then 0x3F80_0000#32 else 0

/-- Whether a later entry of the scene is an INIT on a shard. -/
def laterInit (ring : Tbl Byte) (shard : Nat) : Nat → Nat → Bool
  | 0, _ => false
  | fuel + 1, e =>
    let x := ringEntry ring e
    if fieldAt x 0 1 = 0x3F then false
    else (fieldAt x 0 1 == 0x37 && fieldAt x 2 2 == shard) || laterInit ring shard fuel (e + 1)

/-- INIT fills its region of both generations. -/
def runInit (g : Nat) (s : State) : State :=
  let x := s.grot g
  let e := x.cur
  let pattern := fieldAt e 1 1
  let i := fieldAt e 2 2
  let b := fieldAt e 4 2
  let off := fieldAt e 8 8
  let n := fieldAt e 0x10 8
  let sh := s.shard g i
  let badForm := decide (1 < pattern) || (pattern == 0 && b != 0) ||
    (pattern == 1 && (decide (b < 64) || decide (1024 < b) || b % 64 != 0 || n % (4 * b * b) != 0))
  let last := !laterInit x.ring i 4096 (x.entry + 1)
  let finish := fun (s : State) => nextEntry g (if last then s.modShard g i fun y =>
    { y with initialised := true, digestA := rangeDigest s.mem (y.region false) (y.bytes / 128) } else s)
  if x.asked then finish s
  else if badForm then grottoFault g fcEncoding 0 s
  else if sh.valid = false ∨ sh.initialised = true then grottoFault g fcRange i s
  else if off % 128 ≠ 0 ∨ n % 128 ≠ 0 ∨ sh.bytes < off + n then grottoFault g fcAddress off s
  else match (noSlot s.image (updUnit g) 1 (sh.region false + off) n).or
      (noSlot s.image (updUnit g) 1 (sh.region true + off) n) with
  | some a => grottoFault g fcNoSlot a s
  | none =>
    let bytes := if pattern = 0 then List.replicate n (0 : Byte)
      else (List.range (n / 4)).flatMap fun k => leBytes 4 (identityElem b k).toNat
    let s := askRange (owPort (updUnit g) 1) (5 + g) (sh.region false + off) n true (.update g) (storeSpan (sh.region false + off) bytes s)
    (writeGen g (updUnit g) (.update g) i off bytes false (fun _ => true) s).modGrot g fun x => { x with asked := true }

/-- UPD_INIT (R328). It completes when its last line has had its slot. -/
def execUpdInit (g : GrottoId) (s : State) : Host.Outcome State Fault Refusal :=
  event s (atEntry s g 0x37 && entrySlotted s g) (unlessSkipping g (runInit g))

/-! ### Update programs (R329 to R338) -/

/-- The record of a program (R330). -/
def progRecord (x : Grotto) (n : Nat) : List Byte := imemBytes x.prog (0x400 * n) 0x400

/-- An input stream's descriptor (R331). -/
structure InDesc where
  kind : Nat
  format : Nat
  offset : Nat
  rsvd : Bool
deriving DecidableEq, Repr

/-- An output stream's descriptor. -/
structure OutDesc where
  format : Nat
  stoch : Bool
  hold : Nat
  offset : Nat
  rsvd : Bool
deriving DecidableEq, Repr

def inDesc (p : List Byte) (i : Nat) : InDesc :=
  let o := 0x140 + 16 * i
  { kind := fieldAt p o 1, format := fieldAt p (o + 1) 1, offset := fieldAt p (o + 8) 8
    rsvd := decide (3 < fieldAt p o 1) || !(fieldAt p (o + 1) 1 == 1 || fieldAt p (o + 1) 1 == 2) || fieldAt p (o + 2) 6 != 0 }

def outDesc (p : List Byte) (j : Nat) : OutDesc :=
  let o := 0x1C0 + 16 * j
  let f := fieldAt p o 1
  let r := fieldAt p (o + 1) 1
  let h := fieldAt p (o + 2) 1
  { format := f, stoch := r == 1, hold := h, offset := fieldAt p (o + 8) 8
    rsvd := !(f == 1 || f == 2) || decide (1 < r) || (r == 1 && f != 2) || (decide (7 < h) && h != 0xFF) ||
      fieldAt p (o + 3) 5 != 0 }

/-- Streams in use. -/
def usedIn (p : List Byte) (i : Nat) : Bool := bitOf (fieldAt p 1 1) i
def usedOut (p : List Byte) (j : Nat) : Bool := bitOf (fieldAt p 2 1) j

/-- Bytes of an element of format 0x01 or 0x02. -/
def elemBytes (f : Nat) : Nat := if f = 1 then 4 else 2

/-- An instruction word (R332). -/
structure Prg where
  op : Nat
  d : Nat
  a : Nat
  b : Nat
  c : Nat
  k : Nat
deriving DecidableEq, Repr

def prgOf (w : Nat) : Prg :=
  { op := bitsOf w 26 6, d := bitsOf w 21 5, a := bitsOf w 16 5, b := bitsOf w 11 5, c := bitsOf w 6 5, k := bitsOf w 0 5 }

def progInstr (p : List Byte) (j : Nat) : Prg := prgOf (fieldAt p (0x40 + 4 * j) 4)

/-- Operands that an op uses (R333). -/
def prgUses (op : Nat) : Bool × Bool × Bool :=
  if op = 4 ∨ op = 5 ∨ op = 6 ∨ op = 0x0D then (true, true, true)
  else if op = 8 ∨ op = 0x0B ∨ op = 0x0C ∨ op = 0x0F then (true, false, false)
  else (true, true, false)

/-- Whether an operand selector is in order: unused is 0x1F, a stream is in use, and a register or output has been
written earlier (R334). -/
def selOk (p : List Byte) (written : List Nat) (used : Bool) (v : Nat) : Bool :=
  if !used then v == 0x1F
  else if v < 0x10 then written.contains v
  else if v < 0x18 then usedIn p (v - 0x10)
  else if v < 0x1E then usedOut p (v - 0x18) && written.contains v
  else v == 0x1E

/-- The instructions' checks in order, with what they have written. -/
def instrsOk (p : List Byte) : Nat → Nat → List Nat → Option (List Nat)
  | 0, _, w => some w
  | n + 1, j, w =>
    let i := progInstr p j
    let u := prgUses i.op
    let dOk := decide (i.d < 0x10) || (decide (0x18 ≤ i.d) && decide (i.d < 0x1E) && usedOut p (i.d - 0x18) && !w.contains i.d)
    if decide (1 ≤ i.op) && decide (i.op ≤ 0x0F) && dOk && selOk p w u.1 i.a && selOk p w u.2.1 i.b && selOk p w u.2.2 i.c
    then instrsOk p n (j + 1) (i.d :: w) else none

/-- R334. -/
def programOk (p : List Byte) (sh : Shard) (flags : Nat) : Bool :=
  let n := fieldAt p 0 1
  let outs := (List.range 6).filter (usedOut p)
  decide (1 ≤ n) && decide (n ≤ 64) && decide (fieldAt p 2 1 < 64) &&
  ((List.range 8).filter (usedIn p)).all (fun i => !(inDesc p i).rsvd) &&
  outs.all (fun j =>
    let d := outDesc p j
    !d.rsvd && (d.hold == 0xFF || (usedIn p d.hold && (inDesc p d.hold).format == d.format)) &&
    !(d.hold == 0xFF && ((bitOf flags 0 && sh.freezeMode != 0) || bitOf flags 1))) &&
  (match instrsOk p n 0 [] with
  | some w => outs.all fun j => w.contains (0x18 + j)
  | none => false)

/-- Fields of an UPDATE entry (R329). -/
structure Upd where
  program : Nat
  shard : Nat
  waitCh : Nat
  signal : Nat
  waitK : Nat
  elements : Nat
  grad : Nat
  flow : Nat
  limit : Nat
  flags : Nat
deriving DecidableEq, Repr

def updOf (e : List Byte) : Upd :=
  { program := fieldAt e 1 1, shard := fieldAt e 2 2, waitCh := fieldAt e 4 2, signal := fieldAt e 6 2
    waitK := fieldAt e 8 4, elements := fieldAt e 0x0C 4, grad := fieldAt e 0x10 8, flow := fieldAt e 0x18 4 % 2 ^ 18
    limit := fieldAt e 0x1C 2, flags := fieldAt e 0x1E 2 }

/-- Address of byte 0 of an input stream. -/
def inBase (sh : Shard) (u : Upd) (d : InDesc) : Nat :=
  (match d.kind with
  | 0 => sh.region false
  | 1 => sh.region true
  | 2 => u.grad
  | _ => 0) + d.offset

/-- R331: whether a stream lies where it may. Its offset is aligned; the grad base need not be. -/
def inOk (sh : Shard) (u : Upd) (d : InDesc) : Bool :=
  let n := u.elements * elemBytes d.format
  let a := inBase sh u d
  d.offset % 128 == 0 &&
  (if d.kind ≤ 1 then decide (d.offset + n ≤ sh.bytes) else inTier a n || inReds a n)

def outOk (sh : Shard) (u : Upd) (d : OutDesc) : Bool :=
  d.offset % 128 == 0 && decide (d.offset + roundUp (u.elements * elemBytes d.format) 128 ≤ sh.bytes)

/-- Whether the freeze mask is read (R336). -/
def readsMask (sh : Shard) (u : Upd) : Bool := bitOf u.flags 0 && !bitOf u.flags 1 && sh.freezeMode != 0

/-- Bit number of an element in the freeze mask. -/
def maskBit (sh : Shard) (i : Nat) : Nat := if sh.freezeMode = 2 then i / 32 else i

/-- Elements of a group. -/
def groupLen : Nat := 256

/-- Groups of an UPDATE. -/
def Upd.groups (u : Upd) : Nat := (u.elements + groupLen - 1) / groupLen

/-- Input lines of group q, in stream order, the freeze mask last. -/
def groupLines (p : List Byte) (sh : Shard) (u : Upd) (q : Nat) : List Nat :=
  let lo := groupLen * q
  let hi := min (lo + groupLen) u.elements
  (((List.range 8).filter (usedIn p)).flatMap fun i =>
    let d := inDesc p i
    linesOf (inBase sh u d + lo * elemBytes d.format) ((hi - lo) * elemBytes d.format)) ++
  (if readsMask sh u then linesOf (sh.freeze + maskBit sh lo / 8) (maskBit sh (hi - 1) / 8 + 1 - maskBit sh lo / 8) else [])

/-- The UPDATE in progress of a Grotto: its fields, its shard and its program. -/
def Grotto.update (x : Grotto) : Upd × Shard × List Byte :=
  let u := updOf x.cur
  (u, x.shard u.shard, progRecord x u.program)

/-- Whether the flow of the entry has a slot on the link from a far die to the Grotto's. -/
def flowSlot (i : Image) (far near flow : Nat) : Bool :=
  far == near || (match (linkTo far near).bind fun l => i.linkttRec far l with
    | some r => r.owners.contains (owFlow flow)
    | none => false)

/-- R85: whether an input line of an UPDATE can be read: by port 0 on its channel, and over the flow's link slots. -/
def updLineOk (i : Image) (g flow l : Nat) : Bool :=
  let a := 128 * l
  (match channelOf i a with
  | some (m, ch) => ownsChannel i m ch (updUnit g) 0 && flowSlot i (memDie m) (5 + g) flow
  | none => flowSlot i (1 + (a - 0x500_0000_0000) / 0x800_0000) (5 + g) flow)

/-- R85: whether an output line can be written by port 1. -/
def outLineOk (i : Image) (g a : Nat) : Bool :=
  match channelOf i a with
  | some (m, ch) => ownsChannel i m ch (updUnit g) 1
  | none => false

/-- The lines of a group that no slot serves. -/
def groupUnowned (i : Image) (g : Nat) (p : List Byte) (sh : Shard) (u : Upd) (q : Nat) : Option Nat :=
  match (groupLines p sh u q).find? fun l => !updLineOk i g u.flow l with
  | some l => some (128 * l)
  | none => ((List.range 6).filter (usedOut p)).findSome? fun j =>
      let d := outDesc p j
      ((linesOf (sh.region true + d.offset + groupLen * q * elemBytes d.format)
          ((min (groupLen * q + groupLen) u.elements - groupLen * q) * elemBytes d.format)).find? fun l =>
        !outLineOk i g (128 * l)).map fun l => 128 * l

/-- A group becomes the current one, or raises NO_SLOT. -/
def beginGroup (g q : Nat) (s : State) : State :=
  let x := s.grot g
  let (u, sh, p) := x.update
  match (if q < u.groups then groupUnowned s.image g p sh u q else none) with
  | some a => grottoFault g fcNoSlot a s
  | none => s.modGrot g fun x => { x with groupSt := { group := q, fetched := x.groupSt.fetched } }

/-- UPDATE begins (R329, R331, R334). -/
def startUpdate (g : Nat) (s : State) : State :=
  let x := s.grot g
  let (u, sh, p) := x.update
  if !sh.valid then grottoFault g fcRange u.shard s
  else if decide (63 < u.program) || u.elements == 0 || !programOk p sh u.flags then grottoFault g fcEncoding u.program s
  else if ((List.range 8).filter (usedIn p)).all (fun i => inOk sh u (inDesc p i)) &&
      ((List.range 6).filter (usedOut p)).all (fun j => outOk sh u (outDesc p j)) then
    beginGroup g 0 (s.modGrot g fun x => { x with begun := true, groupSt := {} })
  else grottoFault g fcAddress u.grad s

/-- UPD_UPDATE (R329): the entry waits on its channel, then starts its program. -/
def execUpdUpdate (g : GrottoId) (s : State) : Host.Outcome State Fault Refusal :=
  event s (atEntry s g 0x32) (unlessSkipping g fun s =>
    let x := s.grot g
    let u := updOf x.cur
    if u.waitCh ≠ 0xFFFF ∧ x.released = false then engineWait (updUnit g) u.waitCh u.waitK u.limit x.entry s
    else startUpdate g s)

/-- Whether an UPDATE is running. -/
def Grotto.updating (x : Grotto) : Bool := x.state == esRun && x.begun && x.op == 0x32

/-- Lines of the current group in a tier that have not arrived. -/
def Grotto.missing (x : Grotto) : List Nat :=
  let (u, sh, p) := x.update
  (groupLines p sh u x.groupSt.group).filter fun l => inTier (128 * l) 128 && !x.groupSt.fetched.contains l

/-- Lines of the current group in reduction buffers. -/
def Grotto.remote (x : Grotto) : List Nat :=
  let (u, sh, p) := x.update
  (groupLines p sh u x.groupSt.group).filter fun l => !inTier (128 * l) 128

/-- R335: whether the current group may issue. -/
def Grotto.ready (x : Grotto) : Bool := x.missing.isEmpty && (x.groupSt.resumed || x.remote.isEmpty)

/-- Groups ahead that lines are requested for (R335). -/
def groupsAhead : Nat := 64

/-- The first line wanted from a channel, over the groups that may be requested. -/
def Grotto.wanted (x : Grotto) (i : Image) (m ch : Nat) : Option Nat :=
  let (u, sh, p) := x.update
  (List.range (groupsAhead + 1)).findSome? fun k =>
    if x.groupSt.group + k < u.groups then
      (groupLines p sh u (x.groupSt.group + k)).find? fun l =>
        !x.groupSt.fetched.contains l && channelOf i (128 * l) == some (m, ch)
    else none

/-- A slot of port 0 reads the next line wanted from its channel (R77, R335). -/
def grottoFetch (g m ch : Nat) (e : Ecc) (s : State) : State :=
  let x := s.grot g
  match (if x.updating && linkCarries s (memDie m) (5 + g) then x.wanted s.image m ch else none) with
  | none => s
  | some l => grottoRead g (updUnit g) (128 * l) e (s.modGrot g fun x =>
      { x with groupSt := { x.groupSt with fetched := x.groupSt.fetched ++ [l] } })

/-- PROGRAM_GROUP_RESUME (R335): the last line of the current group arrives; reduction-buffer lines come through their
regions' port 9 (R331). -/
def execProgramGroupResume (g : GrottoId) (s : State) : Host.Outcome State Fault Refusal :=
  let x := s.grot g
  event s (x.updating && x.missing.isEmpty && !x.groupSt.resumed && decide (x.groupSt.group < x.update.1.groups)) fun s =>
    match x.remote.find? fun l => match placeOf (128 * l) with
        | .red d o => !s.image.bound (0xF0 + d) (o / 0x80_0000) 9
        | _ => false with
    | some l => grottoFault g fcBankDenied (128 * l) s
    | none => s.modGrot g fun x => { x with groupSt := { x.groupSt with resumed := true } }

/-- Element i of an input stream as it is stored. -/
def inCode (m : List Host.Cell) (sh : Shard) (u : Upd) (d : InDesc) (i : Nat) : Nat :=
  leNat (memReads m (inBase sh u d + i * elemBytes d.format) (elemBytes d.format))

/-- The value of a code of format 0x01 or 0x02, widened exactly to FP32. -/
def widen (f code : Nat) : W32 := BitVec.ofNat 32 (if f = 1 then code else code * 2 ^ 16)

/-- The operation of R333 on a lane. -/
def prgOp (op : Nat) (a b c : W32) : Lane :=
  let x := (num32 a).1
  let y := (num32 b).1
  match op with
  | 1 => laneFr [a, b] (fAdd a b)
  | 2 => laneFr [a, b] (fSub a b)
  | 3 => laneFr [a, b] (fMul a b)
  | 4 => laneFr [a, b, c] (fFma a b c)
  | 5 => laneFr [a, b, c] (fFms a b c)
  | 6 => laneFr [a, b, c] (fFnma a b c)
  | 7 => laneFr [a, b] (divNum x y)
  | 8 => laneFr [a] (sqrtNum x)
  | 9 => { val := fMax a b }
  | 0x0A => { val := fMin a b }
  | 0x0B => { val := if isNan32 a then nan32 else canon32 a &&& 0x7FFF_FFFF#32 }
  | 0x0C => { val := if isNan32 a then nan32 else canon32 a ^^^ 0x8000_0000#32 }
  | 0x0D => { val := if !isNan32 c && numLt (.fin false 0 0) (num32 c).1 then canon32 a else canon32 b }
  | 0x0E => { val := one32 (!(isNan32 a || isNan32 b) && numLt y x) }
  | _ => { val := if isNan32 a then nan32 else canon32 a }

/-- Whether element i is held (R336). -/
def heldElem (m : List Host.Cell) (sh : Shard) (u : Upd) (i : Nat) : Bool :=
  bitOf u.flags 1 || (readsMask sh u && bitOf (memRead m (sh.freeze + maskBit sh i / 8)).toNat (maskBit sh i % 8))

/-- The key of stochastic rounding (R337). -/
def updKey (x : Grotto) (sh : Shard) : Word := rattleKey x.capSeed 0x03 sh.tensorId x.capStep

/-- The conversion of a value into an output (R337): its code, and the counts of R338. -/
def outCode (x : Grotto) (sh : Shard) (d : OutDesc) (i : Nat) (v : W32) : Cv :=
  if d.format = 1 then { code := v.toNat, nf := nonFin32 v }
  else narrow fmBf16 0 d.stoch (rattle (updKey x sh) (BitVec.ofNat 64 ((d.offset + 2 * i) / 2))) (num32 v) v.toNat

/-- Output j's element i, group element l: its code and what it counts; a held element counts nothing. -/
def outElem (m : List Host.Cell) (x : Grotto) (sh : Shard) (u : Upd) (p : List Byte) (d : OutDesc) (j l i : Nat) : Cv :=
  if heldElem m sh u i then { code := inCode m sh u (inDesc p d.hold) i }
  else
    let c := outCode x sh d i (tget 0 x.groupSt.lanes (64 * l + 24 + j))
    { c with fl := c.fl || tget 0 x.groupSt.lanes (64 * l + 32 + j) == 1 }

/-- The group's lines of one output, written to the inactive generation. -/
def writeOutput (g j : Nat) (s : State) : State :=
  let x := s.grot g
  let (u, sh, p) := x.update
  let d := outDesc p j
  let lo := groupLen * x.groupSt.group
  let n := min groupLen (u.elements - lo)
  let cs := (List.range n).map fun l => outElem s.mem x sh u p d j l (lo + l)
  let bytes := cs.flatMap fun c => leBytes (elemBytes d.format) c.code
  let bytes := bytes ++ List.replicate (roundUp bytes.length 128 - bytes.length) (0 : Byte)
  let bad := cs.countP fun c => c.nf
  let s := writeGen g (updUnit g) (.update g) u.shard (d.offset + lo * elemBytes d.format) bytes true (fun _ => true) s
  let s := s.modGrot g fun x => { x with
    nonfinite := satAdd 32 x.nonfinite bad, flushed := satAdd 32 x.flushed (cs.countP fun c => c.fl) }
  if 0 < bad then refuseCommit g s else s

/-- The group's last instruction has issued: its outputs are written and the next group begins. -/
def finishGroup (g : Nat) (s : State) : State :=
  let x := s.grot g
  let p := x.update.2.2
  beginGroup g (x.groupSt.group + 1) (((List.range 6).filter (usedOut p)).foldl (fun s j => writeOutput g j s) s)

/-- An operand of a lane. -/
def prgOperand (m : List Host.Cell) (x : Grotto) (sh : Shard) (u : Upd) (p : List Byte) (k l i v : Nat) : W32 :=
  if v < 0x10 then tget 0 x.groupSt.lanes (64 * l + v)
  else if v < 0x18 then (let d := inDesc p (v - 0x10); widen d.format (inCode m sh u d i))
  else if v < 0x1E then tget 0 x.groupSt.lanes (64 * l + v)
  else if v = 0x1E then tget 0 x.consts k else 0

/-- One instruction over the group's elements (R332, R333, R335). -/
def issueInstr (g : Nat) (s : State) : State :=
  let x := s.grot g
  let (u, sh, p) := x.update
  let ins := progInstr p x.groupSt.instr
  let lo := groupLen * x.groupSt.group
  let lanes := (List.range (min groupLen (u.elements - lo))).foldl (fun (t : Tbl W32) l =>
    let v := fun sel => prgOperand s.mem x sh u p ins.k l (lo + l) sel
    let r := prgOp ins.op (v ins.a) (v ins.b) (v ins.c)
    let t := tset t (64 * l + ins.d) r.val
    if ins.d < 0x18 then t else tset t (64 * l + 8 + ins.d) (if r.fl then 1 else 0)) x.groupSt.lanes
  let s := s.modGrot g fun x => { x with groupSt := { x.groupSt with lanes := lanes, instr := x.groupSt.instr + 1 } }
  if fieldAt p 0 1 ≤ x.groupSt.instr + 1 then finishGroup g s else s

/-- Whether the instruction that issues next is of an op. -/
def Grotto.at_ (x : Grotto) (op : Nat) : Bool :=
  let (u, _, p) := x.update
  x.updating && decide (x.groupSt.group < u.groups) && x.ready && (progInstr p x.groupSt.instr).op == op

/-- The event that an instruction of an op issues. -/
def execPrg (op g : Nat) (s : State) : Host.Outcome State Fault Refusal := event s ((s.grot g).at_ op) (issueInstr g)

/-- PRG_ADD (R333). -/
def execPrgAdd (g : GrottoId) (s : State) : Host.Outcome State Fault Refusal := execPrg 0x01 g s
/-- PRG_SUB (R333). -/
def execPrgSub (g : GrottoId) (s : State) : Host.Outcome State Fault Refusal := execPrg 0x02 g s
/-- PRG_MUL (R333). -/
def execPrgMul (g : GrottoId) (s : State) : Host.Outcome State Fault Refusal := execPrg 0x03 g s
/-- PRG_FMA (R333). -/
def execPrgFma (g : GrottoId) (s : State) : Host.Outcome State Fault Refusal := execPrg 0x04 g s
/-- PRG_FMS (R333). -/
def execPrgFms (g : GrottoId) (s : State) : Host.Outcome State Fault Refusal := execPrg 0x05 g s
/-- PRG_FNMA (R333). -/
def execPrgFnma (g : GrottoId) (s : State) : Host.Outcome State Fault Refusal := execPrg 0x06 g s
/-- PRG_DIV (R333). -/
def execPrgDiv (g : GrottoId) (s : State) : Host.Outcome State Fault Refusal := execPrg 0x07 g s
/-- PRG_SQRT (R333). -/
def execPrgSqrt (g : GrottoId) (s : State) : Host.Outcome State Fault Refusal := execPrg 0x08 g s
/-- PRG_MAX (R333). -/
def execPrgMax (g : GrottoId) (s : State) : Host.Outcome State Fault Refusal := execPrg 0x09 g s
/-- PRG_MIN (R333). -/
def execPrgMin (g : GrottoId) (s : State) : Host.Outcome State Fault Refusal := execPrg 0x0A g s
/-- PRG_ABS (R333). -/
def execPrgAbs (g : GrottoId) (s : State) : Host.Outcome State Fault Refusal := execPrg 0x0B g s
/-- PRG_NEG (R333). -/
def execPrgNeg (g : GrottoId) (s : State) : Host.Outcome State Fault Refusal := execPrg 0x0C g s
/-- PRG_SEL (R333). -/
def execPrgSel (g : GrottoId) (s : State) : Host.Outcome State Fault Refusal := execPrg 0x0D g s
/-- PRG_CGT (R333). -/
def execPrgCgt (g : GrottoId) (s : State) : Host.Outcome State Fault Refusal := execPrg 0x0E g s
/-- PRG_MOV (R333). -/
def execPrgMov (g : GrottoId) (s : State) : Host.Outcome State Fault Refusal := execPrg 0x0F g s

/-- UPDATE_COMPLETE (R325, R329): the last output line is durable. -/
def execUpdateComplete (g : GrottoId) (s : State) : Host.Outcome State Fault Refusal :=
  let x := s.grot g
  event s (x.updating && decide (x.update.1.groups ≤ x.groupSt.group) && entrySlotted s g) fun s =>
    engineSignal (updUnit g) x.update.1.signal (nextEntry g (s.modGrot g fun x => { x with groupSt := {} }))

/-! ### The root unit (R340 to R343) -/

/-- Jobs that the root unit's queue holds. -/
def rootDepth : Nat := 16

/-- The job of a ROOT entry. -/
def rootJob (e : List Byte) : RootJob :=
  { p := fieldAt e 1 1, root := fieldAt e 2 2, src := fieldAt e 4 2, b := fieldAt e 6 2, blocks := fieldAt e 8 2
    iters := fieldAt e 0x0A 1, srcGen := fieldAt e 0x0B 1, eps := BitVec.ofNat 32 (fieldAt e 0x0C 4)
    srcOff := fieldAt e 0x10 8, dstOff := fieldAt e 0x18 4, resOff := fieldAt e 0x1C 4 }

/-- Values that R340 allows. -/
def RootJob.ok (j : RootJob) : Bool :=
  (j.p == 1 || j.p == 2 || j.p == 4) && decide (64 ≤ j.b) && decide (j.b ≤ 1024) && j.b % 64 == 0 &&
  decide (1 ≤ j.blocks) && decide (j.blocks ≤ 4096) && decide (1 ≤ j.iters) && decide (j.iters ≤ 63) &&
  decide (j.srcGen ≤ 1) && !j.eps.msb && !nonFin32 j.eps

/-- Whether every block, root and residual falls inside its generation (R340). -/
def RootJob.inside (j : RootJob) (src root : Shard) : Bool :=
  let n := 4 * j.b * j.b * j.blocks
  j.srcOff % 128 == 0 && decide (j.srcOff + n ≤ src.bytes) &&
  decide (j.dstOff + n ≤ root.bytes) && decide (j.resOff + 4 * j.blocks ≤ root.bytes)

/-- UPD_ROOT (R340): the root unit accepts a job. -/
def execUpdRoot (g : GrottoId) (s : State) : Host.Outcome State Fault Refusal :=
  let x := s.grot g
  event s (atEntry s g 0x33 && (x.skipping || decide (x.rootQueue.length < rootDepth))) (unlessSkipping g fun s =>
    let j := rootJob x.cur
    if s.image.unitTroupe (68 + g) ≠ s.image.unitTroupe (updUnit g) ∨ s.image.unitTroupe (68 + g) = none then
      grottoFault g fcRange (68 + g) s
    else if !j.ok then grottoFault g fcEncoding 0 s
    else if !j.inside (x.shard j.src) (x.shard j.root) then grottoFault g fcAddress j.srcOff s
    else nextEntry g (s.modGrot g fun x => { x with rootQueue := x.rootQueue ++ [j] }))

/-- A b × b matrix, row by row. -/
abbrev Mat := List (List W32)

def Mat.get (m : Mat) (i j : Nat) : W32 := (m.getD i []).getD j 0

/-- A matrix from its elements. -/
def matOf (b : Nat) (f : Nat → Nat → W32) : Mat := (List.range b).map fun i => (List.range b).map fun j => f i j

/-- A product: each element by fused multiply-adds in ascending k from +0 (R341). -/
def matMul (b : Nat) (y z : Mat) : Mat :=
  matOf b fun i j => (List.range b).foldl (fun acc k => (fFma (y.get i k) (z.get k j) acc).val) 0

/-- FP32 value of a small number. -/
def f32Nat (n : Nat) : W32 := (round32 false n 0).val

/-- 1 / p for p of 1, 2 or 4. -/
def f32Inv (p : Nat) : W32 := if p = 1 then 0x3F80_0000#32 else if p = 2 then 0x3F00_0000#32 else 0x3E80_0000#32

/-- One iteration of R341 on X and M. -/
def rootIter (b p : Nat) (xm : Mat × Mat) : Mat × Mat :=
  let t := matOf b fun i j =>
    (fMul (fSub (if i = j then f32Nat (p + 1) else 0) (xm.2.get i j)).val (f32Inv p)).val
  let x := matMul b xm.1 t
  let tt := if p = 1 then t else matMul b t t
  let q := if p = 4 then matMul b tt tt else tt
  (x, matMul b q xm.2)

/-- R341: the root of a block, its residual. -/
def rootBlock (st : Mat) (b p iters : Nat) (eps : W32) : Mat × W32 :=
  let a := matOf b fun i j => if i = j then (fAdd (st.get i j) eps).val else st.get i j
  let f := (List.range b).foldl (fun f i => (List.range b).foldl (fun f j => (fFma (a.get i j) (a.get i j) f).val) f) 0
  let sqrt := fun (v : W32) => (sqrtNum (num32 v).1).val
  let lam := sqrt f
  let x0 := if p = 1 then (laneSpecial 2 lam).val
    else if p = 2 then (laneSpecial 3 lam).val else (laneSpecial 3 (sqrt lam)).val
  let r := (laneSpecial 2 lam).val
  let x := matOf b fun i j => if i = j then x0 else 0
  let m := matOf b fun i j => (fMul (a.get i j) r).val
  let xm := (List.range iters).foldl (fun xm _ => rootIter b p xm) (x, m)
  let res := (List.range b).foldl (fun v i => (List.range b).foldl (fun v j =>
    fMax v ((fSub (xm.2.get i j) (if i = j then 0x3F80_0000#32 else 0)).val &&& 0x7FFF_FFFF#32)) v) 0
  (xm.1, res)

/-- A residual's four bytes; a line enters digest_i when its last residual is written (R345). -/
def writeResidual (g : Nat) (j : RootJob) (res : W32) (s : State) : State :=
  let off := j.resOff + 4 * j.next
  writeGen g (68 + g) (.root g) j.root off (leBytes 4 res.toNat) true
    (fun l => decide (128 * (l + 1) ≤ off + 4) || j.next + 1 == j.blocks) s

/-- R85: the first line of a job's next block, of its root or of its residual that no slot of the root unit serves. -/
def rootNoSlot (s : State) (g : Nat) (j : RootJob) : Option Nat :=
  let x := s.grot g
  let n := 4 * j.b * j.b
  let root := (x.shard j.root).region true
  ((noSlot s.image (68 + g) 0 ((x.shard j.src).region (j.srcGen == 1) + j.srcOff + n * j.next) n).or
    (noSlot s.image (68 + g) 1 (root + j.dstOff + n * j.next) n)).or (noSlot s.image (68 + g) 1 (root + j.resOff + 4 * j.next) 4)

/-- Root-unit cycles of a block's element-wise passes, and of one iteration (R343). -/
def rootPass (j : RootJob) : Nat := j.b * j.b / 64
def rootIterCycles (j : RootJob) : Nat :=
  (if j.p = 1 then 2 else if j.p = 2 then 3 else 4) * ((j.b / 64) * (j.b / 64) * j.b + 128) + rootPass j

/-- R351: the iteration in progress: by R343's cycles, four STR cycles each, since the block's lines were requested. -/
def Grotto.iteration (x : Grotto) (now : Nat) : Nat :=
  match x.rootQueue.head? with
  | some j => if x.rootAsked then min j.iters ((now - x.rootSince) / 4 / rootIterCycles j + 1) else 0
  | none => 0

/-- The root unit is idle: no job, and no line of one that awaits its slot. -/
def rootIdle (s : State) (g : Nat) : Bool := (s.grot g).rootQueue.isEmpty && !s.asks (· == .root g)

/-- ROOT_BLOCK_COMPLETE (R341, R343): the next block's lines are requested, or have no slot (R88); when all have had their
slots the block ends. -/
def execRootBlockComplete (g : GrottoId) (s : State) : Host.Outcome State Fault Refusal :=
  eventOf s (if s.asks (· == .root g) then none else (s.grot g).rootQueue.head?) fun j s => match rootNoSlot s g j with
  | some l => unitFault (68 + g) fcNoSlot j.next l s
  | none =>
    let x := s.grot g
    let n := 4 * j.b * j.b
    let a := (x.shard j.src).region (j.srcGen == 1) + j.srcOff + n * j.next
    if !x.rootAsked then
      askRange (owPort (68 + g) 0) (5 + g) a n false (.root g)
        (s.modGrot g fun x => { x with rootAsked := true, rootSince := s.time.span })
    else
    let st := matOf j.b fun r c => BitVec.ofNat 32 (leNat (s.bytes (a + 4 * (r * j.b + c)) 4))
    let out := rootBlock st j.b j.p j.iters j.eps
    let bad := nonFin32 out.2 || out.1.any fun r => r.any nonFin32
    let s := writeGen g (68 + g) (.root g) j.root (j.dstOff + n * j.next) (out.1.flatMap fun r => r.flatMap fun w => leBytes 4 w.toNat)
      true (fun _ => true) s
    let s := writeResidual g j out.2 s
    let s := if bad then refuseCommit g s else s
    s.modGrot g fun x => { x with
      rootResidual := out.2
      rootAsked := false
      rootQueue := if j.next + 1 = j.blocks then x.rootQueue.drop 1 else { j with next := j.next + 1 } :: x.rootQueue.drop 1 }

/-! ### DIGEST (R345) -/

/-- A DIGEST's result is recorded (R345, R375). -/
def recordDigest (g a : Nat) (r : Word) (s : State) : State :=
  s.modGrot g fun x => { x with
    digLast := r
    hist := tset x.hist (x.digDone % 256) { a := BitVec.ofNat 64 a, r := r }
    digDone := (x.digDone + 1) % 2 ^ 32 }

/-- R345: a mode 0 result that differs. -/
def digestMismatch (g shard : Nat) (want found : Word) (s : State) : State :=
  let tr := updTroupe s g
  formRecord (5 + g) { cls := 0x0B, severity := sevDeferred, unit := updUnit g, code := 2, troupe := tr,
                       sceneId := (s.troupe tr).sceneId, info0 := shard, info1 := want.toNat, info2 := found.toNat }
    (s.modGrot g fun x => { x with mismatch := true, mismatchShard := shard })

/-- DIGEST. -/
def runDigest (g : Nat) (s : State) : State :=
  let e := (s.grot g).cur
  let mode := fieldAt e 1 1
  let i := fieldAt e 2 2
  let sh := s.shard g i
  let a := if mode = 0 then sh.region false else fieldAt e 0x10 8
  let n := if mode = 0 then sh.bytes else fieldAt e 0x18 8
  let far := match placeOf a with
    | .fast m _ => memDie m
    | .slow h _ => 5 + h
    | .red d _ => 1 + d
    | _ => 5 + g
  if 1 < mode then grottoFault g fcEncoding 0 s
  else if mode = 0 ∧ sh.valid = false then grottoFault g fcRange i s
  else if a % 128 ≠ 0 ∨ n % 128 ≠ 0 ∨ !(inTier a n || inReds a n) then grottoFault g fcAddress a s
  else if !flowSlot s.image far (5 + g) (fieldAt e 8 4 % 2 ^ 18) then grottoFault g fcNoSlot a s
  else match noSlot s.image (updUnit g) 2 a n with
  | some l => grottoFault g fcNoSlot l s
  | none =>
    let record := fun (s : State) =>
      let r := rangeDigest s.mem a (n / 128)
      let s := recordDigest g (if mode = 0 then i else a) r s
      let s := if mode = 0 ∧ r ≠ sh.digestA then digestMismatch g i sh.digestA r s else s
      engineSignal (updUnit g) (fieldAt e 4 2) (nextEntry g s)
    if inTier a n then afterReads g 2 a n record s else record s

/-- UPD_DIGEST (R345). Lines of the tiers are requested first, and the digest is taken when all have had their slots. -/
def execUpdDigest (g : GrottoId) (s : State) : Host.Outcome State Fault Refusal :=
  event s (atEntry s g 0x35 && entrySlotted s g) (unlessSkipping g (runDigest g))

/-! ### Commit and flip (R346) -/

/-- UPD_COMMIT (R346): after the root unit's last job the processor casts its commit vote. -/
def execUpdCommit (g : GrottoId) (s : State) : Host.Outcome State Fault Refusal :=
  let x := s.grot g
  let u := updUnit g
  event s (atEntry s g 0x34 && rootIdle s g) fun s =>
    let vote := fieldAt x.cur 1 1
    let barrier := fieldAt x.cur 2 2
    match (objectFault s u 3 vote).or (objectFault s u 1 barrier) with
    | some code => grottoFault g code vote s
    | none =>
      let go := x.normGo && !x.refuse
      let s := s.modTroupe (updTroupe s g) fun t => { t with
        stepState := if t.commitScene && !t.stepDone then 3 else t.stepState
        refused := if x.refuse then t.refused ||| 2 ^ g.val else t.refused }
      let s := sendStr { kind := 3, obj := vote, unit := u, value := if go then 1 else 0, addr := x.entry } s
      engineStrWait u 3 vote (fieldAt x.cur 4 2) x.entry (s.modGrot g fun x => { x with begun := true, castGo := go })

/-- The key of a shard's publications (R362). -/
def pubKey (i : Image) (g shard : Nat) : Nat :=
  let c := i.clockRec
  c.spanIndex % 2 ^ 8 * 2 ^ 24 + c.x % 16 * 2 ^ 20 + c.y % 8 * 2 ^ 17 + c.z % 8 * 2 ^ 14 + g * 2 ^ 12 + shard

/-- R346, R362: every dirty shard flips, and those that publish send their publication over the flip barrier's
route. -/
def flipShards (g barrier : Nat) (s : State) : State :=
  let x := s.grot g
  let flipped := fun (y : Shard) => { y with
    gen := (y.gen + 1) % 2 ^ 32, digestA := y.digestI, dirty := false
    pubDigest := if y.publish then y.headDigest else y.pubDigest }
  let pubs := (x.shards.filter fun p => p.2.dirty && p.2.publish).map fun p =>
    ({ key := pubKey s.image g p.1, digest := p.2.headDigest, gen := (p.2.gen + 1) % 2 ^ 32, barrier := barrier } : Publication)
  let s := s.modGrot g fun x => { x with
    shards := x.shards.map fun p => if p.2.dirty then (p.1, flipped p.2) else p, castGo := false, unknown := false }
  { s with pubs := s.pubs ++ pubs }

/-- R311, R346: dirty and digest_i are cleared, and the inactive generations that update programs or the root unit wrote in
the scene are undefined. -/
def discardShards (g : Nat) (s : State) : State :=
  let s := ((s.grot g).shards.filter fun p => p.2.dirty).foldl (fun s p => s.freeFill (p.2.region true) p.2.bytes) s
  s.modGrot g fun x => { x with
    shards := x.shards.map fun p => (p.1, { p.2 with dirty := false, digestI := 0, headDigest := 0 })
    castGo := false, unknown := false }

/-- COMMIT_OUTCOME (R307, R309, R346): the outcome reaches an update processor, one whose troupe has aborted too; on
either outcome it arrives at the flip barrier. -/
def execCommitOutcome (g : GrottoId) (s : State) : Host.Outcome State Fault Refusal :=
  let x := s.grot g
  let u := updUnit g
  let running := x.state == esWait && x.op == 0x34
  eventOf s (if running ∨ x.unknown then voteResult s u else none) fun go s =>
    let barrier := fieldAt x.cur 2 2
    let s := stepOutcome (updTroupe s g) go (endVote u s)
    let s := if go then flipShards g barrier s else discardShards g s
    let s := sendStr { kind := 1, obj := barrier, unit := u, addr := x.entry } s
    if running then nextEntry g s else s

/-- UPD_END (R325): the processor arrives once the root unit is idle. -/
def execUpdEnd (g : GrottoId) (s : State) : Host.Outcome State Fault Refusal :=
  let x := s.grot g
  event s (atEntry s g 0x3F || x.state == esEnd) fun s =>
    if rootIdle s g then engineArrive (updUnit g) s else setEngState (updUnit g) esEnd s

/-! ### Aborts and resolves (R309, R310, R339) -/

/-- R91, R310, R339: the abort notice reaches an update processor. One that has cast go and awaits the outcome keeps
its shards as they are; any other discards what it wrote. -/
def abortGrotto (g : Nat) (s : State) : State :=
  let tr := updTroupe s g
  let waits := (s.grot g).castGo
  let s := (s.modGrot g fun x => { x with
    state := esIdle, begun := false, released := false, asked := false, groupSt := {}, rootQueue := [], rootAsked := false
    refuse := x.refuse || (s.troupe tr).faulted }).dropAsks fun w => w == .update g || w == .root g
  if waits then s.modGrot g fun x => { x with unknown := true }
  else discardShards g (endVote (updUnit g) s)

/-- Update processors of a troupe. -/
def troupeGrottos (s : State) (tr : Nat) : List Nat :=
  (List.range 4).filter fun g => s.image.unitTroupe (updUnit g) == some tr

/-- R309, R310, R317, R339: the step of an aborting commit scene is unknown where an update processor has cast go and has
no outcome. What speaks against the step is noted for the outcome that declines it: a contract fault refuses every
processor's vote. -/
def abortStep (tr : Nat) (s : State) : State :=
  let t := s.troupe tr
  if t.commitScene then
    let mine := troupeGrottos s tr
    let s := if t.stepDone then s
      else s.modTroupe tr fun x => { x with
        refused := mine.foldl (fun r g => if x.faulted || (s.grot g).refuse then r ||| 2 ^ g else r) t.refused
        stepCause := lowCause x.stepCause 4 }
    if mine.any fun g => (s.grot g).castGo then unknownStep tr s else s
  else s

/-- Update processors of a troupe whose outcome is unknown. -/
def unknownGrottos (s : State) (tr : Nat) : List Nat :=
  (List.range 4).filter fun g => (s.grot g).unknown && s.image.unitTroupe (updUnit g) == some tr

/-- CTL_STEP.resolve = 1 (R310, R358): the unknown processors flip, and it counts as a go outcome and a commit. -/
def resolveFlip (tr : Nat) (s : State) : State :=
  let gs := unknownGrottos s tr
  let objs := (gs.map fun g => (tget { kind := 0, obj := 0 } s.str.waits (updUnit g)).obj).dedup
  let s := objs.foldl (fun s o => tagGo o s) s
  let s := gs.foldl (fun s g => flipShards g (fieldAt (s.grot g).cur 2 2) (endVote (updUnit g) s)) s
  if (s.troupe tr).stepDone then s.modTroupe tr fun x => { x with stepState := 4 } else commitStep tr s

/-- CTL_STEP.resolve = 2 (R310, R317): a discard counts as a decline, with reason 0x08 where no local one applies. -/
def resolveDiscard (tr : Nat) (s : State) : State :=
  let settle := fun (s : State) =>
    if (s.troupe tr).stepDone then s.modTroupe tr fun x => { x with stepState := 5 }
    else declineStep tr (declineReason (s.troupe tr) 8) s
  settle ((unknownGrottos s tr).foldl (fun s g => discardShards g (endVote (updUnit g) s)) s)

/-- STEP_RESOLVE_FLIP (R310, R316): taken only in state unknown. -/
def execStepResolveFlip (tr : TroupeId) (s : State) : Host.Outcome State Fault Refusal :=
  event s ((s.troupe tr).stepState == 6) (resolveFlip tr)

/-- STEP_RESOLVE_DISCARD (R310, R316). -/
def execStepResolveDiscard (tr : TroupeId) (s : State) : Host.Outcome State Fault Refusal :=
  event s ((s.troupe tr).stepState == 6) (resolveDiscard tr)

/-- A write of CTL_SNAPSHOT.pinned (R314, R318): a pin captures the commit count in force. -/
def writePin (tr : Nat) (pin : Bool) (s : State) : State :=
  s.modTroupe tr fun x => if pin then { x with pinned := true, pinCommit := x.commits } else { x with pinned := false }

/-- SNAPSHOT_PIN (R314, R318). -/
def execSnapshotPin (tr : TroupeId) (s : State) : Host.Outcome State Fault Refusal := event s true (writePin tr true)

/-- SNAPSHOT_RELEASE (R314, R318). -/
def execSnapshotRelease (tr : TroupeId) (s : State) : Host.Outcome State Fault Refusal := event s true (writePin tr false)

/-! ### The shard table (R322, R323, R373) -/

/-- Whether the update processor is in a running or aborting scene. -/
def grottoBusy (s : State) (g : Nat) : Bool :=
  (s.image.unitTroupe (updUnit g)).any fun tr => (s.troupe tr).state == 1 || (s.troupe tr).state == 2

/-- A shard as a register write of 8 bytes leaves it; none where the write breaks R323. -/
def Shard.write (x : Shard) (reg v : Nat) : Option Shard :=
  match reg with
  | 0 => some { x with base0 := v }
  | 1 => some { x with base1 := v }
  | 2 => some { x with bytes := v }
  | 3 => some { x with tensorId := v % 2 ^ 56 }
  | 4 => some { x with freeze := v % 2 ^ 48, freezeMode := bitsOf v 48 2 }
  | 5 =>
    let valid := bitOf v 32
    if (x.valid = true ∧ v % 2 ^ 32 ≠ x.gen) ∨ bitOf v 33 ≠ x.dirty ∨ bitOf v 34 ≠ x.initialised then none
    else
      let y := { x with gen := v % 2 ^ 32, valid := valid }
      some (if valid && !x.valid then
        { y with dirty := false, initialised := false, digestA := 0, digestI := 0, headDigest := 0 } else y)
  | _ => none

/-- A write of the shard table. -/
def writeShard (g shard reg : Nat) (v : Word) (s : State) : State :=
  match (if grottoBusy s g then none else (s.shard g shard).write reg v.toNat) with
  | some y => s.modShard g shard fun _ => y
  | none => s.modGrot g fun x => { x with reject := true }

/-- A write of GRT_PUB_CTL (R373), under the rules of R323. -/
def writePub (g shard : Nat) (v : Word) (s : State) : State :=
  if grottoBusy s g then s.modGrot g fun x => { x with reject := true }
  else s.modShard g shard fun x => { x with publish := bitOf v.toNat 63, head := bitsOf v.toNat 0 39 }

/-- SHARD_TABLE_WRITE (R323). -/
def execShardTableWrite (g : GrottoId) (shard : Fin 4096) (reg : Fin 8) (v : Word) (s : State) :
    Host.Outcome State Fault Refusal :=
  event s true (writeShard g shard reg v)

end Sys2Proof.Machine
end

