-- ==== Sys2Proof/Machine/Scene.lean ====
section
/-! DEFINITION. The end of a scene: aborts and safe points (R91 to R93), the boundary, its seals and the conservation
audit (R125, R557 to R559), and fences (R560, R561). -/

namespace Sys2Proof.Machine

open Sys2Proof

/-! ### Flows and quiescence (R65) -/

/-- Flows of a troupe. -/
def Image.flowsOf (i : Image) (tr : Nat) : List FlowRec := i.flow.filter fun r => r.troupe == tr

/-- Lines of a flow in transit at this package: accepted and not handed over, in a forward buffer whose way out is active, or
on their way to a reduction engine. What a lost port would have carried is lost (R282). -/
def inTransit (s : State) (flow : Nat) : Nat :=
  let leaves := (s.image.flowRec flow).any fun r => (s.port r.outPort).state == psActive
  (s.fab.ports.map fun p => (p.2.arrived.countP fun l => l.1 == flow) +
    (if leaves then p.2.forward.countP fun l => l.flow == flow else 0)).sum +
  (s.reds.map fun p => p.2.inputs.countP fun c => c.flow == flow).sum

/-- Whether no entry of a unit's ring is left to execute: its engine is idle or has arrived at the end barrier. -/
def ringDone (s : State) (u : Nat) : Bool :=
  let done := fun (n : Nat) => n == esIdle || n == esDone
  if u < 48 ∨ (68 ≤ u ∧ u < 72) then true
  else if u < 52 then done (s.redEng (u - 48)).state
  else if u < 64 then done (s.dat (u - 52)).state
  else if u < 68 then done (s.grot (u - 64)).state
  else done (s.fabEng (u - 72)).state

/-- R65, R92: whether a troupe is quiescent. Before the first image every troupe is. -/
def quiescentTroupe (s : State) (tr : Nat) : Bool :=
  s.img.inForce.isNone ||
  (((s.troupe tr).state == 0 || (s.troupe tr).state == 3) && (s.image.units tr).all (ringDone s) &&
    (s.image.flowsOf tr).all fun f => inTransit s f.flow == 0)

/-! ### Fences (R560 to R562, R572) -/

/-- Whether a unit may be fenced or returned at once (R561). -/
def unitQuiet (s : State) (u : Nat) : Bool :=
  match s.image.unitTroupe u with
  | some tr => quiescentTroupe s tr
  | none => true

/-- Whether a hardware fence's condition still holds: neither port of the fabric engine is active (R560). -/
def fencePersists (s : State) (u : Nat) : Bool :=
  72 ≤ u && (s.port (2 * (u - 72))).state != psActive && (s.port (2 * (u - 72) + 1)).state != psActive

/-- R561: what a returned tile holds: its tokens read 0; scratchpad, accumulators and descriptor table are undefined. -/
def undefineTile (t : Nat) (s : State) : State :=
  let s := s.freeFill (padBase t) 0x100_0000
  let k := s.fresh
  let desc := (List.range 0x4_0000).map fun i => (0x4_0000 + i, Config.freeByte k i)
  (s.modTile t fun x => { x with
      tokens := [], tokenLog := [], acc := [], accDraw := k, past := []
      imem := (x.imem.filter fun p => decide (p.1 < 0x4_0000)) ++ desc }).draw

/-- A fence takes effect. -/
def setFence (u cause : Nat) (s : State) : State :=
  s.modFence u fun x => { fenced := true, pending := 0, cause := if x.fenced then x.cause else cause }

/-- A return takes effect; it is ignored for a fence of the image, and for one of the hardware that persists. -/
def returnUnit (u : Nat) (s : State) : State :=
  let x := s.fence u
  if !x.fenced ∨ x.cause = 1 ∨ (x.cause = 3 ∧ fencePersists s u = true) then s.modFence u fun x => { x with pending := 0 }
  else
    let s := s.modFence u fun _ => { fenced := false, pending := 0, cause := 0 }
    if u < 48 then undefineTile u s else s

/-- A unit's pending request takes effect. -/
def settleFence (u : Nat) (s : State) : State :=
  match (s.fence u).pending with
  | 1 => setFence u 2 s
  | 2 => returnUnit u s
  | _ => s

/-- A fence request written to CTL_FENCE (R561). -/
def requestFence (u : Nat) (s : State) : State :=
  if unitQuiet s u then setFence u 2 s else s.modFence u fun x => { x with pending := 1 }

/-- A return request (R561). -/
def requestReturn (u : Nat) (s : State) : State :=
  let x := s.fence u
  if x.fenced && (x.cause == 1 || (x.cause == 3 && fencePersists s u)) then s
  else if unitQuiet s u then returnUnit u s else s.modFence u fun x => { x with pending := 2 }

/-- FENCE_REQUEST (R561, R572). -/
def execFenceRequest (u : UnitId) (s : State) : Host.Outcome State Fault Refusal := event s true (requestFence u)

/-- RETURN_REQUEST (R561, R572). -/
def execReturnRequest (u : UnitId) (s : State) : Host.Outcome State Fault Refusal := event s true (requestReturn u)

/-! ### The abort (R91) -/

/-- The stores among a tile's words that have not issued, each with the loop indices at its issue; at most fuel words
are looked at. -/
def storesLeft (imem : Tbl Byte) : Nat → Nat → List Loop → List (Nat × List Nat)
  | 0, _, _ => []
  | fuel + 1, pc, ls =>
    let w := wordAt imem pc
    if 0x3_FFF0 < pc ∨ opcodeOf w = 0x05 then []
    else if opcodeOf w = 0x02 then
      storesLeft imem fuel (pc + 16) (⟨fld w 56 2, fld w 8 32, 0, pc + 16, pc + 16 + 16 * fld w 40 14⟩ :: ls)
    else
      let n := nextPc pc ls
      (if opcodeOf w = 0x31 then [(w, (List.range 4).map (loopIndex ls))] else []) ++ storesLeft imem fuel n.1 n.2

/-- Tier lines that a store writes, with the loop indices given. -/
def storeRanges (i : Image) (t : Nat) (x : Tile) (w : Nat) (idx : List Nat) : List (Nat × Nat) :=
  let p := convParOf i t 0 { x with idxLog := [(0, idx)] }
    { word := BitVec.ofNat 128 w, addr := 0, seq := 0, issue := 0, idx := idx } 0
  ((List.range (lineCount 0x31 p)).map fun j => (movingByte 0x31 p (128 * j), 128)).filter fun r => inTier r.1 r.2

/-- Tier lines that a tile's scene has still to write when the abort notice comes (R92): unmoved lines, stores in the
queues, and stores among the words that have not issued. A store that has not started is taken with the loop indices at
its issue (DEDUCED, log 48). -/
def tileDue (i : Image) (t : Nat) (x : Tile) : List (Nat × Nat) :=
  ([2, 3].flatMap fun u =>
    let q := x.unit u
    (q.running.flatMap fun r =>
      if opcodeOf r.cmd.word.toNat = 0x31 then
        (r.lines.filter fun l => l.stage == 0 && inTier l.addr 128).map fun l => (l.addr, 128)
      else []) ++
    (q.queue.flatMap fun c => if opcodeOf c.word.toNat = 0x31 then storeRanges i t x c.word.toNat c.idx else [])) ++
  (if x.state = tsIssue ∨ x.state = tsWait then
    (storesLeft x.imem (2 ^ 40) x.pc x.loops).flatMap fun e => storeRanges i t x e.1 e.2 else [])

/-- The entries of a ring of n-byte entries from entry e to its END, at most fuel of them. -/
def ringRest (ring : Tbl Byte) (n endOp : Nat) : Nat → Nat → List (List Byte)
  | 0, _ => []
  | fuel + 1, e =>
    let b := imemBytes ring (n * e) n
    if fieldAt b 0 1 = endOp then [] else b :: ringRest ring n endOp fuel (e + 1)

/-- Lines that RECVs, pending or still in the ring, claim of delivered flows and that have not been written (R289). -/
def fabDue (s : State) (d : Nat) : List (Nat × Nat) :=
  let x := s.fabEng d
  let left := if x.state = esIdle ∨ x.state = esDone then [] else (ringRest x.ring 32 3 4096 x.entry).filter fun e => fieldAt e 0 1 == 2
  (s.image.flow.filter fun r => (r.kind == 1 || r.kind == 3) && r.inPort / 2 == d).flatMap fun r =>
    let c := s.flowCtx r.flow
    let more := (left.filter fun e => fieldAt e 8 4 % 2 ^ 18 == r.flow).map fun e => fieldAt e 0x10 4
    ((List.range (min (c.claimed + more.sum - c.accepted) r.lines)).map fun k => (r.lineAt (c.lines + k), 128)).filter
      fun q => inTier q.1 q.2

/-- What the entries left to a data engine write in the tiers (R468, R470). -/
def datDue (s : State) (e : Nat) : List (Nat × Nat) :=
  let x := s.dat e
  if x.state = esIdle ∨ x.state = esDone then []
  else ((ringRest x.ring 64 0x0F 4096 x.entry).flatMap fun b =>
    let d := datDesc b
    d.writes ++ (if d.status = 0 then [] else [(d.status, 8)])).filter fun r => 0 < r.2 && inTier r.1 r.2

/-- What the entries left to an update processor, and the jobs of its root unit, write (R328, R329, R340). -/
def grotDue (s : State) (g : Nat) : List (Nat × Nat) :=
  let x := s.grot g
  let root := fun (j : RootJob) =>
    let a := (x.shard j.root).region true
    let n := 4 * j.b * j.b
    [(a + j.dstOff + n * j.next, n * (j.blocks - j.next)), (a + j.resOff + 4 * j.next, 4 * (j.blocks - j.next))]
  let left := if x.state = esIdle ∨ x.state = esDone then [] else ringRest x.ring 32 0x3F 4096 x.entry
  ((left.flatMap fun e =>
      let op := fieldAt e 0 1
      if op = 0x32 then
        (let u := updOf e
         let p := progRecord x u.program
         ((List.range 6).filter (usedOut p)).map fun j =>
           ((x.shard u.shard).region true + (outDesc p j).offset, u.elements * elemBytes (outDesc p j).format))
      else if op = 0x33 then root (rootJob e)
      else if op = 0x37 then
        (let sh := x.shard (fieldAt e 2 2)
         [(sh.region false + fieldAt e 8 8, fieldAt e 0x10 8), (sh.region true + fieldAt e 8 8, fieldAt e 0x10 8)])
      else []) ++ x.rootQueue.flatMap root).filter fun r => 0 < r.2 && inTier r.1 r.2

/-- Lines of the tiers whose writes by a unit's ports still wait for their slots. -/
def unslotted (s : State) (u : Nat) : List (Nat × Nat) :=
  s.mems.flatMap fun m => (m.2.reqs.filter fun q => q.write && !q.free && q.owner / 16 % 256 == u).map fun q => (128 * q.line, 128)

/-- Ranges of the tiers that a unit of an aborting scene has still to write (R92). -/
def unitDue (s : State) (u : Nat) : List (Nat × Nat) :=
  unslotted s u ++
  if u < 48 then tileDue s.image u (s.tile u)
  else if u < 52 then []
  else if u < 64 then datDue s (u - 52)
  else if u < 68 then grotDue s (u - 64)
  else if u < 72 then []
  else fabDue s (u - 72)

/-- The wait of a unit is abandoned. The outcome of a commit vote that a processor has cast go on stays awaited
(R310). -/
def abandonWait (u : Nat) (s : State) : State :=
  let s := match s.wait u with
    | some w => setWaiter w.kind w.chan none s
    | none => s
  let keep := decide (64 ≤ u) && decide (u < 68) && (s.grot (u - 64)).castGo
  let s := s.setWait u none
  if keep then s else { s with str := { s.str with waits := tdel s.str.waits u } }

/-- The abort notice stops a unit (R91). -/
def abortUnit (tr u : Nat) (s : State) : State :=
  let s := if 64 ≤ u ∧ u < 68 then abortStep tr s else s
  let s := abandonWait u s
  if u < 48 then abortTile u s
  else if u < 52 then s.modRed (u - 48) fun x => { x with state := esIdle, released := false, contributed := false }
  else if u < 64 then (s.modDat (u - 52) fun x => { x with state := esIdle, released := false, asked := false, result := none, told := false }).dropAsks
    (· == .dataEngine (u - 52))
  else if u < 68 then abortGrotto (u - 64) s
  else if u < 72 then s
  else
    let mine := fun (f : Nat) => (s.image.flowRec f).any fun r => r.troupe == tr
    (s.modFab (u - 72) fun x => { x with
      state := esIdle, released := false, asked := false, sent := 0, fetched := [], waited := false, recvs := [], repeats := [] }).dropAsks
      fun
        | .fabRead f _ => mine f
        | .fabWrite f => mine f
        | _ => false

/-- ABORT_NOTICE (R91, R258): the notice of an aborting troupe reaches one of its units and that unit's router. -/
def execAbortNotice (tr : TroupeId) (u : UnitId) (s : State) : Host.Outcome State Fault Refusal :=
  let x := s.troupe tr
  event s (x.state == 2 && (s.image.units tr).contains u.val && !x.noticed.contains u.val) fun s =>
    let due := unitDue s u
    let s := abortVotes u (abortUnit tr u s)
    s.modTroupe tr fun x => { x with due := x.due ++ due, noticed := x.noticed ++ [u.val], starting := without x.starting u }

/-! ### Seals (R123, R125) -/

/-- The seal record of a tile. -/
def sealRec (t tr : Nat) (x : Tile) (aborted : Bool) : LogRec :=
  let c := sealTotals x
  { kind := 3, tile := t, troupe := tr, flags := bit aborted + 2 * bit c.2, sceneId := x.sceneId
    cycle := x.endCycle.getD x.cycle
    addr := if aborted then 0xFFFF_FFFF else x.endAddr, body := { counts := c.1 } }

/-- A tile's counters are sealed. -/
def sealTile (tr : Nat) (aborted : Bool) (s : State) (t : Nat) : State :=
  s.modTile t fun x => { (x.putLog (sealRec t tr x aborted)) with sealed := true }

/-- R91, R127, R129, R143: an aborted tile at the safe point: its scene ends now, its accumulators are undefined, and no
abort is in progress on it. It reads as a tile with no scene (DESIGN CHOICE, log 129). -/
def settleTile (s : State) (t : Nat) : State :=
  (s.modTile t fun x => { x with state := tsNone, endCycle := some (x.endCycle.getD (s.time.span / 2 - x.startCmp))
                                 acc := [], accDraw := s.fresh, past := [] }).draw

/-- The tiles of a troupe. -/
def Image.tiles (i : Image) (tr : Nat) : List Nat := (i.units tr).filter fun u => decide (u < 48)

/-! ### The safe point (R92) -/

/-- Whether a unit of an aborting troupe is idle. -/
def unitIdle (s : State) (u : Nat) : Bool :=
  if u < 48 then (s.tile u).quiet
  else if u < 52 then (s.redEng (u - 48)).inputs.isEmpty
  else true

/-- R92: counts return to their initial values. -/
def resetCounts (tr : Nat) (s : State) : State :=
  let i := s.image
  match i.troupeRec tr with
  | none => s
  | some r =>
    let s := (List.range r.tokenCount).foldl (fun s k =>
      s.modToken (r.tokenBase + k) fun _ => { count := i.creditOf 0 (r.tokenBase + k), waiter := none }) s
    let s := (List.range r.barrierCount).foldl (fun s k => s.modBarrier (r.barrierBase + k) fun _ => {}) s
    let s := (i.flowsOf tr).foldl (fun s f => s.modFlow f.flow fun _ => { credits := f.credits }) s
    let s := (i.tiles tr).foldl (fun s t => s.modTile t fun x => { x with tokens := [], tokenLog := [] }) s
    let mine := (i.flowsOf tr).filter fun f => f.kind == 2
    let held := fun (a : Nat) => mine.any fun f => decide (f.address ≤ a) && decide (a < f.address + 128 * f.lines)
    (List.range 4).foldl (fun s d => s.modRed d fun x => { x with
      reorder := x.reorder.filter fun c => !mine.any fun f => f.flow == c.flow
      lines := x.lines.filter fun p => !held (128 * p.1) }) s

/-- R92: the banks and regions bound to the troupe become undefined. -/
def undefineBound (tr : Nat) (s : State) : State :=
  (s.image.bind.filter fun b => b.troupe == tr).foldl (fun s b =>
    if b.target < 48 then s.freeFill (padBase b.target + b.index * 0x8_0000) 0x8_0000
    else s.freeFill (redBase (b.target - 0xF0) + b.index * 0x80_0000) 0x80_0000) s

/-- Pending fences and returns of a troupe's units take effect. -/
def settleFences (tr : Nat) (s : State) : State := (s.image.units tr).foldl (fun s u => settleFence u s) s

/-- Lines of a troupe's flows that a lost port would have carried are discarded (R282). -/
def discardLines (tr : Nat) (s : State) : State :=
  let mine := fun (f : Nat) => (s.image.flowRec f).any fun r => r.troupe == tr
  { s with fab := { s.fab with ports := s.fab.ports.map fun p => (p.1, { p.2 with forward := p.2.forward.filter fun l => !mine l.flow }) } }

/-- SAFE_POINT (R91, R92, R414): every unit is idle and no line is in transit. -/
def execSafePoint (tr : TroupeId) (s : State) : Host.Outcome State Fault Refusal :=
  let x := s.troupe tr
  let us := s.image.units tr
  event s (x.state == 2 && us.all (fun u => x.noticed.contains u && unitIdle s u) &&
      (s.image.flowsOf tr).all fun f => inTransit s f.flow == 0) fun s =>
    let s := (s.image.tiles tr).foldl settleTile (resetCounts tr (discardLines tr s))
    let s := undefineBound tr ((s.image.tiles tr).foldl (sealTile tr true) s)
    let s := x.due.foldl (fun s r => s.freeFill r.1 r.2) s
    let s := s.modTroupe tr fun x => { x with state := 3, due := [], noticed := [], arrived := [], auditing := false, owner := none }
    completeOwner x.owner 6 x.faultCode (settleFences tr s)

/-- STR cycles of the limit of R93: 50 µs. -/
def safePointLimit : Nat := 200_000

/-- SAFE_POINT_TIMEOUT (R93). The record is formed by the die of the unit that CTL_TROUPE names, with its code: unit 0 and
code 0 where no contract fault began the abort (DESIGN CHOICE, log 67). -/
def execSafePointTimeout (tr : TroupeId) (s : State) : Host.Outcome State Fault Refusal :=
  let x := s.troupe tr
  event s (x.state == 2 && decide (x.abortAt + safePointLimit ≤ s.time.span)) fun s =>
    formRecord (unitDie x.faultUnit) { cls := 1, severity := sevFatal, unit := x.faultUnit, code := x.faultCode,
                                       troupe := tr, sceneId := x.sceneId } s

/-! ### The boundary and the audit (R557 to R559) -/

/-- Units of a troupe that arrive at the scene-end barrier: all but the root units, which have no ring. -/
def arriving (i : Image) (tr : Nat) : List Nat := (i.units tr).filter fun u => decide (u < 68) || decide (72 ≤ u)

/-- A mismatch of the audit: die, kind, object number, expected, found. -/
structure Mismatch where
  die : Nat
  kind : Nat
  obj : Nat
  want : Nat
  found : Nat
deriving DecidableEq, Repr

/-- An object compared with its expected value. -/
def audit (die kind obj want found : Nat) : List Mismatch := if want = found then [] else [⟨die, kind, obj, want, found⟩]

/-- The die that holds a flow's context for the audit: that of its outgoing port, or of its incoming one. -/
def flowDie (r : FlowRec) : Nat := if r.outPort < 8 then 1 + r.outPort / 2 else if r.inPort < 8 then 1 + r.inPort / 2 else 1 + (r.address - 0x500_0000_0000) / 0x800_0000

/-- The region lines of a record that lack contributions: position of the next one due. -/
def partialLine (s : State) (r : FlowRec) : Option Nat :=
  ((s.redEng ((r.address - 0x500_0000_0000) / 0x800_0000)).lines.find? fun p =>
    decide (r.address ≤ 128 * p.1) && decide (128 * p.1 < r.address + 128 * r.lines)).map fun p => p.2.next

/-- R558: the objects of a troupe, ascending by kind and number. -/
def auditTroupe (s : State) (tr : Nat) : List Mismatch :=
  let i := s.image
  match i.troupeRec tr with
  | none => []
  | some r =>
    ((List.range r.tokenCount).flatMap fun k =>
      let c := r.tokenBase + k
      audit (1 + tokenHome c) 0 c (i.creditOf 0 c) (s.token c).count) ++
    ((List.range r.barrierCount).flatMap fun k =>
      let b := r.barrierBase + k
      audit (1 + b / 1024) 1 b (i.creditOf 1 b) (i.creditOf 1 b + (s.barrier b).arrived.length + (s.barrier b).ports.length)) ++
    ((i.tiles tr).flatMap fun t => (List.range 256).flatMap fun c =>
      audit (unitDie t) 2 (256 * t + c) 0 (tget 0 (s.tile t).tokens c)) ++
    ((i.flowsOf tr).flatMap fun f => audit (flowDie f) 3 f.flow f.credits (s.flowCtx f.flow).credits) ++
    ((i.flowsOf tr).flatMap fun f => audit (flowDie f) 4 f.flow 0 (inTransit s f.flow)) ++
    ((List.range 4).flatMap fun d => audit (1 + d) 5 d 0
      ((s.redEng d).reorder.countP fun c => (i.flowRec c.flow).any fun f => f.troupe == tr)) ++
    ((i.flowsOf tr).flatMap fun f =>
      if f.kind = 2 ∧ f.contributor = 0 then
        (match partialLine s f with
        | some n => audit (1 + (f.address - 0x500_0000_0000) / 0x800_0000) 6 f.flow f.contributors n
        | none => [])
      else []) ++
    ((List.range 4).flatMap fun d =>
      if i.unitTroupe (fabUnit d) = some tr then audit (1 + d) 7 d 0 (s.fabEng d).recvs.length else [])

/-- R559: the records of a failed audit, at most 16 a die. -/
def auditRecords (tr : Nat) (ms : List Mismatch) (s : State) : State :=
  (List.range 9).foldl (fun s d => ((ms.filter fun m => m.die == d).take 16).foldl (fun s m =>
    formRecord d { cls := 2, severity := sevFatal, code := 1, troupe := tr, sceneId := (s.troupe tr).sceneId
                   unit := if m.kind = 2 then m.obj / 256 else 0xFF
                   info0 := m.kind * 2 ^ 56 + m.obj, info1 := m.want, info2 := m.found } s) s) s

/-- SCENE_BOUNDARY (R111, R125, R557 to R559): the scene-end barrier completes. -/
def execSceneBoundary (tr : TroupeId) (s : State) : Host.Outcome State Fault Refusal :=
  let x := s.troupe tr
  event s (x.state == 1 && !x.auditing && x.starting.isEmpty && (arriving s.image tr).all fun u => x.arrived.contains u) fun s =>
    let s := (s.image.tiles tr).foldl (sealTile tr false) s
    auditRecords tr (auditTroupe s tr) (s.modTroupe tr fun x => { x with auditing := true })

/-- AUDIT_COMPLETE (R557, R561, R414): every die has passed; the troupe is quiescent and the scene's command completes. -/
def execAuditComplete (tr : TroupeId) (s : State) : Host.Outcome State Fault Refusal :=
  let x := s.troupe tr
  event s (x.state == 1 && x.auditing && s.boot.resetDue.isNone) fun s =>
    let s := s.modTroupe tr fun x => { x with state := 0, auditing := false, arrived := [], owner := none }
    completeOwner x.owner 0 x.sceneId (settleFences tr s)

end Sys2Proof.Machine
end

