-- ==== Sys2Proof/Machine/Window.lean ====
section
/-! DEFINITION. The host window (17, R29, R30, R94, R404 to R408, R431): write-combining buffers, window reads and
WIN_FLUSH. -/

namespace Sys2Proof.Machine

open Sys2Proof

/-- The compute die that holds a window address. -/
def windowDie (a : Nat) : Option Nat :=
  match placeOf a with
  | .winFast m _ => some (memDie m)
  | .winPad t _ _ => some (unitDie t)
  | _ => none

/-- The coherent or scratchpad address behind a window address (R26, R29). -/
def behind (a : Nat) : Nat := a - 0xC00_0000_0000 + (if 0xCC0_0000_0000 ≤ a then 0x340_0000_0000 else 0)

/-- R94: why the host window may not reach a bank of a tile. -/
def windowBankFault (s : State) (t bank : Nat) : Option Nat :=
  if !s.image.bound t bank 8 then some fcBankDenied
  else if tget none (s.tile t).windows bank ≠ some 8 then some fcWindow
  else none

/-- The corrected record of R94. The host window is no unit of R42. -/
def windowRecord (t code addr : Nat) (s : State) : State :=
  formRecord (unitDie t) { cls := 1, severity := sevCorrected, code := code, info0 := addr } s

/-- The bytes of a hart's buffer whose mask is set are written to a scratchpad bank, or discarded (R94, R408). -/
def windowPad (h a : Nat) (data : List Byte) (mask : List Bool) (s : State) : State :=
  match placeOf a with
  | .winPad t bank _ => (match windowBankFault s t bank with
    | some code => windowRecord t code (behind a) (s.modWin h fun w => { w with discarded := true })
    | none => { s with mem := memMasked s.mem (behind a) data mask })
  | _ => s

/-- A buffer drains (R404): to DRAM as a request of class WIN, to a scratchpad at once. -/
def drainBuffer (h b : Nat) (s : State) : State :=
  let x := tget {} (s.hartWin h).bufs b
  if !x.used then s
  else
    let s := s.modWin h fun w => { w with bufs := tset w.bufs b {} }
    let a := 128 * x.line
    match placeOf a with
    | .winFast _ _ =>
      askLine { owner := owFree clsWin, die := 0, line := behind a / 128, write := true, who := .window h, data := x.data,
                mask := if x.mask.all id then [] else x.mask } s
    | _ => windowPad h a x.data x.mask s

/-- Buffers of a hart in use, in the order in which they were first filled. -/
def usedBuffers (w : HartWin) : List Nat :=
  ((w.bufs.filter fun p => p.2.used).insertionSort fun p q => p.2.order ≤ q.2.order).map Prod.fst

/-- Bytes put into a buffer. -/
def WcBuf.put (x : WcBuf) (off : Nat) (bs : List Byte) : WcBuf :=
  { x with
    data := x.data.take off ++ bs ++ x.data.drop (off + bs.length)
    mask := x.mask.take off ++ List.replicate bs.length true ++ x.mask.drop (off + bs.length) }

/-- R7, R17, R22: the class WIN's slots carry between the host die and a die. -/
def windowCarried (s : State) (d : Nat) : Bool := linkServes s 0 d clsWin && linkServes s d 0 clsWin

/-- The die that a buffer of a hart writes to. -/
def bufferDie (s : State) (h b : Nat) : Option Nat := windowDie (128 * (tget {} (s.hartWin h).bufs b).line)

/-- A window write reaches the buffers of its hart (R404). The buffer filled earliest makes room once its link carries. -/
def gather (h addr : Nat) (data : List Byte) (s : State) : State :=
  let line := addr / 128
  let off := addr % 128
  let fill (b : Nat) (s : State) : State :=
    let s := s.modWin h fun w => { w with bufs := tset w.bufs b ((tget {} w.bufs b).put off data) }
    if (tget {} (s.hartWin h).bufs b).mask.all id then drainBuffer h b s else s
  match (s.hartWin h).bufs.find? fun p => p.2.used && p.2.line == line with
  | some p => fill p.1 s
  | none =>
    let s := if (usedBuffers (s.hartWin h)).length < 4 then s
      else match (usedBuffers (s.hartWin h)).head? with
        | some b => if (bufferDie s h b).all (windowCarried s) then drainBuffer h b s else s
        | none => s
    match (List.range 4).find? fun b => !(tget {} (s.hartWin h).bufs b).used with
    | none => s
    | some b => fill b (s.modWin h fun w => { w with
        order := w.order + 1
        bufs := tset w.bufs b { line := line, data := List.replicate 128 0, mask := List.replicate 128 false, used := true,
                                order := w.order, at_ := s.time.span } })

/-- WINDOW_WRITE (R29, R404, R423). A write lies in one line of 128 bytes; one that crosses lines is several. -/
def execWindowWrite (h : HartId) (addr : Nat) (data : List Byte) (s : State) : Host.Outcome State Fault Refusal :=
  eventOf s (if addr % 128 + data.length ≤ 128 then (windowDie addr).filter (windowCarried s) else none) fun d s =>
    if s.dieUp d then gather h addr data s else s.reply { accessFault := true }

/-- WC_BUFFER_DRAIN (R404): a buffer in use drains at the latest 1 µs after its first byte. -/
def execWcBufferDrain (h : HartId) (buffer : Fin 4) (s : State) : Host.Outcome State Fault Refusal :=
  let x := tget {} (s.hartWin h).bufs buffer
  event s (x.used && (bufferDie s h buffer).all (windowCarried s)) (drainBuffer h buffer)

/-- Buffers of a hart that hold a line of a die are drained. -/
def flushTo (h : Nat) (p : Nat → Bool) (s : State) : State :=
  ((usedBuffers (s.hartWin h)).filter fun b => (bufferDie s h b).any p).foldl
    (fun s b => drainBuffer h b s) s

/-- Whether every drained window write of a hart to the dies of p is durable. -/
def windowDurable (s : State) (h : Nat) (p : Nat → Bool) : Bool :=
  (List.range 12).all fun m => !p (memDie m) || (s.memCtl m).reqs.all fun q => q.who != .window h

/-- The reply of a read that has its bytes. -/
def giveBytes (bs : List Byte) (s : State) : State := s.reply { data := bs, value := BitVec.ofNat 64 (leNat (bs.take 8)) }

/-- A window read is performed (R29, R94): of a scratchpad at once, of DRAM in a slot of class WIN, for which it asks once. -/
def readWindow (h addr len : Nat) (s : State) : State :=
  match placeOf addr with
  | .winPad t bank _ => (match windowBankFault s t bank with
    | some code => giveBytes (List.replicate len 0) (windowRecord t code (behind addr) s)
    | none => giveBytes (s.bytes (behind addr) len) s)
  | _ =>
    if s.asks (· == .windowRead h addr len) then s
    else askLine { owner := owFree clsWin, die := 0, line := behind addr / 128, write := false, who := .windowRead h addr len } s

/-- The slot of a window read has come: the value, all ones where the line has an uncorrectable error (R236). -/
def windowServed (addr len : Nat) (s : State) : State :=
  giveBytes (if s.badLine (behind addr) then List.replicate len 0xFF else s.bytes (behind addr) len) s

/-- WINDOW_READ (R405, R423): the read flushes the hart's window writes to the die, and is performed once they are
durable. -/
def execWindowRead (h : HartId) (addr len : Nat) (s : State) : Host.Outcome State Fault Refusal :=
  eventOf s (if addr % 128 + len ≤ 128 then (windowDie addr).filter (windowCarried s) else none) fun d s =>
    if !s.dieUp d then s.reply { accessFault := true }
    else
      let s := flushTo h (fun e => e == d) s
      if windowDurable s h (fun e => e == d) then readWindow h addr len s else s

/-- WIN_FLUSH_READ (R406, R431): every buffer of the hart drains over the links that carry, and the read returns once every
write is durable or has been discarded. -/
def execWinFlushRead (h : HartId) (s : State) : Host.Outcome State Fault Refusal :=
  event s true fun s =>
    let s := flushTo h (windowCarried s) s
    if (usedBuffers (s.hartWin h)).isEmpty && windowDurable s h (fun _ => true) then
      (s.modWin h fun w => { w with discarded := false }).reply
        { value := BitVec.ofNat 64 (1 + 2 * bit (s.hartWin h).discarded) }
    else s

end Sys2Proof.Machine
end

