-- ==== Sys2Proof/Machine/Queues.lean ====
section
/-! DEFINITION. Command queues and completions (17, R409 to R422, R425 to R430): enabling, doorbells, slot reads, the
commands 0x01 to 0x05, scene images (R416), scene starts (R417), completion records and their interrupts. -/

namespace Sys2Proof.Machine

open Sys2Proof

/-! ### Registers of a queue -/

/-- Slots of a queue (R426) and records of its completion ring (R429). -/
def Queue.slots (x : Queue) : Nat := 2 ^ (x.size + 4)
def Queue.ringSize (x : Queue) : Nat := 2 ^ (x.cplSize + 4)

/-- Queue states of R428. -/
def qsDisabled : Nat := 0
def qsActive : Nat := 1
def qsReread : Nat := 2
def qsStopped : Nat := 3

/-- Stop codes of R428. -/
def qcTorn : Nat := 1
def qcBadDoorbell : Nat := 2
def qcReadError : Nat := 3

/-- Address of slot n mod size (R409). -/
def Queue.slotAddr (x : Queue) (n : Nat) : Nat := x.base + 256 * (n % x.slots)

/-- Address of a queue's register. -/
def queReg (q off : Nat) : Nat := regionBase 0 + 0x20_0000 + 0x40 * q + off

/-- Data that a queue has asked for and will not use. -/
def dropReads (q : Nat) (s : State) : State :=
  let ks := (s.queue q).reading
  let s := { s with coh := { s.coh with ioData := s.coh.ioData.filter fun p => !ks.contains p.1 } }
  (s.modQueue q fun x => { x with reading := [], rereadAt := none }).dropAsks (· == .slot q)

/-- A queue stops (R412, R418): it fetches nothing. -/
def stopQueue (q code : Nat) (s : State) : State :=
  (dropReads q s).modQueue q fun x => { x with state := qsStopped, code := code }

/-- The corrected QUEUE record of R412 and R418. -/
def queueRecord (q code : Nat) (s : State) : State :=
  let x := s.queue q
  formRecord 0 { cls := 9, severity := sevCorrected, code := code, addr := x.slotAddr x.head, info0 := q, info1 := x.head } s

/-- The slot at the head is read, coherently by agent 12 or directly in slots of class QUE, where a command waits there and nothing is fetched or being read (R413). A
slot outside the fast tier cannot be read (DESIGN CHOICE). -/
def kickQueue (q : Nat) (s : State) : State :=
  let x := s.queue q
  if x.enable && (x.state == qsActive || x.state == qsReread) && x.fetched.isNone && x.reading.isEmpty && x.rereadAt.isNone && x.head != x.doorbell then
    let a := x.slotAddr x.head
    if 0x090_0000_0000 < a + 256 then stopQueue q qcReadError s
    else if x.view then (if s.asks (· == .slot q) then s else askRange (owFree clsQue) 0 a 256 false (.slot q) s)
    else
      let r := ioRequest clsQue mRdOnce (a / 128) [] [] s
      let w := ioRequest clsQue mRdOnce (a / 128 + 1) [] [] r.2
      w.2.modQueue q fun x => { x with reading := [r.1, w.1] }
  else s

/-- R409: a queue is enabled. Commands started before run on. -/
def enableQueue (x : Queue) : Queue :=
  { x with enable := true, state := qsActive, code := 0, head := 0, doorbell := 0, cplWr := 0, tries := 0, fetched := none,
           heldCmd := false }

/-- A write of QUE_CFG (R409, R419, R426). A reserved size leaves size unchanged. -/
def writeQueCfg (q source : Nat) (v : Word) (s : State) : State :=
  let w := v.toNat
  let x := s.queue q
  let size := if bitsOf w 48 4 < 12 then bitsOf w 48 4 else x.size
  let view := bitOf w 61
  let troupes := bitsOf w 0 16
  if x.enable && (size != x.size || view != x.view || troupes != x.troupes) then recordRegAcc 0 source 2 (queReg q 0x08) s
  else
    let s := s.modQueue q fun x => { x with size := size, view := view, troupes := troupes, irqEn := bitOf w 60 }
    if bitOf w 63 && !x.enable then s.modQueue q enableQueue
    else if !bitOf w 63 && x.enable then
      (dropReads q s).modQueue q fun x =>
        { x with enable := false, state := qsDisabled, code := 0, fetched := none, heldCmd := false, tries := 0 }
    else if bitOf w 62 && x.state == qsStopped then
      kickQueue q (s.modQueue q fun x => { x with state := qsActive, code := 0, tries := 0 })
    else s

/-- QUEUE_ENABLE (R409): QUE_CFG.enable is written 1. -/
def execQueueEnable (q : QueueId) (v : Word) (s : State) : Host.Outcome State Fault Refusal :=
  event s (bitOf v.toNat 63 && !(s.queue q).enable) (writeQueCfg q 0 v)

/-- QUEUE_DISABLE (R419): QUE_CFG.enable is written 0. -/
def execQueueDisable (q : QueueId) (v : Word) (s : State) : Host.Outcome State Fault Refusal :=
  event s (!bitOf v.toNat 63 && (s.queue q).enable) (writeQueCfg q 0 v)

/-- QUEUE_RESTART (R419): QUE_CFG.restart is written 1. -/
def execQueueRestart (q : QueueId) (v : Word) (s : State) : Host.Outcome State Fault Refusal :=
  event s (bitOf v.toNat 62 && bitOf v.toNat 63) (writeQueCfg q 0 v)

/-- R412: a doorbell value. A doorbell of a disabled queue has no effect. -/
def ringDoorbell (q : Nat) (v : Word) (s : State) : State :=
  let x := s.queue q
  let d := v.toNat % 2 ^ 32
  let ahead := (d + 2 ^ 32 - x.doorbell) % 2 ^ 32
  let used := (x.doorbell + 2 ^ 32 - x.head) % 2 ^ 32
  if !x.enable then s
  else if 0 < ahead ∧ ahead ≤ x.slots - used then kickQueue q (s.modQueue q fun x => { x with doorbell := d })
  else if ahead = 0 ∨ 2 ^ 31 ≤ ahead then s.modQueue q fun x => { x with stale := satAdd 8 x.stale 1 }
  else queueRecord q qcBadDoorbell (stopQueue q qcBadDoorbell s)

/-- DOORBELL_WRITE (R412, R427). The doorbell registers lie on the host die. -/
def execDoorbellWrite (q : QueueId) (v : Word) (s : State) : Host.Outcome State Fault Refusal :=
  event s true (ringDoorbell q v)

/-! ### Slot reads (R410, R411, R418) -/

/-- One byte into the CRC of R411. -/
def crc16Byte (c : Nat) (b : Byte) : Nat :=
  (List.range 8).foldl (fun c _ => if c.testBit 15 then (c * 2 ^^^ 0x1021) % 2 ^ 16 else c * 2 % 2 ^ 16) (c ^^^ (b.toNat * 256))

/-- R411: polynomial 0x1021, initial value 0xFFFF, no reflection and no final inversion. -/
def crc16 (bs : List Byte) : Nat := bs.foldl crc16Byte 0xFFFF

/-- A slot's fields (R410). -/
def slotOf (n : Nat) (bs : List Byte) : Slot where
  number := n
  opcode := fieldAt bs 0 1
  flags := fieldAt bs 1 1
  payloadLen := fieldAt bs 2 1
  reserved := fieldAt bs 3 1
  seq := fieldAt bs 4 2
  check := fieldAt bs 6 2
  tag := BitVec.ofNat 64 (fieldAt bs 8 8)
  arg0 := fieldAt bs 0x10 8
  arg1 := fieldAt bs 0x18 8
  payload := (bs.drop 0x20).take (fieldAt bs 2 1)

/-- R411, R418: whether the bytes of slot n pass. -/
def slotPasses (n : Nat) (bs : List Byte) : Bool :=
  let x := slotOf n bs
  decide (x.payloadLen ≤ 224) && x.seq == n % 65536 &&
    x.check == crc16 (bs.take 6 ++ [0, 0] ++ (bs.drop 8).take (24 + x.payloadLen))

/-- Whether the read of the slot at the head has returned. -/
def slotBack (s : State) (q : Nat) : Bool :=
  let x := s.queue q
  x.enable && x.fetched.isNone && x.rereadAt.isNone && x.head != x.doorbell &&
    (if x.view then !s.asks (· == .slot q) else (!x.reading.isEmpty && x.reading.all fun k => s.coh.ioData.any fun p => p.1 == k))

/-- The bytes that the read returned, and whether it met an uncorrectable error. -/
def slotRead (q : Nat) (s : State) : (List Byte × Bool) × State :=
  let x := s.queue q
  if x.view then
    let a := x.slotAddr x.head
    ((s.bytes a 256, s.badLine a || s.badLine (a + 128)), s)
  else
    let got := x.reading.filterMap fun k => (s.coh.ioData.find? fun p => p.1 == k).map Prod.snd
    ((got.flatMap Prod.snd, got.any Prod.fst), dropReads q s)

/-- STR cycles from a failed read's return to the re-read, 1 µs (R418). -/
def rereadCycles : Nat := 4000

/-- A read slot is judged (R418); again tells a re-read. A failed one is read again 1 µs later. -/
def judgeSlot (q : Nat) (again : Bool) (s : State) : State :=
  let r := slotRead q s
  let s := r.2
  let x := s.queue q
  if r.1.2 then stopQueue q qcReadError s
  else if slotPasses x.head r.1.1 then
    kickQueue q (s.modQueue q fun x => { x with
      state := qsActive, tries := 0, fetched := some (slotOf x.head r.1.1), head := (x.head + 1) % 2 ^ 32
      rereads := if again then satAdd 8 x.rereads 1 else x.rereads })
  else if again && x.tries == 7 then queueRecord q qcTorn (stopQueue q qcTorn s)
  else s.modQueue q fun x => { x with
    state := qsReread, tries := if again then x.tries + 1 else 0, rereadAt := some (s.time.span + rereadCycles) }

/-- SLOT_FETCH (R413, R418): the first read of the slot at the head, which holds command n, returns. -/
def execSlotFetch (q : QueueId) (n : Nat) (s : State) : Host.Outcome State Fault Refusal :=
  event s ((s.queue q).state == qsActive && (s.queue q).head == n && slotBack s q) (judgeSlot q false)

/-- Whether a re-read may be issued. -/
def rereadDue (s : State) (q : Nat) : Bool := (s.queue q).rereadAt.any fun t => decide (t ≤ s.time.span)

/-- SLOT_REREAD (R418): 1 µs after the slot's last read returned, it is issued; later it returns, and is judged. -/
def execSlotReread (q : QueueId) (n : Nat) (s : State) : Host.Outcome State Fault Refusal :=
  event s ((s.queue q).state == qsReread && (s.queue q).head == n && (rereadDue s q || slotBack s q)) fun s =>
    if rereadDue s q then kickQueue q (s.modQueue q fun x => { x with rereadAt := none }) else judgeSlot q true s

/-! ### Starting a command (R413, R415, R421) -/

/-- Completion status codes of R420. -/
def stOk : Nat := 0
def stEncoding : Nat := 1
def stRange : Nat := 2
def stAddress : Nat := 3
def stBadImage : Nat := 4
def stNotQuiescent : Nat := 5
def stAborted : Nat := 6
def stFenced : Nat := 7

/-- The completion ring holds as many records as it can (R421). -/
def Queue.ringFull (x : Queue) : Bool := (x.cplWr + 2 ^ 17 - x.cplRd) % 2 ^ 17 == x.ringSize

/-- The fetched command, when it may start: its fence is met and the ring has room (R410, R413, R421). -/
def startable (s : State) (q : Nat) (p : Nat → Bool) : Option Slot :=
  let x := s.queue q
  if x.enable && x.state != qsStopped && !x.ringFull then
    x.fetched.filter fun c => p c.opcode && (!bitOf c.flags 0 || x.started.isEmpty)
  else none

/-- A fetched command starts; the answer is its number in started. -/
def startCmd (q : Nat) (c : Slot) (s : State) : Nat × State :=
  let n := (s.queue q).nextCmd
  let run : QCmd := { number := n, opcode := c.opcode, seq := c.seq, flags := c.flags, tag := c.tag }
  (n, kickQueue q (s.modQueue q fun x => { x with
    fetched := none, heldCmd := false, nextCmd := n + 1, started := x.started ++ [run] }))

/-- The header and argument checks that every opcode shares: reserved bits, and the payload's length. -/
def Slot.headerOk (c : Slot) (lo hi : Nat) : Bool :=
  c.flags / 4 == 0 && c.reserved == 0 && decide (lo ≤ c.payloadLen) && decide (c.payloadLen ≤ hi)

/-- A command that has its status at its start: it starts and completes, with an effect where the status is OK. -/
def oneShot (q : Nat) (c : Slot) (status detail : Nat) (act : State → State) (s : State) : State :=
  let r := startCmd q c s
  completeQ q r.1 status detail (if status = stOk then act r.2 else r.2)

/-- Opcodes with a row of their own. -/
def opcodeKnown (op : Nat) : Bool :=
  (decide (1 ≤ op) && decide (op ≤ 5)) || (decide (0x10 ≤ op) && decide (op ≤ 0x13)) || (decide (0x18 ≤ op) && decide (op ≤ 0x1C))

/-- Q_NOP (R414, R415). The row also holds every opcode that names no command, which completes with ENCODING. -/
def execQNop (q : QueueId) (s : State) : Host.Outcome State Fault Refusal :=
  eventOf s (startable s q fun op => op == 1 || !opcodeKnown op) fun c s =>
    let ok := c.opcode == 1 && c.headerOk 0 0 && c.arg0 == 0 && c.arg1 == 0
    oneShot q c (if ok then stOk else stEncoding) 0 (fun s => s) s

/-- Q_INLINE_WRITE (R414, R415): it completes with the last Cmp. -/
def execQInlineWrite (q : QueueId) (s : State) : Host.Outcome State Fault Refusal :=
  eventOf s (startable s q (· == 2)) fun c s =>
    if !c.headerOk 1 224 || c.arg1 != 0 then oneShot q c stEncoding 0 (fun s => s) s
    else if !inTier c.arg0 c.payloadLen then oneShot q c stAddress 0 (fun s => s) s
    else
      let r := startCmd q c s
      let w := ioWrite clsQue c.arg0 c.payload r.2
      w.2.modQueue q fun x => { x with
        started := x.started.map fun y => if y.number = r.1 then { y with txns := w.1 } else y }

/-- A troupe that a queue may name and the image defines (R415). -/
def mayName (s : State) (q tr : Nat) : Bool := bitOf (s.queue q).troupes tr && (s.image.troupeRec tr).isSome

/-- Q_SIGNAL (R414, R415). -/
def execQSignal (q : QueueId) (s : State) : Host.Outcome State Fault Refusal :=
  eventOf s (startable s q (· == 5)) fun c s =>
    let ch := c.arg0 % 2 ^ 14
    let k := c.arg1 % 2 ^ 32
    let st := if !c.headerOk 0 0 || c.arg0 != ch || c.arg1 != k || k == 0 then stEncoding
      else if (s.image.tokenTroupe ch).any (mayName s q) then stOk else stRange
    oneShot q c st 0 (sendSignal 0xFF ch k 0 0) s

/-! ### Scene images (R98, R416) -/

/-- A segment of a scene image. -/
structure Segment where
  unit : Nat
  target : Nat
  dst : Nat
  src : Nat
  bytes : Nat
deriving DecidableEq, Repr

/-- Bytes of a target of a unit; none where the unit has no such target. -/
def targetBytes (u target : Nat) : Option Nat :=
  if u < 48 then (if target ≤ 1 then some 0x4_0000 else none)
  else if 68 ≤ u ∧ u < 72 then none
  else if target = 2 then some 0x2_0000
  else if target = 3 ∧ 64 ≤ u ∧ u < 68 then some 0x1_0000
  else none

/-- Segment i of the table, or none where it breaks R416. -/
def segmentAt (s : State) (a tr i : Nat) : Option Segment :=
  let e := s.bytes (a + 0x40 + 32 * i) 32
  let g : Segment := ⟨fieldAt e 0 1, fieldAt e 1 1, fieldAt e 4 4, fieldAt e 8 8, fieldAt e 16 8⟩
  let size := (targetBytes g.unit g.target).getD 0
  if (s.image.units tr).contains g.unit && (targetBytes g.unit g.target).isSome && fieldAt e 2 2 == 0 &&
      fieldAt e 24 8 == 0 && g.dst % 16 == 0 && g.src % 16 == 0 && g.bytes % 16 == 0 && decide (g.dst + g.bytes ≤ size) &&
      inTier (a + g.src) g.bytes
  then some g else none

/-- All or none of a list of optional values. -/
def allSome {α : Type} : List (Option α) → Option (List α)
  | [] => some []
  | x :: xs => match x, allSome xs with
    | some y, some ys => some (y :: ys)
    | _, _ => none

/-- CTL_IMG_ACTIVE: the image in force (R63). -/
def State.activeImage (s : State) : Nat := (s.img.inForce.map fun i => i.header.imageId).getD 0

/-- Whether a range of memory holds a line with an uncorrectable error. -/
def badRange (s : State) (a n : Nat) : Bool :=
  n != 0 && (List.range ((a + n - 1) / 128 - a / 128 + 1)).any fun i => s.badLine (128 * (a / 128 + i))

/-- R416: the segments of the scene image at a, or none where the image fails. An image read with an uncorrectable
error fails (DESIGN CHOICE). -/
def sceneImage (s : State) (a tr : Nat) : Option (List Segment) :=
  let h := s.bytes a 64
  let n := fieldAt h 6 2
  if fieldAt h 0 4 == 0x5343_454E && fieldAt h 4 2 == 1 && decide (1 ≤ n) && decide (n ≤ 1024) &&
      fieldAt h 8 8 == s.activeImage && fieldAt h 16 1 == tr && fieldAt h 17 47 == 0 &&
      inTier a (0x40 + 32 * n) && !badRange s a (0x40 + 32 * n) then
    (allSome ((List.range n).map (segmentAt s a tr))).filter fun gs => gs.all fun g => !badRange s (a + g.src) g.bytes
  else none

/-- Bytes put into a sparse table from base on. -/
def tload (t : Tbl Byte) (base : Nat) (bs : List Byte) : Tbl Byte :=
  (t.filter fun p => decide (p.1 < base)) ++ (bs.zipIdx.map fun p => (base + p.2, p.1)) ++
    (t.filter fun p => decide (base + bs.length ≤ p.1))

/-- One segment is written to its unit. -/
def loadSegment (a : Nat) (g : Segment) (s : State) : State :=
  let bs := s.bytes (a + g.src) g.bytes
  if g.unit < 48 then s.modTile g.unit fun x => { x with imem := tload x.imem (g.target * 0x4_0000 + g.dst) bs }
  else if g.unit < 52 then s.modRed (g.unit - 48) fun x => { x with ring := tload x.ring g.dst bs }
  else if g.unit < 64 then s.modDat (g.unit - 52) fun x => { x with ring := tload x.ring g.dst bs }
  else if g.unit < 68 then s.modGrot (g.unit - 64) fun x =>
    if g.target = 2 then { x with ring := tload x.ring g.dst bs } else { x with prog := tload x.prog g.dst bs }
  else s.modFab (g.unit - 72) fun x => { x with ring := tload x.ring g.dst bs }

/-- Q_SCENE_LOAD (R98, R415, R416). -/
def execQSceneLoad (q : QueueId) (s : State) : Host.Outcome State Fault Refusal :=
  eventOf s (startable s q (· == 3)) fun c s =>
    let a := c.arg0 % 2 ^ 48
    let tr := c.arg1 % 16
    if !c.headerOk 0 0 || c.arg0 != a || c.arg1 != tr then oneShot q c stEncoding 0 (fun s => s) s
    else if !mayName s q tr then oneShot q c stRange 0 (fun s => s) s
    else if a % 128 != 0 || !inTier a 64 then oneShot q c stAddress 0 (fun s => s) s
    else match sceneImage s a tr with
      | none => oneShot q c stBadImage 0 (fun s => s) s
      | some gs =>
        let st := if !quiescentTroupe s tr || gs.any (fun g => (s.fence g.unit).fenced) then stNotQuiescent else stOk
        oneShot q c st 0 (fun s => gs.foldl (fun s g => loadSegment a g s) s) s

/-! ### Scene starts (R299, R417, R562) -/

/-- Domains of R513 that a scene needs on the root, by die. -/
def sceneDomains (d : Nat) : List Nat := if d = 0 then [1] else if d ≤ 4 then [0, 1, 3, 4] else [1, 3, 6]

/-- R515: CMP, STR, MEM, FAB or GRT runs on bypass on some die. -/
def bypassHold (s : State) : Bool :=
  (List.range 9).any fun d => (sceneDomains d).any fun k => !(s.clkDie d).onRoot.contains k

/-- R241, R320: a memory whose halt holds a troupe. -/
def haltHold (s : State) (tr : Nat) : Bool :=
  (List.range 16).any fun m => (s.memCtl m).halt && (s.image.units tr).any fun u => unitDie u == memDie m

/-- R70: a package that has voted go holds the scene starts of the affected troupes. -/
def epochHold (s : State) (tr : Nat) : Bool :=
  (s.img.op == .voting || s.img.op == .activating) && s.img.votedGo &&
    (s.img.staged.any fun i => bitOf i.header.affected tr)

/-- Entry of each unit of a troupe, from the payload of a SCENE_START: an index into a ring, or the address of the word of a
tile's instruction memory that the index names (R99, R414). -/
def sceneEntries (s : State) (tr : Nat) (c : Slot) : Tbl Nat :=
  (s.image.units tr).zipIdx.map fun p => (p.1, (if p.1 < 48 then 16 else 1) * fieldAt c.payload (2 * p.2) 2)

/-- R299: an update processor's entry names a NORM_WAIT. -/
def isCommitScene (s : State) (es : Tbl Nat) : Bool :=
  es.any fun p => decide (64 ≤ p.1) && decide (p.1 < 68) && fieldAt (ringEntry (s.grot (p.1 - 64)).ring p.2) 0 1 == 0x31

/-- R67, R70, R241, R310, R314, R417, R515: what holds a scene start. -/
def sceneHeld (s : State) (tr : Nat) (commit : Bool) : Bool :=
  let x := s.troupe tr
  !quiescentTroupe s tr || s.img.op == .switching || epochHold s tr || haltHold s tr || bypassHold s || x.stepState == 6 ||
    (commit && x.pinned && x.commits == (x.pinCommit + 1) % 2 ^ 40)

/-- R325, R350: an update processor at scene start. -/
def Grotto.startScene (x : Grotto) (t : Troupe) (entry : Nat) : Grotto :=
  { x with
    state := esRun, entry := entry, released := false, begun := false, skipping := false, castGo := false, unknown := false
    asked := false, refuse := false, nonfinite := 0, flushed := 0, consts := [], groupSt := {}, rootQueue := []
    capSeed := t.seed, capStep := t.rngStep, initShards := []
    shards := x.shards.map fun p => (p.1, { p.2 with dirty := false, digestI := 0, headDigest := 0 }) }

/-- An engine at scene start: it runs its ring from its entry (R288, R302, R325, R475). Tiles start when the scene
start reaches them, and root units have no ring. -/
def startEngine (tr u entry : Nat) (s : State) : State :=
  if u < 48 ∨ (68 ≤ u ∧ u < 72) then s
  else if u < 52 then s.modRed (u - 48) fun x =>
    { x with state := esRun, entry := entry, released := false, contributed := false, norm := 0, raised := [] }
  else if u < 64 then s.modDat (u - 52) fun x =>
    { x with state := esRun, entry := entry, released := false, asked := false, result := none, told := false }
  else if u < 68 then s.modGrot (u - 64) fun x => x.startScene (s.troupe tr) entry
  else s.modFab (u - 72) fun x =>
    { x with state := esRun, entry := entry, released := false, asked := false, sent := 0, fetched := [], waited := false, recvs := []
             repeats := [], lastSend := [] }

/-- A scene starts on a troupe (R96, R99, R205, R299, R315, R316, R414). -/
def beginScene (tr sid : Nat) (es : Tbl Nat) (owner : Nat × Nat) (s : State) : State :=
  let commit := isCommitScene s es
  let s := if (s.troupe tr).stepState = 6 then s else stepOutcome tr false s
  let s := s.modTroupe tr fun x =>
    let x := { x with
      state := 1, sceneId := sid, faulted := false, entries := es, starting := (es.map Prod.fst).filter fun u => decide (u < 48)
      arrived := [], noticed := [], auditing := false, owner := some owner, commitScene := commit
      capLimit := x.waitLimit, capSeed := x.seed, capStep := x.rngStep, capCeil := x.normCeil }
    if commit then { x with stepState := 1, stepDone := false, norm := none, refused := 0, stepCause := 0 } else x
  let s := es.foldl (fun s p => startEngine tr p.1 p.2 s) s
  (s.image.flowsOf tr).foldl (fun s f => s.modFlow f.flow fun c => { credits := f.credits, completed := c.completed, returned := c.returned }) s

/-- The status with which a SCENE_START fails its checks (R415), or OK. -/
def sceneStatus (s : State) (q : Nat) (c : Slot) : Nat :=
  let tr := c.arg0 % 16
  if c.flags / 4 != 0 || c.reserved != 0 || bitsOf c.arg0 4 28 != 0 || c.arg1 != 0 then stEncoding
  else if !mayName s q tr then stRange
  else if c.payloadLen != 2 * (s.image.units tr).length then stEncoding
  else stOk

/-- A SCENE_START whose troupe can take it starts, or completes with FENCED (R562). -/
def takeScene (q : Nat) (c : Slot) (s : State) : State :=
  let tr := c.arg0 % 16
  let sid := c.arg0 / 2 ^ 32
  if (s.image.units tr).any fun u => (s.fence u).fenced then oneShot q c stFenced sid (fun s => s) s
  else
    let es := sceneEntries s tr c
    let r := startCmd q c s
    beginScene tr sid es (q, r.1) r.2

/-- A SCENE_START is judged: refused, held or taken. -/
def sceneStart (q : Nat) (c : Slot) (s : State) : State :=
  let tr := c.arg0 % 16
  let st := sceneStatus s q c
  if st ≠ stOk then oneShot q c st (c.arg0 / 2 ^ 32) (fun s => s) s
  else if sceneHeld s tr (isCommitScene s (sceneEntries s tr c)) then s.modQueue q fun x => { x with heldCmd := true }
  else takeScene q c s

/-- Q_SCENE_START (R414, R415, R417). -/
def execQSceneStart (q : QueueId) (s : State) : Host.Outcome State Fault Refusal :=
  eventOf s (if (s.queue q).heldCmd then none else startable s q (· == 4)) fun c s => sceneStart q c s

/-- HELD_SCENE_START (R417): a held start proceeds once the troupe can take it. -/
def execHeldSceneStart (q : QueueId) (s : State) : Host.Outcome State Fault Refusal :=
  eventOf s (if (s.queue q).heldCmd then startable s q (· == 4) else none) fun c s => sceneStart q c s

/-! ### Completions and interrupts (R420 to R422) -/

/-- The bytes of record m of a queue (R420). -/
def recordBytes (q m ringSize : Nat) (r : CplRec) : List Byte :=
  leBytes 2 r.seq ++ leBytes 1 q ++ leBytes 1 r.status ++ leBytes 1 r.opcode ++
    leBytes 1 (if m / ringSize % 2 = 0 then 1 else 0) ++ leBytes 2 0 ++ leBytes 8 r.tag.toNat ++ leBytes 4 r.detail ++
    leBytes 4 0 ++ leBytes 8 r.spanTime

/-- COMPLETION_RECORD_WRITE (R420, R421): the oldest completed command's record is written where the ring has room.
A ring outside both tiers takes no record (DESIGN CHOICE). -/
def execCompletionRecordWrite (q : QueueId) (s : State) : Host.Outcome State Fault Refusal :=
  let x := s.queue q
  eventOf s (if x.ringFull then none else x.records.head?) fun r s =>
    let a := x.cplBase + 32 * (x.cplWr % x.ringSize)
    let s := s.modQueue q fun x => { x with records := x.records.drop 1, cplWr := (x.cplWr + 1) % 2 ^ 17 }
    if inTier a 32 then
      let w := ioWrite clsQue a (recordBytes q x.cplWr x.ringSize r) s
      if r.irq && x.irqEn then w.2.modQueue q fun x => { x with msis := x.msis ++ w.1 } else w.2
    else s

/-- A 32-bit write to a page of an interrupt file (R459, R460). AIA gives a page the register seteipnum at offset 0,
little-endian, and at offset 4, big-endian (PRESUMED). -/
def interruptWrite (addr v : Nat) (s : State) : State :=
  let base := regionBase 0 + 0x80_0000
  let o := addr - base
  let page := if o < 0xA_0000 then (o - 0x4_0000) / 0x1000 else (o - 0xA_0000) / 0x1000
  let level := if o < 0xA_0000 then 0 else 1
  let swap := v / 2 ^ 24 % 256 + v / 2 ^ 16 % 256 * 2 ^ 8 + v / 2 ^ 8 % 256 * 2 ^ 16 + v % 256 * 2 ^ 24
  let id := if o % 0x1000 = 0 then v else if o % 0x1000 = 4 then swap else 0
  if base + 0x4_0000 ≤ addr ∧ addr < base + 0x10_0000 ∧ 1 ≤ id ∧ id ≤ 2047 then setPending (2 * page + level) id s else s

/-- MSI_WRITE (R422): the interrupt of a record whose Cmp has arrived. -/
def execMsiWrite (q : QueueId) (s : State) : Host.Outcome State Fault Refusal :=
  let x := s.queue q
  event s (decide (0 < x.msisReady)) fun s =>
    interruptWrite x.msiAddr x.msiEiid (s.modQueue q fun x => { x with msisReady := x.msisReady - 1 })

end Sys2Proof.Machine
end

