-- ==== Sys2Proof/Machine/Clocks.lean ====
section
/-! DEFINITION. Clock generation and distribution (22): lock and stability (R511, R518), the trim reference (R510),
switches of domains (R519, R520), frame marks (R260, R261) and the package stop (R523, R524). -/

namespace Sys2Proof.Machine

open Sys2Proof

/-! ### Domains (R513) -/

def domCmp : Nat := 0
def domStr : Nat := 1
def domHcore : Nat := 2
def domMem : Nat := 3
def domFab : Nat := 4
def domVcd : Nat := 5
def domGrt : Nat := 6
def domMgt : Nat := 7

/-- The domains present on a die. -/
def domainsOf (d : Nat) : List Nat :=
  if d = 0 then [domStr, domHcore, domMgt]
  else if d ≤ 4 then [domCmp, domStr, domMem, domFab, domVcd, domMgt]
  else [domStr, domMem, domGrt, domMgt]

/-- The divider of a domain on the root. -/
def dividerOf (s : State) (k : Nat) : Nat := if k = domHcore then s.clk.hcoreDiv else [6, 3, 4, 8, 8, 10, 12, 48].getD k 0

/-- Domains whose switch to bypass needs quiescent troupes (R519). -/
def scheduledDomain (k : Nat) : Bool := [domCmp, domStr, domMem, domFab, domGrt].contains k

/-! ### Trim reference (R510, R518, R523) -/

/-- A new judgement of a die's root begins, on a reference, at a time. -/
def ClkDie.judge (x : ClkDie) (marks : Bool) (now : Nat) : ClkDie :=
  { x with marks := marks, stable := false, good := 0, err := 0, markCount := 0, phases := [], since := now }

/-- A die takes a trim reference. A change begins a new judgement. -/
def ClkDie.refer (x : ClkDie) (marks : Bool) (now : Nat) : ClkDie := if x.marks = marks then x else x.judge marks now

/-- Every die takes a trim reference. -/
def setReference (marks : Bool) (s : State) : State :=
  (List.range 9).foldl (fun s d => s.modClk d fun x => x.refer marks s.time.csr) s

/-- The port from which marks come; none for a time master, a package in no span and one without an image (R510). -/
def markPort (s : State) : Option Nat :=
  match s.img.inForce with
  | some i => if i.clockRec.timeParent = 0xFF then none else some i.clockRec.timeParent
  | none => none

/-- R260, R269: the one-way delay that the port towards the time parent measured at its training. -/
def hopDelay (s : State) : Nat := match markPort s with
  | some p => (s.port p).delay
  | none => 0

/-- R510: the reference is REFCLK without an image or for a time master. -/
def settleReference (s : State) : State := if (markPort s).isNone then setReference false s else s

/-! ### Lock and stability -/

/-- R532: REFCLK cycles from the release of PKG_RESET_N to the lock of a die's root: 12 µs on the host die. No rule
states a time for another die. -/
def lockTime (d : Nat) : Nat := if d = 0 then 1200 else 0

/-- ROOT_LOCK (R511, R532): the root of a die acquires lock to REFCLK, and its judgement by count begins (R518). -/
def execRootLock (d : DieId) (s : State) : Host.Outcome State Fault Refusal :=
  event s (!(s.clkDie d).locked && decide (lockTime d ≤ s.time.csr)) fun s =>
    s.modClk d fun x => { x with locked := true, since := s.time.csr }

/-- Whether a die's judgement is by count and its count has begun (R518). -/
def judgesByCount (s : State) (d : Nat) : Bool :=
  let x := s.clkDie d
  x.locked && !x.stable && (!x.marks || (s.image.clockRec.spanClass == 0 && decide (0 < x.markCount)))

/-- R518: REFCLK cycles of a judgement by count, 655.36 µs. -/
def countCycles : Nat := 65536

/-- R513, R520: the time CSR of the common edge at which a switch of a domain takes effect: the first at least two
cycles of the old source after the write. Common edges fall on every second REFCLK edge, here the even ones (DESIGN
CHOICE, log 158). Two cycles are 20 ns from bypass and at most 8 ns from the root. -/
def switchEdge (now : Nat) (wasRoot : Bool) : Nat :=
  let n := now + (if wasRoot then 1 else 2)
  n + n % 2

/-- R532: at the stability of the host die's root the boot ROM switches STR, MGT and HCORE to the root. -/
def romSwitches (d : Nat) (s : State) : State :=
  if d = 0 ∧ (s.clkDie 0).onRoot = [] ∧ (s.clkDie 0).switching = [] then
    s.modClk 0 fun x => { x with switching := [domStr, domMgt, domHcore].map fun k => (k, true, switchEdge s.time.csr false) }
  else s

/-- STABILITY_COUNT_EXPIRY (R518, R532). -/
def execStabilityCountExpiry (d : DieId) (s : State) : Host.Outcome State Fault Refusal :=
  event s (judgesByCount s d && decide ((s.clkDie d).since + countCycles ≤ s.time.csr)) fun s =>
    romSwitches d (s.modClk d fun x => { x with stable := true })

/-! ### Switches (R519 to R522, R526 to R528) -/

/-- Why a switch is refused, as R528 numbers the reasons. -/
def switchRefusal (s : State) (d k : Nat) (root : Bool) : Option Nat :=
  if !(domainsOf d).contains k then some 1
  else if root then (if (s.clkDie d).stable then none else some 0)
  else if scheduledDomain k && (List.range 16).any (fun tr =>
      ((s.troupe tr).state == 1 || (s.troupe tr).state == 2) && (s.image.units tr).any fun u => unitDie u == d) then some 2
  else none

/-- A refused switch is recorded (R528). -/
def ClkDie.refuse (x : ClkDie) (source reason k : Nat) (root : Bool) : ClkDie :=
  let x := { x with refCount := satAdd 32 x.refCount 1 }
  if x.refValid then x
  else { x with refValid := true, refSource := source, refReason := reason, refDomain := k, refTarget := root }

/-- A write of CLK_SWITCH (R519). One whose target is the current source does nothing. -/
def writeSwitch (d source k : Nat) (root : Bool) (s : State) : State :=
  if (domainsOf d).contains k && (s.clkDie d).onRoot.contains k == root then s
  else match switchRefusal s d k root with
    | some reason => s.modClk d fun x => x.refuse source reason k root
    | none => s.modClk d fun x => { x with
        switching := (x.switching.filter fun p => p.1 != k) ++ [(k, root, switchEdge s.time.csr (x.onRoot.contains k))] }

/-- CLK_SWITCH_ROOT (R519). -/
def execClkSwitchRoot (d : DieId) (source : SourceId) (domain : BitVec 4) (s : State) : Host.Outcome State Fault Refusal :=
  event s true (writeSwitch d source domain.toNat true)

/-- CLK_SWITCH_BYPASS (R519). -/
def execClkSwitchBypass (d : DieId) (source : SourceId) (domain : BitVec 4) (s : State) :
    Host.Outcome State Fault Refusal :=
  event s true (writeSwitch d source domain.toNat false)

/-- CLK_SWITCH_EFFECT (R520): an accepted switch takes effect at a common edge. -/
def execClkSwitchEffect (d : DieId) (domain : Nat) (s : State) : Host.Outcome State Fault Refusal :=
  eventOf s ((s.clkDie d).switching.find? fun p => p.1 == domain && decide (p.2.2 ≤ s.time.csr)) fun p s =>
    s.modClk d fun x => { x with
      switching := x.switching.filter fun q => q.1 != p.1
      onRoot := if p.2.1 then withOne x.onRoot p.1 else without x.onRoot p.1 }

/-! ### Frame marks (R260, R261, R518) -/

/-- The correction of a die moves by at most 1 ppm a frame, at the frame's first mark, within ±250 ppm, by an amount that
the spec leaves to the loop (R510). -/
def ClkDie.trim (x : ClkDie) (k first : Nat) : ClkDie :=
  let step : Int := ((Config.freeWord32 k).toNat % 129 : Nat) - 64
  if first = 0 then x else { x with corr := max (-16000) (min 16000 (x.corr + step)) }

/-- R518: the change in phase over 16 frames, in 1/64 root cycles of 1/12 ns, as an error over 16 µs: 125/1536 ppm each,
125/24 in the register's units of 1/64 ppm, rounded down and held within its 16 bits (DESIGN CHOICE, log 158). -/
def phaseError (change : Int) : Int := max (-32768) (min 32767 (change * 125 / 24))

/-- R518: a change in phase whose error lies within ±2 ppm. -/
def phaseGood (change : Int) : Bool := decide (-3072 ≤ change * 125) && decide (change * 125 ≤ 3072)

/-- A die measures a mark's arrival phase against its own frame start (R518). Under comparison the error counts from the
17th mark, against the mark 16 before it, and 256 good frames in a row make the root stable. The first mark begins the
judgement by count. -/
def ClkDie.measure (x : ClkDie) (spanClass now : Nat) (phase : Int) : ClkDie :=
  if !x.marks then x
  else
    let first := x.phases.head?
    let full := decide (16 ≤ x.phases.length)
    let x := { x with
      markCount := x.markCount + 1
      since := if x.markCount = 0 then now else x.since
      phases := (if full then x.phases.drop 1 else x.phases) ++ [phase] }
    match first with
    | some p =>
      if spanClass = 0 ∨ full = false then x
      else
        let good := if phaseGood (phase - p) then satAdd 16 x.good 1 else 0
        { x with err := phaseError (phase - p), good := good, stable := x.stable || decide (256 ≤ good) }
    | none => x

/-- R293: the sequence of joining is complete: the port to the time parent hears the neighbour that it must have, no port has
a wrong one, three frames in a row since the package left a span have had marks, and every die's root is stable
(DEDUCED, log 142). -/
def joinReady (s : State) : Bool :=
  (markPort s).any (fun p => (s.port p).stringsUp && (s.port p).identified && identityOk s p) &&
    (List.range 8).all (fun p => (s.port p).state != psMiswired) && decide (3 ≤ s.str.joinRun) &&
    (List.range 9).all fun d => (s.clkDie d).stable

/-- R293: a package that is ready announces that it joins; the notice leaves the model. -/
def joinSpan (s : State) : State := if joinReady s then { s with str := { s.str with inSpan := true } } else s

/-- FRAME_MARK_RECEIPT (R260, R269, R293, R510, R518). The reference becomes the marks when marks_ok becomes 1
(DEDUCED). -/
def execFrameMarkReceipt (p : PortId) (carried : Word) (phases : List Int) (s : State) : Host.Outcome State Fault Refusal :=
  event s (markPort s == some p.val && portHears s p) fun s =>
    let new := if s.str.gotMark then 0 else 1
    let run := s.str.marksRun + new
    let s := { s with
      time := { s.time with span := (carried.toNat + (s.port p).delay) % 2 ^ 64 }
      str := { s.str with sinceMark := 0, gotMark := true, marksRun := run, marksOk := decide (3 ≤ run), joinRun := s.str.joinRun + new } }
    let s := if 3 ≤ run then setReference true s else s
    let cls := s.image.clockRec.spanClass
    let k := s.fresh
    joinSpan ((List.range 9).foldl (fun s d => s.modClk d fun x =>
      if x.marks then (x.measure cls s.time.csr (phases.getD d 0)).trim (k + d) new else x) { s with fresh := k + 9 })

/-- MARK_LOSS (R261, R523): no mark for three frames; the reference returns to REFCLK and the package leaves the span. -/
def execMarkLoss (s : State) : Host.Outcome State Fault Refusal :=
  event s ((markPort s).isSome && decide (3 ≤ s.str.sinceMark) && (s.str.inSpan || (s.clkDie 0).marks))
    fun s => leaveSpan (setReference false s)

/-- R523: under REFCLK the correction returns to 0 at 1 ppm a frame. -/
def ClkDie.relax (x : ClkDie) : ClkDie :=
  if x.marks then x
  else { x with corr := if x.corr < 0 then min 0 (x.corr + 64) else max 0 (x.corr - 64) }

/-! ### Package stop (R523, R524) -/

/-- R24: the tiers and the SRAM of R24's ranges, as base and length. -/
def tierRanges : List (Nat × Nat) := [(0, 0x090_0000_0000), (0x100_0000_0000, 0x200_0000_0000)]
def sramRanges : List (Nat × Nat) := [(0x400_0000_0000, 0x3000_0000), (0x500_0000_0000, 0x2000_0000)]

/-- Ranges of memory become undefined. -/
def loseRanges (rs : List (Nat × Nat)) (s : State) : State := rs.foldl (fun s r => s.freeFill r.1 r.2) s

/-- R524: all logic halts, no record is written, CLK_LOSS latches, and the contents of both tiers and of every SRAM are
undefined. A loss latched before and not yet cleared stays. -/
def packageStop (d cause : Nat) (s : State) : State :=
  let s := loseRanges (tierRanges ++ sramRanges) s
  let s := { s with boot := { s.boot with stopped := true }, str := { s.str with inSpan := false } }
  if s.clk.lossValid then s else { s with clk := { s.clk with lossValid := true, lossDie := d, lossCause := cause } }

/-- ALERT_N is asserted (R524, R578): from a package stop until PKG_RESET_N, and from the formation of a fatal record
until its reset. -/
def State.alertN (s : State) : Bool := s.boot.stopped || !s.err.fatalFormed.isEmpty

/-- REFCLK_LOSS (R523). -/
def execRefclkLoss (d : DieId) (s : State) : Host.Outcome State Fault Refusal :=
  rawEvent s (s.boot.powerGood && !s.boot.stopped) (packageStop d 1)

/-- LOCK_LOSS (R523). -/
def execLockLoss (d : DieId) (s : State) : Host.Outcome State Fault Refusal :=
  rawEvent s (s.boot.powerGood && !s.boot.stopped && (s.clkDie d).locked) (packageStop d 2)

end Sys2Proof.Machine
end

