-- ==== Sys2Proof/Machine/Resets.lean ====
section
/-! DEFINITION. What each reset leaves (R424, R533, R534, R568): the reset of one device die, of all of them after a
host-link loss (R423), and of the whole package. -/

namespace Sys2Proof.Machine

open Sys2Proof

/-! ### Writes under way -/

/-- A write whose bytes wait for their slot; a home's own are counted with its transactions. -/
def waitingWrite (q : MemReq) : Bool := q.write && !q.data.isEmpty

/-- The bytes that it covers. -/
def reqWrite (q : MemReq) : Nat × List Byte × List Bool :=
  (q.line, q.data, if q.mask.isEmpty then List.replicate 128 true else q.mask)

/-- A request of the host window (R404, R405). -/
def MemUser.ofWindow : MemUser → Bool
  | .window _ => true
  | .windowRead _ _ _ => true
  | _ => false

/-- Writes that have not reached DRAM: line, bytes and the mask of those that the write covers. -/
def pendingWrites (s : State) : List (Nat × List Byte × List Bool) :=
  let whole := List.replicate 128 true
  let ofReq (line : Nat) (r : HomeReq) : List (Nat × List Byte × List Bool) :=
    if r.op = mWrFull then [(line, r.data, whole)] else if r.op = mWrPart then [(line, r.data, r.mask)] else []
  (s.mems.flatMap fun p => (p.2.reqs.filter waitingWrite).map reqWrite) ++
  (s.coh.msgs.flatMap fun m =>
    if m.op = mWbDirty ∨ m.op = mDataHome then [(m.line, m.data, whole)]
    else ofReq m.line { op := m.op, req := m.req, txn := m.txn, data := m.data, mask := m.mask }) ++
  (s.coh.ioWait.flatMap fun p => ofReq p.2.line { op := p.2.op, req := p.2.req, txn := 0, data := p.2.data, mask := p.2.mask }) ++
  (s.coh.homes.flatMap fun p =>
    (p.2.heldWbs.filterMap fun w => if w.2.dirty then some (w.1, w.2.data, whole) else none) ++
    (p.2.txns.flatMap fun x => if x.2.effectDue then ofReq x.1 x.2.req else []) ++
    (p.2.lineQ.flatMap fun x => ofReq x.1 x.2) ++ (p.2.setQ.flatMap fun x => ofReq x.1 x.2))

/-- Writes that stand in a cache only: its dirty lines. -/
def dirtyLines (s : State) : List (Nat × List Byte × List Bool) :=
  s.coh.caches.flatMap fun c => (c.2.filter fun p => p.2.st == .M || (p.2.st == .WBP && p.2.dirty)).map fun p =>
    (p.1, p.2.data, List.replicate 128 true)

/-- R568: a line whose write had not reached DRAM holds its earlier value or the new one, which the spec leaves open. -/
def settleWrite (w : Nat × List Byte × List Bool) (s : State) : State :=
  let s' := s.draw
  if (Config.freeWord32 s.fresh).toNat % 2 = 1 then { s' with mem := memMasked s'.mem (128 * w.1) w.2.1 w.2.2 } else s'

/-- R424: a line whose write was dropped is undefined. -/
def dropWrite (w : Nat × List Byte × List Bool) (s : State) : State :=
  if inTier (128 * w.1) 128 then s.freeFill (128 * w.1) 128 else s

/-! ### One device die -/

/-- The units of a die (R42). -/
def unitsOn (d : Nat) : List Nat := (List.range 76).filter fun u => unitDie u == d

/-- The memories, tiles and ports of a die. -/
def memsOn (d : Nat) : List Nat := (List.range 16).filter fun m => memDie m == d
def tilesOn (d : Nat) : List Nat := (List.range 48).filter fun t => unitDie t == d

/-- Entries of a table whose keys a predicate holds of are removed. -/
def tdrop {α : Type} (t : Tbl α) (p : Nat → Bool) : Tbl α := t.filter fun q => !p q.1

/-- Compute die c (0 to 3): its tiles, engines, ports, codec, stacks, home and SRAM. -/
def resetChip (c : Nat) (s : State) : State :=
  let s := loseRanges [(padBase (12 * c), 12 * 0x100_0000), (redBase c, 0x800_0000)] s
  { s with
    tiles := tdrop s.tiles fun t => t / 12 == c
    reds := tdel s.reds c
    fab := { s.fab with ports := tdrop s.fab.ports fun p => p / 2 == c, engines := tdel s.fab.engines c }
    dats := tdrop s.dats fun e => e % 4 == c
    codecs := tdel s.codecs c }

/-- What every device die loses: its records, links, controllers, home, clocks, and its units' waits. -/
def resetCommon (d : Nat) (s : State) : State :=
  { s with
    err := { s.err with dies := tdel s.err.dies d }
    links := (tdrop s.links fun k => k / 8 == d).map fun p =>
      if linkTo (p.1 / 8) d = some (p.1 % 8) then (p.1, { p.2 with state := 0, modules := 0 }) else p
    mems := tdrop s.mems fun m => memDie m == d
    coh := { s.coh with
      homes := tdel s.coh.homes (d - 1)
      caches := if d ≤ 4 then tdel s.coh.caches (7 + d) else s.coh.caches
      edge := s.coh.edge.filter fun q => q.die + 1 != d }
    clk := { s.clk with dies := tdel s.clk.dies d }
    waits := tdrop s.waits fun u => unitDie u == d
    elec := { s.elec with hotDies := without s.elec.hotDies d } }

/-- A device die (1 to 8) enters reset: its SRAM and registers return to their values at reset. -/
def resetDie (d : Nat) (s : State) : State :=
  let s := resetCommon d s
  if d ≤ 4 then resetChip (d - 1) s else { s with grots := tdel s.grots (d - 5) }

/-- The device dies are those of 1 to 8. -/
def deviceDies : List Nat := [1, 2, 3, 4, 5, 6, 7, 8]

/-! ### Host-link loss (R408, R423, R424, R440) -/

/-- Every window write not yet durable is discarded. -/
def discardWindow (s : State) : State :=
  let lost (h : Nat) : Bool := !(s.hartWin h).bufs.isEmpty && (s.hartWin h).bufs.any (fun b => b.2.used) ||
    s.asks (· == .window h)
  let s' := s.dropAsks MemUser.ofWindow
  (List.range 96).foldl (fun s h => if lost h then s.modWin h fun w => { w with bufs := [], discarded := true } else s) s'

/-- R440: every region loses valid and its counts. -/
def loseRegion (x : Region) : Region :=
  { x with valid := false, arrivals := 0, log := [], residue := 0, ovf := false, inflight := [], waiter := none }

/-- A troupe whose units have been reset: no scene runs. -/
def loseScene (x : Troupe) : Troupe :=
  { x with state := 0, entries := [], starting := [], arrived := [], auditing := false, noticed := [], owner := none,
           commitScene := false }

/-- R533, R561: CTL_FENCE stands in the host die. A fence that software requested survives, and a pending request takes
effect, as no image names the unit in a troupe any more; fences of the image and of the hardware end. -/
def keepFence (x : Fence) : Option Fence :=
  if x.pending == 1 || (x.fenced && x.cause == 2 && x.pending != 2) then some { fenced := true, pending := 0, cause := 2 } else none

/-- R423, R424: the reset of the device dies. The host die keeps its own state, but the queues, the image and what the
device dies hold for it are lost. -/
def loseDevice (s : State) : State :=
  let windowWrites := s.mems.flatMap fun p => (p.2.reqs.filter fun q => q.who.ofWindow && waitingWrite q).map reqWrite
  let dropped := pendingWrites s
  let s := discardWindow s
  let s := (dropped.filter fun w => !windowWrites.contains w).foldl (fun s w => dropWrite w s) s
  let s := windowWrites.foldl (fun s w => dropWrite w s) s
  let s := deviceDies.foldl (fun s d => resetDie d s) s
  { s with
    img := { base := s.img.base, accepted := s.img.accepted }
    troupes := s.troupes.map fun p => (p.1, loseScene p.2)
    tokens := [], str := {}, tag := {}, pubs := [], waits := []
    fences := s.fences.filterMap fun p => (keepFence p.2).map fun x => (p.1, x)
    fab := {}
    coh := { poisoned := s.coh.poisoned }
    queues := []
    plc := { s.plc with regions := s.plc.regions.map fun p => (p.1, loseRegion p.2) }
    sec := { s.sec with quoteTxns := [] }
    boot := { s.boot with dieMask := 0 } }

/-! ### Package resets (R533, R534, R568) -/

/-- What survives a reset of the boot block: power, flash, the reset that begins the next boot, and a latched failure
where the reset is the package's own. -/
def bootAfter (b : BootState) (k : ResetKind) (released : Bool) (latched : Option (Nat × Nat)) : BootState :=
  { powerGood := b.powerGood, released := released, resetKind := k, flash := b.flash, latched := latched }

/-- R539, R541: the failure that a package's own reset latches for the next boot's ROM. -/
def latchFor (b : BootState) (k : ResetKind) : Option (Nat × Nat) :=
  if b.done || b.lantern then b.latched
  else match k with
    | .fatal => some (0x0A, b.stage)
    | .watchdog => some (0x09, b.stage)
    | _ => b.latched

/-- The package after a reset, before the boot: every die at its reset values, but for what R533 and R568 keep. The
queue of commands, the counter of free values and the last reply are the model's own. -/
def resetAll (k : ResetKind) (released : Bool) (s : State) : State :=
  let power := k == .powerOn
  let kept := pendingWrites s ++ dirtyLines s
  let s := if power then loseRanges tierRanges s else kept.foldl (fun s w => settleWrite w s) s
  let s := loseRanges sramRanges s
  let latched := match k with
    | .powerOn | .pin | .stopPin => none
    | _ => latchFor s.boot k
  { pending := s.pending, fresh := s.fresh, out := s.out, mem := s.mem
    err := { fatal := if power then none else s.err.fatal }
    coh := { poisoned := if power then [] else s.coh.poisoned }
    clk := if power then {} else { lossValid := s.clk.lossValid, lossDie := s.clk.lossDie, lossCause := s.clk.lossCause }
    sec := { fuses := s.sec.fuses }
    boot := bootAfter s.boot k released latched }

end Sys2Proof.Machine
end

