-- ==== Sys2Proof/Machine/Boot.lean ====
section
/-! DEFINITION. Power-up, boot, Lantern mode and attestation (23): the flash and its attempt records (R535, R541), the
verify engine (R537), the boot ROM (R532, R539, R540, R546), the resets (R531, R533), BOOT_CTL and the flash commands
(R549), fuses (R538), measurement and quotes (R542 to R545). -/

namespace Sys2Proof.Machine

open Sys2Proof

/-! ### Flash (R535, R549) -/

/-- Bytes of the flash; erased bytes read 0xFF. -/
def flashRead (f : Tbl Byte) (o n : Nat) : List Byte := (List.range n).map fun i => tget 0xFF f (o + i)

/-- Programming turns bits from 1 to 0 (R541). -/
def flashProgram (f : Tbl Byte) (o : Nat) (bs : List Byte) : Tbl Byte :=
  tload f o ((flashRead f o bs.length).zipWith (· &&& ·) bs)

/-- Erased bytes are not listed. -/
def flashErase (f : Tbl Byte) (o n : Nat) : Tbl Byte := f.filter fun p => decide (p.1 < o) || decide (o + n ≤ p.1)

def State.setFlash (s : State) (f : Tbl Byte) : State := { s with boot := { s.boot with flash := f } }

/-! ### Measurement (R543, R544) -/

/-- The bytes of a 256-bit value. -/
def bytes256 (v : BitVec 256) : List Byte := leBytes 32 v.toNat

/-- R543: register i is extended by d. -/
def extendMreg (i : Nat) (d : BitVec 256) (s : State) : State :=
  let m := Config.sha3 (bytes256 (tget 0 s.sec.mreg i) ++ bytes256 d)
  { s with sec := { s.sec with mreg := tset s.sec.mreg i m } }

/-- The measurement register that a bundle's type names. -/
def mregOf (type : Nat) : Nat := if type = 1 then 5 else if type = 6 then 6 else type - 1

/-! ### The verify engine (R535, R537) -/

/-- A bundle's header. -/
structure Bundle where
  magic : Nat
  type : Nat
  svn : Nat
  signedLength : Nat
  load : Nat
  entry : Nat
  seq : Nat
deriving DecidableEq, Repr

/-- R535: the header at a flash offset. -/
def bundleAt (f : Tbl Byte) (o : Nat) : Bundle :=
  let h := flashRead f o 0x24
  ⟨fieldAt h 0 4, fieldAt h 4 2, fieldAt h 6 2, fieldAt h 8 8, fieldAt h 0x10 8, fieldAt h 0x18 8, fieldAt h 0x20 4⟩

/-- A bundle's payload. -/
def bundlePayload (f : Tbl Byte) (o : Nat) : List Byte :=
  flashRead f (o + 4096) ((bundleAt f o).signedLength - 4096)

/-- The digest that a bundle's signature covers. -/
def bundleDigest (f : Tbl Byte) (o : Nat) : BitVec 256 := Config.sha3 (flashRead f o (bundleAt f o).signedLength)

/-- R537: the outcome of a check: 0 accepted, else the reason of R539 (1 signature, 2 rollback). -/
def bundleCheck (s : State) (o : Nat) (types : List Nat) : Nat :=
  let f := s.boot.flash
  let b := bundleAt f o
  let key := flashRead f (o + 0x40) 1312
  if b.magic != 0x4A42_4446 || !types.contains b.type || b.signedLength % 64 != 0 || decide (0xF0_0000 < b.signedLength) ||
      Config.sha3 key != Config.rootKeyHash ||
      !Config.mldsaVerify key (bundleDigest f o) (flashRead f (o + b.signedLength) 2420) then 1
  else if b.svn < s.sec.fuses then 2
  else 0

/-- The boot set in which an offset lies. -/
def setOfOffset (o : Nat) : Nat := if o < 0x100_0000 then 0 else 1

/-- R544: an accepted bundle is measured; a directory's measurement is followed by that of the set number. -/
def measureBundle (o : Nat) (s : State) : State :=
  let b := bundleAt s.boot.flash o
  let s := extendMreg (mregOf b.type) (bundleDigest s.boot.flash o) s
  if b.type = 1 then extendMreg 5 (Config.sha3 [BitVec.ofNat 8 (setOfOffset o)]) s else s

/-- A verification: the outcome, and the measurement on acceptance. -/
def verifyBundle (o : Nat) (types : List Nat) (s : State) : Nat × State :=
  let r := bundleCheck s o types
  (r, if r = 0 then measureBundle o s else s)

/-- BUNDLE_VERIFY (R537, R544): the caller is told the outcome. -/
def execBundleVerify (offset : Nat) (types : List Nat) (s : State) : Host.Outcome State Fault Refusal :=
  event s true fun s =>
    let r := verifyBundle offset types s
    r.2.reply { value := BitVec.ofNat 64 r.1 }

/-! ### Attempt records (R541) -/

/-- A valid record of the sector. -/
structure Attempt where
  slot : Nat
  seq : Nat
  state : Nat
  reason : Nat
deriving DecidableEq, Repr

/-- States of a record. -/
def arStarted : Nat := 0xFE
def arSucceeded : Nat := 0xFC
def arFailed : Nat := 0xF8
def arCleared : Nat := 0xE0

/-- The record in a slot, where its magic and crc hold. -/
def attemptAt (f : Tbl Byte) (slot : Nat) : Option Attempt :=
  let r := flashRead f (64 * slot) 64
  if fieldAt r 0 4 = 0x4A41_5452 ∧ fieldAt r 0x0C 4 = crc32 (r.take 12) then
    some ⟨slot, fieldAt r 4 4, fieldAt r 0x10 1, fieldAt r 0x11 1⟩
  else none

/-- The valid records, latest first. -/
def attempts (f : Tbl Byte) : List Attempt := ((List.range 1024).filterMap (attemptAt f)).reverse

/-- The run of failed records that ends at the latest one, latest first: its length is k of R540. -/
def failedRun (f : Tbl Byte) : List Attempt := (attempts f).takeWhile fun a => a.state == arFailed

/-- The first erased slot. -/
def erasedSlot (f : Tbl Byte) : Option Nat :=
  (List.range 1024).find? fun i => (flashRead f (64 * i) 64).all fun b => b == 0xFF

/-- The bytes of a new record. -/
def attemptBytes (seq set cause fuses loss state : Nat) : List Byte :=
  let h := leBytes 4 0x4A41_5452 ++ leBytes 4 seq ++ leBytes 1 set ++ leBytes 1 cause ++ leBytes 1 fuses ++ leBytes 1 loss
  h ++ leBytes 4 (crc32 h) ++ leBytes 1 state ++ List.replicate 47 0xFF

/-- A record goes into the first erased slot. A full sector is erased first and the trailing run of failed records, up
to two of them, written again. -/
def putAttempt (f : Tbl Byte) (bs : List Byte) : Tbl Byte :=
  match erasedSlot f with
  | some i => flashProgram f (64 * i) bs
  | none =>
    let keep := ((failedRun f).take 2).reverse.map fun a => flashRead f (64 * a.slot) 64
    tload (flashErase f 0 0x1_0000) 0 (keep.flatten ++ bs)

/-- A record's state is programmed, with a reason and a stage. -/
def closeAttempt (f : Tbl Byte) (slot state reason stage : Nat) : Tbl Byte :=
  flashProgram f (64 * slot + 0x10) (leBytes 1 state ++ leBytes 1 reason ++ leBytes 1 stage)

/-- The seq of the next record: one more than the latest one's. The first record of an empty sector has a free seq: no
rule states it. -/
def nextSeq (f : Tbl Byte) (k : Nat) : Nat :=
  match (attempts f).head? with
  | some a => (a.seq + 1) % 2 ^ 32
  | none => (Config.freeWord32 k).toNat

/-! ### The boot ROM (R532, R539, R540, R542, R546) -/

/-- Flash offset of a set's directory. -/
def setBase (k : Nat) : Nat := if k = 0 then 0x1_0000 else 0x101_0000

/-- The flash offsets of the bundles of a type that a directory names. -/
def namedBundles (f : Tbl Byte) (k type : Nat) : List Nat :=
  let p := bundlePayload f (setBase k)
  (List.range (min 15 (p.length / 16))).filterMap fun i =>
    if fieldAt p (16 * i) 2 = type then some (fieldAt p (16 * i + 8) 8) else none

/-- R535: a set is valid when its directory verifies and names one bundle of each of types 0x02 to 0x06. -/
def validSet (s : State) (k : Nat) : Bool :=
  bundleCheck s (setBase k) [1] == 0 && [2, 3, 4, 5, 6].all fun t => (namedBundles s.boot.flash k t).length == 1

/-- The offset of a set's bundle of a type. -/
def bundleOf (s : State) (k type : Nat) : Nat := (namedBundles s.boot.flash k type).headD 0

/-- R540: the preferred set, where one is valid. -/
def preferredSet (s : State) : Option Nat :=
  let seq (k : Nat) : Nat := (bundleAt s.boot.flash (setBase k)).seq
  match validSet s 0, validSet s 1 with
  | true, true => some (if seq 0 < seq 1 then 1 else 0)
  | true, false => some 0
  | false, true => some 1
  | false, false => none

/-- R540: the set of an attempt after k failures. -/
def chosenSet (s : State) (k : Nat) : Option Nat :=
  (preferredSet s).map fun p => if k % 2 = 1 ∧ validSet s (1 - p) then 1 - p else p

/-- The value of BOOT_REASON.cause for a reset. -/
def causeOf : ResetKind → Nat
  | .powerOn => 0
  | .pin => 1
  | .fatal => 2
  | .watchdog => 3
  | .boot => 4
  | .stopPin => 5

/-- The directories that verify are measured, in ascending set number (DEDUCED from R537 and R544). -/
def measureDirectories (s : State) : State := (verifyBundle (setBase 1) [1] (verifyBundle (setBase 0) [1] s).2).2

/-- A bundle's payload is copied into the boot RAM. -/
def copyBundle (o : Nat) (s : State) : State :=
  let bs := bundlePayload s.boot.flash o
  let a := (bundleAt s.boot.flash o).load
  if a + bs.length ≤ 0x200_0000 then s.store a bs else s

/-- R542: the alias key, the link and the lock. -/
def lockKeys (s : State) : State :=
  let m (i : Nat) : List Byte := bytes256 (tget 0 s.sec.mreg i)
  let cdi := Config.sha3 ([0x02] ++ Config.uds ++ m 1 ++ m 2)
  let seed := Config.sha3 ([0x03] ++ bytes256 cdi)
  let pub := Config.mldsaPublic seed
  let link := Config.mldsaSign s.sec.deviceSeed (Config.sha3 ([0x04] ++ pub ++ m 1 ++ m 2))
  { s with sec := { s.sec with aliasSeed := seed, link := link, locked := true } }

/-- A stage of the ROM fails: the record is closed and the package owes a reset with cause 4. -/
def romFails (slot reason stage : Nat) (s : State) : State :=
  let s := s.setFlash (closeAttempt s.boot.flash slot arFailed reason stage)
  oweReset .boot { s with boot := { s.boot with stage := stage, reason := reason } }

/-- The configuration bundle is applied (R535, R539). -/
def applyConfig (o : Nat) (s : State) : State :=
  let c := Config.bootConfig (bundlePayload s.boot.flash o)
  { s with
    plc := { s.plc with bifur := c.1 % 2 ^ 8 }
    sec := { s.sec with imgKey := (List.range 4).map fun j => (j, BitVec.ofNat 64 (bitsOf c.2.1.toNat (64 * j) 64))
                        imgSvn := c.2.2.1 % 2 ^ 16 }
    boot := { s.boot with wdogMs := c.2.2.2 % 2 ^ 16 } }

/-- Stages 1 and 2 of an attempt (R539) with its set. -/
def romStages (slot set : Nat) (s : State) : State :=
  let fw := bundleOf s set 2
  let cfg := bundleOf s set 3
  let s := { s with boot := { s.boot with stage := 2 } }
  let r := verifyBundle fw [2] s
  if r.1 ≠ 0 then romFails slot r.1 2 r.2
  else
    let q := verifyBundle cfg [3] (copyBundle fw r.2)
    if q.1 ≠ 0 then romFails slot q.1 2 q.2
    else
      let b := bundleAt q.2.boot.flash fw
      let s := lockKeys (applyConfig cfg q.2)
      { s.modHart 0 (fun _ => { pc := b.entry }) with boot := { s.boot with fwSvn := b.svn, hart0 := b.entry } }

/-- A boot attempt (R539): the record, then stages 1 and 2. -/
def romAttempt (k loss : Nat) (s : State) : State :=
  let set := chosenSet s k
  let seq := nextSeq s.boot.flash s.fresh
  let s := s.draw
  let s := s.setFlash (putAttempt s.boot.flash
    (attemptBytes seq (set.getD 0xFF) s.boot.cause s.sec.fuses loss arStarted))
  let slot := ((attempts s.boot.flash).head?.map Attempt.slot).getD 0
  let s := { s with boot := { s.boot with seq := seq, wdogArmed := true, wdogFrom := s.time.csr, stage := 1 } }
  let s := measureDirectories s
  match set with
  | none => romFails slot 0x0C 1 s
  | some n => romStages slot n { s with boot := { s.boot with set := n } }

/-- Lantern mode (R546, R547): the in-band interrupt is sent, and the first recovery bundle that verifies runs on
hart 0. -/
def romLantern (s : State) : State :=
  let s := { s with boot := { s.boot with
    lantern := true, seq := ((attempts s.boot.flash).head?.map Attempt.seq).getD 0, ibi := some s.boot.reason0 } }
  let s := measureDirectories s
  let s := match preferredSet s with
    | none => s
    | some p =>
      let start (set : Nat) (s : State) : State :=
        let o := bundleOf s set 5
        let s := copyBundle o s
        let load := (bundleAt s.boot.flash o).load
        { s.modHart 0 (fun _ => { pc := load }) with boot := { s.boot with set := set, hart0 := load } }
      let a := verifyBundle (bundleOf s p 5) [5] s
      if a.1 = 0 then start p a.2
      else if validSet s (1 - p) then
        let b := verifyBundle (bundleOf s (1 - p) 5) [5] a.2
        if b.1 = 0 then start (1 - p) b.2 else b.2
      else a.2
  lockKeys s

/-- R541: what the ROM does with a record that is still in state started. The stage that an attempt without a latched
failure had reached is known to nobody and is a free value. -/
def closeOpenAttempt (lost : Bool) (s : State) : State :=
  match (attempts s.boot.flash).head? with
  | none => s
  | some a =>
    if a.state ≠ arStarted then s
    else match s.boot.latched with
      | some (reason, stage) => s.setFlash (closeAttempt s.boot.flash a.slot arFailed reason stage)
      | none =>
        let k := s.fresh
        s.draw.setFlash (closeAttempt s.boot.flash a.slot arFailed (if lost then 0x0B else 0x08)
          ((Config.freeWord32 k).toNat % 256))

/-- The host die leaves reset and the boot ROM runs (R532, R539, R540, R546). -/
def romBoot (s : State) : State :=
  let lost := s.clk.lossValid
  let loss := if lost then 16 * s.clk.lossDie + s.clk.lossCause else 0
  let cause := if lost then 5 else causeOf s.boot.resetKind
  let s := closeOpenAttempt lost { s with clk := { s.clk with lossValid := false } }
  let k := (failedRun s.boot.flash).length
  let failed := ((attempts s.boot.flash).filter fun a => a.state == arFailed).map Attempt.reason
  let s := { s with
    boot := { s.boot with
      released := true, cause := cause, failures := min k 15, latched := none, bootRam := true
      reason0 := failed.getD 0 0, reason1 := failed.getD 1 0, reason2 := failed.getD 2 0 }
    sec := { s.sec with deviceSeed := Config.sha3 ([0x01] ++ Config.uds) } }
  let s := extendMreg 0 (Config.sha3 (Config.romInput s.sec.fuses)) s
  if 3 ≤ k then romLantern s else romAttempt k loss s

/-! ### Power and resets (R531, R533) -/

/-- POWER_GOOD (R531). -/
def execPowerGood (s : State) : Host.Outcome State Fault Refusal :=
  rawEvent s (!s.boot.powerGood) fun s => { s with boot := { s.boot with powerGood := true } }

/-- PWRGD_DEASSERT (R531, R533): a power-on reset at once. -/
def execPwrgdDeassert (s : State) : Host.Outcome State Fault Refusal :=
  rawEvent s s.boot.powerGood fun s =>
    let s := resetAll .powerOn false s
    { s with boot := { s.boot with powerGood := false } }

/-- PKG_RESET_ASSERT (R533, R534). -/
def execPkgResetAssert (s : State) : Host.Outcome State Fault Refusal :=
  rawEvent s (s.boot.powerGood && s.boot.released) (resetAll .pin false)

/-- PKG_RESET_RELEASE (R531, R532): ignored while PWRGD is deasserted. -/
def execPkgResetRelease (s : State) : Host.Outcome State Fault Refusal :=
  rawEvent s (s.boot.powerGood && !s.boot.released) romBoot

/-- PACKAGE_RESET (R533, R553, R555): a reset that is owed begins, a fatal record's once it has been copied. -/
def execPackageReset (s : State) : Host.Outcome State Fault Refusal :=
  eventOf s (s.boot.resetDue.filter fun k => k != .fatal || s.err.fatalCopied) fun k s => romBoot (resetAll k true s)

/-- R539: the watchdog's limit, in milliseconds of 100,000 REFCLK cycles, has passed since it was armed. Setting the
limit does not arm it again (DESIGN CHOICE, log 158). -/
def wdogDue (s : State) : Bool := s.boot.wdogArmed && decide (s.boot.wdogFrom + 100000 * s.boot.wdogMs ≤ s.time.csr)

/-- WATCHDOG_EXPIRY (R539). -/
def execWatchdogExpiry (s : State) : Host.Outcome State Fault Refusal :=
  event s (wdogDue s) fun s =>
    oweReset .watchdog { s with boot := { s.boot with wdogArmed := false, latched := some (0x09, s.boot.stage), reason := 0x09 } }

/-! ### BOOT_CTL (R541, R548, R549) -/

/-- BOOT_RESET (R549). -/
def execBootReset (s : State) : Host.Outcome State Fault Refusal := event s true (oweReset .boot)

/-- The attempt succeeds (R541, R549): once a boot. Lantern mode has no attempt. -/
def bootCommit (s : State) : State :=
  if s.boot.done || s.boot.lantern then s
  else
    let s := match (attempts s.boot.flash).find? fun a => a.seq == s.boot.seq && a.state == arStarted with
      | some a => s.setFlash (closeAttempt s.boot.flash a.slot arSucceeded 0xFF 0xFF)
      | none => s
    { s with boot := { s.boot with done := true, wdogArmed := false } }

/-- BOOT_COMMIT (R549). -/
def execBootCommit (s : State) : Host.Outcome State Fault Refusal := event s true bootCommit

/-- A cleared record is written (R541). Its set reads 0xFF, as of a record that names none (DESIGN CHOICE). -/
def bootClear (s : State) : State :=
  let seq := nextSeq s.boot.flash s.fresh
  s.draw.setFlash (putAttempt s.boot.flash (attemptBytes seq 0xFF s.boot.cause s.sec.fuses 0 arCleared))

/-- BOOT_CLEAR (R541). -/
def execBootClear (s : State) : Host.Outcome State Fault Refusal := event s true bootClear

/-- BOOT_UNLOCK_RAM (R536): ignored in Lantern mode. -/
def execBootUnlockRam (s : State) : Host.Outcome State Fault Refusal :=
  event s (!s.boot.lantern) fun s => { s with boot := { s.boot with bootRam := false } }

/-- A stage that host firmware enters (R549). -/
def bootStage (n : Nat) (s : State) : State :=
  if 3 ≤ n ∧ n ≤ 6 then { s with boot := { s.boot with stage := n } } else s

/-- BOOT_STAGE (R549). -/
def execBootStage (stage : BitVec 4) (s : State) : Host.Outcome State Fault Refusal := event s true (bootStage stage.toNat)

/-- A failure that host firmware reports (R548, R549). -/
def bootFail (n : Nat) (s : State) : State :=
  if n = 0 then s
  else if s.boot.done then { s with boot := { s.boot with reason := n } }
  else oweReset .boot { s with boot := { s.boot with reason := n, latched := some (n, s.boot.stage) } }

/-- BOOT_FAIL (R549). -/
def execBootFail (reason : BitVec 8) (s : State) : Host.Outcome State Fault Refusal := event s true (bootFail reason.toNat)

/-- A link begins to train once both its dies are out of reset (R15, R36). -/
def trainLinks (d : Nat) (s : State) : State :=
  (List.range 9).foldl (fun s e => match linkTo d e, linkTo e d with
    | some l, some l' =>
      if e = 0 ∨ s.dieUp e then
        let start (x : Link) : Link := { x with state := if x.state = 0 then 1 else x.state }
        (s.modLink d l start).modLink e l' start
      else s
    | _, _ => s) s

/-- BOOT_CTL.die (R547, R549): dies are released, and a die whose bit is cleared is held in reset again (DESIGN CHOICE:
it then stands as after a device-die reset). -/
def releaseDies (mask : Nat) (s : State) : State :=
  let mask := mask % 256 / (if s.boot.lantern then 16 else 1) * (if s.boot.lantern then 16 else 1)
  let old := s.boot.dieMask
  let s := (deviceDies.filter fun d => bitOf old (d - 1) && !bitOf mask (d - 1)).foldl (fun s d => resetDie d s) s
  let s := { s with boot := { s.boot with dieMask := mask } }
  (deviceDies.filter fun d => bitOf mask (d - 1) && !bitOf old (d - 1)).foldl (fun s d => trainLinks d s) s

/-- BOOT_DIE_RELEASE (R549). -/
def execBootDieRelease (mask : BitVec 8) (s : State) : Host.Outcome State Fault Refusal :=
  event s true (releaseDies mask.toNat)

/-! ### Flash commands (R549) -/

/-- A flash operation starts: 1 read, 2 program, 3 erase. The attempt-record sector refuses 2 and 3. An operation
written while one is in progress is not taken (DESIGN CHOICE). -/
def flashCommand (op : Nat) (s : State) : State :=
  if s.boot.flashBusy || !([1, 2, 3].contains op) then s
  else if op != 1 && decide (s.boot.flashAddr < 0x1_0000) then { s with boot := { s.boot with flashError := true } }
  else { s with boot := { s.boot with flashBusy := true, flashOp := op } }

/-- BOOT_FLASH_READ (R549). -/
def execBootFlashRead (s : State) : Host.Outcome State Fault Refusal := event s true (flashCommand 1)

/-- BOOT_FLASH_PROGRAM (R549). -/
def execBootFlashProgram (s : State) : Host.Outcome State Fault Refusal := event s true (flashCommand 2)

/-- BOOT_FLASH_ERASE (R549). -/
def execBootFlashErase (s : State) : Host.Outcome State Fault Refusal := event s true (flashCommand 3)

/-- The flash and its buffer after an operation at offset o. A failed operation leaves what it was to write free. -/
def flashResult (b : BootState) (ok : Bool) (k : Nat) : BootState :=
  let o := b.flashAddr
  let buf := (List.range 4096).map fun i => tget 0 b.flashBuf i
  if b.flashOp = 1 then
    { b with flashBuf := tload b.flashBuf 0 (if ok then flashRead b.flash o 4096 else freeBytes k 4096) }
  else if b.flashOp = 2 then
    { b with flash := if ok then flashProgram b.flash o buf else tload b.flash o (freeBytes k 4096) }
  else
    let base := o / 0x1_0000 * 0x1_0000
    { b with flash := if ok then flashErase b.flash base 0x1_0000 else tload b.flash base (freeBytes k 0x1_0000) }

/-- FLASH_OP_COMPLETE (R549). -/
def execFlashOpComplete (ok : Bool) (s : State) : Host.Outcome State Fault Refusal :=
  event s s.boot.flashBusy fun s =>
    let b := flashResult s.boot ok s.fresh
    { s.draw with boot := { b with flashBusy := false, flashOp := 0, flashError := !ok } }

/-! ### Fuses (R538) -/

/-- SEC_SVN_ADV_WRITE (R538). -/
def writeSvnAdv (v : Nat) (s : State) : State :=
  if s.boot.done && !s.boot.lantern && decide (v ≤ s.boot.fwSvn) then
    { s with sec := { s.sec with fuses := max s.sec.fuses (min v 64) } }
  else { s with sec := { s.sec with svnReject := true } }

/-- SEC_SVN_ADV_WRITE (R538). -/
def execSecSvnAdvWrite (v : Word) (s : State) : Host.Outcome State Fault Refusal :=
  event s true (writeSvnAdv (bitsOf v.toNat 0 7))

/-! ### Quotes and software measurement (R543, R545) -/

/-- The first 5,632 bytes of a quote (R545). -/
def quoteBody (s : State) : List Byte :=
  leBytes 4 0x5155_4F54 ++ leBytes 2 1 ++ leBytes 2 s.sec.quoteMask ++ leBytes 8 s.time.span ++ leBytes 8 s.activeImage ++
  leBytes 1 s.sec.fuses ++ leBytes 1 (bit s.boot.lantern + 2 * bit s.boot.done) ++ leBytes 2 1 ++ leBytes 4 s.boot.seq ++
  ((List.range 4).flatMap fun j => leBytes 8 (tget 0 s.sec.nonce j).toNat) ++
  ((List.range 16).flatMap fun i => if bitOf s.sec.quoteMask i then bytes256 (tget 0 s.sec.mreg i) else List.replicate 32 0) ++
  Config.mldsaPublic s.sec.deviceSeed ++ Config.mldsaPublic s.sec.aliasSeed ++ s.sec.link ++ List.replicate 12 0

/-- R545: a quote starts. Its lines are sent in order, the signature's last. -/
def startQuote (s : State) : State :=
  let a := s.sec.quoteAddr
  if s.sec.quoteBusy then s
  else if !inTier a 8052 || !(homeOf (a / 128)).any (fun h => s.dieUp (homeDie h)) || a % 128 != 0 then
    { s with sec := { s.sec with quoteError := true } }
  else
    let body := quoteBody s
    let w := ioWrite clsCoh a body s
    let v := ioWrite clsCoh (a + 5632) (Config.mldsaSign s.sec.aliasSeed (Config.sha3 body)) w.2
    { v.2 with sec := { v.2.sec with quoteBusy := true, quoteTxns := w.1 ++ v.1 } }

/-- QUOTE_START (R545). -/
def execQuoteStart (s : State) : Host.Outcome State Fault Refusal := event s true startQuote

/-- QUOTE_COMPLETE (R545). -/
def execQuoteComplete (s : State) : Host.Outcome State Fault Refusal :=
  event s (s.sec.quoteBusy && s.sec.quoteTxns.isEmpty) fun s => { s with sec := { s.sec with quoteBusy := false } }

/-- A write of SEC_MEXT_CTL (R543, R550). -/
def writeMextCtl (v : Word) (s : State) : State :=
  let i := bitsOf v.toNat 0 4
  if bitOf v.toNat 4 && decide (8 ≤ i) then
    let d := (List.range 4).foldl (fun n j => n + (tget 0 s.sec.mext j).toNat * 2 ^ (64 * j)) 0
    extendMreg i (BitVec.ofNat 256 d) s
  else s

/-- MREG_EXTEND (R543). -/
def execMregExtend (v : Word) (s : State) : Host.Outcome State Fault Refusal := event s true (writeMextCtl v)

end Sys2Proof.Machine
end

