-- ==== Sys2Proof/Machine/Motion.lean ====
section
/-! DEFINITION. The motion search of the codec engines' encoder (21, R498 to R500). The coding of a picture is Config's; the
search that it uses is what these rules say of it. -/

namespace Sys2Proof.Machine

open Sys2Proof

/-- A plane of samples, in rows. -/
structure Plane where
  w : Nat
  h : Nat
  px : List Nat
deriving DecidableEq, Repr

def Plane.row (x : Plane) (r : Nat) : List Nat := (x.px.drop (r * x.w)).take x.w

/-- A motion vector in quarter samples. -/
abbrev Vec := Int × Int

/-- A block for which the encoder searches: its place and size, the picture and the reference that it is searched in, the
vectors that lie about it, those of the nearest reference's motion field, and what weighs the vector's bits. -/
structure SearchBlock where
  x : Nat
  y : Nat
  w : Nat
  h : Nat
  pic : Plane
  ref : Plane
  left : Option Vec
  above : Option Vec
  aboveRight : Option Vec
  aboveLeft : Option Vec
  coLocated : Option Vec
  belowRight : Option Vec
  predictor : Vec
  lambda : Nat
deriving DecidableEq, Repr

/-- What R499 says of the picture: an inter picture that is the stream's first, or that follows a key picture. -/
structure PicturePlace where
  firstInter : Bool
  afterKey : Bool
deriving DecidableEq, Repr

/-- R498, R499: the candidates in their order, each once, cut at the limit. -/
def candidates (globalMv : Vec) (place : PicturePlace) (limit : Nat) (b : SearchBlock) : List Vec :=
  let near := [b.left, b.above, b.aboveRight, b.aboveLeft].filterMap id
  let later := [b.coLocated, b.belowRight].filterMap id
  (((0, 0) :: globalMv :: (if place.firstInter then []
    else if place.afterKey then near else near ++ later)).foldl (fun l v => if l.contains v then l else l ++ [v]) []).take limit

/-- A sample of a reference at a place in quarter samples: the sample itself where one stands there, else Config's. -/
def refSample (codec : Nat) (ref : Plane) (qx qy : Int) : Nat :=
  if qx % 4 = 0 ∧ qy % 4 = 0 ∧ 0 ≤ qx ∧ 0 ≤ qy ∧ qx / 4 < ref.w ∧ qy / 4 < ref.h then
    ref.px.getD ((qy / 4).toNat * ref.w + (qx / 4).toNat) 0
  else Config.interpolated codec ref.w ref.h ref.px qx qy

/-- The sum of absolute differences of a block and its reference at a vector. -/
def sad (codec : Nat) (b : SearchBlock) (v : Vec) : Nat :=
  ((List.range b.h).flatMap fun r => (List.range b.w).map fun c =>
    let p := b.pic.px.getD ((b.y + r) * b.pic.w + b.x + c) 0
    let q := refSample codec b.ref (4 * (b.x + c : Nat) + v.1) (4 * (b.y + r : Nat) + v.2)
    (max p q) - (min p q)).sum

/-- R498: the cost of a vector. -/
def vectorCost (codec : Nat) (b : SearchBlock) (v : Vec) : Nat :=
  sad codec b v + b.lambda * Config.vectorBits codec b.predictor v

/-- The vector of least cost, the first of those that tie; v0 stands before the list. -/
def leastCost (cost : Vec → Nat) (v0 : Vec) (l : List Vec) : Vec := l.foldl (fun best v => if cost v < cost best then v else best) v0

/-- Vectors put in the pattern's order, which the spec does not list. -/
def patternOrder (l : List Vec) : List Vec := l.insertionSort fun a b => Config.patternRank a ≤ Config.patternRank b

/-- The small diamond of a step about a vector. -/
def diamond (step : Int) (v : Vec) : List Vec :=
  (patternOrder [(0, -1), (-1, 0), (1, 0), (0, 1)]).map fun d => (v.1 + step * d.1, v.2 + step * d.2)

/-- Diamond steps of whole samples while one lowers the cost, at most so many. -/
def descend (cost : Vec → Nat) : Nat → Vec → Vec
  | 0, v => v
  | n + 1, v =>
    let u := leastCost cost v (diamond 4 v)
    if u = v then v else descend cost n u

/-- R498: the native search. λ, the estimate of a vector's bits, the samples between samples and the rounding of a candidate
to whole samples are Config's. -/
def nativeSearch (codec : Nat) (globalMv : Vec) (place : PicturePlace) (cands range : Nat) (b : SearchBlock) : Vec :=
  let cost := vectorCost codec b
  let whole := fun (v : Vec) => (4 * Config.wholeSample v.1, 4 * Config.wholeSample v.2)
  match (candidates globalMv place cands b).map fun v => descend cost range (whole v) with
  | [] => (0, 0)
  | v :: l =>
    let best := leastCost cost v l
    let half := leastCost cost best (diamond 2 best)
    leastCost cost half (diamond 1 half)

/-! ### The compatibility search (R500) -/

/-- A plane of half the size, by 2 × 2 averaging. -/
def Plane.halved (x : Plane) : Plane :=
  ⟨x.w / 2, x.h / 2, (List.range (x.h / 2)).flatMap fun r => (List.range (x.w / 2)).map fun c =>
    let px := fun (i j : Nat) => x.px.getD ((2 * r + i) * x.w + 2 * c + j) 0
    (px 0 0 + px 0 1 + px 1 0 + px 1 1 + Config.averageBias) / 4⟩

/-- A block at half the size. -/
def SearchBlock.halved (b : SearchBlock) : SearchBlock :=
  { b with x := b.x / 2, y := b.y / 2, w := b.w / 2, h := b.h / 2, pic := b.pic.halved, ref := b.ref.halved }

/-- The whole-sample vectors within n samples of a vector. -/
def square (n : Nat) (v : Vec) : List Vec :=
  (patternOrder ((List.range (2 * n + 1)).flatMap fun i => (List.range (2 * n + 1)).map fun j =>
    ((j : Int) - (n : Int), (i : Int) - (n : Int)))).map fun d => (v.1 + 4 * d.1, v.2 + 4 * d.2)

/-- R500: the hierarchical search: all of ± range / 4 at quarter size, then ± 2 at each finer level. -/
def pyramidSearch (codec range : Nat) (b : SearchBlock) : Vec :=
  let half := b.halved
  let quarter := half.halved
  let v := leastCost (vectorCost codec quarter) (0, 0) (square (range / 4) (0, 0))
  let u : Vec := (2 * v.1, 2 * v.2)
  let v := leastCost (vectorCost codec half) u (square 2 u)
  let u : Vec := (2 * v.1, 2 * v.2)
  leastCost (vectorCost codec b) u (square 2 u)

end Sys2Proof.Machine
end

