-- ==== Sys2Proof/Machine/Codec.lean ====
section
/-! DEFINITION. The video codec engines (21, R482 to R509): stream contexts, the job list and its classes, frame
buffers and their marks, and the preprocessor. What a standard's decoding process yields is Config's. -/

namespace Sys2Proof.Machine

open Sys2Proof

/-! ### The parameter block (R488, R501) -/

def pCodec (p : List Byte) : Nat := fieldAt p 0 1
def pEncodes (p : List Byte) : Bool := fieldAt p 1 1 == 1
def pClass (p : List Byte) : Nat := fieldAt p 4 1
def pDepth (p : List Byte) : Nat := fieldAt p 5 1
def pChroma (p : List Byte) : Nat := fieldAt p 6 1
def pWidth (p : List Byte) : Nat := fieldAt p 8 2
def pHeight (p : List Byte) : Nat := fieldAt p 0x0A 2
def pPool (p : List Byte) : Nat := fieldAt p 0x0C 2
def pPoolCount (p : List Byte) : Nat := fieldAt p 0x0E 2
def pSave (p : List Byte) : Nat := fieldAt p 0x10 8
def pPre (p : List Byte) : Bool := fieldAt p 0x40 1 == 1
def pOrient (p : List Byte) : Nat := fieldAt p 0x41 1
def pMatrix (p : List Byte) : Nat := fieldAt p 0x42 1
def pFull (p : List Byte) : Bool := bitOf (fieldAt p 0x43 1) 0
def pFormat (p : List Byte) : Nat := fieldAt p 0x44 1
def pFilter (p : List Byte) : Nat := fieldAt p 0x45 1
def pTable (p : List Byte) : Nat := fieldAt p 0x58 8

/-- Whether bytes and bits that R488 and R501 do not list are 0. -/
def paramsZero (p : List Byte) : Bool :=
  fieldAt p 7 1 / 4 == 0 && fieldAt p 0x28 24 == 0 && fieldAt p 0x46 2 == 0 && fieldAt p 0x54 4 == 0 && fieldAt p 0x60 32 == 0 &&
    pOrient p / 8 == 0 && fieldAt p 0x43 1 / 2 == 0

/-- R485: profile, level, depth, chroma and picture size of a decode. Profile and level codes are those of the
standards (PRESUMED). -/
def decodeOk (p : List Byte) : Bool :=
  let prof := fieldAt p 2 1
  let lev := fieldAt p 3 1
  let c := pChroma p
  let wide := decide (pWidth p ≤ 8192) && decide (pHeight p ≤ 4352)
  match pCodec p with
  | 0 => prof == 100 && decide (lev ≤ 52) && pDepth p == 8 && c != 3 && decide (pWidth p ≤ 4096) && decide (pHeight p ≤ 2304)
  | 1 => ((prof == 1 && pDepth p == 8) || prof == 2) && decide (lev ≤ 186) && c == 1 && wide
  | 2 => prof == 1 && decide (lev ≤ 99) && c != 3 && wide
  | _ => (prof == 1 || (prof == 0 && c != 3)) && decide (lev ≤ 19) && wide

/-- R485, R500: an encode. -/
def encodeOk (p : List Byte) : Bool :=
  let prof := fieldAt p 2 1
  let lev := fieldAt p 3 1
  let wide := decide (pWidth p ≤ 7680) && decide (pHeight p ≤ 4320)
  let rate := fieldAt p 0x18 1
  let gop := fieldAt p 0x1A 1
  let std := match pCodec p with
    | 1 => ((prof == 1 && pDepth p == 8) || prof == 2) && decide (lev ≤ 183) && pChroma p == 1 && decide (fieldAt p 0x19 1 ≤ 51)
    | 3 => prof == 0 && decide (lev ≤ 17) && pChroma p != 3
    | _ => false
  let compat := !bitOf (fieldAt p 7 1) 1 || (pCodec p == 1 && decide (rate ≤ 1) && decide (gop ≤ 1) && !pPre p)
  std && wide && compat && decide (rate ≤ 2) && decide (gop ≤ 2) && decide (1 ≤ fieldAt p 0x1B 1) &&
    decide (fieldAt p 0x1B 1 ≤ 16) && decide (1 ≤ fieldAt p 0x1C 2) && decide (4 ≤ fieldAt p 0x1E 2) && decide (fieldAt p 0x1E 2 ≤ 128)

/-- R501: an axis ratio between 1/8 and 8. -/
def ratioOk (crop out : Nat) : Bool := decide (0 < crop) && decide (crop ≤ 8 * out) && decide (out ≤ 8 * crop)

/-- R501. -/
def preOk (p : List Byte) : Bool :=
  !pPre p ||
    (ratioOk (fieldAt p 0x4C 2) (fieldAt p 0x50 2) && ratioOk (fieldAt p 0x4E 2) (fieldAt p 0x52 2) && decide (pMatrix p ≤ 3) &&
      decide (pFilter p ≤ 1) && decide (pFormat p ≤ (if pEncodes p then 1 else 3)) && (pFormat p == 0) == (pMatrix p == 0))

/-- R485, R486: whether a parameter block lies within what the engines support. -/
def supported (p : List Byte) : Bool :=
  decide (pCodec p ≤ 3) && decide (fieldAt p 1 1 ≤ 1) && decide (pClass p ≤ 3) && (pDepth p == 8 || pDepth p == 10) &&
    (pChroma p == 0 || pChroma p == 1 || pChroma p == 3) && decide (16 ≤ pWidth p) && decide (16 ≤ pHeight p) &&
    decide (fieldAt p 0x40 1 ≤ 1) && (if pEncodes p then encodeOk p else decodeOk p) && preOk p

/-- R496. -/
def frameBytes (p : List Byte) : Nat :=
  let up (n m : Nat) : Nat := (n + m - 1) / m * m
  let w2 := up (pWidth p) 128
  let h2 := up (pHeight p) 128
  let row := up (w2 * (if pDepth p = 8 then 1 else 2)) 128
  let planes := if pChroma p = 0 then row * h2 else if pChroma p = 1 then row * h2 * 3 / 2 else row * h2 * 3
  up (planes + 16 * (w2 / 16) * (h2 / 16)) 4096

/-- R483: whether bytes lie in the stacks of compute die d. -/
def inOwnStacks (d a n : Nat) : Bool := decide (3 * d * 0xC_0000_0000 ≤ a) && decide (a + n ≤ (3 * d + 3) * 0xC_0000_0000)

/-! ### Pictures and the preprocessor (R501 to R504) -/

/-- Size of a chroma plane beside a luma plane; the spec gives no rounding of odd sizes (DEDUCED: upward). -/
def chromaSize (chroma n : Nat) : Nat := if chroma = 1 then (n + 1) / 2 else n

/-- The planes of a picture of w × h from their samples. -/
def planesOf (chroma w h : Nat) (ps : List (List Nat)) : List Plane :=
  ps.zipIdx.map fun p => if p.2 = 0 then ⟨w, h, p.1⟩ else ⟨chromaSize chroma w, chromaSize chroma h, p.1⟩

/-- Crop. No rule says what a crop takes from outside the picture: Config.outsideSample. -/
def Plane.crop (x : Plane) (x0 y0 w h : Nat) : Plane :=
  ⟨w, h, (List.range h).flatMap fun r =>
    if y0 + r < x.h ∧ x0 + w ≤ x.w then ((x.row (y0 + r)).drop x0).take w
    else (List.range w).map fun c =>
      if y0 + r < x.h ∧ x0 + c < x.w then (x.row (y0 + r)).getD (x0 + c) 0 else Config.outsideSample (x0 + c) (y0 + r)⟩

/-- A filter coefficient (R502): of the user table at an address, or of the built-in set for a step. -/
def coefOf (user : Option (List Byte)) (step ph t : Nat) : Int :=
  match user with
  | some tab => signedOf 16 (fieldAt tab (16 * ph + 2 * t) 2)
  | none => Config.scaleCoef (if step ≤ 0x1_0000 then 0 else if step ≤ 0x2_0000 then 1 else if step ≤ 0x4_0000 then 2 else 3) ph t

/-- R502: one pass over one line of samples. -/
def scaleLine (user : Option (List Byte)) (maxS out : Nat) (s : List Nat) : List Nat :=
  let n := s.length
  let step := n * 2 ^ 16 / out
  (List.range out).map fun x =>
    let pos : Int := (step / 2 : Nat) - 2 ^ 15 + (x * step : Nat)
    let i : Int := pos / 2 ^ 16
    let ph := (pos / 2 ^ 10 % 64).toNat
    let at_ (t : Nat) : Nat := (max 0 (min (i - 3 + (t : Int)) ((n : Int) - 1)) : Int).toNat
    let acc : Int := ((List.range 8).map fun t =>
      coefOf user step ph t * ((s.getD (at_ t) 0 : Nat) : Int)).sum
    (max 0 (min ((acc + 64) / 2 ^ 7) (maxS : Int))).toNat

/-- Rows and columns exchanged. -/
def Plane.transpose (x : Plane) : Plane :=
  ⟨x.h, x.w, (List.range x.w).flatMap fun c => (List.range x.h).map fun r => x.px.getD (r * x.w + c) 0⟩

/-- Every row changed by f, to a width. -/
def Plane.mapRows (x : Plane) (w : Nat) (f : List Nat → List Nat) : Plane :=
  ⟨w, x.h, (List.range x.h).flatMap fun r => f (x.row r)⟩

/-- R502: horizontal first. -/
def Plane.scale (x : Plane) (user : Option (List Byte)) (maxS w h : Nat) : Plane :=
  let y := x.mapRows w (scaleLine user maxS w)
  (y.transpose.mapRows h (scaleLine user maxS h)).transpose

def Plane.mirror (x : Plane) : Plane := x.mapRows x.w List.reverse

/-- A quarter turn clockwise. -/
def Plane.turn (x : Plane) : Plane := x.transpose.mirror

def Plane.turns (x : Plane) : Nat → Plane
  | 0 => x
  | n + 1 => (x.turn).turns n

/-- Stages 1 to 4 of R501 on one plane; chroma says that the plane is subsampled, wide that it is scaled to the full
output size. -/
def Plane.stage (x : Plane) (p : List Byte) (user : Option (List Byte)) (sub wide : Bool) : Plane :=
  let half (b : Bool) (n : Nat) : Nat := if b then (n + 1) / 2 else n
  let down (b : Bool) (n : Nat) : Nat := if b then n / 2 else n
  let y := x.crop (down sub (fieldAt p 0x48 2)) (down sub (fieldAt p 0x4A 2)) (half sub (fieldAt p 0x4C 2)) (half sub (fieldAt p 0x4E 2))
  let y := y.scale user (2 ^ pDepth p - 1) (half (sub && !wide) (fieldAt p 0x50 2)) (half (sub && !wide) (fieldAt p 0x52 2))
  let y := if bitOf (pOrient p) 2 then y.mirror else y
  y.turns (pOrient p % 4)

/-- A quotient of integers as FP32, rounded once. -/
def ratio32 (neg : Bool) (a b : Nat) : W32 := (divNum (.fin neg a 0) (.fin false b 0)).val

/-- (kr, kb, n): the constants of R503 are kr / n and kb / n. -/
def matrixOf (m : Nat) : Nat × Nat × Nat := if m = 1 then (299, 114, 1000) else if m = 2 then (2126, 722, 10000) else (2627, 593, 10000)

/-- R503: one sample of Y, Cb and Cr as R, G and B. -/
def yuvToRgb (p : List Byte) (y cb cr : Nat) : List W32 :=
  let k := 2 ^ (pDepth p - 8)
  let full := 2 ^ pDepth p - 1
  let oy := if pFull p then 0 else 16 * k
  let sy := if pFull p then ratio32 false 1 full else ratio32 false 1 (219 * k)
  let oc := if pFull p then 2 ^ (pDepth p - 1) else 128 * k
  let sc := if pFull p then ratio32 false 1 full else ratio32 false 1 (224 * k)
  let (a, b, n) := matrixOf (pMatrix p)
  let g := n - a - b
  let f (v o : Nat) (sc : W32) : W32 := (fMul (fSub (intToFp v) (intToFp o)).val sc).val
  let yy := f y oy sy
  let u := f cb oc sc
  let v := f cr oc sc
  let rr := (fFma v (ratio32 false (2 * (n - a)) n) yy).val
  let gg := (fFma v (ratio32 true (2 * a * (n - a)) (n * g)) (fFma u (ratio32 true (2 * b * (n - b)) (n * g)) yy).val).val
  let bb := (fFma u (ratio32 false (2 * (n - b)) n) yy).val
  [rr, gg, bb].map fun x => fMin (fMax x 0) 0x3F80_0000#32

/-- A result of R503 in an output format: its bytes. -/
def rgbBytes (format : Nat) (x : W32) : List Byte :=
  let dst := if format = 1 then fmFp16 else if format = 2 then fmBf16 else fmE4m3
  leBytes (if format = 3 then 1 else 2) (narrow dst 0 false 0 (num32 x) x.toNat).code

/-- A sample of a planar picture (R504). -/
def sampleBytes (depth v : Nat) : List Byte := leBytes (if depth = 8 then 1 else 2) v

/-- An output plane as rows of bytes. -/
def planeRows (w : Nat) (bs : List (List Byte)) (h : Nat) : List (List Byte) :=
  (List.range h).map fun r => ((bs.drop (r * w)).take w).flatten

/-- Stages 1 to 6 of R501 on a decoded picture: its planes, as rows of bytes. -/
def outputPlanes (p : List Byte) (user : Option (List Byte)) (pic : List (List Nat)) : List (List (List Byte)) :=
  let ps := planesOf (pChroma p) (pWidth p) (pHeight p) pic
  let yuv (x : Plane) : List (List Byte) := planeRows x.w (x.px.map (sampleBytes (pDepth p))) x.h
  if !pPre p then ps.map yuv
  else
    let rgb := pFormat p != 0
    let qs := ps.zipIdx.map fun q => q.1.stage p user (q.2 != 0 && pChroma p == 1) rgb
    if !rgb then qs.map yuv
    else
      let y := qs.getD 0 ⟨0, 0, []⟩
      let neutral := if pFull p then 2 ^ (pDepth p - 1) else 128 * 2 ^ (pDepth p - 8)
      let c (k i : Nat) : Nat := (qs[k]?).elim neutral fun x => x.px.getD i 0
      let px := y.px.zipIdx.map fun q => yuvToRgb p q.1 (c 1 q.2) (c 2 q.2)
      (List.range 3).map fun k => planeRows y.w (px.map fun v => rgbBytes (pFormat p) (v.getD k 0)) y.h

/-- A picture written at an address (R504): each row, and zeros to its pitch; its lines are evicted (R483). -/
def picturePuts (a rowPitch planePitch : Nat) (planes : List (List (List Byte))) : List (EdgeKind × Nat × List Byte) :=
  planes.zipIdx.flatMap fun p => p.1.zipIdx.map fun r =>
    (.out, a + p.2 * planePitch + r.2 * rowPitch, r.1 ++ List.replicate (rowPitch - r.1.length) 0)

/-- A stage of the encoder's input: source planes become the coded picture's planes. -/
def inputPlanes (p : List Byte) (user : Option (List Byte)) (w h : Nat) (src : List (List Nat)) : List (List Nat) :=
  if !pPre p then src
  else
    let rgb := pFormat p == 1
    let ps := planesOf (if rgb then 0 else pChroma p) w h src
    let qs := (ps.zipIdx.map fun q => q.1.stage p user (!rgb && q.2 != 0 && pChroma p == 1) false).map Plane.px
    if rgb then Config.rgbToYuv p qs else qs

/-! ### Jobs -/

/-- Status codes of R490. -/
def vsNoContext : Nat := 0x20
def vsUnsupported : Nat := 0x21
def vsBitstream : Nat := 0x22
def vsSkipped : Nat := 0x23
def vsNoFrame : Nat := 0x24
def vsOutputFull : Nat := 0x25
def vsReadError : Nat := 0x26
def vsClosed : Nat := 0x27

/-- Stream states of R509. -/
def scClosed : Nat := 0
def scOpen : Nat := 1
def scError : Nat := 2
def scClosing : Nat := 3

def Codec.stream (x : Codec) (n : Nat) : Stream := tget {} x.streams n
def Codec.buf (x : Codec) (f : Nat) : FrameBuf := tget {} x.bufs f
def Codec.running? (x : Codec) (pipe : Nat) : Option Nat := tget none x.running pipe

/-- Pipe of a job: 0 decode, 1 encode; a close runs in neither. -/
def CodecJob.pipe (j : CodecJob) : Nat := if j.kind = 1 then 1 else if j.kind = 3 then 2 else 0

/-- R494: whether a stream has no earlier unfinished job. -/
def Codec.eligible (x : Codec) (j : CodecJob) : Bool := x.jobs.all fun k => k.stream != j.stream || decide (j.order ≤ k.order)

/-- Class of a job's stream. -/
def Codec.classOf (x : Codec) (j : CodecJob) : Nat := pClass (x.stream j.stream).params

/-- R494: the job of the lowest class, and of these the earliest accepted. -/
def Codec.pick (x : Codec) (pipe : Nat) : Option CodecJob :=
  (x.jobs.filter fun j => j.pipe == pipe && x.eligible j).foldl (fun best j => match best with
    | none => some j
    | some b => if x.classOf j < x.classOf b ∨ (x.classOf j = x.classOf b ∧ j.order < b.order) then some j else best) none

/-- Frame buffers of a stream's range. -/
def pool (p : List Byte) : List Nat := (List.range (pPoolCount p)).map (pPool p + ·)

/-- R497: the buffers of a stream that are free, lowest first. -/
def Codec.freeBufs (x : Codec) (p : List Byte) : List Nat := (pool p).filter fun f => (x.buf f).mark == 0

/-- Width, height and address of each plane of an encode job's source (R489), and the bytes of a sample. -/
def sourcePlanes (p desc : List Byte) : List (Nat × Nat × Nat) × Nat :=
  let w := fieldAt desc 0x0C 2
  let h := fieldAt desc 0x0E 2
  let rgb := pPre p && pFormat p == 1
  let dims (k : Nat) : Nat × Nat := if rgb || k == 0 then (w, h) else (chromaSize (pChroma p) w, chromaSize (pChroma p) h)
  ((List.range (if rgb || pChroma p != 0 then 3 else 1)).map fun k => ((dims k).1, (dims k).2, fieldAt desc 0 8 + k * fieldAt desc 0x10 8),
    if rgb ∨ pDepth p = 8 then 1 else 2)

/-- The bytes of an encode job's source, row by row, as load gives them. -/
def encodeInput (p desc : List Byte) (load : Nat → Nat → List Byte) : List Byte :=
  let ps := sourcePlanes p desc
  ps.1.flatMap fun q => (List.range q.2.1).flatMap fun r => load (q.2.2 + r * fieldAt desc 8 4) (q.1 * ps.2)

/-- The samples of planes of w × h, of n bytes each, that stand one after another. -/
def splitPlanes (n : Nat) : List (Nat × Nat × Nat) → List Byte → List (List Nat)
  | [], _ => []
  | q :: qs, bs => ((List.range (q.1 * q.2.1)).map fun i => fieldAt bs (i * n) n) :: splitPlanes n qs (bs.drop (q.1 * q.2.1 * n))

/-- The accesses of a job are those of its engine, in the order of its acceptance. -/
def CodecJob.user (d : Nat) (j : CodecJob) : EdgeUser := .codec d j.order

/-- What a job finds when its input has come: its input, the frame buffers it takes, or the status with which it ends
(R492, R493). -/
def prepareJob (d : Nat) (x : Codec) (j : CodecJob) (s : State) : CodecJob :=
  let st := x.stream j.stream
  let p := st.params
  let load := s.edgeBytes (j.user d)
  let j := { j with
    ready := true
    input := if j.kind = 1 then encodeInput p j.desc load else load (fieldAt j.desc 0 8) (fieldAt j.desc 8 4)
    table := if pFilter p = 1 then load (pTable p) 1024 else [] }
  let frames := if j.kind = 1 then 1 else (Config.codecDecode p j.desc j.input st.history).2.1
  let free := x.freeBufs p
  if j.kind = 2 then j
  else if s.edgeBad (j.user d) then { j with early := some vsReadError }
  else if j.kind = 0 ∧ st.state = scError ∧ Config.codecRandomAccess (pCodec p) j.input = false then { j with early := some vsSkipped }
  else if free.length < frames then { j with early := some vsNoFrame }
  else { j with bufs := free.take frames }

/-- The marks of buffers changed by f. -/
def Codec.markBufs (x : Codec) (fs : List Nat) (f : Nat → Nat) : Codec :=
  { x with bufs := fs.foldl (fun t n => tmod {} t n fun b => { b with mark := f b.mark }) x.bufs }

/-- Byte ranges that a job reads as its pipe takes it: its save area if it was suspended, and its input and the
preprocessor's table if they have not come. -/
def jobReads (p : List Byte) (j : CodecJob) : List (Nat × Nat) :=
  let planes := sourcePlanes p j.desc
  (if j.suspended then [(pSave p, 0x4_0000)] else []) ++
  (if j.ready then []
   else (if j.kind = 1 then planes.1.flatMap fun q => (List.range q.2.1).map fun r => (q.2.2 + r * fieldAt j.desc 8 4, q.1 * planes.2)
         else [(fieldAt j.desc 0 8, fieldAt j.desc 8 4)]) ++
        (if pPre p && pFilter p == 1 then [(pTable p, 1024)] else []))

/-- A pipe that is free takes its next job (R494), whose reads are asked for. -/
def takeJob (d pipe : Nat) (s : State) : State :=
  let x := s.codec d
  if (x.running? pipe).isSome then s
  else match x.pick pipe with
    | none => s
    | some j =>
      let k := { j with started := true, suspended := false }
      askEdgeReads d (j.user d) (jobReads (x.stream j.stream).params j) (s.modCodec d fun x =>
        { x with running := tset x.running pipe (some j.order)
                 jobs := x.jobs.map fun o => if o.order = j.order then k else o })

/-- A stream's context closes (R491): its marks but hold are cleared. -/
def closeStream (d n : Nat) (s : State) : State :=
  let p := ((s.codec d).stream n).params
  s.modCodec d fun x =>
    let y := x.markBufs (pool p) fun m => if bitOf m 3 then 8 else 0
    { y with
      streams := tset y.streams n {}
      bufs := (pool p).foldl (fun t f => tmod {} t f fun b => { b with owned := false, stream := 0 }) y.bufs }

/-- A close whose stream's jobs have all ended completes (R491). -/
def settleClose (d n : Nat) (s : State) : State :=
  match (s.codec d).jobs.find? fun j => j.stream == n with
  | some j =>
    if j.kind = 3 then
      completeQ j.queue j.number 0 0 ((closeStream d n s).modCodec d fun x => { x with jobs := x.jobs.erase j })
    else s
  | none => s

/-- Frames held after a job, and the marks that they give their buffers (R496, R497). -/
def settleMarks (d n : Nat) (newBufs : List Nat) (s : State) : State :=
  let st := (s.codec d).stream n
  let held := Config.codecHeld st.params st.history
  let all := st.frames ++ newBufs.zipIdx.map fun q => (st.nextFrame + q.2, q.1)
  let kept := all.filter fun q => held.any fun e => e.1 == q.1
  let bits (f : Nat) : Nat := match kept.find? fun q => q.2 == f with
    | some q => ((held.find? fun e => e.1 == q.1).map fun e => e.2 % 8).getD 0
    | none => 0
  s.modCodec d fun x =>
    { x with
      streams := tmod {} x.streams n fun st => { st with frames := kept, nextFrame := st.nextFrame + newBufs.length }
      bufs := (pool st.params).foldl (fun t f => tmod {} t f fun b => { b with mark := (if bitOf b.mark 3 then 8 else 0) + bits f }) x.bufs }

/-- What frame buffers hold after a picture was written to each in the engine's own layout (R496): free bytes, of the draws
from k on. -/
def framePuts (x : Codec) (n k : Nat) (fs : List Nat) : List (EdgeKind × Nat × List Byte) :=
  fs.zipIdx.map fun f => (.write, (x.buf f.1).base, freeBytes (k + f.2) (x.stream n).fbBytes)

/-- A job's outputs go to its edge cache: its frame buffers, and its destination or bitstream. -/
def putOutputs (d : Nat) (j : CodecJob) (out : List (EdgeKind × Nat × List Byte)) (s : State) : State :=
  askEdgePuts d (j.user d) (framePuts (s.codec d) j.stream s.fresh j.bufs ++ out)
    { s.edgeDrop (j.user d) with fresh := s.fresh + j.bufs.length }

/-- An entry of a stream's history. -/
def historyEntry (st : Nat) (j : CodecJob) : List Byte := [BitVec.ofNat 8 st] ++ j.desc ++ j.input

/-- The stream takes a job into its history. -/
def recordJob (d : Nat) (st : Nat) (state : Nat) (j : CodecJob) (s : State) : State :=
  s.modCodec d fun x => { x with streams := tmod {} x.streams j.stream fun y =>
    { y with history := y.history ++ [historyEntry st j], state := if y.state = scClosing then scClosing else state } }

/-- The user table of a stream's preprocessor, as its job read it. -/
def userTable (p : List Byte) (j : CodecJob) : Option (List Byte) := if pFilter p = 1 then some j.table else none

/-- A decode or drain job ends (R487, R489, R493): status and pictures written. -/
def finishDecode (d : Nat) (j : CodecJob) (s : State) : (Nat × Nat) × State :=
  let st := (s.codec d).stream j.stream
  let p := st.params
  let out := Config.codecDecode p j.desc j.input st.history
  if out.2.2 ≠ 0 then ((out.2.2, 0), settleMarks d j.stream [] (recordJob d out.2.2 scError j s))
  else
    let pics := st.waiting ++ out.1
    let slots := fieldAt j.desc 0x0C 4 % 256
    let puts := (pics.take slots).zipIdx.flatMap fun q =>
      picturePuts (fieldAt j.desc 0x10 8 + q.2 * fieldAt j.desc 0x28 8) (fieldAt j.desc 0x18 4) (fieldAt j.desc 0x20 8)
        (outputPlanes p (userTable p j) q.1)
    let s := putOutputs d j puts (recordJob d 0 scOpen j s)
    let s := s.modCodec d fun x => { x with streams := tmod {} x.streams j.stream fun y => { y with waiting := pics.drop slots } }
    ((0, min slots pics.length), settleMarks d j.stream j.bufs s)

/-- The place of a stream's next picture among its key and inter pictures, by its earlier jobs (R488, R489, R499): pictures
since the last key picture, and whether an inter picture has been coded. A picture is a key picture where it is the first,
where keyint have passed since the last, or where its job forces it. -/
def picturePlace (p : List Byte) (history : List (List Byte)) : PicturePlace :=
  let after := fun (w : Option Nat × Bool) (e : List Byte) =>
    let key := bitOf (fieldAt (e.drop 1) 0x20 8) 32 || w.1.all fun n => decide (fieldAt p 0x1C 2 ≤ n)
    if fieldAt e 0 1 ≠ 0 then w else if key then (some 1, w.2) else (w.1.map (· + 1), true)
  let w := history.foldl after (none, false)
  ⟨!w.2, w.1 == some 1⟩

/-- The motion search of a job (R498 to R500). -/
def motionSearch (p desc : List Byte) (history : List (List Byte)) (b : SearchBlock) : Vec :=
  let range := fieldAt p 0x1E 2
  if bitOf (fieldAt p 7 1) 1 then pyramidSearch (pCodec p) range b
  else nativeSearch (pCodec p) (signedOf 16 (fieldAt desc 0x28 2), signedOf 16 (fieldAt desc 0x2A 2)) (picturePlace p history)
    (fieldAt p 0x1B 1) range b

/-- An encode job ends (R489, R492). -/
def finishEncode (d : Nat) (j : CodecJob) (s : State) : (Nat × Nat) × State :=
  let st := (s.codec d).stream j.stream
  let p := st.params
  let planes := inputPlanes p (userTable p j) (fieldAt j.desc 0x0C 2) (fieldAt j.desc 0x0E 2)
    (splitPlanes (sourcePlanes p j.desc).2 (sourcePlanes p j.desc).1 j.input)
  let out := Config.codecEncode p j.desc planes st.history (motionSearch p j.desc st.history)
  if fieldAt j.desc 0x20 4 < out.length then ((vsOutputFull, 0), settleMarks d j.stream [] s)
  else
    ((0, out.length), settleMarks d j.stream j.bufs
      (putOutputs d j [(.out, fieldAt j.desc 0x18 8, out)] (recordJob d 0 st.state j s)))

/-- A job that has its input and its buffers runs: status and detail. A poisoned line of its save area is a read error too. -/
def finishJob (d : Nat) (j : CodecJob) (s : State) : (Nat × Nat) × State :=
  let bad := j.kind != 2 && s.edgeBad (j.user d)
  match j.early.or (if bad then some vsReadError else none) with
  | some st => ((st, 0), if st = vsReadError then settleMarks d j.stream [] (recordJob d st scError j s) else s)
  | none => if j.kind = 1 then finishEncode d j s else finishDecode d j s

/-- The running job of a pipe. -/
def pipeJob (s : State) (d pipe : Nat) : Option CodecJob :=
  ((s.codec d).running? pipe).bind fun o => (s.codec d).jobs.find? fun j => j.order == o

/-- A job of an engine's list changed. -/
def setJob (d : Nat) (j : CodecJob) (s : State) : State :=
  s.modCodec d fun x => { x with jobs := x.jobs.map fun k => if k.order = j.order then j else k }

/-- CODEC_JOB_FINISH (R483, R490 to R494): the accesses of the pipe's job take their turns; a job whose input has come takes
its buffers, then runs and gives its outputs to its edge cache; one whose outputs have been made and evicted completes, and
the pipe takes its next job. -/
def execCodecJobFinish (d : ChipId) (pipe : Fin 2) (s : State) : Host.Outcome State Fault Refusal :=
  eventOf s (pipeJob s d pipe) fun j s =>
    if s.edgeOpen (j.user d) then edgeTurn (8 + d) s
    else match j.result with
      | some r =>
        let s := ((s.edgeDrop (j.user d)).edgeDrop (.save d j.order)).modCodec d fun x =>
          { x with jobs := x.jobs.filter (fun k => k.order != j.order), running := tset x.running pipe none }
        takeJob d pipe (settleClose d j.stream (completeQ j.queue j.number r.1 r.2 s))
      | none =>
        if !j.ready then
          let k := prepareJob d (s.codec d) j s
          (setJob d k s).modCodec d fun x => x.markBufs k.bufs fun m => m + 16
        else
          let r := finishJob d j s
          setJob d { j with result := some r.1 } r.2

/-- CODEC_SUSPEND (R495): the state of the running job goes to its save area, in a form that the spec does not give. -/
def execCodecSuspend (d : ChipId) (pipe : Fin 2) (s : State) : Host.Outcome State Fault Refusal :=
  let x := s.codec d
  let live := x.jobs.any fun j => j.pipe == pipe && x.eligible j && x.classOf j == 0
  eventOf s ((x.running? pipe).bind fun o =>
      x.jobs.find? fun j => j.order == o && j.result.isNone && x.classOf j != 0 && live) fun j s =>
    let s := askEdgePuts d (.save d j.order) [(.write, pSave (x.stream j.stream).params, freeBytes s.fresh 0x4_0000)]
      ((s.edgeDrop (j.user d)).edgeDrop (.save d j.order)).draw
    takeJob d pipe (s.modCodec d fun x => { x with
      running := tset x.running pipe none
      suspensions := satAdd 16 x.suspensions 1
      jobs := x.jobs.map fun k => if k.order = j.order then { k with suspended := true } else k })

/-! ### Commands (R487, R488, R491) -/

/-- Die and stream that arg0 names, and whether the arguments are well formed. -/
def vcdDie (c : Slot) : Nat := c.arg0 % 4
def vcdStream (c : Slot) : Nat := bitsOf c.arg0 16 9
def vcdArgsOk (c : Slot) (len : Nat) : Bool :=
  c.headerOk len len && c.arg1 == 0 && c.arg0 == vcdDie c + vcdStream c * 2 ^ 16

/-- The fetched codec command, while its engine's job list has room (R491). -/
def vcdStartable (s : State) (q op : Nat) : Option Slot :=
  (startable s q (· == op)).filter fun c => decide ((s.codec (vcdDie c)).jobs.length < 1024)

/-- Status of an open (R483, R486, R488, R496). -/
def openStatus (s : State) (c : Slot) : Nat :=
  let d := vcdDie c
  let x := s.codec d
  let p := c.payload
  let last := pPool p + pPoolCount p
  if !vcdArgsOk c 128 || !paramsZero p then stEncoding
  else if (x.stream (vcdStream c)).state ≠ scClosed then vsNoContext
  else if !supported p then vsUnsupported
  else if pPoolCount p < 2 ∨ 4096 < last ∨ (pool p).any (fun f => (x.buf f).owned) = true then stRange
  else if pSave p % 4096 ≠ 0 ∨ inOwnStacks d (pSave p) 0x4_0000 = false ∨
      (pool p).any (fun f => !inOwnStacks d (x.buf f).base (frameBytes p)) = true ∨
      (pPre p = true ∧ pFilter p = 1 ∧ inTier (pTable p) 1024 = false) then stAddress
  else stOk

/-- VCD_OPEN (R485 to R488, R496, R509). -/
def execVcdOpen (q : QueueId) (s : State) : Host.Outcome State Fault Refusal :=
  eventOf s (vcdStartable s q 0x18) fun c s =>
    let n := vcdStream c
    let p := c.payload
    oneShot q c (openStatus s c) 0 (fun s => s.modCodec (vcdDie c) fun x => { x with
      streams := tset x.streams n { state := scOpen, params := p, fbBytes := frameBytes p }
      bufs := (pool p).foldl (fun t f => tmod {} t f fun b => { b with owned := true, stream := n }) x.bufs }) s

/-- Status of a decode, drain or encode at its acceptance (R415, R483, R489). -/
def jobStatus (s : State) (c : Slot) (kind : Nat) : Nat :=
  let st := (s.codec (vcdDie c)).stream (vcdStream c)
  let p := st.params
  let e := c.payload
  let f := fieldAt e
  let planes := if pChroma p = 0 ∧ (pPre p && pFormat p != 0) = false then 1 else 3
  let open_ := (st.state == scOpen || st.state == scError) && pEncodes p == (kind == 1)
  if !vcdArgsOk c 64 || f 0x30 16 != 0 then stEncoding
  else if kind = 1 then
    (if f 8 4 % 128 != 0 || f 0x10 8 % 128 != 0 || f 0x20 8 / 2 ^ 33 != 0 || f 0x2C 4 != 0 then stEncoding
     else if f 0 8 % 128 != 0 || f 0x18 8 % 128 != 0 || !inTier (f 0 8) ((planes - 1) * f 0x10 8 + f 0x0E 2 * f 8 4) ||
         !inTier (f 0x18 8) (f 0x20 4) then stAddress
     else if open_ then stOk else vsNoContext)
  else
    let slots := f 0x0C 4 % 256
    (if f 0x0C 4 / 2 ^ 9 != 0 || slots == 0 || decide (16 < slots) || f 0x1C 4 != 0 || f 0x18 4 % 128 != 0 ||
         f 0x20 8 % 128 != 0 || f 0x28 8 % 128 != 0 || (kind == 2 && f 8 4 != 0) then stEncoding
     else if f 0 8 % 128 != 0 || f 0x10 8 % 128 != 0 || !inTier (f 0 8) (f 8 4) ||
         !inTier (f 0x10 8) ((slots - 1) * f 0x28 8 + planes * f 0x20 8) then stAddress
     else if open_ then stOk else vsNoContext)

/-- A job is accepted into the list of its engine, and an idle pipe takes it (R491). -/
def acceptJob (q kind : Nat) (c : Slot) (s : State) : State :=
  let st := jobStatus s c kind
  if st ≠ stOk then oneShot q c st 0 (fun s => s) s
  else
    let r := startCmd q c s
    let d := vcdDie c
    let s := r.2.modCodec d fun x =>
      let j : CodecJob := { stream := vcdStream c, kind := kind, desc := c.payload, queue := q, number := r.1, order := x.order }
      { x with order := x.order + 1, jobs := x.jobs ++ [j] }
    takeJob d (if kind = 1 then 1 else 0) s

/-- VCD_DECODE (R487, R489, R491). -/
def execVcdDecode (q : QueueId) (s : State) : Host.Outcome State Fault Refusal :=
  eventOf s (vcdStartable s q 0x19) fun c s => acceptJob q 0 c s

/-- VCD_ENCODE (R487, R489, R491). -/
def execVcdEncode (q : QueueId) (s : State) : Host.Outcome State Fault Refusal :=
  eventOf s (vcdStartable s q 0x1A) fun c s => acceptJob q 1 c s

/-- VCD_DRAIN (R487, R489). -/
def execVcdDrain (q : QueueId) (s : State) : Host.Outcome State Fault Refusal :=
  eventOf s (vcdStartable s q 0x1C) fun c s => acceptJob q 2 c s

/-- VCD_CLOSE (R491): the stream's running job finishes, and its other jobs, a suspended one too, complete with
CLOSED. -/
def execVcdClose (q : QueueId) (s : State) : Host.Outcome State Fault Refusal :=
  eventOf s (vcdStartable s q 0x1B) fun c s =>
    let d := vcdDie c
    let n := vcdStream c
    let st := ((s.codec d).stream n).state
    if !vcdArgsOk c 0 then oneShot q c stEncoding 0 (fun s => s) s
    else if st ≠ scOpen ∧ st ≠ scError then oneShot q c vsNoContext 0 (fun s => s) s
    else
      let r := startCmd q c s
      let goes (j : CodecJob) : Bool := j.stream == n && (r.2.codec d).running? j.pipe != some j.order
      let gone := (r.2.codec d).jobs.filter goes
      let s := r.2.modCodec d fun x =>
        let j : CodecJob := { stream := n, kind := 3, desc := [], queue := q, number := r.1, order := x.order }
        { x with
          order := x.order + 1
          jobs := x.jobs.filter (fun j => !goes j) ++ [j]
          streams := tmod {} x.streams n fun y => { y with state := scClosing } }
      settleClose d n (gone.foldl (fun s j => completeQ j.queue j.number vsClosed 0 (s.edgeDrop (.save d j.order))) s)

/-- VCD_FB_BASE_WRITE (R508): ignored for a buffer of an open stream's range. -/
def writeFbBase (d f : Nat) (v : Word) (s : State) : State :=
  if ((s.codec d).buf f).owned then s.modCodec d fun x => { x with reject := true }
  else s.modCodec d fun x => { x with bufs := tmod {} x.bufs f fun b => { b with base := bitsOf v.toNat 12 36 * 4096 } }

/-- VCD_FB_BASE_WRITE (R508). -/
def execVcdFbBaseWrite (d : ChipId) (f : Fin 4096) (v : Word) (s : State) : Host.Outcome State Fault Refusal :=
  event s true (writeFbBase d f v)

end Sys2Proof.Machine
end

