-- ==== Sys2Proof/Machine/Inflate.lean ====
section
/-! DEFINITION. The DEFLATE decoder of R471: raw streams under RFC 1951, and gzip members under RFC 1952 (PRESUMED, log 15).
A decoder works on the bits of its input, least significant first, and keeps its output latest byte first. -/

namespace Sys2Proof.Machine

open Sys2Proof

/-- Codes of R470 with which a decoder stops. -/
def dcBadStream : Nat := 0x11
def dcUnsupported : Nat := 0x14

/-- The bits of bytes, least significant first. -/
def bitsLow (bs : List Byte) : List Bool := bs.flatMap fun b => (List.range 8).map b.toNat.testBit

/-- The number whose first bit is the least significant, and the one whose first bit is the most. -/
def lowFirst (bs : List Bool) : Nat := bs.foldr (fun b n => bit b + 2 * n) 0
def highFirst (bs : List Bool) : Nat := bs.foldl (fun n b => 2 * n + bit b) 0

/-- n bits from the front, and the rest. -/
def takeBits (n : Nat) (bs : List Bool) : Option (List Bool × List Bool) :=
  let x := bs.take n
  if x.length = n then some (x, bs.drop n) else none

/-- A number of n bits, least significant first. -/
def takeLow (n : Nat) (bs : List Bool) : Option (Nat × List Bool) := (takeBits n bs).map fun p => (lowFirst p.1, p.2)

/-- Whole bytes of bits, at most n. -/
def bytesOfBits : Nat → List Bool → List Byte
  | 0, _ => []
  | n + 1, bs => match takeLow 8 bs with
    | some (v, rest) => BitVec.ofNat 8 v :: bytesOfBits n rest
    | none => []

/-- n bytes repeated from a distance back. -/
def copyBack (dist : Nat) : Nat → List Byte → List Byte
  | 0, out => out
  | n + 1, out => copyBack dist n (out.getD (dist - 1) 0 :: out)

/-! ### Prefix codes (RFC 1951, 3.2.2) -/

/-- A prefix code: how many codes there are of each length from 1, and the symbols in the order of their codes. -/
structure PrefixCode where
  counts : List Nat
  symbols : List Nat
deriving DecidableEq, Repr

/-- What is left of the code space, in units of the longest length; less than nothing where the lengths do not fit. -/
def codeSpace (counts : List Nat) : Int := counts.foldl (fun l n => 2 * l - (n : Int)) 1

/-- The code of lengths, by symbol. A code that leaves space is none, but for one with at most one symbol, of one bit, where
that may be. -/
def PrefixCode.ofLengths (single : Bool) (ls : List Nat) : Option PrefixCode :=
  let counts := (List.range 15).map fun k => ls.countP fun l => l == k + 1
  let left := codeSpace counts
  let used := ls.countP fun l => l != 0
  if left = 0 ∨ (single = true ∧ 0 < left ∧ (used = 0 ∨ (used = 1 ∧ counts.getD 0 0 = 1))) then
    some { counts := counts
           symbols := (List.range 15).flatMap fun k => (ls.zipIdx.filter fun p => p.1 == k + 1).map Prod.snd }
  else none

/-- The symbol at the front of bits, code lengths in turn: the code so far, the first code of the length, and the symbols
before it. -/
def prefixSymbol (symbols : List Nat) : List Nat → Nat → Nat → Nat → List Bool → Option (Nat × List Bool)
  | n :: ns, code, first, index, b :: bs =>
    let code := 2 * code + bit b
    let first := 2 * first
    if code < first + n then (symbols[index + (code - first)]?).map fun x => (x, bs)
    else prefixSymbol symbols ns code (first + n) (index + n) bs
  | _, _, _, _, _ => none

def PrefixCode.symbol (c : PrefixCode) (bs : List Bool) : Option (Nat × List Bool) := prefixSymbol c.symbols c.counts 0 0 0 bs

/-! ### Blocks (RFC 1951, 3.2.3 to 3.2.7) -/

/-- Base and extra bits of a length symbol, from 257, and of a distance symbol. -/
def lengthBase (sym : Nat) : Nat × Nat :=
  let k := sym - 257
  if k < 8 then (k + 3, 0) else if k = 28 then (258, 0) else ((k % 4 + 4) * 2 ^ ((k - 4) / 4) + 3, (k - 4) / 4)
def distBase (d : Nat) : Nat × Nat := if d < 4 then (d + 1, 0) else ((d % 2 + 2) * 2 ^ ((d - 2) / 2) + 1, (d - 2) / 2)

/-- The length and distance that follow a length symbol. -/
def matchAt (dist : PrefixCode) (sym : Nat) (bs : List Bool) : Option ((Nat × Nat) × List Bool) :=
  if 285 < sym then none
  else do
    let (x, bs) ← takeLow (lengthBase sym).2 bs
    let (d, bs) ← dist.symbol bs
    if 29 < d then none
    else
      let (y, bs) ← takeLow (distBase d).2 bs
      some (((lengthBase sym).1 + x, (distBase d).1 + y), bs)

/-- The symbols of a block: the output, and the bits after the block's end where it has come. -/
def inflateCodes (lit dist : PrefixCode) : Nat → List Bool → List Byte → List Byte × Option (List Bool)
  | 0, _, out => (out, none)
  | fuel + 1, bs, out => match lit.symbol bs with
    | none => (out, none)
    | some (s, bs) =>
      if s < 256 then inflateCodes lit dist fuel bs (BitVec.ofNat 8 s :: out)
      else if s = 256 then (out, some bs)
      else match matchAt dist s bs with
        | none => (out, none)
        | some ((n, d), bs) => if out.length < d then (out, none) else inflateCodes lit dist fuel bs (copyBack d n out)

/-- The fixed codes. -/
def fixedLengths : List Nat := List.replicate 144 8 ++ List.replicate 112 9 ++ List.replicate 24 7 ++ List.replicate 8 8
def fixedDistances : List Nat := List.replicate 32 5

/-- Order of the lengths of the code for code lengths. -/
def codeOrder : List Nat := [16, 17, 18, 0, 8, 7, 9, 6, 10, 5, 11, 4, 12, 3, 13, 2, 14, 1, 15]

/-- n numbers of three bits. -/
def takeThrees : Nat → List Bool → Option (List Nat × List Bool)
  | 0, bs => some ([], bs)
  | n + 1, bs => do
    let (v, bs) ← takeLow 3 bs
    let (vs, bs) ← takeThrees n bs
    some (v :: vs, bs)

/-- Code lengths, the latest first, until n are known. -/
def takeLengths (code : PrefixCode) (n : Nat) : Nat → List Nat → List Bool → Option (List Nat × List Bool)
  | 0, _, _ => none
  | fuel + 1, ls, bs =>
    if ls.length = n then some (ls.reverse, bs)
    else if n < ls.length then none
    else match code.symbol bs with
      | none => none
      | some (s, bs) =>
        if s < 16 then takeLengths code n fuel (s :: ls) bs
        else if s = 16 then match ls, takeLow 2 bs with
          | l :: _, some (k, bs) => takeLengths code n fuel (List.replicate (k + 3) l ++ ls) bs
          | _, _ => none
        else match takeLow (if s = 17 then 3 else 7) bs with
          | some (k, bs) => takeLengths code n fuel (List.replicate (k + (if s = 17 then 3 else 11)) 0 ++ ls) bs
          | none => none

/-- The codes that a dynamic block gives. -/
def dynamicCodes (bs : List Bool) : Option ((PrefixCode × PrefixCode) × List Bool) := do
  let (hlit, bs) ← takeLow 5 bs
  let (hdist, bs) ← takeLow 5 bs
  let (hclen, bs) ← takeLow 4 bs
  if 29 < hlit ∨ 29 < hdist then none
  else
    let (vs, bs) ← takeThrees (hclen + 4) bs
    let code ← PrefixCode.ofLengths false ((List.range 19).map fun s => ((codeOrder.zip vs).find? fun p => p.1 == s).elim 0 Prod.snd)
    let (ls, bs) ← takeLengths code (hlit + 257 + hdist + 1) 400 [] bs
    if ls.getD 256 0 = 0 then none
    else
      let lit ← PrefixCode.ofLengths true (ls.take (hlit + 257))
      let dist ← PrefixCode.ofLengths true (ls.drop (hlit + 257))
      some ((lit, dist), bs)

/-- A stored block; where the input ends inside it, what there is. -/
def inflateStored (bs : List Bool) (out : List Byte) : List Byte × Option (List Bool) :=
  match takeLow 16 (bs.drop (bs.length % 8)) with
  | none => (out, none)
  | some (n, bs) => match takeLow 16 bs with
    | none => (out, none)
    | some (m, bs) =>
      if n + m ≠ 0xFFFF then (out, none)
      else
        let got := bytesOfBits n bs
        (got.reverse ++ out, if got.length = n then some (bs.drop (8 * n)) else none)

/-- One block of a type. -/
def inflateBlock (type : Nat) (bs : List Bool) (out : List Byte) : List Byte × Option (List Bool) :=
  if type = 0 then inflateStored bs out
  else
    let codes := if type = 1 then do
        let lit ← PrefixCode.ofLengths false fixedLengths
        let dist ← PrefixCode.ofLengths false fixedDistances
        some ((lit, dist), bs)
      else if type = 2 then dynamicCodes bs else none
    match codes with
    | some ((lit, dist), bs) => inflateCodes lit dist (bs.length + 1) bs out
    | none => (out, none)

/-- Blocks to the final one: the output, and the bits after it where it has come. -/
def inflateBlocks : Nat → List Bool → List Byte → List Byte × Option (List Bool)
  | 0, _, out => (out, none)
  | fuel + 1, bs, out => match takeLow 3 bs with
    | none => (out, none)
    | some (h, bs) => match inflateBlock (h / 2) bs out with
      | (out, none) => (out, none)
      | (out, some bs) => if h % 2 = 1 then (out, some bs) else inflateBlocks fuel bs out

/-- A raw stream: its output, and the bits after it. -/
def inflate (input : List Byte) : List Byte × Option (List Bool) :=
  let bs := bitsLow input
  let r := inflateBlocks (bs.length + 1) bs []
  (r.1.reverse, r.2)

/-! ### gzip members (RFC 1952) -/

/-- What follows a text that ends with a zero byte. -/
def afterZero : List Byte → Option (List Byte)
  | [] => none
  | b :: bs => if b = 0 then some bs else afterZero bs

/-- What follows a member's header, where it is sound: its reserved flags are 0, and its checksum, if it has one, is right. -/
def gzipBody (input : List Byte) : Option (List Byte) :=
  let flags := fieldAt input 3 1
  if input.length < 10 ∨ fieldAt input 0 2 ≠ 0x8B1F ∨ fieldAt input 2 1 ≠ 8 ∨ 32 ≤ flags then none
  else do
    let bs := input.drop 10
    let bs ← if bitOf flags 2 then (if bs.length < 2 + fieldAt bs 0 2 then none else some (bs.drop (2 + fieldAt bs 0 2))) else some bs
    let bs ← if bitOf flags 3 then afterZero bs else some bs
    let bs ← if bitOf flags 4 then afterZero bs else some bs
    if bitOf flags 1 then
      (if bs.length < 2 ∨ fieldAt bs 0 2 ≠ crc32 (input.take (input.length - bs.length)) % 2 ^ 16 then none else some (bs.drop 2))
    else some bs

/-- One gzip member: its output, and the code with which it stops (R471). -/
def gunzip (input : List Byte) : List Byte × Nat :=
  match gzipBody input with
  | none => ([], dcBadStream)
  | some body =>
    let r := inflate body
    let tail := r.2.map fun bs => bytesOfBits 8 (bs.drop (bs.length % 8))
    let ok := tail.any fun t => t.length == 8 && fieldAt t 0 4 == crc32 r.1 && fieldAt t 4 4 == r.1.length % 2 ^ 32
    (r.1, if ok then 0 else dcBadStream)

end Sys2Proof.Machine
end

