-- ==== Sys2Proof/Machine/Zstd.lean ====
section
/-! DEFINITION. The Zstandard decoder of R471, under RFC 8878 (PRESUMED, log 15): frames, blocks, Huffman-coded literals, FSE
tables, sequences and XXH64. Bit streams that are read backward become lists of bits in the order in which they are read. -/

namespace Sys2Proof.Machine

open Sys2Proof

/-! ### XXH64 -/

def xxPrime1 : Word := 0x9E3779B185EBCA87
def xxPrime2 : Word := 0xC2B2AE3D27D4EB4F
def xxPrime3 : Word := 0x165667B19E3779F9
def xxPrime4 : Word := 0x85EBCA77C2B2AE63
def xxPrime5 : Word := 0x27D4EB2F165667C5

def xxRound (acc lane : Word) : Word := (acc + lane * xxPrime2).rotateLeft 31 * xxPrime1
def xxMerge (h v : Word) : Word := (h ^^^ xxRound 0 v) * xxPrime1 + xxPrime4
def xxLane (bs : List Byte) (o n : Nat) : Word := BitVec.ofNat 64 (fieldAt bs o n)

/-- The stripes of 32 bytes: four accumulators, and the bytes left. -/
def xxStripes : Nat → Word × Word × Word × Word → List Byte → (Word × Word × Word × Word) × List Byte
  | 0, v, bs => (v, bs)
  | fuel + 1, v, bs =>
    if bs.length < 32 then (v, bs)
    else xxStripes fuel (xxRound v.1 (xxLane bs 0 8), xxRound v.2.1 (xxLane bs 8 8), xxRound v.2.2.1 (xxLane bs 16 8),
      xxRound v.2.2.2 (xxLane bs 24 8)) (bs.drop 32)

/-- Fewer than 32 bytes into the hash. -/
def xxTail : Nat → Word → List Byte → Word
  | 0, h, _ => h
  | fuel + 1, h, bs =>
    if 8 ≤ bs.length then xxTail fuel ((h ^^^ xxRound 0 (xxLane bs 0 8)).rotateLeft 27 * xxPrime1 + xxPrime4) (bs.drop 8)
    else if 4 ≤ bs.length then xxTail fuel ((h ^^^ xxLane bs 0 4 * xxPrime1).rotateLeft 23 * xxPrime2 + xxPrime3) (bs.drop 4)
    else match bs with
      | [] => h
      | b :: bs => xxTail fuel ((h ^^^ BitVec.ofNat 64 b.toNat * xxPrime5).rotateLeft 11 * xxPrime1) bs

/-- XXH64 with seed 0. -/
def xxh64 (bs : List Byte) : Word :=
  let r := xxStripes (bs.length / 32) (xxPrime1 + xxPrime2, xxPrime2, 0, 0 - xxPrime1) bs
  let v := r.1
  let h := if bs.length < 32 then xxPrime5
    else xxMerge (xxMerge (xxMerge (xxMerge (v.1.rotateLeft 1 + v.2.1.rotateLeft 7 + v.2.2.1.rotateLeft 12 + v.2.2.2.rotateLeft 18)
      v.1) v.2.1) v.2.2.1) v.2.2.2
  let h := xxTail 32 (h + BitVec.ofNat 64 bs.length) r.2
  let h := (h ^^^ h >>> 33) * xxPrime2
  let h := (h ^^^ h >>> 29) * xxPrime3
  h ^^^ h >>> 32

/-! ### FSE (RFC 8878, 4.1) -/

/-- A state of an FSE table: its symbol, the bits of its next state and their base. -/
structure FseState where
  symbol : Nat
  bits : Nat
  base : Nat
deriving DecidableEq, Repr

/-- A table and the bits of its first state. -/
structure FseTable where
  log : Nat
  states : List FseState
deriving DecidableEq, Repr

def FseTable.state (t : FseTable) (n : Nat) : FseState := t.states.getD n ⟨0, 0, 0⟩

/-- The symbols of the states, in order: symbols of probability −1 from the end, the others spread over the rest. -/
def fseSymbols (log : Nat) (norm : List Int) : List Nat :=
  let size := 2 ^ log
  let lows := (norm.zipIdx.filter fun p => p.1 == -1).map Prod.snd
  let limit := size - lows.length
  let cells := ((List.range size).map fun k => k * (size / 2 + size / 8 + 3) % size).filter fun c => decide (c < limit)
  let placed := cells.zip (norm.zipIdx.flatMap fun p => List.replicate p.1.toNat p.2)
  (List.range limit).map (fun c => (placed.find? fun p => p.1 == c).elim 0 Prod.snd) ++ lows.reverse

/-- The table of a distribution. -/
def fseTable (log : Nat) (norm : List Int) : FseTable :=
  let ss := fseSymbols log norm
  { log := log
    states := ss.zipIdx.map fun p =>
      let next := (norm.getD p.1 0).natAbs + (ss.take p.2).count p.1
      let bits := log - next.log2
      { symbol := p.1, bits := bits, base := next * 2 ^ bits - 2 ^ log } }

/-- The table of one symbol. -/
def fseConst (symbol : Nat) : FseTable := ⟨0, [⟨symbol, 0, 0⟩]⟩

/-- Runs of symbols of probability 0. -/
def fseZeros : Nat → List Bool → Option (Nat × List Bool)
  | 0, _ => none
  | fuel + 1, bs => match takeLow 2 bs with
    | none => none
    | some (n, bs) => if n = 3 then (fseZeros fuel bs).map fun p => (3 + p.1, p.2) else some (n, bs)

/-- Probabilities, the latest first, until none is left of the table. -/
def fseNorm (max : Nat) : Nat → Nat → List Int → List Bool → Option (List Int × List Bool)
  | 0, _, _, _ => none
  | fuel + 1, left, norm, bs =>
    if left = 0 then (if norm.length ≤ max + 1 then some (norm.reverse, bs) else none)
    else if max < norm.length then none
    else
      let n := (left + 1).log2 + 1
      let threshold := 2 ^ n - 1 - (left + 1)
      match takeLow (n - 1) bs with
      | none => none
      | some (low, rest) =>
        let step := if low < threshold then some (low, rest) else (takeLow n bs).map fun p => (if p.1 < 2 ^ (n - 1) then p.1 else p.1 - threshold, p.2)
        match step with
        | none => none
        | some (v, rest) =>
          let p : Int := (v : Int) - 1
          if left < p.natAbs then none
          else if p = 0 then match fseZeros 200 rest with
            | some (k, rest) => fseNorm max fuel left (List.replicate (k + 1) 0 ++ norm) rest
            | none => none
          else fseNorm max fuel (left - p.natAbs) (p :: norm) rest

/-- A table's description at the front of bytes: the table, and the bytes after it. -/
def fseAt (maxLog max : Nat) (bs : List Byte) : Option (FseTable × List Byte) := do
  let bits := bitsLow bs
  let (l, rest) ← takeLow 4 bits
  if maxLog < l + 5 then none
  else
    let (norm, rest) ← fseNorm max 300 (2 ^ (l + 5)) [] rest
    some (fseTable (l + 5) norm, bs.drop ((bits.length - rest.length + 7) / 8))

/-- A stream that is read backward: the bits in the order in which they are read, from the one after the mark. -/
def backBits (bs : List Byte) : Option (List Bool) :=
  if bs.getLast? = some 0 then none
  else match (bitsLow bs).reverse.dropWhile (! ·) with
    | [] => none
    | _ :: r => some r

/-- A number of n bits of a stream that is read backward. -/
def takeHigh (n : Nat) (bs : List Bool) : Option (Nat × List Bool) := (takeBits n bs).map fun p => (highFirst p.1, p.2)

def FseTable.next (t : FseTable) (s : Nat) (bs : List Bool) : Option (Nat × List Bool) :=
  (takeHigh (t.state s).bits bs).map fun p => ((t.state s).base + p.1, p.2)

/-! ### Huffman codes (RFC 8878, 4.2) -/

/-- A Huffman table: symbol and code length by the next bits, as many as log. -/
structure HuffTable where
  log : Nat
  cells : List (Nat × Nat)
deriving DecidableEq, Repr

/-- The table of weights but the last, which they imply. -/
def huffTable (ws : List Nat) : Option HuffTable :=
  let sum := (ws.map fun w => if w = 0 then 0 else 2 ^ (w - 1)).sum
  let log := sum.log2 + 1
  let left := 2 ^ log - sum
  if sum = 0 ∨ 11 < log ∨ 255 < ws.length ∨ 2 ^ left.log2 ≠ left then none
  else
    let all := ws ++ [left.log2 + 1]
    some ⟨log, (List.range log).flatMap fun w => (all.zipIdx.filter fun p => p.1 == w + 1).flatMap fun p => List.replicate (2 ^ w) (p.2, log - w)⟩

/-- Weights under FSE, two states in turn, until the stream has no bits for the next. -/
def fseWeights (t : FseTable) : Nat → Nat → Nat → List Bool → Option (List Nat)
  | 0, _, _, _ => none
  | fuel + 1, a, b, bs => match t.next a bs with
    | none => some [(t.state a).symbol, (t.state b).symbol]
    | some (a', bs) => (fseWeights t fuel b a' bs).map fun ws => (t.state a).symbol :: ws

/-- A tree's description at the front of bytes. -/
def huffAt (bs : List Byte) : Option (HuffTable × List Byte) :=
  match bs with
  | [] => none
  | h :: bs =>
    if 128 ≤ h.toNat then
      let n := h.toNat - 127
      let size := (n + 1) / 2
      if bs.length < size then none
      else (huffTable (((bs.take size).flatMap fun b => [b.toNat / 16, b.toNat % 16]).take n)).map fun t => (t, bs.drop size)
    else if bs.length < h.toNat then none
    else do
      let (t, rest) ← fseAt 6 255 (bs.take h.toNat)
      let bits ← backBits rest
      let (a, bits) ← takeHigh t.log bits
      let (b, bits) ← takeHigh t.log bits
      let ws ← fseWeights t 255 a b bits
      let huff ← huffTable ws
      some (huff, bs.drop h.toNat)

/-- n literals of a stream that holds exactly them. -/
def huffStream (t : HuffTable) : Nat → List Bool → Option (List Byte)
  | 0, bs => if bs.isEmpty then some [] else none
  | n + 1, bs =>
    let k := bs.take t.log
    let c := t.cells.getD (highFirst (k ++ List.replicate (t.log - k.length) false)) (0, 0)
    if k.length < c.2 then none else (huffStream t n (bs.drop c.2)).map fun r => BitVec.ofNat 8 c.1 :: r

def huffBytes (t : HuffTable) (n : Nat) (bs : List Byte) : Option (List Byte) := (backBits bs).bind (huffStream t n)

/-- Literals in four streams behind a table of their lengths. -/
def huffFour (t : HuffTable) (n : Nat) (bs : List Byte) : Option (List Byte) :=
  let q := (n + 3) / 4
  let l := fun (i : Nat) => fieldAt bs (2 * i) 2
  let body := bs.drop 6
  if bs.length < 6 ∨ n < 3 * q ∨ body.length < l 0 + l 1 + l 2 then none
  else do
    let a ← huffBytes t q (body.take (l 0))
    let b ← huffBytes t q ((body.drop (l 0)).take (l 1))
    let c ← huffBytes t q ((body.drop (l 0 + l 1)).take (l 2))
    let d ← huffBytes t (n - 3 * q) (body.drop (l 0 + l 1 + l 2))
    some (a ++ b ++ c ++ d)

/-! ### Blocks (RFC 8878, 3.1.1.2 and 3.1.1.3) -/

/-- What the blocks of a frame hand on: tables and repeated offsets. -/
structure ZstdTables where
  huff : Option HuffTable := none
  lit : Option FseTable := none
  off : Option FseTable := none
  mat : Option FseTable := none
  reps : Nat × Nat × Nat := (1, 4, 8)
deriving DecidableEq, Repr

/-- The largest content of a block. -/
def zstdBlockMax : Nat := 0x2_0000

/-- The literals section: literals, tables, and the bytes after it. -/
def zstdLiterals (x : ZstdTables) (bs : List Byte) : Option (List Byte × ZstdTables × List Byte) :=
  let type := fieldAt bs 0 1 % 4
  let form := fieldAt bs 0 1 / 4 % 4
  if type < 2 then
    let size := if form % 2 = 0 then 1 else if form = 1 then 2 else 3
    let n := if size = 1 then fieldAt bs 0 1 / 8 else fieldAt bs 0 size / 16
    let body := bs.drop size
    let need := if type = 0 then n else 1
    if bs.length < size + need ∨ zstdBlockMax < n then none
    else some (if type = 0 then body.take n else List.replicate n (body.getD 0 0), x, body.drop need)
  else
    let size := if form < 2 then 3 else form + 2
    let w := if form < 2 then 10 else if form = 2 then 14 else 18
    let n := bitsOf (fieldAt bs 0 size) 4 w
    let m := bitsOf (fieldAt bs 0 size) (4 + w) w
    let body := (bs.drop size).take m
    if bs.length < size + m ∨ zstdBlockMax < n then none
    else do
      let (t, body) ← if type = 2 then huffAt body else x.huff.map fun t => (t, body)
      let ls ← if form = 0 then huffBytes t n body else huffFour t n body
      some (ls, { x with huff := some t }, bs.drop (size + m))

/-- Base and extra bits of a code for a literal length and for a match length. -/
def litBase (c : Nat) : Nat × Nat :=
  if c < 16 then (c, 0)
  else [(16, 1), (18, 1), (20, 1), (22, 1), (24, 2), (28, 2), (32, 3), (40, 3), (48, 4), (64, 6)].getD (c - 16) (2 ^ (c - 19), c - 19)
def matBase (c : Nat) : Nat × Nat :=
  if c < 32 then (c + 3, 0)
  else [(35, 1), (37, 1), (39, 1), (41, 1), (43, 2), (47, 2), (51, 3), (59, 3), (67, 4), (83, 4), (99, 5)].getD (c - 32) (2 ^ (c - 36) + 3, c - 36)

/-- The predefined distributions. -/
def litNorm : List Int := [4, 3] ++ List.replicate 11 2 ++ [1, 1, 1] ++ List.replicate 9 2 ++ [3, 2] ++ List.replicate 5 1 ++ List.replicate 4 (-1)
def matNorm : List Int := [1, 4, 3] ++ List.replicate 6 2 ++ List.replicate 37 1 ++ List.replicate 7 (-1)
def offNorm : List Int := List.replicate 6 1 ++ List.replicate 3 2 ++ List.replicate 15 1 ++ List.replicate 5 (-1)

/-- A table as its mode gives it: predefined, of one symbol, described, or that of an earlier block. -/
def seqTable (mode maxLog max : Nat) (fixed : FseTable) (held : Option FseTable) (bs : List Byte) : Option (FseTable × List Byte) :=
  if mode = 0 then some (fixed, bs)
  else if mode = 1 then match bs with
    | b :: rest => if max < b.toNat then none else some (fseConst b.toNat, rest)
    | [] => none
  else if mode = 2 then fseAt maxLog max bs
  else held.map fun t => (t, bs)

/-- A sequence: literals, offset value, match length. -/
structure ZstdSeq where
  lits : Nat
  off : Nat
  len : Nat
deriving DecidableEq, Repr

/-- Sequences, from three states and the stream, which holds exactly them. -/
def zstdSeqs (x : ZstdTables) : Nat → Nat × Nat × Nat → List Bool → Option (List ZstdSeq)
  | 0, _, _ => none
  | n + 1, s, bs => do
    let l ← x.lit
    let o ← x.off
    let m ← x.mat
    let oc := (o.state s.2.1).symbol
    let (ov, bs) ← takeHigh oc bs
    let mb := matBase (m.state s.2.2).symbol
    let (mv, bs) ← takeHigh mb.2 bs
    let lb := litBase (l.state s.1).symbol
    let (lv, bs) ← takeHigh lb.2 bs
    let q : ZstdSeq := ⟨lb.1 + lv, 2 ^ oc + ov, mb.1 + mv⟩
    if n = 0 then (if bs.isEmpty then some [q] else none)
    else
      let (a, bs) ← l.next s.1 bs
      let (c, bs) ← m.next s.2.2 bs
      let (b, bs) ← o.next s.2.1 bs
      let qs ← zstdSeqs x n (a, b, c) bs
      some (q :: qs)

/-- The number of sequences and the bytes after it. -/
def seqCount (bs : List Byte) : Option (Nat × List Byte) :=
  let b := fieldAt bs 0 1
  let size := if b < 128 then 1 else if b < 255 then 2 else 3
  if bs.length < size then none
  else some (if b < 128 then b else if b < 255 then (b - 128) * 256 + fieldAt bs 1 1 else fieldAt bs 1 2 + 0x7F00, bs.drop size)

/-- The sequences section: sequences and tables. -/
def zstdSection (x : ZstdTables) (bs : List Byte) : Option (List ZstdSeq × ZstdTables) := do
  let (n, bs) ← seqCount bs
  if n = 0 then (if bs.isEmpty then some ([], x) else none)
  else
    let mode := fieldAt bs 0 1
    if bs.isEmpty ∨ mode % 4 ≠ 0 then none
    else
      let (l, bs) ← seqTable (mode / 64) 9 35 (fseTable 6 litNorm) x.lit (bs.drop 1)
      let (o, bs) ← seqTable (mode / 16 % 4) 8 31 (fseTable 5 offNorm) x.off bs
      let (m, bs) ← seqTable (mode / 4 % 4) 9 52 (fseTable 6 matNorm) x.mat bs
      let bits ← backBits bs
      let (a, bits) ← takeHigh l.log bits
      let (b, bits) ← takeHigh o.log bits
      let (c, bits) ← takeHigh m.log bits
      let y := { x with lit := some l, off := some o, mat := some m }
      let qs ← zstdSeqs y n (a, b, c) bits
      some (qs, y)

/-- The offset of a sequence and the repeated offsets after it (RFC 8878, 3.1.1.5). -/
def repOffset (reps : Nat × Nat × Nat) (lits value : Nat) : Nat × (Nat × Nat × Nat) :=
  let (a, b, c) := reps
  if 3 < value then (value - 3, value - 3, a, b)
  else match value + (if lits = 0 then 1 else 0) with
    | 1 => (a, a, b, c)
    | 2 => (b, b, a, c)
    | 3 => (c, c, a, b)
    | _ => (a - 1, a - 1, a, b)

/-- The sequences are carried out: content of the frame, the latest byte first, literals left, repeated offsets. -/
def zstdRun : List ZstdSeq → List Byte × List Byte × (Nat × Nat × Nat) → Option (List Byte × List Byte × (Nat × Nat × Nat))
  | [], y => some y
  | q :: qs, (out, ls, reps) =>
    let r := repOffset reps q.lits q.off
    let out := (ls.take q.lits).reverse ++ out
    if ls.length < q.lits ∨ r.1 = 0 ∨ out.length < r.1 then none
    else zstdRun qs (copyBack r.1 q.len out, ls.drop q.lits, r.2)

/-- A compressed block: content and tables after it. -/
def zstdBlock (x : ZstdTables) (bs out : List Byte) : Option (List Byte × ZstdTables) := do
  let (ls, x, bs) ← zstdLiterals x bs
  let (qs, x) ← zstdSection x bs
  if zstdBlockMax < ls.length + (qs.map ZstdSeq.len).sum then none
  else
    let (out, ls, reps) ← zstdRun qs (out, ls, x.reps)
    some (ls.reverse ++ out, { x with reps := reps })

/-- Blocks to the last one: the frame's content, the latest byte first, and the bytes after them where the last has come. No
block's content is larger than limit. -/
def zstdBlocks (limit : Nat) : Nat → ZstdTables → List Byte → List Byte → List Byte × Option (List Byte)
  | 0, _, _, out => (out, none)
  | fuel + 1, x, bs, out =>
    let h := fieldAt bs 0 3
    let size := h / 8
    let body := bs.drop 3
    let need := if h / 2 % 4 = 1 then 1 else size
    if bs.length < 3 ∨ limit < size ∨ body.length < need then (out, none)
    else
      let r := match h / 2 % 4 with
        | 0 => some ((body.take size).reverse ++ out, x)
        | 1 => some (List.replicate size (body.getD 0 0) ++ out, x)
        | 2 => (zstdBlock x (body.take size) out).filter fun r => decide (r.1.length ≤ out.length + limit)
        | _ => none
      match r with
      | none => (out, none)
      | some (out, x) => if h % 2 = 1 then (out, some (body.drop need)) else zstdBlocks limit fuel x (body.drop need) out

/-! ### Frames (RFC 8878, 3.1) -/

/-- A frame's header: its length, window size, dictionary, content size, and whether a checksum follows. -/
structure ZstdHeader where
  size : Nat
  window : Nat
  dict : Nat
  content : Option Nat
  sum : Bool
deriving DecidableEq, Repr

/-- The header behind a frame's magic number. -/
def zstdHeader (bs : List Byte) : Option ZstdHeader :=
  let d := fieldAt bs 0 1
  let single := bitOf d 5
  let w := if single then 0 else 1
  let k := [0, 1, 2, 4].getD (d % 4) 0
  let c := if d / 64 = 0 then (if single then 1 else 0) else 2 ^ (d / 64)
  let size := 1 + w + k + c
  let content := if c = 0 then none else some (fieldAt bs (1 + w + k) c + (if c = 2 then 256 else 0))
  let base := 2 ^ (10 + fieldAt bs 1 1 / 8)
  if bs.length < size ∨ bitOf d 3 = true then none
  else some { size := size, window := if single then content.getD 0 else base + base / 8 * (fieldAt bs 1 1 % 8),
              dict := fieldAt bs (1 + w) k, content := content, sum := bitOf d 2 }

/-- R471: the largest Window_Size, 8 MiB. -/
def zstdWindow : Nat := 0x80_0000

/-- Frames in order, skippable ones skipped: output, the latest byte first, and the code with which it stops. -/
def zstdFrames : Nat → List Byte → List Byte → List Byte × Nat
  | 0, _, out => (out, dcBadStream)
  | fuel + 1, bs, out =>
    let magic := fieldAt bs 0 4
    let rest := bs.drop 4
    if bs.isEmpty then (out, 0)
    else if bs.length < 4 then (out, dcBadStream)
    else if 0x184D_2A50 ≤ magic ∧ magic ≤ 0x184D_2A5F then
      (if rest.length < 4 + fieldAt rest 0 4 then (out, dcBadStream) else zstdFrames fuel (rest.drop (4 + fieldAt rest 0 4)) out)
    else if magic ≠ 0xFD2F_B528 then (out, dcBadStream)
    else match zstdHeader rest with
      | none => (out, dcBadStream)
      | some h =>
        if h.dict ≠ 0 ∨ zstdWindow < h.window then (out, dcUnsupported)
        else
          let r := zstdBlocks (min zstdBlockMax h.window) (rest.length + 1) {} (rest.drop h.size) []
          let all := r.1 ++ out
          match r.2 with
          | none => (all, dcBadStream)
          | some after =>
            let tail := if h.sum then 4 else 0
            let sumOk := !h.sum || (decide (4 ≤ after.length) && fieldAt after 0 4 == (xxh64 r.1.reverse).toNat % 2 ^ 32)
            if h.content.all (fun n => n == r.1.length) && sumOk then zstdFrames fuel (after.drop tail) all
            else (all, dcBadStream)

/-- Zstandard input: its output, and the code with which it stops (R471). -/
def unzstd (input : List Byte) : List Byte × Nat :=
  let r := zstdFrames (input.length + 1) input []
  (r.1.reverse, r.2)

/-- R471: what DECOMP's modes decode: 0 Zstandard, 1 raw DEFLATE, 2 a gzip member. -/
def decompress (mode : Nat) (input : List Byte) : List Byte × Nat :=
  if mode = 0 then unzstd input
  else if mode = 1 then
    let r := inflate input
    (r.1, if r.2.isSome then 0 else dcBadStream)
  else gunzip input

end Sys2Proof.Machine
end

