-- ==== Sys2Proof/Machine/DataEngines.lean ====
section
/-! DEFINITION. The decompression, gather/scatter and layout engines (20, R467 to R481), scheduled from their rings and
free from the host queues. Engine e is unit 52 + e: layout engines 0 to 3, gather/scatter 4 to 7, decompression
8 to 11. -/

namespace Sys2Proof.Machine

open Sys2Proof

/-! ### What a job computes

A job is a function of the bytes that it reads: load a n gives n bytes from a, of memory for a scheduled engine (R31), and as
its edge cache gave them for a free one (R468). -/

/-- The outcome of a job: code, aux, produced (R470), and what it writes, in order: address, bytes, and whether they are
added. -/
structure DatOut where
  code : Nat
  aux : Nat := 0
  produced : Nat
  puts : List (Bool × Nat × List Byte) := []

/-- Codes of R470. -/
def dcNotFree : Nat := 0x10
def dcOverflow : Nat := 0x12
def dcIndexRange : Nat := 0x13
def dcReadError : Nat := 0x15

/-- DECOMP (R471): output to the capacity, and zeros to the end of the last line written where the job stops, or where
the engine writes whole lines only (R468). -/
def runDecomp (sched : Bool) (load : Nat → Nat → List Byte) (d : DatDesc) : DatOut :=
  let r := decompress d.mode (load d.a d.p0)
  let out := r.1.take d.p1
  let n := out.length
  let code := if d.p1 < r.1.length then dcOverflow else r.2
  let pad := if n = 0 ∨ (sched = false ∧ code = 0) then 0 else (128 - (d.b + n) % 128) % 128
  { code := code, produced := n, puts := if n = 0 then [] else [(false, d.b, out ++ List.replicate pad 0)] }

/-- Index i of a job. -/
def DatDesc.index (d : DatDesc) (load : Nat → Nat → List Byte) (i : Nat) : Nat := leNat (load (d.a + i * d.idxBytes) d.idxBytes)

/-- The indices of a job in range, in ascending position. -/
def DatDesc.named (d : DatDesc) (load : Nat → Nat → List Byte) : List Nat :=
  ((List.range d.count).map (d.index load)).filter fun x => decide (x < d.tableRows)

/-- Rows of the table that a job's indices name. -/
def DatDesc.tableRanges (d : DatDesc) (load : Nat → Nat → List Byte) : List (Nat × Nat) :=
  (d.named load).map fun x => (d.p0 + x * d.rowPitch, d.rowBytes)

/-- Byte ranges that a job reads whatever its indices hold. -/
def DatDesc.plainReads (d : DatDesc) : List (Nat × Nat) :=
  match d.op with
  | 2 => [(d.a, d.count * d.idxBytes)]
  | 3 => [(d.a, d.count * d.idxBytes), (d.b, d.count * d.rowBytes)]
  | 4 => (List.range (d.batches * d.rows)).map fun k => (d.a + k * d.srcPitch, d.cols * d.elemBytes)
  | _ => d.reads

/-- Byte ranges that a job does read: a GATHER the rows named, and a SCATTER that adds, too. -/
def DatDesc.touched (d : DatDesc) (load : Nat → Nat → List Byte) : List (Nat × Nat) :=
  d.plainReads ++ (if d.op = 2 ∨ (d.op = 3 ∧ d.mode = 1) then d.tableRanges load else [])

/-- Byte ranges that a job does write; DECOMP may write all of its range. -/
def DatDesc.written (d : DatDesc) (load : Nat → Nat → List Byte) : List (Nat × Nat) :=
  match d.op with
  | 3 => d.tableRanges load
  | 4 => (List.range (d.batches * d.dstRows)).map fun k => (d.b + k * d.dstPitch, d.dstRowBytes)
  | _ => d.writes

/-- The code of a job with some indices out of range. -/
def indexCode (bad : Nat) : Nat := if bad = 0 then 0 else dcIndexRange

/-- GATHER (R472). -/
def runGather (load : Nat → Nat → List Byte) (d : DatDesc) : DatOut :=
  let xs := (List.range d.count).map (d.index load)
  let bad := xs.countP fun x => decide (d.tableRows ≤ x)
  let rows := xs.flatMap fun x =>
    if x < d.tableRows then load (d.p0 + x * d.rowPitch) d.rowBytes else List.replicate d.rowBytes 0
  { code := indexCode bad, aux := min bad 0xFFFF, produced := rows.length, puts := [(false, d.b, rows)] }

/-- SCATTER (R473): rows in ascending position, put over the table's or added to them. -/
def runScatter (load : Nat → Nat → List Byte) (d : DatDesc) : DatOut :=
  let xs := (List.range d.count).map (d.index load)
  let bad := xs.countP fun x => decide (d.tableRows ≤ x)
  let puts := xs.zipIdx.filterMap fun p =>
    if p.1 < d.tableRows then some (d.mode == 1, d.p0 + p.1 * d.rowPitch, load (d.b + p.2 * d.rowBytes) d.rowBytes) else none
  { code := indexCode bad, aux := min bad 0xFFFF, produced := (d.count - bad) * d.rowBytes, puts := puts }

/-- LAYOUT (R474): the destination rows, each gathered from its source elements. -/
def runLayout (load : Nat → Nat → List Byte) (d : DatDesc) : DatOut :=
  let e := d.elemBytes
  let src (k i j : Nat) : Nat := d.a + (k * d.rows + i) * d.srcPitch + j * e
  let row (k r : Nat) : List Byte :=
    if d.mode = 0 then load (src k r 0) (d.cols * e)
    else (List.range d.rows).flatMap fun i => load (src k i r) e
  let out := (List.range d.batches).flatMap fun k => (List.range d.dstRows).map fun r =>
    (false, d.b + (k * d.dstRows + r) * d.dstPitch, row k r)
  { code := 0, produced := d.batches * d.rows * d.cols * e
    puts := if d.dstPitch = d.dstRowBytes then [(false, d.b, out.flatMap fun p => p.2.2)] else out }

/-- What a job does with the bytes that it reads. -/
def runDat (sched : Bool) (load : Nat → Nat → List Byte) (d : DatDesc) : DatOut :=
  match d.op with
  | 1 => runDecomp sched load d
  | 2 => runGather load d
  | 3 => runScatter load d
  | _ => runLayout load d

/-- What a scheduled job puts, in memory: whole lines of a tier in their slots (R468). -/
def putScheduled (s : State) (p : Bool × Nat × List Byte) : State :=
  let a := p.2.1
  let bs := if p.1 then addRow (s.bytes a p.2.2.length) p.2.2 else p.2.2
  if inTier a bs.length && a % 128 == 0 && bs.length % 128 == 0 then
    (List.range (bs.length / 128)).foldl (fun s k => storeLine (a + 128 * k) ((bs.drop (128 * k)).take 128) s) s
  else s.store a bs

/-! ### The rows -/

/-- Unit of a data engine, its die's index, and the ops that it runs (R467). -/
def datUnit (e : Nat) : Nat := 52 + e
def datRuns (e op : Nat) : Bool := if e < 4 then op == 4 else if e < 8 then op == 2 || op == 3 else op == 1

/-- R480: whether the engine runs scheduled in this epoch. -/
def datScheduled (s : State) (e : Nat) : Bool := (s.image.unitTroupe (datUnit e)).isSome

/-- The descriptor that the engine has at its ring's entry. -/
def DatEngine.cur (x : DatEngine) : DatDesc := datDesc (imemBytes x.ring (64 * x.entry) 64)

/-- A line of a range in a tier whose channel gives the engine's port no slot (R85, R88). -/
def noSlotLine (i : Image) (u port : Nat) (r : Nat × Nat) : Option Nat :=
  if r.2 = 0 ∨ inTier r.1 r.2 = false then none
  else ((List.range ((r.1 + r.2 - 1) / 128 - r.1 / 128 + 1)).map fun k => 128 * (r.1 / 128 + k)).find? fun a =>
    !(channelOf i a).any fun c => ownsChannel i c.1 c.2 u port

/-- What a scheduled job's range in a scratchpad breaks (R83, R468): tile, code, address. -/
def padBreach (s : State) (r : Nat × Nat) : Option (Nat × Nat × Nat) :=
  if r.2 = 0 ∨ inPads r.1 r.2 = false then none
  else
    let peer := (r.1 - 0x400_0000_0000) / 0x100_0000
    (banksOf r.1 r.2).findSome? fun b => (asyncFault s peer b 7).map fun c => (peer, c, r.1)

/-- The tier lines of ranges are requested for a scheduled job, in the slots of the engine's own port: 0 for reads, 1 for
writes (R468). -/
def askDat (e : Nat) (write : Bool) (rs : List (Nat × Nat)) (s : State) : State :=
  rs.foldl (fun s r => askRange (owPort (datUnit e) (bit write)) (1 + e % 4) r.1 r.2 write (.dataEngine e) s) s

/-- Every line that a scheduled job has requested has had its slots. -/
def datSlotted (s : State) (e : Nat) : Bool := !s.asks (· == .dataEngine e)

/-- A scheduled job runs, and requests the slots of what it writes. -/
def produceScheduled (e : Nat) (d : DatDesc) (s : State) : State :=
  let o := runDat true s.bytes d
  let ws := if o.produced = 0 then [] else if d.op = 1 then [(d.b, (o.produced + 127) / 128 * 128)] else d.written s.bytes
  (askDat e true ws (o.puts.foldl putScheduled s)).modDat e fun x => { x with result := some (o.code, o.aux, o.produced) }

/-- A free job runs on what it has read. An input line read with an uncorrectable error ends it with READ_ERROR, and nothing
is written (DESIGN CHOICE). -/
def produceFree (e : Nat) (d : DatDesc) (s : State) : State :=
  let who := EdgeUser.data e
  let o := if s.edgeBad who then { code := dcReadError, produced := 0 } else runDat false (s.edgeBytes who) d
  (askEdgePuts (e % 4) who (o.puts.map fun p => (if p.1 then .add else .write, p.2)) (s.edgeDrop who)).modDat e fun x =>
    { x with result := some (o.code, o.aux, o.produced) }

/-- A scheduled job starts: its checks, and the requests for what it reads. -/
def startScheduled (e : Nat) (d : DatDesc) (s : State) : State :=
  let u := datUnit e
  let x := s.dat e
  let tr := s.image.unitTroupe u
  if !d.addressOk s.image tr || !d.aligned || !d.pitchOk then engineFault u fcAddress x.entry d.a s
  else match (d.touched s.bytes ++ d.written s.bytes).findSome? (padBreach s) with
    | some (peer, code, a) => unitFault peer code x.entry a (setEngState u esIdle s)
    | none =>
      match ((d.touched s.bytes).findSome? (noSlotLine s.image u 0)).or ((d.written s.bytes).findSome? (noSlotLine s.image u 1)) with
      | some a => engineFault u fcNoSlot x.entry a s
      | none => askDat e false (d.touched s.bytes) (s.modDat e fun x => { x with asked := true })

/-- The free job that an engine runs or runs next. -/
def freeJob (s : State) (e : Nat) : Option DatJob := (s.dat e).queue.head?.filter fun j => !j.refused

/-- The descriptor of an engine's job: its ring's entry, or the first of its list. -/
def datJob (s : State) (e : Nat) : DatDesc :=
  if datScheduled s e then (s.dat e).cur else datDesc (((s.dat e).queue.head?.map DatJob.desc).getD [])

/-- A free job of an engine goes on: it asks for what it reads, a GATHER for its table once its indices have come, and runs on
all of it (R468, R478; DESIGN CHOICE, log 22). -/
def stepFree (e : Nat) (d : DatDesc) (s : State) : State :=
  let x := s.dat e
  let who := EdgeUser.data e
  if !x.asked then askEdgeReads (e % 4) who d.plainReads (s.modDat e fun x => { x with asked := true, state := esRun })
  else if s.edgeOpen who then edgeTurn (8 + e % 4) s
  else if d.op == 2 && !x.tabled then
    askEdgeReads (e % 4) who (d.tableRanges (s.edgeBytes who)) (s.modDat e fun x => { x with tabled := true })
  else produceFree e d s

/-- The row of an op: a scheduled engine's entry of that op, after its wait (R475), or the free job at the head of the
engine's list (R478). The job starts and requests what it reads; once every line has come, it runs (DESIGN CHOICE, log
139). -/
def datRow (e op : Nat) (s : State) : Host.Outcome State Fault Refusal :=
  let x := s.dat e
  let sched := datScheduled s e
  let d := datJob s e
  event s (x.result.isNone && d.op == op && (if sched then x.state == esRun && datSlotted s e else (freeJob s e).isSome)) fun s =>
    if !sched then stepFree e d s
    else if x.asked then produceScheduled e d s
    else if !d.fieldsOk then engineFault (datUnit e) fcEncoding x.entry 0 s
    else if d.waitCh ≠ 0xFFFF ∧ x.released = false then engineWait (datUnit e) d.waitCh d.waitK d.limit x.entry s
    else startScheduled e d s

/-- DAT_DECOMP (R468 to R471). -/
def execDatDecomp (d : ChipId) (s : State) : Host.Outcome State Fault Refusal := datRow (8 + d) 1 s

/-- DAT_GATHER (R468 to R470, R472). -/
def execDatGather (d : ChipId) (s : State) : Host.Outcome State Fault Refusal := datRow (4 + d) 2 s

/-- DAT_SCATTER (R468 to R470, R473). -/
def execDatScatter (d : ChipId) (s : State) : Host.Outcome State Fault Refusal := datRow (4 + d) 3 s

/-- DAT_LAYOUT (R468 to R470, R474). -/
def execDatLayout (d : ChipId) (s : State) : Host.Outcome State Fault Refusal := datRow d 4 s

/-- DAT_END (R475). The row also holds the check of R469 on an op that the engine does not run. -/
def execDatEnd (e : Fin 12) (s : State) : Host.Outcome State Fault Refusal :=
  let x := s.dat e
  event s (datScheduled s e && x.state == esRun && x.result.isNone && !datRuns e x.cur.op) fun s =>
    if x.cur.op = 0x0F then engineArrive (datUnit e) s else engineFault (datUnit e) fcEncoding x.entry 0 s

/-- The status word of a finished job (R470). -/
def datStatusWord (code aux produced : Nat) : Nat := code * 2 ^ 56 + aux * 2 ^ 40 + produced % 2 ^ 40

/-- A free engine's status word at an address, through the edge cache. -/
def putStatus (e a code aux produced : Nat) (s : State) : State :=
  askEdgePuts (e % 4) (.data e) [(.write, a, leBytes 8 (datStatusWord code aux produced))] s

/-- Code, aux and produced of a job that has run: a free SCATTER that met a poisoned line of its table ends with READ_ERROR,
its elements there not added (DESIGN CHOICE, log 22). -/
def datResult (s : State) (e : Nat) (r : Nat × Nat × Nat) : Nat × Nat × Nat :=
  if s.edgeBad (.data e) then
    (dcReadError, r.2.1, r.2.2 - 4 * s.coh.edge.countP fun q => q.who == .data e && q.poison)
  else r

/-- The status word of a job is written (R470): by a scheduled engine as a partial write of its port 1 (R239). -/
def writeStatus (e : Nat) (r : Nat × Nat × Nat) (s : State) : State :=
  let a := (datJob s e).status
  let s := if datScheduled s e then
      askDat e true [(a, 8)] (cancelWriteBack a (s.store a (leBytes 8 (datStatusWord r.1 r.2.1 r.2.2))))
    else putStatus e a r.1 r.2.1 r.2.2 s
  s.modDat e fun x => { x with told := true }

/-- A job whose writes have all been made signals or completes (R475 to R478). -/
def completeDat (e : Nat) (r : Nat × Nat × Nat) (s : State) : State :=
  let x := s.dat e
  let sched := datScheduled s e
  let d := datJob s e
  let s := s.modDat e fun x => { x with
    result := none, told := false, asked := false, tabled := false, jobs := satAdd 32 x.jobs 1, produced := satAdd 64 x.produced r.2.2
    entry := if sched then x.entry + 1 else x.entry
    released := false
    state := if sched then x.state else esIdle
    queue := if sched then x.queue else x.queue.drop 1 }
  if sched then engineSignal (datUnit e) d.signalCh s
  else match x.queue.head? with
    | some j => completeQ j.queue j.number r.1 (r.2.2 % 2 ^ 32) (s.edgeDrop (.data e))
    | none => s

/-- A job for an engine that runs scheduled completes with NOT_FREE, once its status word stands (R470, R477, R478). -/
def finishRefused (e : Nat) (j : DatJob) (s : State) : State :=
  let a := (datDesc j.desc).status
  if s.edgeOpen (.data e) then edgeTurn (8 + e % 4) s
  else if a ≠ 0 ∧ j.told = false then
    putStatus e a dcNotFree 0 0 (s.modDat e fun x => { x with queue := { j with told := true } :: x.queue.drop 1 })
  else completeQ j.queue j.number dcNotFree 0 ((s.edgeDrop (.data e)).modDat e fun x => { x with queue := x.queue.drop 1 })

/-- DATA_JOB_FINISH (R470, R475 to R478): once the job's writes have been made its status word is written, and once that has,
the job signals or completes. -/
def execDataJobFinish (e : Fin 12) (s : State) : Host.Outcome State Fault Refusal :=
  match (s.dat e).queue.head?.filter DatJob.refused with
  | some j => event s true (finishRefused e j)
  | none => eventOf s ((s.dat e).result.filter fun _ => !datScheduled s e || datSlotted s e) fun r s =>
      let r := if datScheduled s e then r else datResult s e r
      if !datScheduled s e && s.edgeOpen (.data e) then edgeTurn (8 + e.val % 4) s
      else if (datJob s e).status = 0 ∨ (s.dat e).told = true then completeDat e r s else writeStatus e r s

/-! ### Free jobs from a host queue (R477) -/

/-- Status of a free job at its submission (R415, R468, R469, R477). -/
def datStatus (s : State) (c : Slot) : Nat :=
  let d := datDesc c.payload
  if !c.headerOk 64 64 || c.arg0 / 4 != 0 || c.arg1 != 0 || d.op != c.opcode - 0x0F || !d.fieldsOk || !d.pitchOk ||
      d.waitCh != 0xFFFF || d.signalCh != 0xFFFF || d.waitK != 0 || d.limit != 0 then stEncoding
  else if !d.addressOk s.image none then stAddress
  else stOk

/-- A free job is submitted to engine base + die. An engine that runs scheduled will complete it with NOT_FREE. -/
def submitDat (q : Nat) (base : Nat) (c : Slot) (s : State) : State :=
  let e := base + c.arg0 % 4
  let st := datStatus s c
  if st ≠ stOk then oneShot q c st 0 (fun s => s) s
  else
    let r := startCmd q c s
    r.2.modDat e fun x => { x with queue := x.queue ++ [{ desc := c.payload, queue := q, number := r.1, refused := datScheduled s e }] }

/-- Q_DECOMP (R477). -/
def execQDecomp (q : QueueId) (s : State) : Host.Outcome State Fault Refusal :=
  eventOf s (startable s q (· == 0x10)) fun c s => submitDat q 8 c s

/-- Q_GATHER (R477). -/
def execQGather (q : QueueId) (s : State) : Host.Outcome State Fault Refusal :=
  eventOf s (startable s q (· == 0x11)) fun c s => submitDat q 4 c s

/-- Q_SCATTER (R477). -/
def execQScatter (q : QueueId) (s : State) : Host.Outcome State Fault Refusal :=
  eventOf s (startable s q (· == 0x12)) fun c s => submitDat q 4 c s

/-- Q_LAYOUT (R477). -/
def execQLayout (q : QueueId) (s : State) : Host.Outcome State Fault Refusal :=
  eventOf s (startable s q (· == 0x13)) fun c s => submitDat q 0 c s

end Sys2Proof.Machine
end

