-- ==== Sys2Proof/Machine/Placement.lean ====
section
/-! DEFINITION. Adapters, registered regions and peer transfers (18): placements and their refusals (R434, R435),
arrival counts (R436, R439), the region registers (R433, R442 to R446), peer routing (R441) and containment (R432). -/

namespace Sys2Proof.Machine

open Sys2Proof

/-! ### Region registers (R433, R440, R442 to R446) -/

/-- A write that R433 ignores. -/
def rejectRegion (s : State) : State := { s with plc := { s.plc with reject := true } }

/-- Whether bytes a to a + n − 1 and b to b + m − 1 overlap. -/
def rangesMeet (a n b m : Nat) : Bool := decide (a < b + m) && decide (b < a + n)

/-- The fields of PLC_RGN_BASE but valid (R442). -/
def Region.withBase (x : Region) (w : Nat) : Region :=
  { x with view := bitOf w 62, rd := bitOf w 61, wr := bitOf w 60, base := bitsOf w 12 36 * 4096 }

/-- R433, R443, R445: whether region r may become valid with these fields. -/
def regionOk (s : State) (r : Nat) (x : Region) : Bool :=
  x.length != 0 && x.unit != 0 && inTier x.base x.length &&
    s.plc.regions.all fun p => p.1 == r || !p.2.valid || !rangesMeet x.base x.length p.2.base p.2.length

/-- A write of PLC_RGN_BASE. While valid is 1 it may only clear valid: one that would write another field is ignored
(DEDUCED from R433 and R440). -/
def writeRgnBase (r : Nat) (v : Word) (s : State) : State :=
  let w := v.toNat
  let x := s.region r
  let y := x.withBase w
  if x.valid then
    (if !bitOf w 63 && y == x then s.modRegion r fun x => { x with valid := false, waiter := none } else rejectRegion s)
  else if bitOf w 63 then
    (if regionOk s r y then s.modRegion r fun _ => { y with valid := true, arrivals := 0, log := [], residue := 0, ovf := false }
     else rejectRegion s)
  else s.modRegion r fun _ => y

/-- A write of the register at an offset of region r's block. -/
def writeRgn (r off : Nat) (v : Word) (s : State) : State :=
  let w := v.toNat
  if off = 0 then writeRgnBase r v s
  else if off = 0x28 then (if bitOf w 63 then s.modRegion r fun x => { x with ovf := false } else s)
  else if off = 0x08 ∨ off = 0x10 ∨ off = 0x18 then
    (if (s.region r).valid then rejectRegion s
     else s.modRegion r fun x =>
       if off = 0x08 then { x with troupes := bitsOf w 48 16, length := bitsOf w 12 28 * 4096 }
       else if off = 0x10 then
         { x with pasid := bitsOf w 44 20, pasidEn := bitOf w 43, ridMask := bitsOf w 16 16, rid := bitsOf w 0 16 }
       else { x with unit := bitsOf w 0 32 })
  else s

/-- REGION_ENABLE (R433). -/
def execRegionEnable (r : RegionId) (v : Word) (s : State) : Host.Outcome State Fault Refusal :=
  event s (bitOf v.toNat 63 && !(s.region r).valid) (writeRgnBase r v)

/-- REGION_DISABLE (R440). -/
def execRegionDisable (r : RegionId) (v : Word) (s : State) : Host.Outcome State Fault Refusal :=
  event s (!bitOf v.toNat 63 && (s.region r).valid) (writeRgnBase r v)

/-! ### Peer requests (R441) -/

/-- The root port whose aperture, outside its ECAM part, holds an address. -/
def peerPort (addr : Nat) : Option Nat :=
  match placeOf addr with
  | .pcie d o => if 0x1000_0000 ≤ o then some d else none
  | _ => none

/-- A request on port p that names the aperture of port d. What the adapter behind port d answers lies outside the
package: a routed read is answered with nothing here. -/
def routePeer (p d : Nat) (write : Bool) (s : State) : State :=
  if bitOf s.plc.peer (4 * p + d) then s.reply {}
  else
    let s := { s with plc := { s.plc with peerRefused := satAdd 32 s.plc.peerRefused 1 } }
    s.reply { aborted := !write }

/-- A request of an adapter shows that its port's containment has been released (DESIGN CHOICE: the release is the PCIe
specification's). -/
def portActive (p : Nat) (s : State) : State := { s with plc := { s.plc with contained := tset s.plc.contained p false } }

/-- R547: in Lantern mode root ports 1 to 3 are held in reset, and nothing reaches or leaves them. -/
def rootPortUp (s : State) (port : Nat) : Bool := !(s.boot.lantern && port != 0)

/-- PEER_REQUEST (R441). -/
def execPeerRequest (port : Fin 4) (addr : Nat) (write : Bool) (s : State) : Host.Outcome State Fault Refusal :=
  eventOf s (if rootPortUp s port then peerPort addr else none) fun d s => routePeer port d write (portActive port s)

/-! ### Placements (R434, R435) -/

/-- The valid region that holds a byte. -/
def regionAt (s : State) (a : Nat) : Option Nat :=
  (s.plc.regions.find? fun p => p.2.valid && decide (p.2.base ≤ a) && decide (a < p.2.base + p.2.length)).map Prod.fst

/-- Why a request that begins in a region is refused there, in R447's codes; none where it passes. Where several
reasons hold, the first in the order of R434's list is recorded (DESIGN CHOICE). -/
def placeRefusal (x : Region) (rid : Nat) (pasid : Option Nat) (addr len : Nat) (write : Bool) : Option Nat :=
  if x.base + x.length < addr + len then some 4
  else if !(if write then x.wr else x.rd) then some 1
  else if (rid ^^^ x.rid) &&& x.ridMask != 0 then some 2
  else if x.pasidEn && pasid != some x.pasid then some 3
  else none

/-- The region and the reason with which a request is refused, or the region in which it passes. In Lantern mode the
placement table refuses every request. -/
def placeCheck (s : State) (rid : Nat) (pasid : Option Nat) (addr len : Nat) (write : Bool) : Option Nat × Option Nat :=
  match (if s.boot.lantern then none else regionAt s addr) with
  | none => (none, some 0)
  | some r => (some r, placeRefusal (s.region r) rid pasid addr len write)

/-- A refusal is counted and recorded (R434, R447). -/
def refusePlacement (port rid addr : Nat) (r : Option Nat) (reason : Nat) (s : State) : State :=
  let s := match r with
    | some r => s.modRegion r fun x => { x with refused := satAdd 32 x.refused 1 }
    | none => s
  if s.plc.refValid then s
  else
    let s := { s with plc := { s.plc with
      refValid := true, refReason := reason, refPort := port, refRid := rid, refLine := addr % 2 ^ 48 / 128 } }
    formRecord 0 { cls := 0x0A, severity := sevCorrected, code := 0x20, addr := addr / 128 * 128, info0 := rid } (evtSend 9 s)

/-- One line's part of a direct write waits in its memory controller for slots of class PLC (R434, R435). -/
def queueDirect (id a : Nat) (bs : List Byte) (s : State) : State :=
  let off := a % 128
  askLine { owner := owFree clsPlc, die := 0, line := a / 128, write := true, who := .placement id
            data := List.replicate off 0 ++ bs ++ List.replicate (128 - off - bs.length) 0
            mask := if bs.length = 128 then [] else lineMask off bs.length } s

/-- A direct write, line by line; the answer counts the lines. -/
def queueDirects (id : Nat) : Nat → Nat → List Byte → State → Nat × State
  | 0, _, _, s => (0, s)
  | fuel + 1, a, bs, s =>
    if bs.isEmpty then (0, s)
    else
      let n := 128 - a % 128
      let w := queueDirects id fuel (a + n) (bs.drop n) (queueDirect id a (bs.take n) s)
      (w.1 + 1, w.2)

/-- A write that has passed is carried to memory and stays in flight until it is durable (R435, R436). -/
def placeWrite (r addr : Nat) (data : List Byte) (s : State) : State :=
  let x := s.region r
  let n := x.nextId
  let put (txns : List Nat) (reqs : Nat) (s : State) : State := s.modRegion r fun x => { x with
    nextId := n + 1, inflight := x.inflight ++ [{ id := n, bytes := data.length, txns := txns, reqs := reqs }] }
  if x.view then
    let w := queueDirects (r * 2 ^ 32 + n) (data.length / 128 + 2) addr data s
    put [] w.1 w.2
  else
    let w := ioWrite clsPlc addr data s
    put w.1 0 w.2

/-- A byte of a direct read: all ones in a line with an uncorrectable error (R236). -/
def directByte (s : State) (a : Nat) : Byte := if s.badLine a then 0xFF else memRead s.mem a

/-- A slot of a direct read has come: the read is answered with its last line. -/
def directServed (r addr len : Nat) (s : State) : State :=
  if s.asks (· == .placementRead r addr len) then s
  else s.reply { data := (List.range len).map fun i => directByte s (addr + i) }

/-- A read that has passed (R435): of a direct region in slots of class PLC, of a coherent one by RdOnce. -/
def placeRead (r addr len : Nat) (s : State) : State :=
  if len = 0 then s.reply {}
  else if (s.region r).view then askRange (owFree clsPlc) 0 addr len false (.placementRead r addr len) s
  else
    let asked := (linesOf addr len).foldl (fun (w : List Nat × State) l =>
      let q := ioRequest clsPlc mRdOnce l [] [] w.2
      (w.1 ++ [q.1], q.2)) ([], s)
    { asked.2 with plc := { asked.2.plc with reads := asked.2.plc.reads ++ [{ keys := asked.1, addr := addr, len := len }] } }

/-- The pages of the interrupt files (R459). -/
def interruptPage (addr : Nat) : Bool :=
  decide (regionBase 0 + 0x84_0000 ≤ addr) && decide (addr < regionBase 0 + 0x90_0000)

/-- ADAPTER_WRITE (R434): a translated write is handled by its physical address. -/
def execAdapterWrite (port : Fin 4) (rid : BitVec 16) (pasid : Option (BitVec 20)) (addr : Nat) (data : List Byte)
    (s : State) : Host.Outcome State Fault Refusal :=
  event s (rootPortUp s port) fun s =>
    let s := portActive port s
    if interruptPage addr then (if data.length = 4 then interruptWrite addr (leNat data) s else s)
    else match peerPort addr with
      | some d => routePeer port d true s
      | none =>
        let c := placeCheck s rid.toNat (pasid.map BitVec.toNat) addr data.length true
        match c.2, c.1 with
        | none, some r => placeWrite r addr data s
        | reason, r => refusePlacement port rid.toNat addr r (reason.getD 0) s

/-- ADAPTER_READ (R434). A read of an interrupt file's page gives 0 (DESIGN CHOICE: the AIA specification's). -/
def execAdapterRead (port : Fin 4) (rid : BitVec 16) (pasid : Option (BitVec 20)) (addr len : Nat) (s : State) :
    Host.Outcome State Fault Refusal :=
  event s (rootPortUp s port) fun s =>
    let s := portActive port s
    if interruptPage addr then s.reply { data := List.replicate len 0 }
    else match peerPort addr with
      | some d => routePeer port d false s
      | none =>
        let c := placeCheck s rid.toNat (pasid.map BitVec.toNat) addr len false
        match c.2, c.1 with
        | none, some r => placeRead r addr len s
        | reason, r => (refusePlacement port rid.toNat addr r (reason.getD 0) s).reply { aborted := true }

/-! ### Arrival counts (R436, R439) -/

/-- Bytes that have become durable are counted. -/
def countBytes (r n : Nat) (s : State) : State :=
  let x := s.region r
  let total := x.residue + n
  let k := if x.unit = 0 then 0 else total / x.unit
  let n := satAdd 32 x.arrivals k
  let s := s.modRegion r fun x => { x with
    residue := total - k * x.unit, arrivals := n, log := if k = 0 then x.log else x.log ++ [(n - x.arrivals, s.time.span, 0)] }
  if x.arrivals + k < 2 ^ 32 then s
  else
    let s := s.modRegion r fun x => { x with ovf := true }
    let s := formRecord 0 { cls := 2, severity := sevDeferred, code := 2, info0 := r } s
    (bitsSet 16 0 x.troupes).foldl (fun s t => beginAbort t s) s

/-- The oldest placement of a region, once its own writes are durable. -/
def firstDurable (x : Region) : Option Placed :=
  x.inflight.head?.filter fun p => p.txns.isEmpty && p.reqs == 0

/-- PLACEMENT_DURABLE (R436): placements are counted in the order of their arrival at the root port. -/
def execPlacementDurable (r : RegionId) (s : State) : Host.Outcome State Fault Refusal :=
  eventOf s (firstDurable (s.region r)) fun p s =>
    countBytes r p.bytes (s.modRegion r fun x => { x with inflight := x.inflight.drop 1 })

/-! ### Containment (R432) -/

/-- DOWNSTREAM_PORT_CONTAINMENT (R432, R460). The event's message goes where the MSI capability of the root-port
function says; the configuration space that holds it is the PCIe specification's (log, Scope). -/
def execDownstreamPortContainment (port : Fin 4) (_event : RootPortEvent) (s : State) :
    Host.Outcome State Fault Refusal :=
  event s true fun s => { s with plc := { s.plc with
    contained := tset s.plc.contained port true, portEvents := tmod 0 s.plc.portEvents port (· + 1) } }

end Sys2Proof.Machine
end

