-- ==== Sys2Proof/Machine/Memory.lean ====
section
/-! DEFINITION. The slots of the DRAM channels and the timetable frame of both tiers (10, 14): the requests that they serve
and the merge of partial writes (R229, R234), scrubbing (R238, R239), and temperature (R240 to R242, R320). -/

namespace Sys2Proof.Machine

open Sys2Proof

/-! ### Requests in their slots -/

/-- A finished write of a region's placement (R436). The request's id is region × 2³² + number of the placement. -/
def placementWritten (id : Nat) (s : State) : State :=
  s.modRegion (id / 2 ^ 32) fun r => { r with
    inflight := r.inflight.map fun p => if p.id = id % 2 ^ 32 then { p with reqs := p.reqs - 1 } else p }

/-- The row of R236 that a request's reads come under. -/
def MemReq.row (q : MemReq) : Nat :=
  if !q.free then rqPort
  else match q.who with
    | .window _ => rqWindow
    | .windowRead _ _ _ => rqWindow
    | .placement _ => rqWindow
    | .placementRead _ _ _ => rqWindow
    | .slot _ => rqWindow
    | _ => rqCache

/-- A line is read in a slot: its errors are recorded against the requester; an update processor or root unit that finds one
that cannot be corrected refuses its commit (R236, R321). -/
def readInSlot (q : MemReq) (e : Ecc) (s : State) : State :=
  let a := 128 * q.line
  let u := q.owner / 16 % 256
  match q.who with
  | .update g => grottoRead g u a e s
  | .root g => grottoRead g u a e s
  | _ => if q.free then eccRead a e q.row 0xFF 0xFF s else eccRead a e q.row u ((s.image.unitTroupe u).getD 0xFF) s

/-- Who waited for a request is told that it has had its slots; dropped tells a partial write whose line could not be
read. -/
def served (q : MemReq) (dropped : Bool) (s : State) : State :=
  match q.who with
  | .windowRead _ addr len => windowServed addr len s
  | .placement id => placementWritten id s
  | .placementRead r addr len => directServed r addr len s
  | .home => homeServed q.line dropped s
  | .writeBack a _ => backWritten q.line a s
  | .fabRead flow i => lineFetched (q.owner / 16 % 256 - 72) flow i q.line s
  | .fabWrite flow => lineWritten flow s
  | _ => s

/-- The bytes of a line with the masked bytes of a write over them (R234). -/
def mergeBytes (old data : List Byte) (mask : List Bool) : List Byte :=
  (List.range 128).map fun i => if mask.getD i false then data.getD i 0 else old.getD i 0

/-- A slot given to a request. A read, and a whole line's write, takes one slot. A partial write reads its line in the first
of two slots, and is dropped where that line cannot be corrected; in the second it writes the merged line, over what the
line then holds (R234, R236). -/
def serveRequest (m : Nat) (e : Ecc) (q : MemReq) (s : State) : State :=
  let a := 128 * q.line
  let gone := fun (s : State) => s.modMem m fun c => { c with reqs := c.reqs.erase q }
  if !q.write then served q false (gone (readInSlot q e s))
  else if q.mask.isEmpty then
    let s := if q.data.isEmpty then s else storeLine a q.data s
    served q false (gone (if q.poison then { s with coh := { s.coh with poisoned := withOne s.coh.poisoned q.line } } else s))
  else if q.readDone then
    served q false (gone (if q.data.isEmpty then s else cancelWriteBack a (s.store a (mergeBytes (s.bytes a 128) q.data q.mask))))
  else
    let bad := effEcc s a e == .uncorrectable
    let s := eccRead a e rqMerge 0xFF 0xFF s
    let mark := fun (r : MemReq) => if r = q then { r with readDone := true } else r
    if bad then served q true (gone s) else s.modMem m fun c => { c with reqs := c.reqs.map mark }

/-! ### Scrubbing (R231, R238, R239) -/

/-- Whether the refresh entry at position p scrubs (R231). -/
def scrubs (hot : Bool) (p : Nat) : Bool := if p % 16 = 15 then !hot && p % 32 == 15 else true

/-- One channel's part of a scrub entry. The position advances once all channels have taken theirs. -/
def scrubEntry (m ch : Nat) (e : Ecc) (s : State) : State :=
  let advance (c : MemCtl) : MemCtl :=
    if c.scrubPos + 1 < chanLines m then { c with scrubPos := c.scrubPos + 1, scrubbed := [] }
    else { c with scrubPos := 0, scrubbed := [], passes := satAdd 16 c.passes 1 }
  let s := if (s.memCtl m).scrubbed.contains ch then s.modMem m advance else s
  let c := s.memCtl m
  let s :=
    if (tget none c.writeBack ch).isSome then s.modMem m fun c => { c with writeBack := tset c.writeBack ch none }
    else
      let a := memBase m + lineOffset (s.image.linearLimit m) m ch c.scrubPos
      let found := effEcc s a e
      let s := eccRead a e rqScrub 0xFF 0xFF s
      if found = .corrected then s.modMem m fun c => { c with writeBack := tset c.writeBack ch (some c.scrubPos) } else s
  let s := s.modMem m fun c => { c with scrubbed := withOne c.scrubbed ch }
  if (s.memCtl m).scrubbed.length = 2 ^ chanBits m then s.modMem m advance else s

/-- The owner words whose slots carry requests: a free class, the boot class, or a port of a unit. -/
def carriesRequests (w : Nat) : Bool := w == owBoot || w / 2 ^ 28 == 2 || w / 2 ^ 28 == 5

/-- MEMORY_SLOT (R19, R22, R77, R78, R228 to R232, R234, R238, R239): a slot of a channel, counted in the timetable frame that
stands open, begins. It serves the first request of its owner, or, of an update processor's port 0, the next input line
that its program wants (R335). A slot of a tile's port moves its line in the port's own row. -/
def execMemorySlot (m : MemoryId) (channel slot : Nat) (e : Ecc) (s : State) : Host.Outcome State Fault Refusal :=
  let g := s.time.ttFrames * memSlots m + slot
  event s (decide (channel < 2 ^ chanBits m) && decide (slot < memSlots m) && decide (tget 0 (s.memCtl m).nextSlot channel ≤ g) &&
      s.beginsNow (memSlotAt m g)) fun s =>
    let s := s.modMem m fun c => { c with nextSlot := tset c.nextSlot channel (g + 1) }
    let w := ownerWord s m channel slot
    if carriesRequests w then
      match slotTaker s m channel w (memSlotAt m g) with
      | some q => serveRequest m e q s
      | none =>
        let u := w / 16 % 256
        if w / 2 ^ 28 = 5 ∧ 64 ≤ u ∧ u < 68 ∧ w % 16 = 0 then grottoFetch (u - 64) m channel e s else s
    else if w / 2 ^ 28 = 4 ∧ scrubs (s.memCtl m).hot slot = true then scrubEntry m channel e s
    else s

/-! ### Temperature (R240 to R243, R320, R353) -/

/-- The reading of a memory in a frame, in sixteenths of a degree; a memory without one has none (R242). -/
def readingOf (temps : List TempSample) (m : Nat) : Option Int := (temps.find? fun t => t.memory == m).bind TempSample.reading

/-- The reading by which the actions of R240 start: no valid reading counts as above 100 and not above 105 (R242). -/
def actingReading (r : Option Int) : Int := r.getD (101 * 16)

/-- A valid reading at or below a bound in degrees ends an action. -/
def readsAtMost (r : Option Int) (n : Int) : Bool := r.any fun t => decide (t ≤ 16 * n)

/-- The memories whose readings end a halt of memory m: the stacks of its die, or the Grotto's slow tier. -/
def haltPeers (m : Nat) : List Nat := if m < 12 then [m / 3 * 3, m / 3 * 3 + 1, m / 3 * 3 + 2] else [m]

/-- The controller of memory m after the readings of a frame. -/
def MemCtl.heat (c : MemCtl) (temps : List TempSample) (m : Nat) : MemCtl :=
  let r := readingOf temps m
  let t := actingReading r
  let hot := decide (85 * 16 < t) || (c.hot && !readsAtMost r 80)
  { c with
    temp := r.getD c.temp
    peak := max c.peak (r.getD 0)
    sensorFail := r.isNone
    hot := hot
    hotFrames := if hot then satAdd 32 c.hotFrames 1 else c.hotFrames
    warn := decide (95 * 16 < t) || (c.warn && !readsAtMost r 90)
    halt := decide (100 * 16 < t) || (c.halt && !(haltPeers m).all fun k => readsAtMost (readingOf temps k) 92) }

/-- A THERMAL record of memory m. The sensor of a Grotto's slow tier has no index in R264, and a sensor that gave no
reading has no reading to record: those fields are free. -/
def thermalRecord (m code severity : Nat) (r : Option Int) (s : State) : State :=
  let s := s.draw
  formRecord (memDie m)
    { cls := 7, severity := severity, code := code
      info0 := if m < 12 then m else (Config.freeWord64 s.fresh).toNat
      info1 := match r with
        | some t => wrapInt 64 t
        | none => (Config.freeWord64 s.fresh).toNat } s

/-- One memory takes the readings of a frame: its bits, its records and its router messages. -/
def heatMemory (temps : List TempSample) (m : Nat) (s : State) : State :=
  let c := s.memCtl m
  let r := readingOf temps m
  let s := s.modMem m fun c => c.heat temps m
  let d := s.memCtl m
  let s := if d.warn && !c.warn then evtSend 4 s else s
  let s := if d.halt && !c.halt then evtSend 4 s else s
  let s := if d.sensorFail && !c.sensorFail then thermalRecord m 4 sevCorrected r s else s
  let s := if d.warn && !c.warn && !d.sensorFail then thermalRecord m 1 sevCorrected r s else s
  let s := if d.halt && !c.halt && !d.sensorFail then thermalRecord m 2 sevCorrected r s else s
  if 105 * 16 < actingReading r then thermalRecord m 3 sevFatal r s else s

/-- The alert output: a memory's alert condition or a die's logic alert is in force (R240, R580). -/
def settleAlert (s : State) : State :=
  { s with elec := { s.elec with
      alert := ((List.range 16).any fun m => (s.memCtl m).warn) || !s.elec.hotDies.isEmpty } }

/-- TIMETABLE_FRAME_START (R78, R231, R240 to R242, R320): due each time span time reaches a multiple of 65,536. -/
def execTimetableFrameStart (temps : List TempSample) (s : State) : Host.Outcome State Fault Refusal :=
  event s (s.time.span / 65536 != s.time.ttFrames) fun s =>
    let s := { s with time := { s.time with ttFrames := s.time.span / 65536 } }
    settleAlert ((List.range 16).foldl (fun s m => heatMemory temps m s) s)

end Sys2Proof.Machine
end

