-- ==== Sys2Proof/Machine/Frames.lean ====
section
/-! DEFINITION. The opening of a frame (R8, R259): duty counts (R56, R132), credit returns (R286), overruns (R249,
R283), missed marks (R261), rails and logic temperatures (R574, R580) and telemetry (R264 to R266); ERR_FATAL (R555,
R571) and the telemetry registers (R270 to R272). -/

namespace Sys2Proof.Machine

open Sys2Proof

/-! ### Tiles and flows -/

/-- R132: a tile's counts of frame f, which has ended; what lies before the new frame is dropped. -/
def Tile.closeFrame (f : Nat) (x : Tile) : Tile :=
  { x with
    dutyArray := activeIn x.arrayActive f
    dutyVector := activeIn x.vectorActive f
    arrayActive := x.arrayActive.filter fun p => decide (2000 * f + 2000 ≤ p.2)
    vectorActive := x.vectorActive.filter fun p => decide (2000 * f + 2000 ≤ p.2)
    dutyRaised := x.dutyRaised.filter fun d => decide (2 * f + 2 ≤ d) }

/-- R286: the lines completed in the frame that has ended go back as credits to the package before; the message leaves the
model. -/
def FlowCtx.returnCredits (x : FlowCtx) : FlowCtx := { x with returned := x.completed, completed := 0 }

/-- A port at a mark: its frame of slot flits ends and its opener goes (R278, R280), the frame is counted if it kept no
bounds (R283), and a fenced port is up before the mark (R292). -/
def Port.markPassed (x : Port) (opener : List Byte) : Port :=
  let x := if x.overran then { x with overrun := satAdd 16 x.overrun 1, overran := false } else x
  let x := if x.state = psFenced ∨ x.state = psActive then { x with txBase := (x.txBase + 1000) % 4096 } else x
  { x with
    sentOpener := if x.state = psFenced ∨ x.state = psActive ∨ x.state = psMiswired then opener else x.sentOpener
    upBefore := x.upBefore || x.state == psFenced }

/-- R297: what a port's forward error correction has counted. -/
def countFec (f : FecSample) (s : State) : State :=
  s.modPort f.port fun x => { x with fecCorr := satAdd 32 x.fecCorr f.corrected, fecUncorr := satAdd 16 x.fecUncorr f.uncorrectable }

/-- The compute die whose paths a Strings message waits on: that of the router that it waits at, else that of the object. -/
def waitingDie (i : Image) (m : StrMsg) : Nat :=
  let p := strPath i m
  if 1 ≤ p.1 ∧ p.1 ≤ 4 then p.1 else p.2

/-- R249: class-4 messages that wait on compute die c's paths as the frame ends. -/
def carryOver (c : Nat) (s : State) : State :=
  let n := s.str.msgs.countP fun m => strClass m == 4 && waitingDie s.image m == 1 + c
  { s with str := { s.str with
      overrun := tset s.str.overrun c (satAdd 32 (tget 0 s.str.overrun c) n)
      overrunTotal := tset s.str.overrunTotal c (tget 0 s.str.overrunTotal c + n) } }

/-- Slots of a link that lie before the last frame are forgotten. -/
def pruneTaken (k frame : Nat) (x : Link) : Link :=
  match linkPeer (k / 8) (k % 8) with
  | some e => { x with taken := x.taken.filter fun g => decide (frame ≤ g / linkSlots (k / 8) e + 1) }
  | none => x

/-- R261, R269: a frame that ended without a mark from the time parent. -/
def missMark (s : State) : State :=
  if (markPort s).isNone then s
  else if s.str.gotMark then { s with str := { s.str with gotMark := false } }
  else { s with str := { s.str with
    missed := satAdd 16 s.str.missed 1, sinceMark := s.str.sinceMark + 1, marksRun := 0, joinRun := 0, marksOk := false } }

/-! ### Rails (R573, R574) -/

/-- A rail's limits: regulation window and warning window in tenths of mV, and maximum current in mA. -/
structure RailLimits where
  regLo : Nat
  regHi : Nat
  warnLo : Nat
  warnHi : Nat
  maximum : Nat
deriving DecidableEq, Repr

/-- A rail with ±5 % and ±3 % windows about a nominal value in mV. -/
def aroundRail (mv amps : Nat) : RailLimits := ⟨mv * 95 / 10, mv * 105 / 10, mv * 97 / 10, mv * 103 / 10, amps * 1000⟩

/-- R573. -/
def railLimits (r : Nat) : RailLimits :=
  if r = 0 then ⟨114000, 126000, 116400, 123600, 400_000⟩
  else if r = 1 then ⟨17100, 18900, 17460, 18540, 5000⟩
  else if r ≤ 5 then aroundRail 700 1050
  else if r ≤ 9 then aroundRail 1050 90
  else if r = 10 then aroundRail 750 560
  else if r ≤ 14 then aroundRail 750 70
  else if r ≤ 18 then aroundRail 1050 40
  else if r = 19 then aroundRail 850 500
  else aroundRail 1200 3

/-- Whether a sample lies inside the warning window, and inside regulation. -/
def railInWindow (x : RailSample) : Bool :=
  let l := railLimits x.rail
  decide (l.warnLo ≤ 10 * x.mv) && decide (10 * x.mv ≤ l.warnHi)
def railOut (x : RailSample) : Bool :=
  let l := railLimits x.rail
  decide (10 * x.mv < l.regLo) || decide (l.regHi < 10 * x.mv) || decide (l.maximum < x.ma)
def railWarns (x : RailSample) : Bool := !railInWindow x || decide ((railLimits x.rail).maximum * 9 < 10 * x.ma)

/-- The POWER record of a rail. The host die forms it. -/
def railRecord (x : RailSample) (code severity : Nat) (s : State) : State :=
  formRecord 0 { cls := 8, severity := severity, code := code, info0 := x.rail, info1 := x.mv, info2 := x.ma } s

/-- R574: one rail's sample of a frame, but for what R574 resets. A rail that has warned warns again only after 16 consecutive frames inside its
warning window. -/
def sampleRail (x : RailSample) (s : State) : State :=
  if 20 < x.rail then s
  else
    let s := { s with elec := { s.elec with railMw := tset s.elec.railMw x.rail (x.mv * x.ma / 1000) } }
    let old := tget none s.elec.warned x.rail
    let mark (v : Option Nat) (s : State) : State := { s with elec := { s.elec with warned := tset s.elec.warned x.rail v } }
    match old with
    | some n =>
      let n := if railInWindow x then n + 1 else 0
      mark (if 16 ≤ n then none else some n) s
    | none => if railWarns x then railRecord x 1 sevCorrected (mark (some 0) s) else s

/-- R574: a rail out of regulation. -/
def tripRail (x : RailSample) (s : State) : State :=
  if x.rail ≤ 20 ∧ railOut x = true then railRecord x 2 sevFatal s else s

/-! ### Logic temperatures (R580) -/

/-- R580: one die's logic reading of a frame, in sixteenths of a degree. A frame without a reading counts as above
105 °C and not above 115 °C. -/
def sampleLogic (samples : List LogicSample) (d : Nat) (s : State) : State :=
  let r := (samples.find? fun x => x.die == d).bind LogicSample.reading
  let t := r.getD (106 * 16)
  let was := s.elec.hotDies.contains d
  let hot := decide (105 * 16 < t) || (was && !r.any fun v => decide (v ≤ 100 * 16))
  let s := { s with elec := { s.elec with
    hotDies := if hot then withOne s.elec.hotDies d else without s.elec.hotDies d
    logic := match r with
      | some v => tset s.elec.logic d v
      | none => s.elec.logic } }
  let record (code severity : Nat) (s : State) : State :=
    let s := s.draw
    formRecord d { cls := 7, severity := severity, code := code, info0 := 16 + d
                   info1 := match r with
                     | some v => wrapInt 64 v
                     | none => (Config.freeWord64 s.fresh).toNat } s
  let s := if r.isNone then record 4 sevCorrected s
    else if hot && !was then record 1 sevCorrected s else s
  if 115 * 16 < t then record 3 sevFatal s else s

/-! ### On-die SRAM (R556) -/

/-- The die that holds a store. -/
def sramDie : SramPlace → Nat
  | .tile t => 1 + t.val / 12
  | .reduction c _ => 1 + c.val
  | .cacheData a _ => if a.val < 8 then 0 else a.val - 7
  | .cacheTag d => d.val
  | .table d => d.val
  | .rootStore g => 5 + g.val

/-- The kind of a store. -/
def sramKind : SramPlace → Nat
  | .tile _ => 1
  | .reduction _ _ => 2
  | .cacheData _ _ => 3
  | .cacheTag _ => 4
  | .table _ => 5
  | .rootStore _ => 6

/-- The unit that a record of the store names; caches and tables are no unit's. -/
def sramUnit : SramPlace → Nat
  | .tile t => t.val
  | .reduction c _ => 48 + c.val
  | .rootStore g => 68 + g.val
  | _ => 0xFF

/-- The troupe that an uncorrectable error aborts: the tile's, the owner of the region (R45), or, in the reorder area, the
reduction engine's. -/
def sramTroupe (i : Image) : SramPlace → Nat
  | .tile t => (i.unitTroupe t.val).getD 0xFF
  | .reduction c r =>
    if r.val = 16 then (i.unitTroupe (48 + c.val)).getD 0xFF
    else ((i.bindRec (0xF0 + c.val) r.val).map BindRec.troupe).getD 0xFF
  | _ => 0xFF

/-- What an uncorrectable error does besides its record: a cached line is poisoned (R236), a commit vote refused (R339). -/
def sramSpoils : SramPlace → State → State
  | .cacheData a line, s =>
    if (s.cline a.val line).st = .I then s else s.setCline a.val line { s.cline a.val line with poison := true }
  | .rootStore g, s => refuseCommit g.val s
  | _, s => s

/-- R556: the record of one error, and its effect. -/
def sramError (x : SramError) (s : State) : State :=
  let p := x.place
  let base : ErrRec := { unit := sramUnit p, code := 3, info0 := sramKind p }
  if x.corrected then formRecord (sramDie p) { base with cls := 3, severity := sevCorrected } s
  else
    let tr := sramTroupe s.image p
    formRecord (sramDie p) { base with
      cls := 4
      severity := if sramKind p = 4 ∨ sramKind p = 5 then sevFatal else sevDeferred
      troupe := tr
      sceneId := if tr = 0xFF then 0 else (s.troupe tr).sceneId
      info1 := sramKind p - 1 } (sramSpoils p s)

/-- The errors of a frame on dies that run, in the order of R554: corrected before uncorrectable, then by unit. -/
def sramErrors (l : List SramError) (s : State) : State :=
  let up := l.filter fun x => sramDie x.place == 0 || s.dieUp (sramDie x.place)
  (up.insertionSort fun x y => 256 * bit (!x.corrected) + sramUnit x.place ≤ 256 * bit (!y.corrected) + sramUnit y.place).foldl
    (fun s x => sramError x s) s

/-! ### Telemetry (R264 to R266, R270 to R272) -/

/-- Slots of the ring. -/
def telSlots (s : State) : Nat := 256 * 2 ^ s.tel.size

/-- R265: the bytes of a record. -/
def telBytes (x : TelRec) (seq : Nat) : List Byte :=
  leBytes 1 x.kind ++ leBytes 1 x.die ++ leBytes 2 x.index ++ leBytes 4 seq ++ leBytes 8 x.spanTime ++
    leBytes 8 x.value.toNat ++ leBytes 8 0

/-- R266: a record is written coherently through its line's home, or dropped where it would make wr equal rd. A ring
outside both tiers takes no record (DESIGN CHOICE). -/
def telWrite (x : TelRec) (s : State) : State :=
  let seq := s.tel.seq
  let s := { s with tel := { s.tel with seq := (seq + 1) % 2 ^ 32 } }
  let next := (s.tel.wr + 1) % telSlots s
  if next = s.tel.rd then { s with tel := { s.tel with dropped := satAdd 16 s.tel.dropped 1 } }
  else
    let a := s.tel.base + 32 * s.tel.wr
    let s := { s with tel := { s.tel with wr := next } }
    if inTier a 32 then (ioWrite clsCoh a (telBytes x seq) s).2 else s

/-- The samples of a frame, by kind and index, of the kinds that are enabled (R264). Rails 0 and 1 are inputs and have no
regulator in the package (R573). -/
def telSamples (s : State) : List TelRec :=
  let at_ := s.time.span
  let kind (k : Nat) (l : List TelRec) : List TelRec := if bitOf s.tel.enable (k - 1) then l else []
  kind 1 ((List.range 19).map fun r => ⟨1, 0, r + 2, at_, BitVec.ofNat 64 (tget 0 s.elec.railMw (r + 2))⟩) ++
  kind 2 ((List.range 12).map (fun m => ⟨2, memDie m, m, at_, BitVec.ofInt 64 (s.memCtl m).temp⟩) ++
    (List.range 9).map fun d => ⟨2, d, 16 + d, at_, BitVec.ofInt 64 (tget 0 s.elec.logic d)⟩) ++
  kind 3 ((List.range 16).map fun m => ⟨3, memDie m, m, at_, BitVec.ofNat 64 (s.memCtl m).ceTotal⟩) ++
  kind 4 ((List.range 4).map fun c => ⟨4, 1 + c, c, at_, BitVec.ofNat 64 (tget 0 s.str.overrunTotal c)⟩)

/-- Telemetry of a frame (R264). -/
def telFrame (s : State) : State :=
  if s.tel.interval = 0 ∨ s.frame % s.tel.interval ≠ 0 then s
  else (telSamples s).foldl (fun s x => telWrite x s) s

/-- A write of CTL_TEL_CTL (R271, R272). A reserved size leaves size unchanged (DESIGN CHOICE). -/
def writeTelCtl (v : Word) (s : State) : State :=
  let w := v.toNat
  let i := bitsOf w 48 16
  let size := bitsOf w 44 4
  { s with tel := { s.tel with
    interval := if 1 ≤ i ∧ i ≤ 15 then 16 else i
    size := if size ≤ 12 then size else s.tel.size
    enable := bitsOf w 0 4
    wr := 0 } }

/-- A write of CTL_TEL_BASE (R270, R272). -/
def writeTelBase (v : Word) (s : State) : State :=
  { s with tel := { s.tel with base := bitsOf v.toNat 12 36 * 4096, wr := 0 } }

/-- TELEMETRY_CONFIG_WRITE (R272): register 0 is CTL_TEL_BASE, 1 CTL_TEL_CTL. -/
def execTelemetryConfigWrite (reg : Fin 2) (v : Word) (s : State) : Host.Outcome State Fault Refusal :=
  event s true (if reg.val = 0 then writeTelBase v else writeTelCtl v)

/-! ### The frame -/

/-- The time at which the next frame opens: the next multiple of 4,000 of a 64-bit count (R8, R259). -/
def openFrame (s : State) : State :=
  let next := min ((s.time.span / 4000 + 1) * 4000) (2 ^ 64)
  { s with time := { s.time with span := next % 2 ^ 64, csr := s.time.csr + (next - s.time.span) / 40 } }

/-- Links, ports, flows and tiles at the opening of a frame. -/
def turnFrame (ended : Nat) (fec : List FecSample) (links : List LinkSample) (s : State) : State :=
  let s := (List.range 4).foldl (fun s c => carryOver c s) s
  let s := missMark (openFrame s)
  let s := fec.foldl (fun s f => countFec f s) s
  let s := links.foldl (fun s l => s.modLink l.die l.link fun x => { x with replays := satAdd 16 x.replays l.replayed }) s
  let open_ := openerOf s
  { s with
    tiles := s.tiles.map fun p => (p.1, p.2.closeFrame ended)
    links := s.links.map fun p => (p.1, pruneTaken p.1 s.frame p.2)
    fab := { s.fab with
      flows := s.fab.flows.map fun p => (p.1, p.2.returnCredits)
      ports := s.fab.ports.map fun p => (p.1, p.2.markPassed (open_ p.1)) } }

/-- FRAME_START (R8, R36, R56, R132, R249, R259, R261, R264, R278, R283, R286, R292, R297, R523, R556, R574, R580): the
records of a die stand in the order of R554, class, then code. sram lists the errors found in on-die SRAM. -/
def execFrameStart (rails : List RailSample) (logic : List LogicSample) (fec : List FecSample) (links : List LinkSample)
    (sram : List SramError) (s : State) : Host.Outcome State Fault Refusal :=
  event s true fun s =>
    let s := turnFrame s.frame fec links s
    let s := (List.range 9).foldl (fun s d => s.modClk d fun x => x.relax) s
    let s := sramErrors sram s
    let s := settleAlert (((List.range 9).filter fun d => d == 0 || s.dieUp d).foldl (fun s d => sampleLogic logic d s) s)
    telFrame (rails.foldl (fun s r => tripRail r s) (rails.foldl (fun s r => sampleRail r s) s))

/-! ### ERR_FATAL (R555, R571) -/

/-- FATAL_COPY (R555): the first fatal record that reaches the host die replaces ERR_FATAL. -/
def execFatalCopy (d : DieId) (s : State) : Host.Outcome State Fault Refusal :=
  eventOf s (if s.err.fatalCopied then none else s.err.fatalFormed.find? fun r => r.die == d.val) fun r s =>
    { s with err := { s.err with fatal := some r, fatalCopied := true } }

/-- ERR_FATAL_CLR_WRITE (R571). -/
def execErrFatalClrWrite (v : Word) (s : State) : Host.Outcome State Fault Refusal :=
  event s (bitOf v.toNat 0) fun s => { s with err := { s.err with fatal := none } }

end Sys2Proof.Machine
end

