-- ==== Sys2Proof/Machine/HostDie.lean ====
section
/-! DEFINITION. The host die (19): interrupt files (R459, R460), event routes (R464) and the release and stop of
harts (R457, R458, R465). -/

namespace Sys2Proof.Machine

open Sys2Proof

/-! ### Interrupts -/

/-- INTERRUPT_FILE_WRITE (R459, R460). -/
def execInterruptFileWrite (addr : Nat) (v : W32) (s : State) : Host.Outcome State Fault Refusal :=
  event s (interruptPage addr) (interruptWrite addr v.toNat)

/-- A write of CTL_EVT_ROUTE (R464): a hart above 95 or an eiid of 0 disables the route. -/
def writeRoute (e : Nat) (v : Word) (s : State) : State :=
  let w := v.toNat
  let hart := bitsOf w 32 7
  let eiid := bitsOf w 0 11
  let r : EvtRoute := { enable := bitOf w 63 && decide (hart ≤ 95) && eiid != 0, sLevel := bitOf w 62, hart := hart, eiid := eiid }
  { s with host := { s.host with routes := tset s.host.routes e r } }

/-- EVT_ROUTE_WRITE (R464). -/
def execEvtRouteWrite (e : Fin 16) (v : Word) (s : State) : Host.Outcome State Fault Refusal :=
  event s true (writeRoute e v)

/-! ### Harts -/

/-- Whether a hart runs (R465). -/
def hartRuns (s : State) (h : Nat) : Bool :=
  if h < 64 then s.host.run0.toNat.testBit h else s.host.run1.toNat.testBit (h - 64)

/-- Whether a hart's run bit can change: hart 0 never stops (R465), and in Lantern mode harts from 4 on are held in reset
(R458). -/
def hartOpen (s : State) (h : Nat) : Bool := h != 0 && decide (h < 96) && !(s.boot.lantern && decide (4 ≤ h))

/-- A hart's run bit is set or cleared (R457). A released hart starts at CTL_HART_ENTRY in machine mode, its registers at their
values at reset; a stopped one loses them. -/
def setHart (h : Nat) (run : Bool) (s : State) : State :=
  if hartOpen s h && hartRuns s h != run then
    let s := { s with host :=
      if h < 64 then { s.host with run0 := s.host.run0 ^^^ BitVec.ofNat 64 (2 ^ h) }
      else { s.host with run1 := s.host.run1 ^^^ BitVec.ofNat 32 (2 ^ (h - 64)) } }
    if run then s.modHart h fun _ => { pc := s.host.entry } else { s with host := { s.host with harts := tdel s.host.harts h } }
  else s

/-- The run bits of harts base to base + n − 1 take a written word (R465). -/
def writeRun (base n w : Nat) (s : State) : State :=
  (List.range n).foldl (fun s i => setHart (base + i) (bitOf w i) s) s

/-- HART_RELEASE (R457). -/
def execHartRelease (h : HartId) (s : State) : Host.Outcome State Fault Refusal := event s true (setHart h true)

/-- HART_STOP (R457): the hart's dirty lines go back to the L3, where the state already has their bytes, and its
architectural state is lost. -/
def execHartStop (h : HartId) (s : State) : Host.Outcome State Fault Refusal := event s true (setHart h false)

/-! ### CSRs (R449 to R453)

The numbers of the CSRs are those of the RISC-V manuals (PRESUMED, log 116). No row of the table executes an instruction. -/

/-- A CSR of a hart; none: no such CSR (R450: Zkr, and with it seed, is absent). -/
def hartCsr (s : State) (h n : Nat) : Option Word :=
  let x := s.hart h
  if n = 0xF11 then some 0
  else if n = 0xF12 then some 0x8000_0000_0000_0059
  else if n = 0xF13 then some 1
  else if n = 0xF14 then some (BitVec.ofNat 64 h)
  else if n = 0xC01 then some (BitVec.ofNat 64 s.time.csr)
  else if n = 0x015 then none
  else if 0x3A0 ≤ n ∧ n < 0x3B0 then
    (if n % 2 = 0 then some (BitVec.ofNat 64 (leNat ((List.range 8).map fun k => tget 0 x.pmpCfg (4 * (n - 0x3A0) + k)))) else none)
  else if 0x3B0 ≤ n ∧ n < 0x3F0 then some (tget 0 x.pmpAddr (n - 0x3B0))
  else if n = 0x7A0 then some (BitVec.ofNat 64 x.trigger)
  else if n = 0x7A1 then some (tget {} x.triggers x.trigger).data1
  else if n = 0x7A2 then some (tget {} x.triggers x.trigger).data2
  else if n = 0x7A3 then some (tget {} x.triggers x.trigger).data3
  else if 0xB03 ≤ n ∧ n < 0xB20 then some (tget 0 x.counters (n - 0xB00))
  else if 0xC03 ≤ n ∧ n < 0xC20 then some (tget 0 x.counters (n - 0xC00))
  else if 0x323 ≤ n ∧ n < 0x340 then some (tget 0 x.events (n - 0x320))
  else some (tget 0 x.csrs n)

/-- A value as the CSR takes it: satp keeps its value for a mode other than Bare, Sv39 and Sv48 (R450), and CBIE 0b11 of menvcfg
and senvcfg is taken as 0b01 (R451). -/
def csrTaken (n : Nat) (old v : Word) : Word :=
  if n = 0x180 then (if [0, 8, 9].contains (v.toNat / 2 ^ 60) then v else old)
  else if n = 0x30A ∨ n = 0x10A then
    (match bitsOf v.toNat 4 2 with
    | 3 => v &&& ~~~(0x20#64)
    | 2 => (v &&& ~~~(0x30#64)) ||| (old &&& 0x30#64)
    | _ => v)
  else v

/-- A CSR of a hart written: a PMP entry, a trigger, a counter or one of the others; those that identify the hart, and time,
are read only. -/
def Hart.writeCsr (x : Hart) (n : Nat) (v : Word) : Hart :=
  let tr := fun (f : HartTrigger → HartTrigger) => { x with triggers := tmod {} x.triggers x.trigger f }
  if 0xC00 ≤ n then x
  else if 0x3A0 ≤ n ∧ n < 0x3B0 then
    (if n % 2 = 0 then { x with pmpCfg := tload x.pmpCfg (4 * (n - 0x3A0)) (leBytes 8 v.toNat) } else x)
  else if 0x3B0 ≤ n ∧ n < 0x3F0 then { x with pmpAddr := tset x.pmpAddr (n - 0x3B0) v }
  else if n = 0x7A0 then (if v.toNat < 8 then { x with trigger := v.toNat } else x)
  else if n = 0x7A1 then tr fun t => { t with data1 := v }
  else if n = 0x7A2 then tr fun t => { t with data2 := v }
  else if n = 0x7A3 then tr fun t => { t with data3 := v }
  else if 0xB03 ≤ n ∧ n < 0xB20 then { x with counters := tset x.counters (n - 0xB00) v }
  else if 0x323 ≤ n ∧ n < 0x340 then { x with events := tset x.events (n - 0x320) v }
  else { x with csrs := tset x.csrs n (csrTaken n (tget 0 x.csrs n) v) }

end Sys2Proof.Machine
end

