-- ==== Sys2Proof/Machine/Links.lean ====
section
/-! DEFINITION. The die-to-die links (01, R13 to R17, R36): training, retrains, loss, and the host-link loss (R423). -/

namespace Sys2Proof.Machine

open Sys2Proof

/-- Link states of R36. -/
def lsReset : Nat := 0
def lsTraining : Nat := 1
def lsActive : Nat := 2
def lsRetraining : Nat := 3
def lsDown : Nat := 4

/-- R13: modules of the link between two dies. -/
def linkModules (d e : Nat) : Nat := if 5 ≤ d ∨ 5 ≤ e then 2 else if d = 0 ∨ e = 0 then 4 else 6

/-- Both ends of the link from d to e change. -/
def modLinkEnds (d e : Nat) (f : Link → Link) (s : State) : State :=
  match linkTo d e, linkTo e d with
  | some l, some l' => (s.modLink d l f).modLink e l' f
  | _, _ => s

/-- LINK_TRAINED (R14, R15, R36): the first training ends; the link is up only with all of its modules. -/
def execLinkTrained (d : DieId) (l : LinkId) (modules : BitVec 6) (s : State) : Host.Outcome State Fault Refusal :=
  eventOf s (if (s.link d l).state = lsReset ∨ (s.link d l).state = lsTraining then linkPeer d l else none) fun e s =>
    let n := linkModules d e
    let up := modules.toNat % 2 ^ n
    let ok := up == 2 ^ n - 1
    let out (x : Nat) : Bool := x != 0 && !s.dieUp x
    if out d || out e then s
    else modLinkEnds d e (fun x => { x with state := if ok then lsActive else lsDown, modules := up }) s

/-- LINK_RETRAIN_START (R17, R36): the link leaves the active state. modules_up keeps its value while the link retrains
(DESIGN CHOICE, log 140). -/
def execLinkRetrainStart (d : DieId) (l : LinkId) (s : State) : Host.Outcome State Fault Refusal :=
  eventOf s (if (s.link d l).state = lsActive then linkPeer d l else none) fun e s =>
    modLinkEnds d e (fun x => { x with state := lsRetraining, retrains := satAdd 16 x.retrains 1, leftAt := s.time.span }) s

/-- Troupes with a scheduled flow in a link's timetables, both directions. -/
def troupesOnLink (i : Image) (d e : Nat) : List Nat :=
  let owners (x y : Nat) : List Nat := (((linkTo x y).bind fun l => i.linkttRec x l).map TimetableRec.owners).getD []
  ((owners d e ++ owners e d).filterMap fun w =>
    if w / 2 ^ 28 = 3 then (i.flowRec (w % 2 ^ 18)).map FlowRec.troupe else none).dedup

/-- STR cycles of 2 ms (R17). -/
def linkLimit : Nat := 8_000_000

/-- R17: the LINK record of a retrain: deferred, one for each troupe with a flow on the link, or corrected. -/
def retrainRecords (d l e : Nat) (s : State) : State :=
  let r : ErrRec := { cls := 5, severity := sevCorrected, code := 1, info0 := l, info1 := e }
  match troupesOnLink s.image d e with
  | [] => formRecord d r s
  | ts => ts.foldl (fun s tr =>
      formRecord d { r with severity := sevDeferred, troupe := tr, sceneId := (s.troupe tr).sceneId } s) s

/-- Flits that the transmitter at die d has replayed towards die e are counted at its end (R36). -/
def countReplays (d e n : Nat) (s : State) : State :=
  match linkTo d e with
  | some l => s.modLink d l fun x => { x with replays := satAdd 16 x.replays n }
  | none => s

/-- LINK_UP_AGAIN (R17, R36): the link is up within 2 ms, and each end replays its held traffic; nothing of it is lost. -/
def execLinkUpAgain (d : DieId) (l : LinkId) (n : Replays) (s : State) : Host.Outcome State Fault Refusal :=
  let x := s.link d l
  eventOf s (if x.state = lsRetraining ∧ s.time.span < x.leftAt + linkLimit then linkPeer d l else none) fun e s =>
    let s := modLinkEnds d e (fun x => { x with state := lsActive, modules := 2 ^ linkModules d e - 1 }) s
    retrainRecords d l e (countReplays e d n.far (countReplays d e n.near s))

/-- LINK_LOSS_TIMEOUT (R17, R36): not up within 2 ms; no module of the link is up any more (DESIGN CHOICE, log 140). A host link's loss is handled by HOST_LINK_LOSS. -/
def execLinkLossTimeout (d : DieId) (l : LinkId) (s : State) : Host.Outcome State Fault Refusal :=
  let x := s.link d l
  eventOf s (if x.state = lsRetraining ∧ x.leftAt + linkLimit ≤ s.time.span then linkPeer d l else none) fun e s =>
    let s := modLinkEnds d e (fun x => { x with state := lsDown, modules := 0 }) s
    if d.val = 0 ∨ e = 0 then s
    else formRecord d { cls := 5, severity := sevFatal, code := 2, info0 := l, info1 := e } s

/-- R423, R553, R555: the fatal LINK record 0x07 of the host die. It resets no package; it is copied to ERR_FATAL unless
another fatal record already has been for a reset that is due. -/
def hostLinkRecord (e : Nat) (s : State) : State :=
  let r : ErrRec :=
    { cls := 5, severity := sevFatal, code := 7, info0 := e - 1, info1 := e, spanTime := s.time.span, flags := 2,
      seq := (s.dieErr 0).seq }
  let copy := { r with flags := 2 + bit (s.dieErr 0).dropFlag }
  let s := s.modDieErr 0 fun x => x.put r
  if s.err.fatalCopied then s else { s with err := { s.err with fatal := some copy } }

/-- HOST_LINK_LOSS (R408, R423, R424, R440): a host link that was lost resets every device die. The host die's own reset
without a package reset is no event of the table. -/
def execHostLinkLoss (d : DieId) (s : State) : Host.Outcome State Fault Refusal :=
  event s (d.val != 0 && (s.link 0 (d - 1)).state == lsDown && s.dieUp d) fun s => loseDevice (hostLinkRecord d s)

end Sys2Proof.Machine
end

