-- ==== Sys2Proof/Machine/ImageCheck.lean ====
section
/-! DEFINITION. The Byten image (02): its layout (R37 to R41), its records (R42 to R56), and the checks of R57 in their
order, with the section and record that a failure reports. -/

namespace Sys2Proof.Machine

open Sys2Proof

/-- A failed check: code, section and record of CTL_IMG_STATUS (R62). -/
structure ImgFault where
  code : Nat
  sec : Nat := 0xFFFF
  record : Nat := 0xFFFF_FFFF
deriving DecidableEq, Repr

/-- The first failure of a list. -/
def firstFault (l : List (Option ImgFault)) : Option ImgFault := l.findSome? id

/-- A failure with no section where a condition does not hold. -/
def demand (code : Nat) (ok : Bool) : Option ImgFault := if ok then none else some { code := code }

/-! ### Layout (R37 to R41) -/

/-- A section table entry (R39). -/
structure SecEntry where
  type : Nat
  version : Nat
  reserved : Nat
  offset : Nat
  length : Nat
  count : Nat
  size : Nat
deriving DecidableEq, Repr

/-- R39. -/
def secEntry (s : State) (base i : Nat) : SecEntry :=
  let e := s.bytes (base + 0x1000 + 32 * i) 32
  ⟨fieldAt e 0 2, fieldAt e 2 2, fieldAt e 4 4, fieldAt e 8 8, fieldAt e 0x10 8, fieldAt e 0x18 4, fieldAt e 0x1C 4⟩

/-- R38. -/
def headerOf (h : List Byte) : ImageHeader where
  kind := fieldAt h 6 2
  signedLength := fieldAt h 8 8
  imageId := fieldAt h 0x10 8
  parentId := fieldAt h 0x18 8
  epoch := fieldAt h 0x20 4
  arithRev := fieldAt h 0x24 2
  svn := fieldAt h 0x26 2
  spanClass := fieldAt h 0x28 1
  troupeCount := fieldAt h 0x29 1
  spanPackages := fieldAt h 0x2A 2
  affected := fieldAt h 0x2C 2
  targetId := fieldAt h 0x30 8
  sectionCount := fieldAt h 0x38 4

/-- The entries of an image's section table. -/
def entriesOf (s : State) (base : Nat) (h : ImageHeader) : List SecEntry := (List.range h.sectionCount).map (secEntry s base)

/-- The records of a section. -/
def recordsOf (s : State) (base : Nat) (e : SecEntry) : List (List Byte) :=
  (List.range e.count).map fun i => s.bytes (base + e.offset + e.size * i) e.size

/-- The records of the section of a type; none where the image has no such section. -/
def sectionRecords (s : State) (base : Nat) (es : List SecEntry) (type : Nat) : List (List Byte) :=
  match es.find? fun e => e.type == type with
  | some e => recordsOf s base e
  | none => []

/-- Whether bytes are all zero. -/
def allZero (bs : List Byte) : Bool := bs.all fun b => b == 0

/-- R39, R40: the entries in order, each after the end of the one before; the bytes between sections are 0. prev is the
type before, stop the end of the section before, first that no section has come yet. -/
def layoutEntries (s : State) (base signed : Nat) : Nat → Bool → Int → Nat → List SecEntry → Option ImgFault
  | _, first, _, stop, [] => demand 4 (first || allZero (s.bytes (base + stop) (signed - stop)))
  | i, first, prev, stop, e :: t =>
    if e.version != 1 || e.reserved != 0 || e.offset % 64 != 0 || e.length != e.count * e.size || decide ((e.type : Int) ≤ prev) ||
        decide (e.offset < stop) || decide (signed < e.offset + e.length) ||
        !(first || allZero (s.bytes (base + stop) (e.offset - stop))) then some { code := 4, sec := i }
    else layoutEntries s base signed (i + 1) false e.type (e.offset + e.length) t

/-- Check 0x04: R37, R39 and R40. -/
def checkLayout (s : State) (base : Nat) (h : ImageHeader) : Option ImgFault :=
  if h.signedLength % 64 != 0 || decide (64 * 2 ^ 20 < h.signedLength) || decide (h.signedLength < 0x1000 + 32 * h.sectionCount) then
    some { code := 4 }
  else layoutEntries s base h.signedLength 0 true (-1) (0x1000 + 32 * h.sectionCount) (entriesOf s base h)

/-! ### Signature and versions -/

/-- The digest that the image's signature covers. -/
def imageDigest (s : State) (base : Nat) (h : ImageHeader) : BitVec 256 := Config.sha3 (s.bytes base h.signedLength)

/-- SEC_IMGKEY (R550). -/
def imageKey (s : State) : Nat := (List.range 4).foldl (fun n j => n + (tget 0 s.sec.imgKey j).toNat * 2 ^ (64 * j)) 0

/-- R542: the package's target_id. -/
def targetId (s : State) : Nat := (Config.sha3 (Config.mldsaPublic s.sec.deviceSeed)).toNat % 2 ^ 64

/-- Checks 0x05 to 0x09. -/
def checkTrust (s : State) (base : Nat) (h : ImageHeader) : Option ImgFault :=
  let key := s.bytes (base + 0x40) 1312
  let digest := Config.sha3 key
  firstFault [
    demand 5 (digest == Config.rootKeyHash || digest.toNat == imageKey s),
    demand 6 (Config.mldsaVerify key (imageDigest s base h) (s.bytes (base + h.signedLength) 2420)),
    demand 7 (decide (s.sec.imgSvn ≤ h.svn)),
    demand 8 (h.targetId == 0 || h.targetId == targetId s),
    demand 9 (h.arithRev == 1)]

/-! ### Sections (R41) -/

/-- Section types and record sizes of R41. -/
def secTypes : List (Nat × Nat) :=
  [(0x10, 32), (0x11, 8), (0x12, 8), (0x20, 16400), (0x21, 16), (0x22, 45008), (0x23, 12008), (0x30, 24), (0x40, 32),
   (0x50, 8), (0x60, 64), (0x70, 8)]

/-- R41: sections that a full image needs, and those that a partial image may have. -/
def fullNeeds : List Nat := [0x10, 0x11, 0x12, 0x20, 0x21, 0x22, 0x30, 0x60, 0x70]
def partialMay : List Nat := [0x20, 0x22, 0x23, 0x40]

/-- Index of the first element of which p holds. -/
def firstIndex {α : Type} (l : List α) (p : α → Bool) : Option Nat := l.findIdx? p

/-- Check 0x0A. A type that R41 does not list is allowed for no kind. -/
def checkSections (h : ImageHeader) (es : List SecEntry) : Option ImgFault :=
  let may := if h.kind = 1 then secTypes.map Prod.fst else partialMay
  match firstIndex es fun e => !may.contains e.type with
  | some i => some { code := 0x0A, sec := i }
  | none => demand 0x0A (h.kind != 1 || fullNeeds.all fun t => es.any fun e => e.type == t)

/-! ### Records (R42 to R56) -/

/-- A little-endian 32-bit field at o of a record, as owner words are. -/
def wordsAt (r : List Byte) (o n : Nat) : List Nat := (List.range n).map fun i => fieldAt r (o + 4 * i) 4

def troupeOf (r : List Byte) : TroupeRec :=
  { troupe := fieldAt r 0 1, tiles := fieldAt r 8 8, engines := fieldAt r 0x10 4, tokenBase := fieldAt r 0x14 2
    tokenCount := fieldAt r 0x16 2, barrierBase := fieldAt r 0x18 2, barrierCount := fieldAt r 0x1A 2 }
def bindOf (r : List Byte) : BindRec :=
  { target := fieldAt r 0 1, index := fieldAt r 1 1, troupe := fieldAt r 2 1, ports := fieldAt r 4 4 }
def creditRecOf (r : List Byte) : CreditRec := { kind := fieldAt r 0 1, channel := fieldAt r 2 2, initial := fieldAt r 4 4 }
def memttOf (r : List Byte) : TimetableRec :=
  { a := fieldAt r 0 1, b := fieldAt r 1 1, slots := fieldAt r 2 2, owners := wordsAt r 0x10 4096 }
def memmapOf (r : List Byte) : MemmapRec := { memory := fieldAt r 0 1, linearLimit := fieldAt r 8 8 }
def linkttOf (r : List Byte) : TimetableRec :=
  { a := fieldAt r 0 1, b := fieldAt r 1 1, slots := fieldAt r 2 2, owners := wordsAt r 8 11250 }
def fabttOf (r : List Byte) : TimetableRec :=
  { a := fieldAt r 0 1, b := fieldAt r 1 1, slots := fieldAt r 2 2, owners := wordsAt r 8 3000 }
def routeOf (r : List Byte) : StrRouteRec :=
  { kind := fieldAt r 0 1, id := fieldAt r 2 2, tiles := fieldAt r 8 8, engines := fieldAt r 0x10 4
    upPort := fieldAt r 0x14 1, downPorts := fieldAt r 0x15 1 }
def flowOf (r : List Byte) : FlowRec :=
  { flow := fieldAt r 0 4, kind := fieldAt r 4 1, inPort := fieldAt r 5 1, outPort := fieldAt r 6 1
    address := fieldAt r 8 8, lines := fieldAt r 0x10 4, credits := fieldAt r 0x14 4, contributors := fieldAt r 0x18 2
    troupe := fieldAt r 0x1A 1, contributor := fieldAt r 0x1C 2 }
def formatRecOf (r : List Byte) : FormatRec :=
  { unit := fieldAt r 0 1, path := fieldAt r 1 1, fp8Overflow := fieldAt r 2 1, bf16Round := fieldAt r 3 1 }
def clockOf (r : List Byte) : ClockRec :=
  { hcoreDiv := fieldAt r 0 1, spanClass := fieldAt r 1 1, timeParent := fieldAt r 2 1, x := fieldAt r 4 1
    y := fieldAt r 5 1, z := fieldAt r 6 1, sizeX := fieldAt r 8 1, sizeY := fieldAt r 9 1, sizeZ := fieldAt r 0xA 1
    spanIndex := fieldAt r 0xC 2, spanCount := fieldAt r 0xE 2, spanId := fieldAt r 0x10 8 }
def powerRecOf (r : List Byte) : PowerRec :=
  { troupe := fieldAt r 0 1, arrayCap := fieldAt r 2 2, vectorCap := fieldAt r 4 2 }

/-- The image at base. -/
def imageOf (s : State) (base : Nat) (h : ImageHeader) : Image :=
  let es := entriesOf s base h
  let recs := sectionRecords s base es
  { header := h, troupes := (recs 0x10).map troupeOf, bind := (recs 0x11).map bindOf, credit := (recs 0x12).map creditRecOf
    memtt := (recs 0x20).map memttOf, memmap := (recs 0x21).map memmapOf, linktt := (recs 0x22).map linkttOf
    fabtt := (recs 0x23).map fabttOf, route := (recs 0x30).map routeOf, flow := (recs 0x40).map flowOf
    format := (recs 0x50).map formatRecOf, clock := (recs 0x60).map clockOf, power := (recs 0x70).map powerRecOf }

/-! ### Check 0x0B: fields -/

/-- A record's key (R42), as one number that orders as the fields in the order listed. -/
def keyOf (type : Nat) (r : List Byte) : Nat :=
  if type = 0x12 ∨ type = 0x30 then fieldAt r 0 1 * 2 ^ 16 + fieldAt r 2 2
  else if type = 0x40 then fieldAt r 0 4
  else if type = 0x11 ∨ type = 0x20 ∨ type = 0x22 ∨ type = 0x50 then fieldAt r 0 1 * 256 + fieldAt r 1 1
  else fieldAt r 0 1

/-- The reserved bytes of a record, as offset and length (R43 to R56). -/
def reservedOf (type : Nat) : List (Nat × Nat) :=
  if type = 0x10 then [(1, 7), (0x1C, 4)]
  else if type = 0x11 then [(3, 1)]
  else if type = 0x12 then [(1, 1)]
  else if type = 0x20 then [(4, 12)]
  else if type = 0x21 then [(1, 7)]
  else if type = 0x22 ∨ type = 0x23 then [(4, 4)]
  else if type = 0x30 then [(1, 1), (4, 4), (0x16, 2)]
  else if type = 0x40 then [(7, 1), (0x1B, 1), (0x1E, 2)]
  else if type = 0x50 then [(4, 4)]
  else if type = 0x60 then [(3, 1), (7, 1), (0xB, 1), (0x18, 40)]
  else [(1, 1), (6, 2)]

/-- Numbers of a kind of Strings object (R250). -/
def objectCount (kind : Nat) : Nat := [16384, 4096, 1024, 256].getD kind 0

/-- R53, R284, R588: a FLOW record on its own. -/
def flowFieldsOk (f : FlowRec) : Bool :=
  let combination :=
    if f.kind = 0 then decide (f.inPort ≤ 8) && decide (f.outPort ≤ 7)
    else if f.kind = 1 then decide (f.inPort ≤ 7) && f.outPort == 0xFF
    else if f.kind = 2 then decide (f.inPort ≤ 8) && f.outPort == 0xFF && (f.inPort != 8 || f.credits == 0)
    else f.kind == 3 && decide (f.inPort ≤ 7) && decide (f.outPort ≤ 7)
  let passing := f.kind == 0 && decide (f.inPort ≤ 7)
  decide (f.flow < 2 ^ 18) && combination && (passing || f.address % 128 == 0) && decide (f.troupe ≤ 15) &&
    (if f.kind = 2 then decide (1 ≤ f.contributors) && decide (f.contributors ≤ 1024) && decide (f.contributor < f.contributors)
     else f.contributors == 0 && f.contributor == 0)

/-- The ranges of the fields of one record (R43 to R56). The fields of timetables, of BIND's owners and of CLOCK's plan
belong to the checks 0x0C, 0x0D and 0x0F. -/
def fieldsInRange (type : Nat) (r : List Byte) : Bool :=
  if type = 0x10 then
    let x := troupeOf r
    decide (x.troupe ≤ 15) && decide (x.tiles < 2 ^ 48) && decide (x.engines < 2 ^ 28) &&
      decide (x.tokenBase + x.tokenCount ≤ 16384) && decide (x.barrierBase + x.barrierCount ≤ 4096)
  else if type = 0x11 then
    let x := bindOf r
    ((decide (x.target < 48) && decide (x.index < 32)) ||
      (decide (0xF0 ≤ x.target) && decide (x.target ≤ 0xF3) && decide (x.index < 16))) &&
      (decide (x.troupe ≤ 15) || x.troupe == 0xFF) && decide (x.ports < 2 ^ 10)
  else if type = 0x12 then
    let x := creditRecOf r
    decide (x.kind ≤ 1) && decide (x.channel < objectCount x.kind)
  else if type = 0x20 then
    let m := fieldAt r 0 1
    decide (m ≤ 15) && decide (fieldAt r 1 1 < 2 ^ chanBits m)
  else if type = 0x21 then
    let x := memmapOf r
    decide (x.memory ≤ 15) && x.linearLimit % 2 ^ 30 == 0 &&
      decide (x.linearLimit ≤ (if x.memory < 12 then 48 else 512) * 2 ^ 30)
  else if type = 0x22 then decide (fieldAt r 0 1 ≤ 8) && (linkPeer (fieldAt r 0 1) (fieldAt r 1 1)).isSome
  else if type = 0x23 then decide (fieldAt r 0 1 ≤ 7) && decide (fieldAt r 1 1 ≤ 1)
  else if type = 0x30 then
    let x := routeOf r
    decide (x.kind ≤ 3) && decide (x.id < objectCount x.kind) && decide (x.tiles < 2 ^ 48) && decide (x.engines < 2 ^ 28) &&
      (decide (x.upPort ≤ 7) || x.upPort == 0xFF)
  else if type = 0x40 then flowFieldsOk (flowOf r)
  else if type = 0x50 then
    let x := formatRecOf r
    decide (x.unit ≤ 47) && decide (x.path ≤ 4) && decide (x.fp8Overflow ≤ 1) && decide (x.bf16Round ≤ 1)
  else if type = 0x70 then
    let x := powerRecOf r
    decide (x.troupe ≤ 15) && decide (x.arrayCap ≤ 2000) && decide (x.vectorCap ≤ 2000)
  else true

/-- The first record of a section that breaks R42 or a range, in record order. -/
def badRecord (type : Nat) : Nat → Option Nat → List (List Byte) → Option Nat
  | _, _, [] => none
  | i, prev, r :: t =>
    let k := keyOf type r
    let ascending := type == 0x60 || prev.all fun p => decide (p < k)
    if ascending && (reservedOf type).all (fun p => allZero ((r.drop p.1).take p.2)) && fieldsInRange type r then
      badRecord type (i + 1) (some k) t
    else some i

/-- One section's failure of check 0x0B. -/
def badSection (s : State) (base i : Nat) (e : SecEntry) : Option ImgFault :=
  if secTypes.any fun t => t.1 == e.type && t.2 == e.size then
    (badRecord e.type 0 none (recordsOf s base e)).map fun n => { code := 0x0B, sec := i, record := n }
  else some { code := 0x0B, sec := i }

/-- R38: the header's fields. -/
def headerFieldsOk (s : State) (base : Nat) (h : ImageHeader) : Bool :=
  let raw := s.bytes base 0x1000
  h.imageId != 0 && (h.kind == 2 || (h.parentId == 0 && h.affected == 0)) && decide (h.spanClass ≤ 1) &&
    decide (1 ≤ h.sectionCount) && decide (h.sectionCount ≤ 16) && decide (h.troupeCount ≤ 16) && decide (1 ≤ h.spanPackages) && decide (h.spanPackages ≤ 1024) &&
    fieldAt raw 0x2E 2 == 0 && fieldAt raw 0x3C 4 == 0 && allZero (raw.drop 0x560)

/-- R53: the reduce records of one region are consistent: equal lines and contributors, each position once. -/
def regionConsistent (fs : List FlowRec) (f : FlowRec) : Bool :=
  let g := fs.filter fun x => x.kind == 2 && x.address == f.address
  g.all (fun x => x.lines == f.lines && x.contributors == f.contributors) && g.length == f.contributors &&
    (List.range f.contributors).all fun p => g.any fun x => x.contributor == p

/-- The first region that breaks R53, named by the index of its last record. -/
def badReduceRegion (fs : List FlowRec) : Option Nat :=
  ((fs.find? fun f => f.kind == 2 && !regionConsistent fs f).map fun f =>
    (fs.zipIdx.filter fun p => p.1.kind == 2 && p.1.address == f.address).map Prod.snd).bind List.getLast?

/-- R287: the first record at which the credits of the lines launched on some port exceed the forward buffer. -/
def badCreditSum (fs : List FlowRec) : Option Nat :=
  (List.range 8).findSome? fun p =>
    (List.range fs.length).find? fun i =>
      decide (16384 < ((fs.take (i + 1)).map fun f => if f.outPort = p then f.credits else 0).sum)

/-- A failure in a section named by its type. -/
def faultIn (es : List SecEntry) (code type : Nat) (record : Option Nat) : ImgFault :=
  { code := code, sec := (firstIndex es fun e => e.type == type).getD 0xFFFF, record := record.getD 0xFFFF_FFFF }

/-- A failure at a FLOW record of the structure that an image makes: its index in the image, where it is one of the image's
own. -/
def flowFault (es : List SecEntry) (code : Nat) (own all : List FlowRec) (bad : Option Nat) : Option ImgFault :=
  bad.map fun i => faultIn es code 0x40 ((all[i]?).bind fun f => firstIndex own fun g => g.flow == f.flow)

/-- The failures of a full image's FLOW records as a whole. -/
def checkFlowSums (es : List SecEntry) (fs : List FlowRec) : Option ImgFault :=
  flowFault es 0x0B fs fs ((badCreditSum fs).or (badReduceRegion fs))

/-- Check 0x0B of an image's own records. -/
def checkFields (s : State) (base : Nat) (h : ImageHeader) (es : List SecEntry) : Option ImgFault :=
  firstFault (demand 0x0B (headerFieldsOk s base h) :: es.zipIdx.map fun p => badSection s base p.2 p.1)

/-! ### Check 0x0C: binding (R44, R45, R56) -/

/-- Whether two ranges of channels or counters have a member in common; an empty one has none. -/
def rangesClash (a n b m : Nat) : Bool := decide (max a b < min (a + n) (b + m))

/-- Two TROUPE records share a unit, a token channel or a barrier counter. -/
def troupesClash (a b : TroupeRec) : Bool :=
  a.tiles &&& b.tiles != 0 || a.engines &&& b.engines != 0 ||
    rangesClash a.tokenBase a.tokenCount b.tokenBase b.tokenCount ||
    rangesClash a.barrierBase a.barrierCount b.barrierBase b.barrierCount

/-- The first TROUPE record that clashes with an earlier one. -/
def badTroupe (ts : List TroupeRec) : Option Nat :=
  (List.range ts.length).find? fun i => (ts.take i).any fun a => (ts.drop i).head?.any fun b => troupesClash a b

/-- R45. -/
def bindOk (i : Image) (b : BindRec) : Bool :=
  (b.troupe == 0xFF || decide (48 ≤ b.target) || i.unitTroupe b.target == some b.troupe) &&
    (b.troupe != 0xFF || b.ports % 128 == 0)

/-- Check 0x0C. -/
def checkBinding (i : Image) (es : List SecEntry) : Option ImgFault :=
  if i.troupes.length ≠ i.header.troupeCount then some (faultIn es 0x0C 0x10 none)
  else match badTroupe i.troupes with
    | some n => some (faultIn es 0x0C 0x10 (some n))
    | none =>
      if i.bind.length ≠ 1600 then some (faultIn es 0x0C 0x11 none)
      else match firstIndex i.bind fun b => !bindOk i b with
        | some n => some (faultIn es 0x0C 0x11 (some n))
        | none => match firstIndex i.power fun p => (i.troupeRec p.troupe).isNone with
          | some n => some (faultIn es 0x0C 0x70 (some n))
          | none =>
            if i.troupes.all fun t => i.power.any fun p => p.troupe == t.troupe then none
            else some (faultIn es 0x0C 0x70 none)

/-! ### Check 0x0D: timetables (R20 to R22, R47 to R51, R230) -/

/-- Memory ports of a unit (R47). -/
def memoryPorts (u : Nat) : Nat := if 48 ≤ u ∧ u < 52 then 0 else if 64 ≤ u ∧ u < 68 then 3 else 2

/-- A scheduled-port word (R47). -/
def portWordOk (i : Image) (w : Nat) : Bool :=
  let u := w / 16 % 256
  bitsOf w 12 16 == 0 && decide (u ≤ 75) && decide (w % 16 < memoryPorts u) && (i.unitTroupe u).isSome

/-- A scheduled-flow word: the flow has a record (DEDUCED). -/
def flowWordOk (i : Image) (w : Nat) : Bool := bitsOf w 18 10 == 0 && (i.flowRec (w % 2 ^ 18)).isSome

/-- A free-class word. -/
def freeWordOk (w : Nat) : Bool := bitsOf w 4 24 == 0 && decide (w % 16 ≤ 5)

/-- The words of a timetable of a kind. -/
def ownerKind (w : Nat) : Nat := w / 2 ^ 28

/-- R48, R230: one MEMTT record. -/
def memttOk (i : Image) (r : TimetableRec) : Bool :=
  let n := memSlots r.a
  r.slots == n && (r.owners.drop n).all (· == 0) &&
    ((r.owners.take n).zipIdx.all fun p =>
      (p.2 % 16 != 15 || p.1 == owRefresh) &&
      (p.1 == 0 || p.1 == owRefresh || (ownerKind p.1 == 2 && freeWordOk p.1) || (ownerKind p.1 == 5 && portWordOk i p.1))) &&
    decide ((if r.a < 12 then 256 else 200) ≤ r.owners.count owRefresh) &&
    decide ((if r.a < 12 then 128 else 100) ≤ r.owners.countP fun w => ownerKind w == 2)

/-- Idle, Strings, free or scheduled: the owner words of LINKTT. -/
def owStrings : Nat := 0x1000_0000

/-- R20, R21, R22, R50: one LINKTT record. -/
def linkttOk (i : Image) (r : TimetableRec) : Bool :=
  match linkPeer r.a r.b with
  | none => false
  | some e =>
    let n := linkSlots r.a e
    let ws := r.owners.take n
    let free := ws.countP fun w => ownerKind w == 2
    let sched := ws.countP fun w => ownerKind w == 3
    let strings := ws.count owStrings
    r.slots == n && (r.owners.drop n).all (· == 0) &&
      (ws.zipIdx.all fun p =>
        (p.2 % 25 != 24 || p.1 == owStrings) &&
        (p.1 == 0 || p.1 == owStrings || (ownerKind p.1 == 2 && freeWordOk p.1) || (ownerKind p.1 == 3 && flowWordOk i p.1))) &&
      (if r.a = 0 ∨ e = 0 then sched == 0 && free == n - strings
       else decide ((if r.a ≤ 4 ∧ e ≤ 4 then 450 else 250) ≤ free))

/-- R51: one FABTT record. -/
def fabttOk (i : Image) (r : TimetableRec) : Bool :=
  r.slots == 3000 && r.owners.all fun w => w == 0 || (ownerKind w == 3 && flowWordOk i w)

/-- Check 0x0D of some records of an image, against its whole structure; full images hold every channel, memory and
link end. -/
def checkSlots (i own : Image) (es : List SecEntry) (complete : Bool) : Option ImgFault :=
  if complete && own.memtt.length != 896 then some (faultIn es 0x0D 0x20 none)
  else if complete && own.memmap.length != 16 then some (faultIn es 0x0D 0x21 none)
  else if complete && own.linktt.length != 60 then some (faultIn es 0x0D 0x22 none)
  else match firstIndex own.memtt fun r => !memttOk i r with
    | some n => some (faultIn es 0x0D 0x20 (some n))
    | none => match firstIndex own.linktt fun r => !linkttOk i r with
      | some n => some (faultIn es 0x0D 0x22 (some n))
      | none => (firstIndex own.fabtt fun r => !fabttOk i r).map fun n => faultIn es 0x0D 0x23 (some n)

/-! ### Check 0x0E: flows and routes (R52, R53) -/

/-- Whether bytes a to a + n − 1 lie in one tier or in one die's reduction buffers (R53). -/
def oneTarget (a n : Nat) (tiers : Bool) : Bool :=
  let stop := a + max 1 n - 1
  (match placeOf a, placeOf stop with
  | .fast _ _, .fast _ _ => tiers
  | .slow _ _, .slow _ _ => tiers
  | .red m _, .red k _ => m == k
  | _, _ => false)

/-- One FLOW record against the structure. -/
def flowOk (i : Image) (f : FlowRec) : Bool :=
  let portOk (p : Nat) : Bool := decide (8 ≤ p) || i.portEnabled p
  (i.troupeRec f.troupe).isSome && portOk f.inPort && portOk f.outPort &&
    ((f.kind == 0 && decide (f.inPort ≤ 7)) || oneTarget f.address (128 * f.lines) (f.kind != 2))

/-- R52, R57: one STRROUTE record. A disabled port is one with a FABTT record of enabled 0, since the Strings lanes lie
outside the timetables (DEDUCED). -/
def routeOk (i : Image) (r : StrRouteRec) : Bool :=
  let disabled (p : Nat) : Bool := i.fabtt.any fun t => t.a == p && t.b == 0
  let us := maskUnits r.tiles r.engines
  let holder := if r.kind = 0 then i.tokenTroupe r.id else i.barrierTroupe r.id
  !disabled r.upPort && (List.range 8).all (fun p => !bitOf r.downPorts p || !disabled p) &&
    us.all (fun u => (i.unitTroupe u).isSome) &&
    (decide (2 ≤ r.kind) || us.isEmpty || (holder.isSome && us.all fun u => i.unitTroupe u == holder))

/-- Check 0x0E of some records of an image, against its whole structure. -/
def checkFlows (i own : Image) (es : List SecEntry) : Option ImgFault :=
  match firstIndex own.flow fun f => !flowOk i f with
  | some n => some (faultIn es 0x0E 0x40 (some n))
  | none => (firstIndex own.route fun r => !routeOk i r).map fun n => faultIn es 0x0E 0x30 (some n)

/-! ### Check 0x0F: the clock plan (R55) -/

/-- R55. -/
def clockOk (h : ImageHeader) (c : ClockRec) : Bool :=
  (c.hcoreDiv == 3 || c.hcoreDiv == 4) && c.spanClass == h.spanClass && (decide (c.timeParent ≤ 7) || c.timeParent == 0xFF) &&
    decide (1 ≤ c.sizeX) && decide (c.sizeX ≤ 16) && decide (1 ≤ c.sizeY) && decide (c.sizeY ≤ 8) &&
    decide (1 ≤ c.sizeZ) && decide (c.sizeZ ≤ 8) && decide (c.x < c.sizeX) && decide (c.y < c.sizeY) && decide (c.z < c.sizeZ) &&
    c.sizeX * c.sizeY * c.sizeZ == h.spanPackages && c.spanClass == (if h.spanPackages ≤ 64 then 0 else 1) &&
    decide (1 ≤ c.spanCount) && decide (c.spanCount ≤ 256) && decide (c.spanIndex ≤ 255)

/-- Check 0x0F. -/
def checkClock (s : State) (i : Image) (es : List SecEntry) : Option ImgFault :=
  match i.clock with
  | [c] => if clockOk i.header c && (s.img.accepted == 0 || c.hcoreDiv == s.clk.hcoreDiv) then none
      else some (faultIn es 0x0F 0x60 (some 0))
  | _ => some (faultIn es 0x0F 0x60 none)

/-! ### Partial images (R68) -/

/-- Records of new replace those of old with the same key. -/
def mergeBy {α : Type} (key : α → Nat) (old new : List α) : List α :=
  ((old.filter fun x => new.all fun y => key y != key x) ++ new).insertionSort fun x y => key x ≤ key y

/-- The structure that a partial image makes of the one in force. -/
def mergeImage (old new : Image) : Image :=
  let tt (r : TimetableRec) : Nat := r.a * 256 + r.b
  { old with memtt := mergeBy tt old.memtt new.memtt, linktt := mergeBy tt old.linktt new.linktt
             fabtt := mergeBy TimetableRec.a old.fabtt new.fabtt, flow := mergeBy FlowRec.flow old.flow new.flow }

/-- Whether an owner word of an image may change under a mask of affected troupes: idle, a free class, or a scheduled
owner of an affected troupe (R68). -/
def mayChange (i : Image) (affected w : Nat) : Bool :=
  w == 0 || ownerKind w == 2 ||
    (ownerKind w == 3 && (i.flowRec (w % 2 ^ 18)).any fun f => bitOf affected f.troupe) ||
    (ownerKind w == 5 && (i.unitTroupe (w / 16 % 256)).any fun t => bitOf affected t)

/-- The entries of one timetable that change keep R68; a table that did not exist was idle throughout. -/
def entriesInScope (old new : Image) (affected : Nat) (before after : List Nat) : Bool :=
  after.zipIdx.all fun p =>
    let w := before.getD p.2 0
    w == p.1 || (mayChange old affected w && mayChange new affected p.1)

/-- R68 without its last bullet: the first record that leaves the scope. -/
def scopeFault (old own new : Image) (es : List SecEntry) : Option ImgFault :=
  let a := own.header.affected
  let owners (l : List TimetableRec) (r : TimetableRec) : List Nat :=
    ((l.find? fun x => x.a == r.a && x.b == r.b).map TimetableRec.owners).getD []
  let port (r : TimetableRec) : List Nat := ((old.fabtt.find? fun x => x.a == r.a).map TimetableRec.owners).getD []
  let bad := fun (type : Nat) (n : Option Nat) => n.map fun n => faultIn es 0x11 type (some n)
  firstFault [
    bad 0x20 (firstIndex own.memtt fun r => !entriesInScope old new a (owners old.memtt r) r.owners),
    bad 0x22 (firstIndex own.linktt fun r => !entriesInScope old new a (owners old.linktt r) r.owners),
    bad 0x23 (firstIndex own.fabtt fun r => !entriesInScope old new a (port r) r.owners),
    bad 0x40 (firstIndex own.flow fun f => !(bitOf a f.troupe && (old.flowRec f.flow).all fun g => bitOf a g.troupe))]

/-- R68, its last bullet: the structure that results passes the checks 0x0B to 0x0E. What fails here lies in records of the
image in force, but for a region's reduce records. -/
def resultFault (own new : Image) (es : List SecEntry) : Option ImgFault :=
  firstFault [flowFault es 0x11 own.flow new.flow (badReduceRegion new.flow),
    demand 0x11 ((checkSlots new new es true).isNone && (checkFlows new new es).isNone)]

/-! ### The checks in order (R57) -/

/-- Checks 0x02 to 0x04. An image that leaves its tier cannot be read to its end (DESIGN CHOICE, log 100). -/
def checkShape (s : State) (base kind : Nat) (readError : Bool) (h : ImageHeader) : Option ImgFault :=
  let raw := s.bytes base 0x1000
  let extent := min h.signedLength (64 * 2 ^ 20) + 2420
  firstFault [
    demand 2 (!readError && inTier base 0x1000 && !badRange s base extent),
    demand 3 (fieldAt raw 0 4 == 0x4259_544E && fieldAt raw 4 2 == 1 && h.kind == kind),
    demand 2 (inTier base extent),
    checkLayout s base h]

/-- The outcome of checking the image at base for a command that takes a kind (R57), none where it is accepted. -/
def checkImage (s : State) (base kind : Nat) (readError : Bool) : Option ImgFault :=
  let h := headerOf (s.bytes base 0x1000)
  match checkShape s base kind readError h with
  | some f => some f
  | none => match checkTrust s base h with
    | some f => some f
    | none =>
      let es := entriesOf s base h
      let own := imageOf s base h
      if kind = 1 then
        firstFault [checkSections h es, checkFields s base h es, checkFlowSums es own.flow, checkBinding own es,
          checkSlots own own es true, checkFlows own own es, checkClock s own es,
          demand 0x12 ((List.range 16).all fun tr => quiescentTroupe s tr)]
      else
        let old := s.image
        let new := mergeImage old own
        firstFault [checkSections h es, checkFields s base h es, flowFault es 0x0B own.flow new.flow (badCreditSum new.flow),
          checkSlots new own es false, checkFlows new own es,
          demand 0x10 (s.img.inForce.isSome && h.parentId == s.activeImage && h.epoch == s.img.changes + 1),
          scopeFault old own new es, resultFault own new es]

end Sys2Proof.Machine
end

