-- ==== Sys2Proof/Machine/ImageCtl.lean ====
section
/-! DEFINITION. Loading, staging and epoch changes (R58 to R71), and what the switch to a full image does (R44, R49,
R67, R95, R292, R316, R452, R478, R521). -/

namespace Sys2Proof.Machine

open Sys2Proof

/-! ### CTL_IMG_CMD (R61, R62) -/

/-- An operation of the image logic ends: busy falls (R461 source 7) and the outcome is reported. -/
def finishImage (f : ImgFault) (s : State) : State :=
  let busy := s.img.op != .idle
  let s := { s with img := { s.img with op := .idle, code := f.code, sec := f.sec, record := f.record, votedGo := false } }
  if busy then evtSend 7 s else s

/-- R69: this package's vote: its staged image is the next change and its affected troupes are quiescent. -/
def epochVote (s : State) : Bool :=
  s.img.staged.any fun i => i.header.epoch == s.img.changes + 1 &&
    (List.range 16).all fun tr => !bitOf i.header.affected tr || quiescentTroupe s tr

/-- A write of CTL_IMG_CMD (R61). In Lantern mode it is ignored (R547). -/
def imgCommand (c : Nat) (s : State) : State :=
  if s.boot.lantern then s
  else if s.img.op ≠ .idle then { s with img := { s.img with ignored := true } }
  else if !([1, 2, 3, 4].contains c) then s
  else
    let s := { s with img := { s.img with ignored := false, discarded := false } }
    if c = 1 then finishImage { code := 0 } { s with img := { s.img with staged := none } }
    else if c = 2 then { s with img := { s.img with op := .checkingFull } }
    else if c = 3 then { s with img := { s.img with op := .checkingPartial } }
    else { s with img := { s.img with op := .voting, votedGo := epochVote s } }

/-- IMG_DISCARD_STAGED (R61). -/
def execImgDiscardStaged (s : State) : Host.Outcome State Fault Refusal := event s true (imgCommand 1)

/-- IMG_LOAD_FULL (R61, R66). -/
def execImgLoadFull (s : State) : Host.Outcome State Fault Refusal := event s true (imgCommand 2)

/-- IMG_STAGE_PARTIAL (R61, R69). -/
def execImgStagePartial (s : State) : Host.Outcome State Fault Refusal := event s true (imgCommand 3)

/-- IMG_EPOCH_CHANGE (R61, R69). -/
def execImgEpochChange (s : State) : Host.Outcome State Fault Refusal := event s true (imgCommand 4)

/-! ### The checks end (R57 to R59) -/

/-- R58: a refused image changes nothing; a refusal with a code from 0x05 to 0x08 is recorded. -/
def refuseImage (f : ImgFault) (h : ImageHeader) (s : State) : State :=
  let s := if 5 ≤ f.code ∧ f.code ≤ 8 then
      formRecord 0 { cls := 0x0A, severity := sevCorrected, code := f.code, info0 := h.imageId } s else s
  finishImage f s

/-- R59: an accepted image is measured; a full one awaits the switch, a partial one is staged. -/
def acceptImage (full : Bool) (i : Image) (digest : BitVec 256) (s : State) : State :=
  let s := extendMreg 6 digest s
  if full then { s with img := { s.img with op := .switching, next := some i } }
  else finishImage { code := 0 } { s with img := { s.img with staged := some i } }

/-- IMAGE_CHECK_COMPLETE (R57 to R59, R66, R69). -/
def execImageCheckComplete (readError : Bool) (s : State) : Host.Outcome State Fault Refusal :=
  event s (s.img.op == .checkingFull || s.img.op == .checkingPartial) fun s =>
    let full := s.img.op == .checkingFull
    let h := headerOf (s.bytes s.img.base 0x1000)
    match checkImage s s.img.base (if full then 1 else 2) readError with
    | some f => refuseImage f h s
    | none => acceptImage full (imageOf s s.img.base h) (imageDigest s s.img.base h) s

/-! ### The switch (R67) -/

/-- R49: the bytes of a memory whose mode changes become undefined. Before the first image a memory is linear
throughout. -/
def remapMemory (old : Option Image) (new : Image) (m : Nat) (s : State) : State :=
  let size := if m < 12 then 0xC_0000_0000 else 0x80_0000_0000
  let before := match old with
    | some i => i.linearLimit m
    | none => size
  let after := new.linearLimit m
  if before = after then s else s.freeFill (memBase m + min before after) (max before after - min before after)

/-- R95, R316: a troupe's registers at the loading of a full image. -/
def Troupe.reload (x : Troupe) : Troupe :=
  { x with state := 0, faultCode := 0, faultUnit := 0, sceneId := 0, stepState := 0, declines := 0, entries := [],
           starting := [], arrived := [], auditing := false, noticed := [], owner := none, commitScene := false }

/-- R67: a tile's counters read 0. -/
def Tile.reload (x : Tile) : Tile :=
  { x with
    adds := [], clears := [], sealed := false, tokens := [], tokenLog := [], dutyArray := 0, dutyVector := 0
    gate := { x.gate with fires := 0, delivered := [] } }

/-- R44, R560: a tile in no troupe is fenced by the image, and the fence of one that the image names again ends. -/
def imageFence (t : Nat) (s : State) : State :=
  match s.image.unitTroupe t with
  | none => setFence t 1 s
  | some _ =>
    if (s.fence t).cause = 1 then undefineTile t (s.modFence t fun _ => {}) else s

/-- R274, R275, R292: the neighbour of a port is judged by the image now in force, and a fenced port that it enables and
uses becomes active if the neighbour is the right one and the port was up before the mark. -/
def activatePort (p : Nat) (s : State) : State :=
  let s := judgePort p s
  let x := s.port p
  if s.image.portEnabled p && portUsed s p && x.state == psFenced && x.upBefore && x.identified && identityOk s p then
    s.modPort p fun x => { x with state := psActive }
  else s

/-- Whether span time stands at a frame's mark: within the longest delay of R277 and a reference period of it. -/
def State.atMark (s : State) : Bool := decide (s.time.span % 4000 < delayLimit + 40)

/-- R478: the free jobs still queued at an engine that now runs scheduled are to complete with NOT_FREE. -/
def dropFreeJobs (e : Nat) (s : State) : State :=
  if datScheduled s e then s.modDat e fun x => { x with queue := x.queue.map fun j => { j with refused := true } } else s

/-- Whether an engine that the next image takes from free to scheduled is still running a free job (R478). -/
def freeJobRuns (s : State) (i : Image) : Bool :=
  (List.range 12).any fun e => !datScheduled s e && (i.unitTroupe (datUnit e)).isSome && (s.dat e).state == esRun

/-- R57, R518: a change of time parent or span class counts as a change of trim reference. -/
def changeTrim (old : Option Image) (new : Image) (s : State) : State :=
  match old with
  | none => s
  | some o =>
    if o.clockRec.timeParent = new.clockRec.timeParent ∧ o.clockRec.spanClass = new.clockRec.spanClass then s
    else
      let s := { s with str := { s.str with marksOk := false, marksRun := 0, joinRun := 0, gotMark := false, sinceMark := 0 } }
      (List.range 9).foldl (fun s d => s.modClk d fun x => x.judge false s.time.csr) s

/-- R46: the token channels at the values of their CREDIT records. -/
def Image.initialTokens (i : Image) : Tbl Token :=
  (i.credit.filter fun r => r.kind == 0).map fun r => (r.channel, { count := r.initial })

/-- All dies switch to a full image (R67). -/
def switchImage (i : Image) (s : State) : State :=
  let old := s.img.inForce
  let s := leaveSpan s
  let s := (List.range 16).foldl (fun s m => remapMemory old i m s) s
  let s := { s with
    img := { s.img with inForce := some i, next := none, staged := none, loaded := true, discarded := s.img.staged.isSome
                        changes := 0, accepted := s.img.accepted + 1 }
    clk := { s.clk with hcoreDiv := i.clockRec.hcoreDiv }
    troupes := s.troupes.map fun p => (p.1, p.2.reload)
    tiles := s.tiles.map fun p => (p.1, p.2.reload)
    grots := s.grots.map fun p => (p.1, { p.2 with nonfinite := 0, flushed := 0 })
    tokens := i.initialTokens
    str := { s.str with barriers := [], reds := [], votes := [] }
    fab := { s.fab with flows := [] } }
  let s := i.troupes.foldl (fun s t => resetCounts t.troupe s) s
  let s := (List.range 48).foldl (fun s t => imageFence t s) s
  let s := (List.range 8).foldl (fun s p => activatePort p s) s
  let s := (List.range 12).foldl (fun s e => dropFreeJobs e s) s
  finishImage { code := 0 } (changeTrim old i s)

/-- IMAGE_SWITCH (R66, R67, R515): at a frame mark. It is held while a domain of R515 is on bypass, and while a free job of an engine that becomes
scheduled is running (R478). -/
def execImageSwitch (s : State) : Host.Outcome State Fault Refusal :=
  eventOf s (if s.img.op = .switching ∧ s.atMark = true ∧ bypassHold s = false then s.img.next.filter fun i => !freeJobRuns s i else none)
    switchImage

/-! ### Epoch changes (R69 to R71) -/

/-- The staged image takes effect at frame F. -/
def activateEpoch (own : Image) (s : State) : State :=
  let s := { s with img := { s.img with
    inForce := some (mergeImage s.image own), staged := none, changes := (s.img.changes + 1) % 2 ^ 32 } }
  let s := own.flow.foldl (fun s f => s.modFlow f.flow fun _ => { credits := f.credits }) s
  let s := (List.range 8).foldl (fun s p => activatePort p s) s
  finishImage { code := 0 } s

/-- EPOCH_VOTE_OUTCOME (R69 to R71). A vote that another member of the span has requested first reaches this package, which
casts its own by its staged image and holds the scene starts of R70 from then on (DESIGN CHOICE, log 99). The outcome
follows: on go, frame F is set, by the time master as the present frame plus 16; otherwise the change fails. -/
def execEpochVoteOutcome (go : Bool) (frame : Nat) (s : State) : Host.Outcome State Fault Refusal :=
  event s (s.img.op == .voting || (s.img.op == .idle && spanMember s)) fun s =>
    if s.img.op = .idle then { s with img := { s.img with op := .voting, votedGo := epochVote s } }
    else if go && s.img.votedGo then
      { s with img := { s.img with op := .activating, frame := if (markPort s).isNone then s.frame + 16 else frame } }
    else finishImage { code := 0x13 } s

/-- EPOCH_ACTIVATION (R69, R71): the mark that opens frame F. -/
def execEpochActivation (s : State) : Host.Outcome State Fault Refusal :=
  eventOf s (if s.img.op = .activating ∧ s.img.frame = s.frame ∧ s.atMark = true then s.img.staged else none) activateEpoch

end Sys2Proof.Machine
end

