-- ==== Sys2Proof/Machine/RegView.lean ====
section
/-! DEFINITION. What a register is to an access: its fields with their access codes (R11) and values, the effect of a
write on the fields that take it, and of a read on its RC fields; and the merge of writes that meet (R34, R267, R268). -/

namespace Sys2Proof.Machine

open Sys2Proof

/-- The access codes of R11. -/
inductive RegAccess where
  | ro | rw | w1c | wo | rc | rwl
deriving DecidableEq, Repr

/-- A field: bits [lo + n − 1:lo], the value it holds, and the rank of each value that may be written (R267). -/
structure RegField where
  lo : Nat
  n : Nat
  acc : RegAccess
  value : Nat := 0
  rank : Nat → Nat := fun _ => 0

/-- A register. put acts on the merged word, with the source code of the write that named its lowest field; clear is
the effect of a read. Bits in no field are reserved. -/
structure Reg where
  fields : List RegField
  put : Nat → Nat → State → State := fun _ _ s => s
  clear : State → State := fun s => s

def RegField.ro (lo n value : Nat) : RegField := { lo, n, acc := .ro, value }
def RegField.rw (lo n value : Nat) : RegField := { lo, n, acc := .rw, value }
def RegField.w1c (lo n value : Nat) : RegField := { lo, n, acc := .w1c, value }
def RegField.wo (lo n : Nat) : RegField := { lo, n, acc := .wo }
def RegField.rc (lo n value : Nat) : RegField := { lo, n, acc := .rc, value }
def RegField.rwl (lo n value : Nat) : RegField := { lo, n, acc := .rwl, value }

/-- R267: a bit whose 0 names disable. -/
def rankEnable (v : Nat) : Nat := if v = 0 then 2 else 0

/-- A bit that enables. -/
def RegField.en (lo : Nat) (value : Bool) : RegField := { lo, n := 1, acc := .rw, value := bit value, rank := rankEnable }

/-- A write-only order with the ranks of its values. -/
def RegField.order (lo n : Nat) (rank : Nat → Nat) : RegField := { lo, n, acc := .wo, rank }

/-- A register of one RO word. -/
def Reg.word (v : Nat) : Reg := { fields := [.ro 0 64 v] }

/-- What a read returns (R11): WO fields and reserved bits read 0. -/
def Reg.read (r : Reg) : Nat :=
  (r.fields.map fun f => if f.acc = .wo then 0 else f.value % 2 ^ f.n * 2 ^ f.lo).sum

/-- Whether a field takes a write. -/
def RegField.writable (f : RegField) (locked : Bool) : Bool :=
  match f.acc with
  | .rw | .w1c | .wo => true
  | .rwl => !locked
  | .ro | .rc => false

/-- R35: a written word differs at an RO or RC field. -/
def Reg.breaksRo (r : Reg) (w : Nat) : Bool :=
  r.fields.any fun f => (f.acc == .ro || f.acc == .rc) && bitsOf w f.lo f.n != f.value % 2 ^ f.n

/-- R35: a written word differs at a locked RWL field. -/
def Reg.breaksLock (r : Reg) (locked : Bool) (w : Nat) : Bool :=
  locked && r.fields.any fun f => f.acc == .rwl && bitsOf w f.lo f.n != f.value % 2 ^ f.n

/-- The writes of one cycle: source code and word, in rising order of source. -/
abbrev Writes := List (Nat × Nat)

/-- R267: the write whose value a field takes: the highest rank, and of equal ranks the lowest source. -/
def RegField.winner (f : RegField) (ws : Writes) : Nat × Nat :=
  (ws.tail).foldl (fun best w =>
    if f.rank (bitsOf best.2 f.lo f.n) < f.rank (bitsOf w.2 f.lo f.n) then w else best) (ws.headD (0, 0))

/-- The value that a field takes: every bit written 1 of an RW1C field, otherwise the winner's. -/
def RegField.merged (f : RegField) (ws : Writes) : Nat :=
  if f.acc = .w1c then ws.foldl (fun v w => v ||| bitsOf w.2 f.lo f.n) 0 else bitsOf (f.winner ws).2 f.lo f.n

/-- Whether writes differ at a field that takes one of them. -/
def RegField.contested (f : RegField) (locked : Bool) (ws : Writes) : Bool :=
  f.writable locked && f.acc != .w1c && ws.any fun w => bitsOf w.2 f.lo f.n != f.merged ws

/-- The merged word (R267). -/
def Reg.merge (r : Reg) (locked : Bool) (ws : Writes) : Nat :=
  ((r.fields.filter fun f => f.writable locked).map fun f => f.merged ws * 2 ^ f.lo).sum

/-- Source code of the write that named the lowest field that takes a write. -/
def Reg.source (r : Reg) (locked : Bool) (ws : Writes) : Nat :=
  match lowest none (r.fields.filter fun f => f.writable locked) with
  | some f => (f.winner ws).1
  | none => (ws.headD (0, 0)).1
where
  /-- The field of the lowest bits. -/
  lowest (best : Option RegField) : List RegField → Option RegField
    | [] => best
    | f :: fs => lowest (match best with
      | some b => if f.lo < b.lo then some f else some b
      | none => some f) fs

/-- R267: the writes that lose: those with a field that does not take effect. -/
def Reg.losers (r : Reg) (locked : Bool) (ws : Writes) : Writes :=
  ws.filter fun w => r.fields.any fun f =>
    f.writable locked && f.acc != .w1c && bitsOf w.2 f.lo f.n != f.merged ws

/-- The source code whose value took the lowest-numbered contested field (R268). -/
def Reg.winnerOf (r : Reg) (locked : Bool) (ws : Writes) : Nat :=
  match Reg.source.lowest none (r.fields.filter fun f => f.contested locked ws) with
  | some f => (f.winner ws).1
  | none => 0

/-- R268: losing writes are counted, and the first is recorded while the record is free. Router source 8 reports that
valid has become 1. -/
def noteConflict (addr : Nat) (losers : Writes) (winner : Nat) (s : State) : State :=
  match losers with
  | [] => s
  | w :: _ =>
    let c := { s.conflict with count := satAdd 32 s.conflict.count losers.length }
    if c.valid then { s with conflict := c }
    else evtSend 8 { s with conflict :=
      { c with valid := true, loser := w.1, winner := winner, addr := addr / 8 * 8, data := BitVec.ofNat 64 w.2 } }

/-- Entry and offset in it of o in a window of n entries of size bytes from base. -/
def winAt (o base size n : Nat) : Option (Nat × Nat) :=
  if base ≤ o ∧ o < base + size * n then some ((o - base) / size, (o - base) % size) else none

/-- A register of a list by offset. -/
def regOf (o : Nat) : List (Nat × Reg) → Option Reg
  | [] => none
  | (k, r) :: t => if o = k then some r else regOf o t

end Sys2Proof.Machine
end

