-- ==== Sys2Proof/Machine/RegHost.lean ====
section
/-! DEFINITION. The registers of the host die, and the ERR and CLK blocks that every die holds. -/

namespace Sys2Proof.Machine

open Sys2Proof

/-- The word at offset o of a record's bytes. -/
def wordOf (bs : List Byte) (o : Nat) : Nat := fieldAt bs o 8

/-! ### ERR (R35, R36, R551, R569 to R571) -/

/-- Fields of a word of an error record; its reserved bytes are no field. -/
def errWord (r : Option ErrRec) (o : Nat) : Reg :=
  let w := match r with
    | some r => wordOf r.bytes o
    | none => 0
  if o = 0 then { fields := [.ro 0 56 w] } else if o = 0x38 then { fields := [] } else .word w

/-- The slots of a link end (R36): of the image's LINKTT record, or of the split of R23. -/
def linkShare (s : State) (d l total owner : Nat) : Nat :=
  match s.image.linkttRec d l with
  | some r => r.owners.countP fun w => w / 2 ^ 28 == owner
  | none => if owner = 1 then total / 25 else if owner = 2 then total - total / 25 else 0

/-- LNK_STATUS and LNK_SLOTS of link l. -/
def regLink (d l o : Nat) (s : State) : Option Reg :=
  match linkPeer d l with
  | none => none
  | some e =>
    let x := s.link d l
    let total := linkSlots d e
    regOf o [
      (0x00, { fields := [.ro 48 16 x.retrains, .ro 32 16 x.replays, .ro 16 8 e, .ro 8 6 x.modules, .ro 0 4 x.state] }),
      (0x08, { fields := [.ro 48 16 total, .ro 32 16 (linkShare s d l total 1), .ro 16 16 (linkShare s d l total 2),
                          .ro 0 16 (linkShare s d l total 3)] })]

/-- The ERR block of die d. -/
def regErr (d o : Nat) (s : State) : Option Reg :=
  let x := s.dieErr d
  match winAt o 0x1_0000 64 256 with
  | some (j, k) => some (errWord ((x.ring.find? fun p => p.1 == j).map Prod.snd) k)
  | none => match winAt o 0x8000 0x40 8 with
    | some (l, k) => regLink d l k s
    | none => match (if d = 0 then winAt o 0x7E00 64 1 else none) with
      | some (_, k) => some (errWord s.err.fatal k)
      | none =>
        if o = 0x7E40 then
          (if d = 0 then some {
            fields := [.wo 0 1]
            put := fun _ w s => if bitOf w 0 then { s with err := { s.err with fatal := none } } else s } else none)
        else regOf o [
          (0x00, {
            fields := [.rc 48 16 x.dropped, .rc 40 8 x.lost, .ro 16 8 x.wr, .rw 0 8 x.rd]
            put := fun _ w s => s.modDieErr d fun x => { x with rd := bitsOf w 0 8 }
            clear := fun s => s.modDieErr d fun x => { x with dropped := 0, lost := 0 } }),
          (0x08, {
            fields := [.rc 32 32 x.corrected, .rc 0 32 x.deferred]
            clear := fun s => s.modDieErr d fun x => { x with corrected := 0, deferred := 0 } }),
          (0x7F00, {
            fields := [.w1c 63 1 (bit x.regValid), .ro 60 3 x.regSource, .ro 56 4 x.regKind, .ro 3 45 (x.regAddr / 8)]
            put := fun _ w s => if bitOf w 63 then
                s.modDieErr d fun x => { x with regValid := false, regSource := 0, regKind := 0, regAddr := 0 }
              else s })]

/-! ### CLK (R525 to R530) -/

/-- State of CLK_STATUS (R525). -/
def ClkDie.state (x : ClkDie) : Nat := if !x.locked then 0 else 1 + bit x.stable + 2 * bit x.marks

/-- Byte of domain k in CLK_DOMAIN (R527). -/
def clkDomain (s : State) (d k : Nat) : Nat :=
  if (domainsOf d).contains k then
    dividerOf s k + 64 * bit (s.clkDie d).stable + 128 * bit ((s.clkDie d).onRoot.contains k)
  else 0

/-- CLK_TRIM.code (R529): the centre code before lock; the loop's code, which no rule gives, afterwards. -/
def trimCode (s : State) (d : Nat) : Nat :=
  if (s.clkDie d).locked then (Config.freeWord32 s.fresh).toNat % 2 ^ 16 else (Config.dcoCentre d).toNat

/-- The CLK block of die d. Its bypass (0) outranks its root (1) as stop does go. -/
def regClk (d o : Nat) (s : State) : Option Reg :=
  let x := s.clkDie d
  if o = 0x28 then
    (if d = 0 then some {
      fields := [.w1c 63 1 (bit s.clk.lossValid), .ro 56 4 s.clk.lossDie, .ro 0 2 s.clk.lossCause]
      put := fun _ w s => if bitOf w 63 then { s with clk := { s.clk with lossValid := false } } else s } else none)
  else regOf o [
    (0x00, { fields := [.ro 60 4 x.state, .ro 59 1 (bit x.stable), .ro 58 1 (bit x.marks), .ro 16 16 (wrapInt 16 x.err),
                        .ro 0 16 x.good] }),
    (0x08, {
      fields := [.wo 8 4, .order 0 1 rankEnable]
      put := fun source w s => writeSwitch d source (bitsOf w 8 4) (bitOf w 0) s }),
    (0x10, { fields := (List.range 8).map fun k => .ro (8 * k) 8 (clkDomain s d k) }),
    (0x18, {
      fields := [.w1c 63 1 (bit x.refValid), .ro 60 3 x.refSource, .ro 58 2 x.refReason, .ro 54 4 x.refDomain,
                 .ro 53 1 (bit x.refTarget), .rc 0 32 x.refCount]
      put := fun _ w s => if bitOf w 63 then s.modClk d fun x => { x with refValid := false } else s
      clear := fun s => s.modClk d fun x => { x with refCount := 0 } }),
    (0x20, {
      fields := [.ro 48 16 (Config.dcoCentre d).toNat, .ro 32 16 (trimCode s d), .ro 0 16 (wrapInt 16 x.corr)]
      clear := fun s => if (s.clkDie d).locked then s.draw else s })]

/-! ### BOOT (R549) -/

/-- A write of BOOT_CTL: each field in turn, reset last. -/
def writeBootCtl (w : Nat) (s : State) : State :=
  let s := if bitOf w 62 then bootCommit s else s
  let s := if bitOf w 61 then bootClear s else s
  let s := if bitOf w 60 && !s.boot.lantern then { s with boot := { s.boot with bootRam := false } } else s
  let s := bootStage (bitsOf w 24 4) s
  let s := bootFail (bitsOf w 16 8) s
  let s := releaseDies (bitsOf w 0 8) s
  if bitOf w 63 then oweReset .boot s else s

/-- R267: a 1 names reset. -/
def rankReset (v : Nat) : Nat := if v = 1 then 3 else 0

/-- R267: a 0 names reset. -/
def rankHeld (v : Nat) : Nat := if v = 0 then 3 else 0

def regBoot (o : Nat) (s : State) : Option Reg :=
  let b := s.boot
  match winAt o 0x1_0000 8 512 with
  | some (j, _) => some {
      fields := [.rw 0 64 (leNat ((List.range 8).map fun i => tget 0 b.flashBuf (8 * j + i)))]
      put := fun _ w s => { s with boot := { s.boot with flashBuf := tload s.boot.flashBuf (8 * j) (leBytes 8 w) } } }
  | none => regOf o [
      (0x00, { fields := [.ro 63 1 (bit b.lantern), .ro 56 4 b.cause, .ro 52 4 b.failures, .ro 48 4 b.set,
                          .ro 16 8 b.reason0, .ro 8 8 b.reason1, .ro 0 8 b.reason2] }),
      (0x08, { fields := [.ro 60 4 b.stage, .ro 59 1 (bit b.done), .ro 48 8 b.reason, .ro 32 16 b.wdogMs, .ro 0 32 b.seq] }),
      (0x10, {
        fields := [.order 63 1 rankReset, .wo 62 1, .wo 61 1, .wo 60 1, .wo 24 4, .wo 16 8] ++
          (List.range 8).map fun i => { lo := i, n := 1, acc := .rw, value := bit (bitOf b.dieMask i), rank := rankHeld }
        put := fun _ w s => writeBootCtl w s }),
      (0x18, {
        fields := [.rw 0 32 b.flashAddr]
        put := fun _ w s => { s with boot := { s.boot with flashAddr := bitsOf w 0 32 } } }),
      (0x20, {
        fields := [.ro 63 1 (bit b.flashBusy), .w1c 62 1 (bit b.flashError), .wo 0 4]
        put := fun _ w s =>
          let s := if bitOf w 62 then { s with boot := { s.boot with flashError := false } } else s
          flashCommand (bitsOf w 0 4) s })]

/-! ### SEC (R550) -/

/-- A write of SEC_QUOTE_CTL. -/
def writeQuoteCtl (w : Nat) (s : State) : State :=
  let s := { s with sec := { s.sec with quoteError := s.sec.quoteError && !bitOf w 61, quoteMask := bitsOf w 0 16 } }
  if bitOf w 62 then startQuote s else s

def regSec (o : Nat) (s : State) : Option Reg :=
  let x := s.sec
  match winAt o 0x1000 32 16 with
  | some (i, k) => some (.word ((tget 0 x.mreg i).toNat / 2 ^ (8 * k) % 2 ^ 64))
  | none => match winAt o 0x20 8 4 with
    | some (j, _) => some {
        fields := [.rwl 0 64 (tget 0 x.imgKey j).toNat]
        put := fun _ w s => if s.img.accepted = 0 then
            { s with sec := { s.sec with imgKey := tset s.sec.imgKey j (BitVec.ofNat 64 w) } } else s }
    | none => match winAt o 0x60 8 4 with
      | some (j, _) => some {
          fields := [.rw 0 64 (tget 0 x.nonce j).toNat]
          put := fun _ w s => { s with sec := { s.sec with nonce := tset s.sec.nonce j (BitVec.ofNat 64 w) } } }
      | none => match winAt o 0xA0 8 4 with
        | some (j, _) => some {
            fields := [.rw 0 64 (tget 0 x.mext j).toNat]
            put := fun _ w s => { s with sec := { s.sec with mext := tset s.sec.mext j (BitVec.ofNat 64 w) } } }
        | none => regOf o [
            (0x00, {
              fields := [.ro 63 1 (bit x.locked), .w1c 62 1 (bit x.svnReject), .ro 0 8 x.fuses]
              put := fun _ w s => if bitOf w 62 then { s with sec := { s.sec with svnReject := false } } else s }),
            (0x08, { fields := [.wo 0 7], put := fun _ w s => writeSvnAdv (bitsOf w 0 7) s }),
            (0x40, {
              fields := [.rwl 0 16 x.imgSvn]
              put := fun _ w s =>
                if s.img.accepted = 0 then { s with sec := { s.sec with imgSvn := bitsOf w 0 16 } } else s }),
            (0x80, {
              fields := [.rw 7 41 (x.quoteAddr / 128)]
              put := fun _ w s => { s with sec := { s.sec with quoteAddr := bitsOf w 7 41 * 128 } } }),
            (0x88, {
              fields := [.ro 63 1 (bit x.quoteBusy), .wo 62 1, .w1c 61 1 (bit x.quoteError), .rw 0 16 x.quoteMask]
              put := fun _ w s => writeQuoteCtl w s }),
            (0xC0, { fields := [.wo 4 1, .wo 0 4], put := fun _ w s => writeMextCtl (BitVec.ofNat 64 w) s })]

/-! ### QUE, WIN, PCI and PLC (R425 to R431, R442 to R448) -/

/-- A write of QUE_BASE or QUE_CPL_BASE, ignored and recorded while the queue is enabled (R409). -/
def writeQueBase (q off source : Nat) (w : Nat) (s : State) : State :=
  let x := s.queue q
  let a := bitsOf w 12 36 * 4096
  if x.enable then (if a = (if off = 0 then x.base else x.cplBase) then s else recordRegAcc 0 source 2 (queReg q off) s)
  else s.modQueue q fun x => if off = 0 then { x with base := a } else { x with cplBase := a }

/-- A write of QUE_CPL_PTR: size only while the queue is disabled (R409, R429). -/
def writeCplPtr (q source : Nat) (w : Nat) (s : State) : State :=
  let x := s.queue q
  let size := if bitsOf w 60 4 ≤ 12 then bitsOf w 60 4 else x.cplSize
  if x.enable && size != x.cplSize then recordRegAcc 0 source 2 (queReg q 0x28) s
  else s.modQueue q fun x => { x with cplSize := size, cplRd := bitsOf w 0 17 }

def regQue (o : Nat) (s : State) : Option Reg :=
  match winAt o 0 0x40 64 with
  | none => none
  | some (q, k) =>
    let x := s.queue q
    regOf k [
      (0x00, { fields := [.rw 12 36 (x.base / 4096)], put := fun source w s => writeQueBase q 0 source w s }),
      (0x08, {
        fields := [.en 63 x.enable, .wo 62 1, .rw 61 1 (bit x.view), .en 60 x.irqEn, .rw 48 4 x.size, .rw 0 16 x.troupes]
        put := fun source w s => writeQueCfg q source (BitVec.ofNat 64 w) s }),
      (0x10, { fields := [.wo 0 32], put := fun _ w s => ringDoorbell q (BitVec.ofNat 64 w) s }),
      (0x18, {
        fields := [.ro 60 4 x.state, .ro 56 4 x.code, .rc 48 8 x.rereads, .rc 40 8 x.stale, .ro 0 32 x.head]
        clear := fun s => s.modQueue q fun x => { x with rereads := 0, stale := 0 } }),
      (0x20, { fields := [.rw 12 36 (x.cplBase / 4096)], put := fun source w s => writeQueBase q 0x20 source w s }),
      (0x28, {
        fields := [.rw 60 4 x.cplSize, .ro 17 17 x.cplWr, .rw 0 17 x.cplRd]
        put := fun source w s => writeCplPtr q source w s }),
      (0x30, {
        fields := [.rw 2 46 (x.msiAddr / 4)]
        put := fun _ w s => s.modQueue q fun x => { x with msiAddr := bitsOf w 2 46 * 4 } }),
      (0x38, {
        fields := [.rw 0 11 x.msiEiid]
        put := fun _ w s => s.modQueue q fun x => { x with msiEiid := bitsOf w 0 11 } })]

/-- WIN_FLUSH read by an access that names no hart: discarded is free (WIN_FLUSH_READ names the hart). -/
def regWin (o : Nat) (s : State) : Option Reg :=
  regOf o [(0x00, { fields := [.ro 1 1 (Config.freeWord32 s.fresh).toNat, .ro 0 1 1], clear := State.draw })]

def regPci (o : Nat) (s : State) : Option Reg :=
  regOf o [
    (0x0000, { fields := [.ro 0 8 s.plc.bifur] }),
    (0x0100, {
      fields := [.rw 0 16 s.plc.peer]
      put := fun _ w s => { s with plc := { s.plc with peer := bitsOf w 0 16 } } }),
    (0x0108, {
      fields := [.rc 0 32 s.plc.peerRefused]
      clear := fun s => { s with plc := { s.plc with peerRefused := 0 } } })]

def regPlc (o : Nat) (s : State) : Option Reg :=
  match winAt o 0x1_0000 0x40 4096 with
  | some (r, k) =>
    let x := s.region r
    let put (_ w : Nat) (s : State) : State := writeRgn r k (BitVec.ofNat 64 w) s
    regOf k [
      (0x00, {
        fields := [.en 63 x.valid, .rw 62 1 (bit x.view), .rw 61 1 (bit x.rd), .rw 60 1 (bit x.wr), .rw 12 36 (x.base / 4096)]
        put := put }),
      (0x08, { fields := [.rw 48 16 x.troupes, .rw 12 28 (x.length / 4096)], put := put }),
      (0x10, { fields := [.rw 44 20 x.pasid, .rw 43 1 (bit x.pasidEn), .rw 16 16 x.ridMask, .rw 0 16 x.rid], put := put }),
      (0x18, { fields := [.rw 0 32 x.unit], put := put }),
      (0x20, { fields := [.ro 32 32 x.arrivals, .ro 0 32 x.residue] }),
      (0x28, {
        fields := [.w1c 63 1 (bit x.ovf), .ro 32 16 x.inflight.length, .rc 0 32 x.refused]
        put := put
        clear := fun s => s.modRegion r fun x => { x with refused := 0 } })]
  | none => regOf o [
      (0x00, {
        fields := [.w1c 63 1 (bit s.plc.reject)]
        put := fun _ w s => if bitOf w 63 then { s with plc := { s.plc with reject := false } } else s }),
      (0x08, {
        fields := [.w1c 63 1 (bit s.plc.refValid), .ro 60 3 s.plc.refReason, .ro 58 2 s.plc.refPort, .ro 42 16 s.plc.refRid,
                   .ro 0 41 s.plc.refLine]
        put := fun _ w s => if bitOf w 63 then { s with plc := { s.plc with refValid := false } } else s })]

/-! ### CTL -/

/-- R61: of two commands the lower code is the more restrictive. -/
def rankImage (v : Nat) : Nat := if 1 ≤ v ∧ v ≤ 4 then 5 - v else 0

/-- R316: CTL_STEP.resolve orders discard above flip. -/
def rankResolve (v : Nat) : Nat := if v = 2 then 2 else if v = 1 then 1 else 0

/-- R267: a fence ranks as fence, every other value of cmd as any other. -/
def rankFence (v : Nat) : Nat := if v = 1 then 1 else 0

/-- R267: an interval of 0 names off, that is disable; any other names a period (R271). -/
def rankInterval (v : Nat) : Nat := if v = 0 then 2 else 0

/-- The image registers (R60 to R63). -/
def regImg (o : Nat) (s : State) : Option Reg :=
  let x := s.img
  regOf o [
    (0x100, {
      fields := [.rw 12 36 (x.base / 4096)]
      put := fun _ w s => { s with img := { s.img with base := bitsOf w 12 36 * 4096 } } }),
    (0x108, { fields := [.order 0 8 rankImage], put := fun _ w s => imgCommand (bitsOf w 0 8) s }),
    (0x110, { fields := [.ro 63 1 (bit (x.op != .idle)), .ro 62 1 (bit x.staged.isSome), .ro 61 1 (bit x.loaded),
                         .ro 60 1 (bit x.ignored), .ro 59 1 (bit x.discarded), .ro 48 8 x.code, .ro 32 16 x.sec,
                         .ro 0 32 x.record] }),
    (0x118, .word s.activeImage),
    (0x120, .word ((x.staged.map fun i => i.header.imageId).getD 0)),
    (0x128, { fields := [.ro 32 32 ((x.inForce.map fun i => i.header.epoch).getD 0), .ro 0 32 x.changes] })]

/-- State of CTL_TROUPE (R95): 4 where the image in force does not define the troupe. -/
def troupeState (s : State) (tr : Nat) : Nat :=
  if s.img.inForce.isSome && (s.image.troupeRec tr).isNone then 4 else (s.troupe tr).state

/-- The words of CTL_DECLINE (R317). -/
def regDecline (d : Decline) (k : Nat) : Reg :=
  if k = 0 then .word d.step.toNat
  else if k = 8 then { fields := [.ro 0 32 d.norm.toNat, .ro 32 8 d.reason, .ro 40 8 d.grottos] }
  else if k = 0x10 then .word d.spanTime
  else { fields := [.ro 0 32 d.sceneId] }

/-- The registers of one troupe: kind of register by its base, troupe, offset in the entry. -/
def regTroupe (tr base k : Nat) (s : State) : Reg :=
  let x := s.troupe tr
  if base = 0x200 then {
    fields := [.ro 60 4 (troupeState s tr), .ro 48 8 x.faultCode, .ro 40 8 x.faultUnit, .w1c 32 8 x.faultCount, .ro 0 32 x.sceneId]
    put := fun _ w s => s.modTroupe tr fun x => { x with faultCount := x.faultCount - (x.faultCount &&& bitsOf w 32 8) } }
  else if base = 0x280 then {
    fields := [.rw 0 32 x.waitLimit]
    put := fun _ w s => if bitsOf w 0 32 = 0 then s else s.modTroupe tr fun x => { x with waitLimit := bitsOf w 0 32 } }
  else if base = 0x400 then
    (if k = 0 then {
      fields := [.rw 0 64 x.seed.toNat]
      put := fun _ w s => s.modTroupe tr fun x => { x with seed := BitVec.ofNat 64 w } }
    else {
      fields := [.rw 48 16 (x.rngStep.toNat / 2 ^ 48), .rw 0 48 x.rngStep.toNat]
      put := fun _ w s => s.modTroupe tr fun x => { x with rngStep := BitVec.ofNat 64 w } })
  else if base = 0x700 then {
    fields := [.rw 0 32 x.normCeil.toNat]
    put := fun _ w s => s.modTroupe tr fun x => { x with normCeil := BitVec.ofNat 32 w } }
  else if base = 0x800 then {
    fields := [.ro 60 4 x.stepState, .order 58 2 rankResolve, .ro 40 16 x.declines, .ro 0 40 x.commits]
    put := fun _ w s => if (s.troupe tr).stepState = 6 then
        (if bitsOf w 58 2 = 1 then resolveFlip tr s else if bitsOf w 58 2 = 2 then resolveDiscard tr s else s)
      else s }
  else if base = 0x900 then regDecline x.decline k
  else if base = 0xB00 then {
    fields := [.w1c 63 1 (bit x.sweepDue), .rw 0 32 x.sweepSteps]
    put := fun _ w s => s.modTroupe tr fun x => { x with sweepDue := x.sweepDue && !bitOf w 63, sweepSteps := bitsOf w 0 32 } }
  else {
    fields := [.rw 63 1 (bit x.pinned), .ro 0 40 x.pinCommit]
    put := fun _ w s => writePin tr (bitOf w 63) s }

/-- The registers of troupes: base, size of an entry. -/
def troupeWindows : List (Nat × Nat) :=
  [(0x200, 8), (0x280, 8), (0x400, 16), (0x700, 8), (0x800, 8), (0x900, 32), (0xB00, 8), (0xB80, 8)]

/-- CTL_FENCE (R572). -/
def regFence (u : Nat) (s : State) : Reg :=
  let x := s.fence u
  { fields := [.ro 63 1 (bit x.fenced), .ro 61 2 x.pending, .order 59 2 rankFence, .ro 56 3 x.cause]
    put := fun _ w s => if bitsOf w 59 2 = 1 then requestFence u s else if bitsOf w 59 2 = 2 then requestReturn u s else s }

/-- CTL_EVT_ROUTE (R464). -/
def regRoute (e : Nat) (s : State) : Reg :=
  let x := tget {} s.host.routes e
  { fields := [.en 63 x.enable, .rw 62 1 (bit x.sLevel), .rw 32 7 x.hart, .rw 0 11 x.eiid]
    put := fun _ w s => writeRoute e (BitVec.ofNat 64 w) s }

/-- The bits of CTL_HART_RUN: a 0 ranks as reset (R465). -/
def runFields (n v : Nat) : List RegField :=
  (List.range n).map fun i => { lo := i, n := 1, acc := .rw, value := bit (bitOf v i), rank := rankHeld }

/-- The remaining registers of CTL. -/
def regCtlSingle (o : Nat) (s : State) : Option Reg :=
  regOf o [
    (0x300, { fields := [.ro 0 16 1] }),
    (0x500, {
      fields := [.w1c 63 1 (bit s.conflict.valid), .ro 60 3 s.conflict.loser, .ro 57 3 s.conflict.winner,
                 .ro 3 45 (s.conflict.addr / 8)]
      put := fun _ w s => if bitOf w 63 then { s with conflict := { s.conflict with valid := false } } else s }),
    (0x508, .word s.conflict.data.toNat),
    (0x510, {
      fields := [.rc 0 32 s.conflict.count]
      clear := fun s => { s with conflict := { s.conflict with count := 0 } } }),
    (0x600, {
      fields := [.rw 12 36 (s.tel.base / 4096)]
      put := fun _ w s => writeTelBase (BitVec.ofNat 64 w) s }),
    (0x608, {
      fields := [{ lo := 48, n := 16, acc := .rw, value := s.tel.interval, rank := rankInterval }, .rw 44 4 s.tel.size] ++
        (List.range 4).map fun k => .en k (bitOf s.tel.enable k)
      put := fun _ w s => writeTelCtl (BitVec.ofNat 64 w) s }),
    (0x610, {
      fields := [.rc 48 16 s.tel.dropped, .ro 24 20 s.tel.wr, .rw 0 20 s.tel.rd]
      put := fun _ w s => { s with tel := { s.tel with rd := bitsOf w 0 20 } }
      clear := fun s => { s with tel := { s.tel with dropped := 0 } } }),
    (0xD00, { fields := runFields 64 s.host.run0.toNat, put := fun _ w s => writeRun 0 64 w s }),
    (0xD08, { fields := runFields 32 s.host.run1.toNat, put := fun _ w s => writeRun 64 32 w s }),
    (0xD10, {
      fields := [.rw 2 46 (s.host.entry / 4)]
      put := fun _ w s => { s with host := { s.host with entry := bitsOf w 2 46 * 4 } } })]

def regCtl (o : Nat) (s : State) : Option Reg :=
  match regImg o s with
  | some r => some r
  | none => match troupeWindows.findSome? (fun w => (winAt o w.1 w.2 16).map fun p => (w.1, p)) with
    | some (base, tr, k) => some (regTroupe tr base k s)
    | none => match winAt o 0xE00 8 76 with
      | some (u, _) => some (regFence u s)
      | none => match winAt o 0xC00 8 16 with
        | some (e, _) => some (regRoute e s)
        | none => regCtlSingle o s

/-- A register of the host die (R32). -/
def regHost (off : Nat) (s : State) : Option Reg :=
  let o := off % 0x10_0000
  match off / 0x10_0000 with
  | 0 => regBoot o s
  | 1 => regSec o s
  | 2 => regQue o s
  | 3 => regWin o s
  | 4 => regPci o s
  | 5 => regPlc o s
  | 6 => regClk 0 o s
  | 7 => regErr 0 o s
  | 8 => regCtl o s
  | _ => none

end Sys2Proof.Machine
end

