-- ==== Sys2Proof/Machine/RegDevice.lean ====
section
/-! DEFINITION. The registers of the compute dies and of the Grottos. -/

namespace Sys2Proof.Machine

open Sys2Proof

/-! ### Tiles (R126 to R133, R155, R210) -/

/-- TILE_STATUS (R127). A second arrival held by Strings waits as kind 4; a hold of the gate is no wait. -/
def regTileStatus (t : Nat) (s : State) : Reg :=
  let x := s.tile t
  let tr := s.image.unitTroupe t
  let wait : Nat × Nat := match s.wait t with
    | some w => if w.kind = 5 then (4, w.chan) else if w.kind ≤ 4 then (w.kind, w.chan) else (0, 0)
    | none => (0, 0)
  { fields := [.ro 60 4 (if (s.fence t).fenced then 6 else x.state), .ro 56 4 (tr.getD 0),
               .ro 55 1 (bit tr.isSome), .ro 52 3 wait.1, .ro 36 16 wait.2, .ro 0 32 x.pc] }

/-- A word of the completion table (R121); the reserved bits of flags are no field. -/
def regCompletion (e : CEntry) (k : Nat) : Reg :=
  if k = 0x18 then { fields := [.ro 0 32 e.lastAddr, .ro 32 1 e.flags] } else .word (wordOf e.bytes k)

/-- A word of a key slot (R210). -/
def regKeySlot (x : KeySlot) (k : Nat) : Option Reg :=
  regOf k [
    (0x00, { fields := [.ro 56 8 x.domain, .ro 0 56 x.tensorId] }),
    (0x08, { fields := [.ro 0 48 x.origin] }),
    (0x10, { fields := [.ro 63 1 (bit x.derived), .ro 0 24 x.threshold] })]

/-- GATE_MAP and GATE_STATUS of tile t (R155). -/
def regGate (t o : Nat) (s : State) : Option Reg :=
  let g := (s.tile t).gate
  match winAt o 0x4_0000 8 96 with
  | some (c, _) =>
    let x := tget {} g.map c
    some {
      fields := [.en 40 x.sigEn, .rw 32 8 x.channel, .rw 20 12 x.scatter, .en 19 x.enabled, .rw 8 9 x.rows, .rw 0 8 x.base]
      put := fun _ w s => writeGateMap t c (BitVec.ofNat 64 w) s }
  | none =>
    if o = 0x4_0400 then some {
      fields := [.w1c 63 1 (bit g.mapReject), .ro 58 2 (bit g.openRound.armed), .ro 57 1 (bit g.fired.isSome),
                 .ro 48 9 g.openRound.count, .ro 39 9 (match g.fired with
                   | some r => r.count
                   | none => 0), .ro 0 32 g.fires]
      put := fun _ w s => if bitOf w 63 then
          s.modTile t fun x => { x with gate := { x.gate with mapReject := false } } else s }
    else none

/-- The block of tile t (R126). -/
def regTile (t o : Nat) (s : State) : Option Reg :=
  let x := s.tile t
  if 0x8_0000 ≤ o then some (.word (leNat (imemBytes x.imem (o - 0x8_0000) 8)))
  else match winAt o 0x1_0000 64 1024 with
    | some (j, k) => some (.word (match x.log.find? fun p => p.1 == j with
      | some p => wordOf p.2.bytes k
      | none => 0))
    | none => match winAt o 0x2_0000 32 256 with
      | some (e, k) => some (regCompletion (x.centry e) k)
      | none => match winAt o 0x3_0000 8 256 with
        | some (c, _) => some { fields := [.ro 0 32 (tget 0 x.tokens c)] }
        | none => match winAt o 0x5_0100 0x20 8 with
          | some (j, k) => regKeySlot (tget {} x.vec.keys j) k
          | none =>
            if 0x4_0000 ≤ o ∧ o < 0x5_0000 then regGate t o s
            else regOf o [
              (0x00, regTileStatus t s),
              (0x08, { fields := [.ro 0 32 x.sceneId] }),
              (0x10, .word (x.cyclesNow s.time.span)),
              (0x18, { fields := (List.range 4).map fun l => .ro (16 * l) 16 (loopIndex x.loops l) }),
              (0x20, { fields := (List.range 8).map fun u => .ro (4 * u) 4 (x.unit u).queue.length }),
              (0x28, { fields := [.ro 32 16 x.dutyVector, .ro 0 16 x.dutyArray] }),
              (0x30, {
                fields := [.rc 48 16 x.logDropped, .ro 32 10 x.logWr, .rw 0 10 x.logRd]
                put := fun _ w s => s.modTile t fun x => { x with logRd := bitsOf w 0 10 }
                clear := fun s => s.modTile t fun x => { x with logDropped := 0 } }),
              (0x5_0000, .word x.vec.rngStep.toNat)]

/-! ### MEM and SMC (R243 to R246, R353) -/

/-- A temperature in whole degrees, unsigned in 8 bits: rounded down, 0 below 0 °C (DESIGN CHOICE, log 143). -/
def degrees (t : Int) : Nat := min 255 (t / 16).toNat

/-- The registers of memory m: 0 to 11 a stack, 12 to 15 a slow tier. -/
def regMem (m o : Nat) (s : State) : Option Reg :=
  let x := s.memCtl m
  regOf o [
    (0x00, {
      fields := [.ro 56 8 (degrees x.temp), .rc 48 8 (degrees x.peak), .ro 43 1 (bit x.sensorFail), .ro 42 1 (bit x.halt), .ro 41 1 (bit x.warn),
                 .ro 40 1 (bit x.hot), .ro 0 32 x.hotFrames]
      clear := fun s => s.modMem m fun x => { x with peak := 0 } }),
    (0x08, {
      fields := [.rc 32 32 x.ce, .rc 16 16 x.ue]
      clear := fun s => s.modMem m fun x => { x with ce := 0, ue := 0 } }),
    (0x10, {
      fields := [.w1c 63 1 (bit x.lastValid), .ro 62 1 x.lastKind, .ro 56 6 x.lastChannel,
                 .ro 7 (if m < 12 then 29 else 32) (x.lastOffset / 128)]
      put := fun _ w s => if bitOf w 63 then s.modMem m fun x => { x with lastValid := false } else s }),
    (0x18, { fields := [.ro 32 16 x.passes, .ro 0 (if m < 12 then 23 else 27) x.scrubPos] })]

/-! ### STR (R269) -/

/-- The STR block of compute die c. -/
def regStr (c o : Nat) (s : State) : Option Reg :=
  let x := s.str
  regOf o [
    (0x00, { fields := [.ro 63 1 (bit (isMaster s)), .ro 62 1 (bit (isMaster s || x.marksOk)),
                        .ro 56 4 (if s.str.inSpan then (markPort s).getD 0xF else 0xF), .ro 16 16 (hopDelay s), .ro 0 16 x.missed] }),
    (0x08, .word s.time.span),
    (0x10, { fields := [.ro 32 32 x.changes, .ro 21 11 x.members, .ro 19 2 x.lastKind, .ro 11 8 x.lastSpan, .ro 7 4 x.lastX,
                        .ro 4 3 x.lastY, .ro 1 3 x.lastZ] }),
    (0x18, { fields := [.wo 0 8], put := fun _ w s => vetoVote (bitsOf w 0 8) 5 s }),
    (0x20, {
      fields := [.rc 32 32 (tget 0 x.overrun c), .rc 0 32 (tget 0 x.merged c)]
      clear := fun s => { s with str :=
        { s.str with overrun := tset s.str.overrun c 0, merged := tset s.str.merged c 0 } } })]

/-! ### FAB (R295 to R298, R374) -/

/-- The FAB block of compute die c. A port trains from the moment its die is out of reset (DEDUCED from R292, R295). -/
def regFab (c o : Nat) (s : State) : Option Reg :=
  match winAt o 0x1_0000 32 1024 with
  | some (n, k) =>
    let x := s.boardEntry n
    regOf k [
      (0x00, {
        fields := [.en 63 x.valid, .rw 24 8 (x.key / 2 ^ 24), .rw 20 4 (x.key / 2 ^ 20), .rw 17 3 (x.key / 2 ^ 17),
                   .rw 14 3 (x.key / 2 ^ 14), .rw 12 2 (x.key / 2 ^ 12), .rw 0 12 x.key]
        put := fun _ w s => writeBoard n 0 (BitVec.ofNat 64 w) s }),
      (0x08, {
        fields := [.rw 52 12 x.tag, .rw 32 18 x.flow, .rw 0 32 x.lines]
        put := fun _ w s => writeBoard n 1 (BitVec.ofNat 64 w) s }),
      (0x10, .word x.digest.toNat),
      (0x18, { fields := [.ro 32 32 x.gen, .ro 16 4 x.misses, .ro 0 16 x.matched] })]
  | none => match winAt o 0 0x100 2 with
    | some (j, k) =>
      let p := 2 * c + j
      let x := s.port p
      regOf k [
        (0x00, { fields := [.ro 60 4 (if x.state = psReset ∧ s.dieUp (1 + c) = true then psTraining else x.state), .ro 59 1 (bit x.stringsUp), .ro 58 1 (bit (s.image.portEnabled p)),
                            .ro 32 16 x.delay, .ro 24 8 x.peerSpan, .ro 20 4 x.peerX, .ro 17 3 x.peerY, .ro 14 3 x.peerZ] }),
        (0x08, {
          fields := [.rc 48 16 x.crcFail, .rc 32 16 x.replays, .rc 16 16 x.overrun, .rc 0 16 x.held]
          clear := fun s => s.modPort p fun x => { x with crcFail := 0, replays := 0, overrun := 0, held := 0 } }),
        (0x10, {
          fields := [.ro 48 16 x.retrains, .rc 32 16 x.fecUncorr, .rc 0 32 x.fecCorr]
          clear := fun s => s.modPort p fun x => { x with fecUncorr := 0, fecCorr := 0 } })]
    | none =>
      let f := (s.fabEng c).sel
      let y := if (s.image.flowRec f).isSome then s.flowCtx f else {}
      regOf o [
        (0x200, {
          fields := [.rw 0 18 f]
          put := fun _ w s => s.modFab c fun x => { x with sel := bitsOf w 0 18 } }),
        (0x208, { fields := [.ro 32 32 y.credits, .ro 0 32 y.lines] })]

/-! ### RED (R372) -/

/-- The RED block, held identically on the four compute dies. -/
def regRed (o : Nat) (s : State) : Option Reg :=
  match winAt o 0x1_0000 16 4096 with
  | some (e, k) =>
    let x := s.tagEntry e
    if e = 0 then none
    else regOf k [
      (0x00, {
        fields := [.en 63 x.valid, .rw 48 8 x.vote, .rw 32 16 x.parts, .ro 16 16 x.done]
        put := fun _ w s => writeTag e (BitVec.ofNat 64 w) s }),
      (0x08, { fields := [.ro 32 32 x.current, .ro 0 32 x.copy] })]
  | none => regOf o [
      (0x1000, {
        fields := [.w1c 63 1 (bit s.tag.reject)]
        put := fun _ w s => if bitOf w 63 then { s with tag := { s.tag with reject := false } } else s })]

/-! ### COH (R400 to R402) -/

/-- The COH block of home h. -/
def regCoh (h o : Nat) (s : State) : Option Reg :=
  let x := s.home h
  regOf o [
    (0x00, {
      fields := [.rw 7 41 x.purgeBase]
      put := fun _ w s => s.modHome h fun x => { x with purgeBase := bitsOf w 7 41 } }),
    (0x08, {
      fields := [.ro 63 1 (bit x.purgeBusy), .wo 62 1, .w1c 61 1 (bit x.purgeReject), .en 46 x.purgeSig, .rw 32 14 x.purgeChan,
                 .rw 0 32 x.purgeLines]
      put := fun _ w s => startPurge h (BitVec.ofNat 64 w) s }),
    (0x10, {
      fields := [.ro 48 16 x.txns.length, .rc 40 8 x.qpeak, .ro 0 21 x.dir.length]
      clear := fun s => s.modHome h fun x => { x with qpeak := 0 } }),
    (0x18, {
      fields := [.rc 32 32 x.requests, .rc 16 16 x.backInv, .rc 0 16 x.crossings]
      clear := fun s => s.modHome h fun x => { x with requests := 0, backInv := 0, crossings := 0 } })]

/-! ### VCD (R506 to R509) -/

/-- State of a pipe in VCD_STATUS. -/
def pipeState (x : Codec) (pipe : Nat) : Nat :=
  if (x.running? pipe).isNone then 0 else if x.jobs.any fun j => j.pipe == pipe && j.suspended then 2 else 1

/-- The VCD block of compute die c. A 1 in hold names hold (R267). -/
def regVcd (c o : Nat) (s : State) : Option Reg :=
  let x := s.codec c
  match winAt o 0x1_0000 16 4096 with
  | some (f, k) =>
    let b := x.buf f
    regOf k [
      (0x00, {
        fields := [.rw 12 36 (b.base / 4096)]
        put := fun _ w s => writeFbBase c f (BitVec.ofNat 64 w) s }),
      (0x08, {
        fields := [.ro 16 9 b.stream, .ro 4 1 (b.mark / 16),
                   { lo := 3, n := 1, acc := .rw, value := b.mark / 8, rank := fun v => if v = 1 then 2 else 0 },
                   .ro 2 1 (b.mark / 4), .ro 1 1 (b.mark / 2), .ro 0 1 b.mark]
        put := fun _ w s => s.modCodec c fun x =>
          { x with bufs := tmod {} x.bufs f fun b => { b with mark := b.mark % 8 + 8 * bitsOf w 3 1 + b.mark / 16 * 16 } } })]
  | none => match winAt o 0x2_0000 8 512 with
    | some (n, _) =>
      let y := x.stream n
      some { fields := [.ro 60 4 y.state, .ro 58 2 (pClass y.params), .ro 56 2 (pCodec y.params),
                        .ro 55 1 (bit (pEncodes y.params)), .ro 0 32 y.fbBytes] }
    | none => regOf o [
        (0x00, { fields := [.ro 0 16 1] }),
        (0x08, {
          fields := [.ro 62 2 (pipeState x 0), .ro 60 2 (pipeState x 1), .w1c 59 1 (bit x.reject),
                     .ro 40 10 (x.streams.countP fun p => p.2.state != scClosed), .rc 16 16 x.suspensions,
                     .ro 0 11 x.jobs.length]
          put := fun _ w s => if bitOf w 59 then s.modCodec c fun x => { x with reject := false } else s
          clear := fun s => s.modCodec c fun x => { x with suspensions := 0 } })]

/-! ### DAT (R480, R481) -/

/-- Engine e of the DAT block of compute die c, as the state numbers it: 0 decompression, 1 gather/scatter, 2 layout. -/
def datIndex (c e : Nat) : Nat := 4 * (2 - e) + c

def regDat (c o : Nat) (s : State) : Option Reg :=
  match winAt o 0 0x100 3 with
  | none => none
  | some (e, k) =>
    let i := datIndex c e
    let x := s.dat i
    let tr := s.image.unitTroupe (datUnit i)
    regOf k [
      (0x00, { fields := [.ro 60 4 (if (s.fence (datUnit i)).fenced then 4 else min x.state 3), .ro 59 1 (bit tr.isSome),
                          .ro 52 4 (tr.getD 0), .ro 32 11 x.entry, .ro 0 32 x.jobs] }),
      (0x08, {
        fields := [.rc 0 64 x.produced]
        clear := fun s => s.modDat i fun x => { x with produced := 0 } })]

/-- A register of compute die c (R32). -/
def regChip (c off : Nat) (s : State) : Option Reg :=
  let o := off % 0x10_0000
  let b := off / 0x10_0000
  if 16 ≤ b ∧ b < 28 then regTile (12 * c + (b - 16)) o s
  else match b with
    | 0 => regClk (1 + c) o s
    | 1 => regStr c o s
    | 2 => regFab c o s
    | 3 => match winAt o 0 0x100 3 with
      | some (j, k) => regMem (3 * c + j) k s
      | none => none
    | 4 => regCoh c o s
    | 5 => regRed o s
    | 6 => regVcd c o s
    | 7 => regDat c o s
    | 8 => regErr (1 + c) o s
    | _ => none

/-! ### Grottos (R322, R330, R349 to R353, R373, R375) -/

/-- A word of the shard table. -/
def regShard (g n k : Nat) (s : State) : Option Reg :=
  let x := s.shard g n
  let put (_ w : Nat) (s : State) : State := writeShard g n (k / 8) (BitVec.ofNat 64 w) s
  regOf k [
    (0x00, { fields := [.rw 0 64 x.base0], put := put }),
    (0x08, { fields := [.rw 0 64 x.base1], put := put }),
    (0x10, { fields := [.rw 0 64 x.bytes], put := put }),
    (0x18, { fields := [.rw 0 56 x.tensorId], put := put }),
    (0x20, { fields := [.rw 0 48 x.freeze, .rw 48 2 x.freezeMode], put := put }),
    (0x28, { fields := [.rw 0 32 x.gen, .en 32 x.valid, .ro 33 1 (bit x.dirty), .ro 34 1 (bit x.initialised)], put := put }),
    (0x30, { fields := [.ro 0 64 x.digestA.toNat], put := put }),
    (0x38, { fields := [.ro 0 64 x.digestI.toNat], put := put })]

/-- The GRT block of Grotto g. -/
def regGrt (g o : Nat) (s : State) : Option Reg :=
  match winAt o 0x1_0000 64 4096 with
  | some (n, k) => regShard g n k s
  | none => match winAt o 0x6_0000 16 4096 with
    | some (n, k) =>
      let x := s.shard g n
      regOf k [
        (0x00, {
          fields := [.en 63 x.publish, .rw 0 39 x.head]
          put := fun _ w s => writePub g n (BitVec.ofNat 64 w) s }),
        (0x08, .word x.pubDigest.toNat)]
    | none =>
      if 0x8_0000 ≤ o then regClk (5 + g) (o - 0x8_0000) s
      else if 0x7_0000 ≤ o then regCoh (4 + g) (o - 0x7_0000) s
      else none

/-- State of UPD_STATUS (R349). -/
def updState (s : State) (g : Nat) : Nat :=
  let x := s.grot g
  if (s.fence (updUnit g)).fenced then 6
  else if x.state = esIdle then 0
  else if x.state = esRun then (if x.skipping then 3 else 1)
  else if x.state = esWait then (if x.op = 0x34 then 4 else 2)
  else 5

/-- The UPD block. -/
def regUpd (g o : Nat) (s : State) : Option Reg :=
  let x := s.grot g
  match winAt o 0x4_0000 8 0x4000 with
  | some (i, _) => some (.word (leNat (imemBytes x.ring (8 * i) 8)))
  | none => match winAt o 0x8_0000 8 0x2000 with
    | some (i, _) => some (.word (leNat (imemBytes x.prog (8 * i) 8)))
    | none => regOf o [
        (0x00, {
          fields := [.ro 60 4 (updState s g), .ro 56 4 ((s.image.unitTroupe (updUnit g)).getD 0), .ro 55 1 (bit x.refuse),
                     .ro 54 1 (bit x.normGo), .w1c 53 1 (bit x.reject),
                     .ro 32 13 (x.shards.countP fun p => p.2.dirty), .ro 0 12 x.entry]
          put := fun _ w s => if bitOf w 53 then s.modGrot g fun x => { x with reject := false } else s }),
        (0x08, { fields := [.ro 32 32 x.nonfinite, .ro 0 32 x.flushed] })]

/-- ROOT_STATUS (R351). -/
def regRoot (g o : Nat) (s : State) : Option Reg :=
  let x := s.grot g
  regOf o [(0x00, { fields := [.ro 63 1 (bit !x.rootQueue.isEmpty), .ro 48 8 (x.iteration s.time.span), .ro 32 16 ((x.rootQueue.head?.map RootJob.next).getD 0),
                               .ro 0 32 x.rootResidual.toNat] })]

/-- The DIG block (R352, R375). -/
def regDig (g o : Nat) (s : State) : Option Reg :=
  let x := s.grot g
  match winAt o 0x1000 16 256 with
  | some (n, k) =>
    let r := tget {} x.hist n
    some (.word (if k = 0 then r.a else r.r).toNat)
  | none => regOf o [
      (0x00, .word x.digLast.toNat),
      (0x08, {
        fields := [.w1c 63 1 (bit x.mismatch), .ro 32 12 x.mismatchShard, .ro 0 32 x.digDone]
        put := fun _ w s => if bitOf w 63 then s.modGrot g fun x => { x with mismatch := false } else s })]

/-- A register of Grotto g (R32). -/
def regGrotto (g off : Nat) (s : State) : Option Reg :=
  let o := off % 0x10_0000
  match off / 0x10_0000 with
  | 0 => regGrt g o s
  | 1 => regUpd g o s
  | 2 => regRoot g o s
  | 3 => regMem (12 + g) o s
  | 4 => regDig g o s
  | 8 => regErr (5 + g) o s
  | _ => none

end Sys2Proof.Machine
end

