-- ==== Sys2Proof/Machine/Registers.lean ====
section
/-! DEFINITION. A write and a read of any register of the package (R10, R11, R32 to R35, R267, R268). -/

namespace Sys2Proof.Machine

open Sys2Proof

/-- The register at an offset of a die's region (R32); none: unmapped (R33). -/
def registerAt (die off : Nat) (s : State) : Option Reg :=
  if die = 0 then regHost off s else if die ≤ 4 then regChip (die - 1) off s else regGrotto (die - 5) off s

/-- Whether the RWL fields are locked: an image has been accepted since package reset (R11, R67). -/
def State.rwlLocked (s : State) : Bool := s.img.accepted != 0

/-- R35: a write that differs at an RO field, or at a locked RWL field, is recorded. One that differs at both is recorded as
kind 2 (DESIGN CHOICE, log 144). -/
def noteWrite (die addr : Nat) (r : Reg) (w : Nat × Nat) (s : State) : State :=
  if r.breaksRo w.2 then recordRegAcc die w.1 2 addr s
  else if r.breaksLock s.rwlLocked w.2 then recordRegAcc die w.1 3 addr s
  else s

/-- The writes of one cycle reach a register: they merge (R267), the merged word takes effect, and a loser is recorded
(R268). A write of an unmapped offset is ignored and recorded (R33). -/
def regWrites (die off addr : Nat) (ws : Writes) (s : State) : State :=
  match registerAt die off s with
  | none => ws.foldl (fun s w => recordRegAcc die w.1 0 addr s) s
  | some r =>
    let lock := s.rwlLocked
    let s := ws.foldl (fun s w => noteWrite die addr r w s) s
    noteConflict addr (r.losers lock ws) (r.winnerOf lock ws) (r.put (r.source lock ws) (r.merge lock ws) s)

/-- The writes of other masters in the cycle, one a source, in rising order of source. -/
def otherWrites (source : Nat) (others : List OtherWrite) : Writes :=
  [0, 1, 2, 3].filterMap fun k =>
    if k = source then none else (others.find? fun w => w.source == k).map fun w => (k, w.value.toNat)

/-- A write put among the others by its source. -/
def addWrite (w : Nat × Nat) (ws : Writes) : Writes :=
  ws.filter (fun x => decide (x.1 < w.1)) ++ [w] ++ ws.filter fun x => decide (w.1 < x.1)

/-- Whether an access has the size and alignment of R33. -/
def registerSized (addr size : Nat) : Bool := size == 8 && addr % 8 == 0

/-- A register write with those that meet it. A narrow or misaligned one is ignored and recorded, and the others act.
A hart's access to a die in reset raises an access fault (R423); that of another master has no effect (DESIGN CHOICE).
A page of an interrupt file takes 32-bit writes (R459). -/
def writeRegister (source addr size : Nat) (v : Word) (others : List OtherWrite) (s : State) : State :=
  match placeOf addr with
  | .regs die off =>
    if die ≠ 0 ∧ s.dieUp die = false then (if source = 0 then s.reply { accessFault := true } else s)
    else if interruptPage addr then (if size = 4 then interruptWrite addr (v.toNat % 2 ^ 32) s else s)
    else
      let ws := otherWrites source others
      if registerSized addr size then regWrites die off addr (addWrite (source, v.toNat) ws) s
      else
        let s := recordRegAcc die source 1 addr s
        if ws.isEmpty then s else regWrites die (off / 8 * 8) (addr / 8 * 8) ws s
  | _ => s

/-- REGISTER_WRITE (R10, R11, R33 to R35, R267, R268). -/
def execRegisterWrite (source : SourceId) (addr size : Nat) (v : Word) (others : List OtherWrite) (s : State) :
    Host.Outcome State Fault Refusal :=
  event s true (writeRegister source addr size v others)

/-- CARRIED_REGISTER_WRITE (R248, R267): Strings brings the write, with source code 2. -/
def execCarriedRegisterWrite (addr : Nat) (v : Word) (others : List OtherWrite) (s : State) :
    Host.Outcome State Fault Refusal :=
  event s true (writeRegister 2 addr 8 v others)

/-- A register read (R11, R33). An access that is narrow or misaligned and at an unmapped offset is recorded as kind 1 (DESIGN
CHOICE, log 144). A page of an interrupt file reads 0 (PRESUMED, after AIA). What a master other than a
hart reads of a die in reset is free. -/
def readRegister (source addr size : Nat) (s : State) : State :=
  match placeOf addr with
  | .regs die off =>
    if die ≠ 0 ∧ s.dieUp die = false then
      (if source = 0 then s.reply { accessFault := true } else s.draw.reply { value := Config.freeWord64 s.fresh })
    else if interruptPage addr then s.reply {}
    else if !registerSized addr size then (recordRegAcc die source 1 addr s).reply {}
    else match registerAt die off s with
      | none => (recordRegAcc die source 0 addr s).reply {}
      | some r => (r.clear s).reply { value := BitVec.ofNat 64 r.read }
  | _ => s

/-- REGISTER_READ (R11, R33). -/
def execRegisterRead (source : SourceId) (addr size : Nat) (s : State) : Host.Outcome State Fault Refusal :=
  event s true (readRegister source addr size)

end Sys2Proof.Machine
end

