-- ==== Sys2Proof/Machine/Waits.lean ====
section
/-! DEFINITION. The start of a queued command on its unit (R73), the release of waits (R79, R253, R438) and the
limits of waits and holds (R96, R154, R253). -/

namespace Sys2Proof.Machine

open Sys2Proof

/-! ### COMMAND_START -/

/-- R154: a unit of the gate or the arrays holds its head command from now. -/
def beginHold (t : Nat) (s : State) : State :=
  s.modTile t fun x => { x with gate := { x.gate with holdSince := some (x.gate.holdSince.getD s.time.span) } }

/-- Whether what the start of a unit's head command reads is final: a drain's accumulators, the rows that count for a
fire, and the entry of a log record. -/
def startReady (x : Tile) (u : Nat) (c : Cmd) : Bool :=
  if u = 0 then opcodeOf c.word.toNat == 0x40 || !(x.unit 0).running.any fun r =>
    opcodeOf r.cmd.word.toNat == 0x40 && (accOf r.cmd.word.toNat).bank == fld c.word.toNat 8 1
  else if u = 4 then gateReady x c
  else u != 7 || x.caughtUp ((x.unit 7).startOf c + 4)

/-- The head command of a unit's queue, where it can be taken now: held back by the gate, or due in its turn. -/
def dueHead (x : Tile) (u : Nat) : Option Cmd :=
  (x.unit u).queue.head?.filter fun c => match x.headStart u with
    | some τ => x.settled τ && startReady x u c
    | none => true

/-- The head command of a unit's queue starts, or is held (R73, R149, R154). -/
def startUnit (t u : Nat) (c : Cmd) (s : State) : State :=
  let x := s.tile t
  let start := if u = 4 then gateStart x c else (x.unit u).startOf c
  if (x.headStart u).isNone then beginHold t s
  else if u = 0 then startArray t c s
  else if u = 2 ∨ u = 3 then startMover t (u - 2) c start s
  else
    let s := s.modTile t fun x => x.takeHead u start (start + 1)
    if u = 4 then startGate t c start (joinsFire x c) s
    else if u = 5 then startToken t c start s
    else if u = 6 then finished t 6 c.seq start (startStrings t c start s)
    else finished t 7 c.seq (start + 4) (startLogger t c start s)

/-- COMMAND_START (R73, R74): the oldest command of a unit starts. The vector engine's start as chains. -/
def execCommandStart (t : TileId) (unit : TileUnitId) (s : State) : Host.Outcome State Fault Refusal :=
  let x := s.tile t
  eventOf s (if unit.val ≠ 1 ∧ x.works = true then dueHead x unit else none) fun c s => startUnit t unit c s

/-! ### WAIT_RELEASE -/

/-- The part of a channel's signals that is visible in a cycle, by their first or their last possible cycle. -/
def visible (at_ : Nat × Nat × Nat → Nat) (l : List (Nat × Nat × Nat)) (cycle : Nat) : Nat :=
  ((l.filter fun e => decide (at_ e ≤ cycle)).map fun e => e.1).sum

/-- The first cycle in which at least k is visible. -/
def firstVisible (at_ : Nat × Nat × Nat → Nat) (l : List (Nat × Nat × Nat)) (k : Nat) : Option Nat :=
  ((l.map at_).filter fun c => decide (k ≤ visible at_ l c)).min?

/-- The earliest signal, by its first cycle, taken out. -/
def takeEarliest (l : List (Nat × Nat × Nat)) : Option ((Nat × Nat × Nat) × List (Nat × Nat × Nat)) :=
  match (l.map fun e => e.2.1).min? with
  | none => none
  | some m => (l.find? fun e => e.2.1 == m).map fun e => (e, l.erase e)

/-- k consumed from a channel's signals, earliest first. -/
def consume : Nat → Nat → List (Nat × Nat × Nat) → List (Nat × Nat × Nat)
  | 0, _, l => l
  | fuel + 1, k, l =>
    match takeEarliest l with
    | none => l
    | some (e, r) => if e.1 ≤ k then consume fuel (k - e.1) r else (e.1 - k, e.2) :: r

/-- R76: from a device-wide signal, or the wait's issue if that is later, to the release: same die, or another. -/
def tokenBounds (ch u unit : Nat) : Nat × Nat :=
  if unitDie u = 1 + tokenHome ch ∧ (unit < 76 ∧ unitDie unit = 1 + tokenHome ch) then (60, 120) else (100, 200)

/-- A count as signals with the first and the last span time at which each is visible to a wait that was issued at a span
time; bounds gives the bounds of R76 by a signal's unit. What no signal of the log accounts for stood there before. -/
def loggedSignals (count : Nat) (log : List (Nat × Nat × Nat)) (bounds : Nat → Nat × Nat) (issued : Nat) :
    List (Nat × Nat × Nat) :=
  (count - (log.map fun e => e.1).sum, issued, issued + 200) ::
    log.map fun e => (e.1, max e.2.1 issued + (bounds e.2.2).1, max e.2.1 issued + (bounds e.2.2).2)

/-- A device-wide channel's signals for a wait of unit u. -/
def tokenSignals (s : State) (u issued : Nat) (w : WaitRec) : List (Nat × Nat × Nat) :=
  loggedSignals (s.token w.chan).count (s.token w.chan).log (tokenBounds w.chan u) issued

/-- A region's increments, each visible like a signal of another die (R438). -/
def regionSignals (s : State) (issued : Nat) (w : WaitRec) : List (Nat × Nat × Nat) :=
  loggedSignals (s.region w.chan).arrivals (s.region w.chan).log (fun _ => (100, 200)) issued

/-- The longest way through the span, in hops. -/
def spanDiameter (i : Image) : Nat := i.clockRec.sizeX / 2 + i.clockRec.sizeY / 2 + i.clockRec.sizeZ / 2

/-- R76, R255: span time from the last arrival of a phase to its release at every member, in STR cycles: 60 ns in one
package, 120 ns a hop of the diameter across a span. -/
def releaseLimit (i : Image) (kind obj : Nat) : Nat :=
  match i.routeRec kind obj with
  | some r => if r.upPort = 0xFF ∧ r.downPorts = 0 then 240 else max 240 (480 * spanDiameter i)
  | none => 240

/-- Whether a satisfied condition, with the first and the last time that its signals allow, lets a wait go at a time. -/
def inBounds (l : List (Nat × Nat × Nat)) (k issued at_ : Nat) : Bool :=
  match firstVisible (fun e => e.2.1) l k, firstVisible (fun e => e.2.2) l k with
  | some lo, some hi => decide (max issued lo ≤ at_) && decide (at_ ≤ max issued hi)
  | _, _ => false

/-- Whether a wait on a device-wide channel or on a region is satisfied, and goes at a span time within the bounds of R76. A
region whose valid is cleared has no waiter any more, and the wait stays blocked (R440). -/
def countRelease (s : State) (u issued at_ : Nat) (w : WaitRec) : Bool :=
  if w.kind = 2 then decide (w.k ≤ (s.token w.chan).count) && inBounds (tokenSignals s u issued w) w.k issued at_
  else (s.region w.chan).valid && (s.region w.chan).waiter == some u && decide (w.k ≤ (s.region w.chan).arrivals) &&
    inBounds (regionSignals s issued w) w.k issued at_

/-- Whether a tile's wait may be released in a cycle (R73, R76, R79, R253, R438). -/
def tileRelease (s : State) (u cycle : Nat) (w : WaitRec) : Bool :=
  let x := s.tile u
  x.state == tsWait && decide (w.cycle ≤ cycle) && x.settled cycle && x.caughtUp cycle &&
  (match w.kind with
  | 1 => inBounds (tget [] x.tokenLog w.chan) w.k w.cycle cycle
  | 2 => countRelease s u (x.spanAt w.cycle) (x.spanAt cycle) w
  | 3 => countRelease s u (x.spanAt w.cycle) (x.spanAt cycle) w
  | 4 =>
    let q := tget { kind := 0, obj := 0 } s.str.waits u
    q.released && decide (q.since ≤ x.spanAt cycle) &&
      (q.kind == 3 || decide (x.spanAt cycle ≤ max q.since (x.spanAt w.cycle) + releaseLimit s.image q.kind q.obj))
  | _ => false)

/-- Whether a wait of unit u may be released; for an engine, which has no cycles of a scene, the cycle is that of span time.
An update processor's votes end with their outcomes. -/
def releaseDue (s : State) (u cycle : Nat) (w : WaitRec) : Bool :=
  if u < 48 then tileRelease s u cycle w
  else match w.kind with
  | 2 => countRelease s u w.since (2 * cycle) w
  | 3 => countRelease s u w.since (2 * cycle) w
  | 4 => !(decide (64 ≤ u) && decide (u < 68)) && (tget { kind := 0, obj := 0 } s.str.waits u).released
  | _ => false

/-- k taken out of a count: the log that stays. What no signal of the log accounts for goes first. -/
def logAfter (count k : Nat) (log : List (Nat × Nat × Nat)) : List (Nat × Nat × Nat) :=
  consume log.length (k - (count - (log.map fun e => e.1).sum)) log

/-- k taken out of a device-wide channel, and out of a region's arrivals. -/
def Token.take (x : Token) (k : Nat) : Token := { count := x.count - k, waiter := none, log := logAfter x.count k x.log }
def Region.take (x : Region) (k : Nat) : Region :=
  { x with arrivals := x.arrivals - k, waiter := none, log := logAfter x.arrivals k x.log }

/-- k is subtracted in the cycle of the release, and the channel has no waiter (R79, R438). -/
def subtractWait (u : Nat) (w : WaitRec) (s : State) : State :=
  match w.kind with
  | 1 => s.modTile u fun x => { x with
      tokens := tmod 0 x.tokens w.chan fun c => c - w.k
      tokenLog := tmod [] x.tokenLog w.chan fun l => consume l.length w.k l }
  | 2 => s.modToken w.chan fun x => x.take w.k
  | 3 => s.modRegion w.chan fun x => x.take w.k
  | _ => s

/-- The outcome of a Strings operation reaches a tile: the word is written at dst through mover 1's port (R113,
R254). A mismatch of red_op raises ENCODING. -/
def deliverTile (t cycle : Nat) (w : StrWait) (s : State) : State :=
  if w.mismatch then tileFaultAt t cycle w.seq w.addr fcEncoding w.obj s
  else match w.result with
    | none => s
    | some v =>
      let (s, ok) := useBanks t cycle ((banksOf w.dst 8).map fun b => (⟨b, 5, cycle, 1, 1, w.seq⟩, w.addr)) s
      if ok then padStore t cycle w.dst (leBytes 8 v.toNat) s else s

/-- The outcome of NORM_VOTE's reduction reaches its reduction engine (R304). -/
def deliverRed (d : Nat) (w : StrWait) (s : State) : State :=
  match w.result with
  | some v => s.modRed d fun x => { x with norm := v.setWidth 32 }
  | none => if w.mismatch then unitFault (48 + d) fcEncoding w.addr w.obj (s.modRed d fun x => { x with state := 0 }) else s

/-- The StrWait of a unit, taken away. -/
def State.endStrWait (s : State) (u : Nat) : State := { s with str := { s.str with waits := tdel s.str.waits u } }

/-- A blocked engine goes on with its entry. -/
def resumeEngine (u : Nat) (s : State) : State :=
  if u < 52 then s.modRed (u - 48) fun x => { x with released := true, state := 1 }
  else if u < 64 then s.modDat (u - 52) fun x => { x with released := true, state := 1 }
  else if u < 68 then s.modGrot (u - 64) fun x => { x with released := true, state := 1 }
  else if 72 ≤ u then s.modFab (u - 72) fun x => { x with released := true, state := 1 }
  else s

/-- WAIT_RELEASE (R73, R79, R438): the wait of a unit is satisfied; a tile's issue resumes two cycles later. -/
def execWaitRelease (u : UnitId) (cycle : Nat) (s : State) : Host.Outcome State Fault Refusal :=
  eventOf s ((s.wait u).filter fun w => releaseDue s u cycle w) fun w s =>
    let s := (subtractWait u w s).setWait u none
    let q := tget { kind := 0, obj := 0 } s.str.waits u
    if u.val < 48 then
      let lo := (s.tile u).cycle
      let s := s.modTile u fun x => { x with state := tsIssue, cycle := cycle + 2 }
      judgeOn u lo (if w.kind = 4 then deliverTile u cycle q (s.endStrWait u) else s)
    else
      let s := resumeEngine u s
      if w.kind = 4 then deliverRed (u - 48) q (s.endStrWait u) else s

/-! ### Limits -/

/-- Whether a wait is still blocked: a Strings wait whose release has been sent is not. -/
def stillBlocked (s : State) (u : Nat) (w : WaitRec) : Bool :=
  w.kind != 4 || !(tget { kind := 0, obj := 0 } s.str.waits u).released

/-- The head command that a hold of R154 blocks. -/
def heldHead (x : Tile) : Option Cmd :=
  match ((x.unit 0).queue.head?.filter fun c => arrayBlocked x c) with
  | some c => some c
  | none => (x.unit 4).queue.head?.filter fun c => gateBlocked x c

/-- The command of a tile whose hold has reached the troupe's default limit (R96, R154), WAIT_LIMIT not yet raised. -/
def holdExpired (s : State) (u : Nat) : Option Cmd :=
  let x := s.tile u
  match x.gate.holdSince, heldHead x with
  | some since, some c =>
    if x.works && s.atLimit since (waitLimitOf s u 0) && !x.raised.contains (c.seq, fcWaitLimit) then some c else none
  | _, _ => none

/-- WAIT_LIMIT_EXPIRY (R88, R96, R154): a wait, or failing one a hold, is still blocked at its limit. -/
def execWaitLimitExpiry (u : UnitId) (s : State) : Host.Outcome State Fault Refusal :=
  match (s.wait u).filter fun w => !w.raised && s.atLimit w.since w.limit && stillBlocked s u w with
  | some w => event s true fun s =>
      unitFault u fcWaitLimit w.addr w.chan (s.setWait u (some { w with raised := true }))
  | none => eventOf s (if u.val < 48 then holdExpired s u else none) fun c s => tileFault u c.seq c.addr fcWaitLimit 0 s

/-- Whether a held arrival of a unit has reached its limit, WAIT_LIMIT not yet raised (R253). For a command that blocks
the unit it is raised by its wait (R90). -/
def holdDue (s : State) (u kind obj : Nat) (h : HeldArrival) : Bool :=
  h.unit == u && !h.raised && s.atLimit h.since h.limit &&
  !(s.str.waits.any fun p => p.1 == u && p.2.kind == kind && p.2.obj == obj && p.2.addr == h.addr && !p.2.queued)

/-- The first held arrival of a unit that is due: its kind, its object and itself. -/
def dueArrival (s : State) (u : Nat) : Option (Nat × Nat × HeldArrival) :=
  let pick := fun (kind obj : Nat) (hs : List HeldArrival) => (hs.find? (holdDue s u kind obj)).map fun h => (kind, obj, h)
  (s.str.barriers.findSome? fun p => pick 1 p.1 p.2.held).or
    ((s.str.reds.findSome? fun p => pick 2 p.1 p.2.held).or (s.str.votes.findSome? fun p => pick 3 p.1 p.2.held))

/-- A held arrival marked as reported. -/
def markHeld (h : HeldArrival) (hs : List HeldArrival) : List HeldArrival :=
  hs.map fun k => if k = h then { k with raised := true } else k

/-- ARRIVAL_HOLD_LIMIT (R253): an arrival held for the next phase is still held at its limit. -/
def execArrivalHoldLimit (u : UnitId) (s : State) : Host.Outcome State Fault Refusal :=
  eventOf s (dueArrival s u) fun e s =>
    let h := e.2.2
    let s := match e.1 with
      | 1 => s.modBarrier e.2.1 fun b => { b with held := markHeld h b.held }
      | 2 => s.modRedObj e.2.1 fun b => { b with held := markHeld h b.held }
      | _ => s.modVote e.2.1 fun b => { b with held := markHeld h b.held }
    unitFault u fcWaitLimit h.addr e.2.1 s

end Sys2Proof.Machine
end

