-- ==== Sys2Proof/Machine/Dispatch.lean ====
section
/-! DEFINITION. One arm per command: each a direct call of the command's meaning. -/

namespace Sys2Proof.Machine

open Sys2Proof

/-- The effect of a command on everything but the queue of waiting commands. -/
def exec (i : Instr) (s : State) : Host.Outcome State Fault Refusal :=
  match i with
  | .ctNop t => Sys2Proof.Machine.execCtNop t s
  | .ctIdle t => Sys2Proof.Machine.execCtIdle t s
  | .ctLoop t => Sys2Proof.Machine.execCtLoop t s
  | .ctOpen t => Sys2Proof.Machine.execCtOpen t s
  | .ctClose t => Sys2Proof.Machine.execCtClose t s
  | .ctEnd t => Sys2Proof.Machine.execCtEnd t s
  | .tkSignal t => Sys2Proof.Machine.execTkSignal t s
  | .tkWait t => Sys2Proof.Machine.execTkWait t s
  | .waitRelease u cycle => Sys2Proof.Machine.execWaitRelease u cycle s
  | .stArrive t => Sys2Proof.Machine.execStArrive t s
  | .stSync t => Sys2Proof.Machine.execStSync t s
  | .stRed t => Sys2Proof.Machine.execStRed t s
  | .stVote t => Sys2Proof.Machine.execStVote t s
  | .mvLd t => Sys2Proof.Machine.execMvLd t s
  | .mvSt t => Sys2Proof.Machine.execMvSt t s
  | .mvCp t => Sys2Proof.Machine.execMvCp t s
  | .mmAcc t => Sys2Proof.Machine.execMmAcc t s
  | .mmDrain t => Sys2Proof.Machine.execMmDrain t s
  | .vxAdd t => Sys2Proof.Machine.execVxAdd t s
  | .vxSub t => Sys2Proof.Machine.execVxSub t s
  | .vxMul t => Sys2Proof.Machine.execVxMul t s
  | .vxMax t => Sys2Proof.Machine.execVxMax t s
  | .vxMin t => Sys2Proof.Machine.execVxMin t s
  | .vxFma t => Sys2Proof.Machine.execVxFma t s
  | .vxFms t => Sys2Proof.Machine.execVxFms t s
  | .vxFnma t => Sys2Proof.Machine.execVxFnma t s
  | .vxMov t => Sys2Proof.Machine.execVxMov t s
  | .vxNeg t => Sys2Proof.Machine.execVxNeg t s
  | .vxAbs t => Sys2Proof.Machine.execVxAbs t s
  | .vxRelu t => Sys2Proof.Machine.execVxRelu t s
  | .vxCgt t => Sys2Proof.Machine.execVxCgt t s
  | .vxCge t => Sys2Proof.Machine.execVxCge t s
  | .vxCeq t => Sys2Proof.Machine.execVxCeq t s
  | .vxCne t => Sys2Proof.Machine.execVxCne t s
  | .vxSel t => Sys2Proof.Machine.execVxSel t s
  | .vxExp2 t => Sys2Proof.Machine.execVxExp2 t s
  | .vxLog2 t => Sys2Proof.Machine.execVxLog2 t s
  | .vxRcp t => Sys2Proof.Machine.execVxRcp t s
  | .vxRsqrt t => Sys2Proof.Machine.execVxRsqrt t s
  | .vxTanh t => Sys2Proof.Machine.execVxTanh t s
  | .vxErf t => Sys2Proof.Machine.execVxErf t s
  | .vxRsum t => Sys2Proof.Machine.execVxRsum t s
  | .vxRmax t => Sys2Proof.Machine.execVxRmax t s
  | .vxRmin t => Sys2Proof.Machine.execVxRmin t s
  | .vxRssq t => Sys2Proof.Machine.execVxRssq t s
  | .vxCsum t => Sys2Proof.Machine.execVxCsum t s
  | .vxCmax t => Sys2Proof.Machine.execVxCmax t s
  | .vxCmin t => Sys2Proof.Machine.execVxCmin t s
  | .vxCmpr t => Sys2Proof.Machine.execVxCmpr t s
  | .vxExpd t => Sys2Proof.Machine.execVxExpd t s
  | .vxKey t => Sys2Proof.Machine.execVxKey t s
  | .vxDrop t => Sys2Proof.Machine.execVxDrop t s
  | .vxKeep t => Sys2Proof.Machine.execVxKeep t s
  | .vxUnif t => Sys2Proof.Machine.execVxUnif t s
  | .vxIadd t => Sys2Proof.Machine.execVxIadd t s
  | .vxIsub t => Sys2Proof.Machine.execVxIsub t s
  | .vxImax t => Sys2Proof.Machine.execVxImax t s
  | .vxImin t => Sys2Proof.Machine.execVxImin t s
  | .vxItof t => Sys2Proof.Machine.execVxItof t s
  | .vxFtoi t => Sys2Proof.Machine.execVxFtoi t s
  | .gtArm t => Sys2Proof.Machine.execGtArm t s
  | .gtFill t => Sys2Proof.Machine.execGtFill t s
  | .gtFire t => Sys2Proof.Machine.execGtFire t s
  | .lgRec t => Sys2Proof.Machine.execLgRec t s
  | .lgMark t => Sys2Proof.Machine.execLgMark t s
  | .lgClr t => Sys2Proof.Machine.execLgClr t s
  | .issueResume t => Sys2Proof.Machine.execIssueResume t s
  | .commandStart t unit => Sys2Proof.Machine.execCommandStart t unit s
  | .moverLineSlot t mover slot cycle ecc => Sys2Proof.Machine.execMoverLineSlot t mover slot cycle ecc s
  | .moverLineLands t mover line cycle => Sys2Proof.Machine.execMoverLineLands t mover line cycle s
  | .moverFinish t mover cycle => Sys2Proof.Machine.execMoverFinish t mover cycle s
  | .accumulatorsComplete t => Sys2Proof.Machine.execAccumulatorsComplete t s
  | .drainEnd t => Sys2Proof.Machine.execDrainEnd t s
  | .chainStart t => Sys2Proof.Machine.execChainStart t s
  | .chainFinish t => Sys2Proof.Machine.execChainFinish t s
  | .fillCounted t => Sys2Proof.Machine.execFillCounted t s
  | .gateDeadline t => Sys2Proof.Machine.execGateDeadline t s
  | .waitLimitExpiry u => Sys2Proof.Machine.execWaitLimitExpiry u s
  | .tileSceneStart t => Sys2Proof.Machine.execTileSceneStart t s
  | .tileSceneEnd t => Sys2Proof.Machine.execTileSceneEnd t s
  | .sceneBoundary tr => Sys2Proof.Machine.execSceneBoundary tr s
  | .auditComplete tr => Sys2Proof.Machine.execAuditComplete tr s
  | .abortNotice tr u => Sys2Proof.Machine.execAbortNotice tr u s
  | .safePoint tr => Sys2Proof.Machine.execSafePoint tr s
  | .safePointTimeout tr => Sys2Proof.Machine.execSafePointTimeout tr s
  | .tokenSignalMessage port ch k => Sys2Proof.Machine.execTokenSignalMessage port ch k s
  | .barrierArrival port obj a => Sys2Proof.Machine.execBarrierArrival port obj a s
  | .barrierRelease obj => Sys2Proof.Machine.execBarrierRelease obj s
  | .arrivalHoldLimit u => Sys2Proof.Machine.execArrivalHoldLimit u s
  | .reductionOperand port obj unit redOp value => Sys2Proof.Machine.execReductionOperand port obj unit redOp value s
  | .reductionResult obj fromRoot => Sys2Proof.Machine.execReductionResult obj fromRoot s
  | .voteCast port obj unit go => Sys2Proof.Machine.execVoteCast port obj unit go s
  | .voteOutcome obj fromRoot => Sys2Proof.Machine.execVoteOutcome obj fromRoot s
  | .strVetoWrite v => Sys2Proof.Machine.execStrVetoWrite v s
  | .frameStart rails logic fec links sram => Sys2Proof.Machine.execFrameStart rails logic fec links sram s
  | .frameMarkReceipt p carried phases => Sys2Proof.Machine.execFrameMarkReceipt p carried phases s
  | .markLoss => Sys2Proof.Machine.execMarkLoss s
  | .membershipNotice join span x y z viaPort => Sys2Proof.Machine.execMembershipNotice join span x y z viaPort s
  | .carriedRegisterWrite addr v others => Sys2Proof.Machine.execCarriedRegisterWrite addr v others s
  | .timetableFrameStart temps => Sys2Proof.Machine.execTimetableFrameStart temps s
  | .memorySlot m channel slot ecc => Sys2Proof.Machine.execMemorySlot m channel slot ecc s
  | .linkRetrainStart d l => Sys2Proof.Machine.execLinkRetrainStart d l s
  | .linkUpAgain d l n => Sys2Proof.Machine.execLinkUpAgain d l n s
  | .linkLossTimeout d l => Sys2Proof.Machine.execLinkLossTimeout d l s
  | .hostLinkLoss d => Sys2Proof.Machine.execHostLinkLoss d s
  | .slotFlitReceived p flit => Sys2Proof.Machine.execSlotFlitReceived p flit s
  | .replaySend p position => Sys2Proof.Machine.execReplaySend p position s
  | .openerReceived p opener => Sys2Proof.Machine.execOpenerReceived p opener s
  | .portTrained p delay stringsUp => Sys2Proof.Machine.execPortTrained p delay stringsUp s
  | .portRetrain p cause => Sys2Proof.Machine.execPortRetrain p cause s
  | .portRetrainTimeout p => Sys2Proof.Machine.execPortRetrainTimeout p s
  | .stringsLaneLost p => Sys2Proof.Machine.execStringsLaneLost p s
  | .fabricLineArrival p => Sys2Proof.Machine.execFabricLineArrival p s
  | .forwardLaunch p slot => Sys2Proof.Machine.execForwardLaunch p slot s
  | .creditReturn flow n => Sys2Proof.Machine.execCreditReturn flow n s
  | .reductionContribution d n => Sys2Proof.Machine.execReductionContribution d n s
  | .fabSend d slot => Sys2Proof.Machine.execFabSend d slot s
  | .fabSendComplete d => Sys2Proof.Machine.execFabSendComplete d s
  | .fabRecv d => Sys2Proof.Machine.execFabRecv d s
  | .fabRecvComplete d n => Sys2Proof.Machine.execFabRecvComplete d n s
  | .fabEnd d => Sys2Proof.Machine.execFabEnd d s
  | .fetchCheck n => Sys2Proof.Machine.execFetchCheck n s
  | .repeatRequest flow => Sys2Proof.Machine.execRepeatRequest flow s
  | .redNorm d => Sys2Proof.Machine.execRedNorm d s
  | .redNormVote d => Sys2Proof.Machine.execRedNormVote d s
  | .redEnd d => Sys2Proof.Machine.execRedEnd d s
  | .updNormWait g => Sys2Proof.Machine.execUpdNormWait g s
  | .normOutcome g => Sys2Proof.Machine.execNormOutcome g s
  | .updUpdate g => Sys2Proof.Machine.execUpdUpdate g s
  | .programGroupResume g => Sys2Proof.Machine.execProgramGroupResume g s
  | .updateComplete g => Sys2Proof.Machine.execUpdateComplete g s
  | .prgAdd g => Sys2Proof.Machine.execPrgAdd g s
  | .prgSub g => Sys2Proof.Machine.execPrgSub g s
  | .prgMul g => Sys2Proof.Machine.execPrgMul g s
  | .prgFma g => Sys2Proof.Machine.execPrgFma g s
  | .prgFms g => Sys2Proof.Machine.execPrgFms g s
  | .prgFnma g => Sys2Proof.Machine.execPrgFnma g s
  | .prgDiv g => Sys2Proof.Machine.execPrgDiv g s
  | .prgSqrt g => Sys2Proof.Machine.execPrgSqrt g s
  | .prgMax g => Sys2Proof.Machine.execPrgMax g s
  | .prgMin g => Sys2Proof.Machine.execPrgMin g s
  | .prgAbs g => Sys2Proof.Machine.execPrgAbs g s
  | .prgNeg g => Sys2Proof.Machine.execPrgNeg g s
  | .prgSel g => Sys2Proof.Machine.execPrgSel g s
  | .prgCgt g => Sys2Proof.Machine.execPrgCgt g s
  | .prgMov g => Sys2Proof.Machine.execPrgMov g s
  | .updRoot g => Sys2Proof.Machine.execUpdRoot g s
  | .rootBlockComplete g => Sys2Proof.Machine.execRootBlockComplete g s
  | .updCommit g => Sys2Proof.Machine.execUpdCommit g s
  | .commitOutcome g => Sys2Proof.Machine.execCommitOutcome g s
  | .updDigest g => Sys2Proof.Machine.execUpdDigest g s
  | .updConst g => Sys2Proof.Machine.execUpdConst g s
  | .updInit g => Sys2Proof.Machine.execUpdInit g s
  | .updEnd g => Sys2Proof.Machine.execUpdEnd g s
  | .publicationReceipt key digest gen => Sys2Proof.Machine.execPublicationReceipt key digest gen s
  | .stepResolveFlip tr => Sys2Proof.Machine.execStepResolveFlip tr s
  | .stepResolveDiscard tr => Sys2Proof.Machine.execStepResolveDiscard tr s
  | .snapshotPin tr => Sys2Proof.Machine.execSnapshotPin tr s
  | .snapshotRelease tr => Sys2Proof.Machine.execSnapshotRelease tr s
  | .rdShared a line txn => Sys2Proof.Machine.execRdShared a line txn s
  | .rdUnique a line txn => Sys2Proof.Machine.execRdUnique a line txn s
  | .upgrade a line txn => Sys2Proof.Machine.execUpgrade a line txn s
  | .rdOnce line txn => Sys2Proof.Machine.execRdOnce line txn s
  | .wrFull line txn => Sys2Proof.Machine.execWrFull line txn s
  | .wrPart line txn => Sys2Proof.Machine.execWrPart line txn s
  | .queuedRequestStart line => Sys2Proof.Machine.execQueuedRequestStart line s
  | .setQueueRequestStart home set => Sys2Proof.Machine.execSetQueueRequestStart home set s
  | .snpShared a line => Sys2Proof.Machine.execSnpShared a line s
  | .snpUnique a line => Sys2Proof.Machine.execSnpUnique a line s
  | .snpInv a line => Sys2Proof.Machine.execSnpInv a line s
  | .snpCur a line => Sys2Proof.Machine.execSnpCur a line s
  | .rspI a line => Sys2Proof.Machine.execRspI a line s
  | .rspFwdS a line => Sys2Proof.Machine.execRspFwdS a line s
  | .rspFwdSWb a line => Sys2Proof.Machine.execRspFwdSWb a line s
  | .rspFwdI a line => Sys2Proof.Machine.execRspFwdI a line s
  | .rspIWb a line => Sys2Proof.Machine.execRspIWb a line s
  | .rspFwdEvict a line => Sys2Proof.Machine.execRspFwdEvict a line s
  | .rspIEvict a line => Sys2Proof.Machine.execRspIEvict a line s
  | .rspCur a line => Sys2Proof.Machine.execRspCur a line s
  | .cmp a line => Sys2Proof.Machine.execCmp a line s
  | .ack a line => Sys2Proof.Machine.execAck a line s
  | .wbAck a line => Sys2Proof.Machine.execWbAck a line s
  | .dataE a line => Sys2Proof.Machine.execDataE a line s
  | .dataS a line => Sys2Proof.Machine.execDataS a line s
  | .dataM a line => Sys2Proof.Machine.execDataM a line s
  | .dataHome a line => Sys2Proof.Machine.execDataHome a line s
  | .dataI a line => Sys2Proof.Machine.execDataI a line s
  | .wbDirty a line => Sys2Proof.Machine.execWbDirty a line s
  | .wbClean a line => Sys2Proof.Machine.execWbClean a line s
  | .cacheEviction a line => Sys2Proof.Machine.execCacheEviction a line s
  | .busyLimit line => Sys2Proof.Machine.execBusyLimit line s
  | .purgeStart home v => Sys2Proof.Machine.execPurgeStart home v s
  | .purgeComplete home => Sys2Proof.Machine.execPurgeComplete home s
  | .windowWrite h addr data => Sys2Proof.Machine.execWindowWrite h addr data s
  | .wcBufferDrain h buffer => Sys2Proof.Machine.execWcBufferDrain h buffer s
  | .windowRead h addr len => Sys2Proof.Machine.execWindowRead h addr len s
  | .winFlushRead h => Sys2Proof.Machine.execWinFlushRead h s
  | .queueEnable q v => Sys2Proof.Machine.execQueueEnable q v s
  | .queueDisable q v => Sys2Proof.Machine.execQueueDisable q v s
  | .queueRestart q v => Sys2Proof.Machine.execQueueRestart q v s
  | .doorbellWrite q v => Sys2Proof.Machine.execDoorbellWrite q v s
  | .slotFetch q n => Sys2Proof.Machine.execSlotFetch q n s
  | .slotReread q n => Sys2Proof.Machine.execSlotReread q n s
  | .qNop q => Sys2Proof.Machine.execQNop q s
  | .qInlineWrite q => Sys2Proof.Machine.execQInlineWrite q s
  | .qSceneLoad q => Sys2Proof.Machine.execQSceneLoad q s
  | .qSceneStart q => Sys2Proof.Machine.execQSceneStart q s
  | .heldSceneStart q => Sys2Proof.Machine.execHeldSceneStart q s
  | .qSignal q => Sys2Proof.Machine.execQSignal q s
  | .qDecomp q => Sys2Proof.Machine.execQDecomp q s
  | .qGather q => Sys2Proof.Machine.execQGather q s
  | .qScatter q => Sys2Proof.Machine.execQScatter q s
  | .qLayout q => Sys2Proof.Machine.execQLayout q s
  | .completionRecordWrite q => Sys2Proof.Machine.execCompletionRecordWrite q s
  | .msiWrite q => Sys2Proof.Machine.execMsiWrite q s
  | .datDecomp d => Sys2Proof.Machine.execDatDecomp d s
  | .datGather d => Sys2Proof.Machine.execDatGather d s
  | .datScatter d => Sys2Proof.Machine.execDatScatter d s
  | .datLayout d => Sys2Proof.Machine.execDatLayout d s
  | .datEnd e => Sys2Proof.Machine.execDatEnd e s
  | .dataJobFinish e => Sys2Proof.Machine.execDataJobFinish e s
  | .vcdOpen q => Sys2Proof.Machine.execVcdOpen q s
  | .vcdDecode q => Sys2Proof.Machine.execVcdDecode q s
  | .vcdEncode q => Sys2Proof.Machine.execVcdEncode q s
  | .vcdClose q => Sys2Proof.Machine.execVcdClose q s
  | .vcdDrain q => Sys2Proof.Machine.execVcdDrain q s
  | .codecJobFinish d pipe => Sys2Proof.Machine.execCodecJobFinish d pipe s
  | .codecSuspend d pipe => Sys2Proof.Machine.execCodecSuspend d pipe s
  | .vcdFbBaseWrite d f v => Sys2Proof.Machine.execVcdFbBaseWrite d f v s
  | .adapterWrite port rid pasid addr data => Sys2Proof.Machine.execAdapterWrite port rid pasid addr data s
  | .adapterRead port rid pasid addr len => Sys2Proof.Machine.execAdapterRead port rid pasid addr len s
  | .peerRequest port addr write => Sys2Proof.Machine.execPeerRequest port addr write s
  | .placementDurable r => Sys2Proof.Machine.execPlacementDurable r s
  | .regionEnable r v => Sys2Proof.Machine.execRegionEnable r v s
  | .regionDisable r v => Sys2Proof.Machine.execRegionDisable r v s
  | .interruptFileWrite addr v => Sys2Proof.Machine.execInterruptFileWrite addr v s
  | .evtRouteWrite e v => Sys2Proof.Machine.execEvtRouteWrite e v s
  | .hartRelease h => Sys2Proof.Machine.execHartRelease h s
  | .hartStop h => Sys2Proof.Machine.execHartStop h s
  | .imgDiscardStaged => Sys2Proof.Machine.execImgDiscardStaged s
  | .imgLoadFull => Sys2Proof.Machine.execImgLoadFull s
  | .imgStagePartial => Sys2Proof.Machine.execImgStagePartial s
  | .imgEpochChange => Sys2Proof.Machine.execImgEpochChange s
  | .imageCheckComplete readError => Sys2Proof.Machine.execImageCheckComplete readError s
  | .imageSwitch => Sys2Proof.Machine.execImageSwitch s
  | .epochVoteOutcome go frame => Sys2Proof.Machine.execEpochVoteOutcome go frame s
  | .epochActivation => Sys2Proof.Machine.execEpochActivation s
  | .tagEntryWrite e v => Sys2Proof.Machine.execTagEntryWrite e v s
  | .boardEntryWrite n reg v => Sys2Proof.Machine.execBoardEntryWrite n reg v s
  | .shardTableWrite g shard reg v => Sys2Proof.Machine.execShardTableWrite g shard reg v s
  | .gateMapWrite t context v => Sys2Proof.Machine.execGateMapWrite t context v s
  | .telemetryConfigWrite reg v => Sys2Proof.Machine.execTelemetryConfigWrite reg v s
  | .clkSwitchRoot d source domain => Sys2Proof.Machine.execClkSwitchRoot d source domain s
  | .clkSwitchBypass d source domain => Sys2Proof.Machine.execClkSwitchBypass d source domain s
  | .clkSwitchEffect d domain => Sys2Proof.Machine.execClkSwitchEffect d domain s
  | .rootLock d => Sys2Proof.Machine.execRootLock d s
  | .stabilityCountExpiry d => Sys2Proof.Machine.execStabilityCountExpiry d s
  | .refclkLoss d => Sys2Proof.Machine.execRefclkLoss d s
  | .lockLoss d => Sys2Proof.Machine.execLockLoss d s
  | .powerGood => Sys2Proof.Machine.execPowerGood s
  | .pwrgdDeassert => Sys2Proof.Machine.execPwrgdDeassert s
  | .pkgResetAssert => Sys2Proof.Machine.execPkgResetAssert s
  | .pkgResetRelease => Sys2Proof.Machine.execPkgResetRelease s
  | .packageReset => Sys2Proof.Machine.execPackageReset s
  | .watchdogExpiry => Sys2Proof.Machine.execWatchdogExpiry s
  | .bootReset => Sys2Proof.Machine.execBootReset s
  | .bootCommit => Sys2Proof.Machine.execBootCommit s
  | .bootClear => Sys2Proof.Machine.execBootClear s
  | .bootUnlockRam => Sys2Proof.Machine.execBootUnlockRam s
  | .bootStage stage => Sys2Proof.Machine.execBootStage stage s
  | .bootFail reason => Sys2Proof.Machine.execBootFail reason s
  | .bootDieRelease mask => Sys2Proof.Machine.execBootDieRelease mask s
  | .bootFlashRead => Sys2Proof.Machine.execBootFlashRead s
  | .bootFlashProgram => Sys2Proof.Machine.execBootFlashProgram s
  | .bootFlashErase => Sys2Proof.Machine.execBootFlashErase s
  | .flashOpComplete ok => Sys2Proof.Machine.execFlashOpComplete ok s
  | .bundleVerify offset types => Sys2Proof.Machine.execBundleVerify offset types s
  | .secSvnAdvWrite v => Sys2Proof.Machine.execSecSvnAdvWrite v s
  | .quoteStart => Sys2Proof.Machine.execQuoteStart s
  | .quoteComplete => Sys2Proof.Machine.execQuoteComplete s
  | .mregExtend v => Sys2Proof.Machine.execMregExtend v s
  | .fatalCopy d => Sys2Proof.Machine.execFatalCopy d s
  | .errFatalClrWrite v => Sys2Proof.Machine.execErrFatalClrWrite v s
  | .fenceRequest u => Sys2Proof.Machine.execFenceRequest u s
  | .returnRequest u => Sys2Proof.Machine.execReturnRequest u s
  | .registerWrite source addr size v others => Sys2Proof.Machine.execRegisterWrite source addr size v others s
  | .registerRead source addr size => Sys2Proof.Machine.execRegisterRead source addr size s
  | .hartMemoryAccess h kind addr data => Sys2Proof.Machine.execHartMemoryAccess h kind addr data s
  | .linkTrained d l modules => Sys2Proof.Machine.execLinkTrained d l modules s
  | .downstreamPortContainment port event => Sys2Proof.Machine.execDownstreamPortContainment port event s

end Sys2Proof.Machine
end

