-- ==== Sys2Proof/Safety.lean ====
section
/-! DEFINITION. What counts as a safe step, and the words in which the statements are written: what a command leaves
alone, and when a tile's sequencer stands at a word of an opcode. -/

namespace Sys2Proof

open Sys2Proof.Machine

/-- The step from s neither faults nor refuses. -/
def SafeStep (s : State) : Prop := ∃ t, Machine.step s = .next t

/-- The memory of a state is in canonical form. -/
def MemoryOk (s : State) : Prop := Memory.wf s.mem = true

/-- r is s but for tile t. -/
def OnlyTile (t : Nat) (s r : State) : Prop := (∀ u, u ≠ t → r.tile u = s.tile u) ∧ r = { s with tiles := r.tiles }

/-- r is s but for troupe i. -/
def OnlyTroupe (i : Nat) (s r : State) : Prop :=
  (∀ j, j ≠ i → r.troupe j = s.troupe j) ∧ r = { s with troupes := r.troupes }

/-- Every byte of memory outside a range of n bytes from a reads in r as it read in s. -/
def MemoryKept (a n : Nat) (s r : State) : Prop :=
  ∀ b, b < a ∨ a + n ≤ b → memRead r.mem b = memRead s.mem b

/-- Tile t's sequencer can issue the word at its pc, which has opcode op. -/
def Machine.State.issues (s : State) (t op : Nat) : Bool :=
  s.live && (s.tile t).canIssue && (s.tile t).pcOk && opcodeOf (s.tile t).word == op

/-- A tile whose sequencer moved past the word at pc, the next word issuing some cycles later; a change of the loop
indices is noted for the next cycle (R105, R109). -/
def Machine.Tile.beyond (x : Tile) (cycles : Nat) : Tile :=
  { x with
    pc := (nextPc x.pc x.loops).1
    loops := (nextPc x.pc x.loops).2
    idxLog := if (nextPc x.pc x.loops).2 = x.loops then x.idxLog
      else (x.cycle + 1, (List.range 4).map (loopIndex (nextPc x.pc x.loops).2)) :: x.idxLog
    cycle := x.cycle + cycles }

/-- A tile whose sequencer handed the word at pc to the queue of unit u (R73, R74). -/
def Machine.Tile.queued (x : Tile) (u : Nat) : Tile :=
  { x.beyond 1 with
    nextSeq := x.nextSeq + 1
    units := tmod {} x.units u fun q => { q with queue := q.queue ++
      [⟨BitVec.ofNat 128 x.word, x.pc, x.nextSeq, x.cycle, x.idx, tget 0 x.accKind (fld x.word 8 1)⟩] } }

/-- No bank access of tile t and no active cycle breaks a rule in the cycles that its sequencer, at lo before, has now
reached (R56, R82, R83). -/
def Machine.State.unbroken (s : State) (t lo : Nat) : Prop :=
  breachesFrom s.image t (s.tile t) (s.tile t).uses 0 (lo + 1) (s.tile t).knownTo = [] ∧
  ∀ b ∈ (s.tile t).dues, (s.tile t).knownTo < b.cycle

/-- Every write of the list is no earlier than any that tile t's ports have made in its scratchpad, and no earlier than
the one before it (R73). -/
def Machine.State.inOrder (s : State) (t : Nat) (cycles : List Nat) : Prop :=
  (∀ p ∈ (s.tile t).past, ∀ c ∈ cycles, p.cycle ≤ c) ∧ cycles.Pairwise (fun a b => a ≤ b)

end Sys2Proof
end

