-- ==== Sys2Proof/WellFormed.lean ====
section
/-! DEFINITION. Which commands are well formed: whose operands can occur on the package. An ill-formed command still
has a meaning; a sender has no cause to send it. -/

namespace Sys2Proof

/-- A physical address has 48 bits (R24). -/
def addrOk (a : Nat) : Bool := decide (a < 2 ^ 48)

/-- The bytes of an access lie in the address space. -/
def spanOk (a n : Nat) : Bool := decide (a + n ≤ 2 ^ 48)

/-- A line number A[47:7] (R379). -/
def lineOk (l : Nat) : Bool := decide (l < 2 ^ 41)

/-- A transaction identifier of an agent (R382). -/
def txnOk (t : Nat) : Bool := decide (t < 256)

/-- A unit number (R42). -/
def unitOk (u : Nat) : Bool := decide (u < 76)

/-- The size of a register access. -/
def sizeOk (n : Nat) : Bool := n == 1 || n == 2 || n == 4 || n == 8

/-- Other masters' writes come from other sources, each at most one (R35, R267). -/
def othersOk (source : Nat) (os : List OtherWrite) : Bool :=
  os.all (fun w => decide (w.source < 4) && w.source != source) && decide (os.map OtherWrite.source).Nodup

/-- A coherence message about a line. -/
def protocolLine : Instr → Option Nat
  | .rdShared _ l _ | .rdUnique _ l _ | .upgrade _ l _ | .rdOnce l _ | .wrFull l _ | .wrPart l _ | .queuedRequestStart l
  | .snpShared _ l | .snpUnique _ l | .snpInv _ l | .snpCur _ l | .rspI _ l | .rspFwdS _ l | .rspFwdSWb _ l | .rspFwdI _ l
  | .rspIWb _ l | .rspFwdEvict _ l | .rspIEvict _ l | .rspCur _ l | .cmp _ l | .ack _ l | .wbAck _ l | .dataE _ l
  | .dataS _ l | .dataM _ l | .dataHome _ l | .dataI _ l | .wbDirty _ l | .wbClean _ l | .cacheEviction _ l
  | .busyLimit l => some l
  | _ => none

/-- Whether a command's operands can occur. -/
def WellFormed (i : Instr) : Bool :=
  (protocolLine i).all lineOk &&
  match i with
  | .rdShared _ _ t | .rdUnique _ _ t | .upgrade _ _ t | .rdOnce _ t | .wrFull _ t | .wrPart _ t => txnOk t
  | .barrierArrival _ o a => decide (o < 4096) && unitOk a.unit
  | .barrierRelease o => decide (o < 4096)
  | .reductionOperand _ _ u _ _ => unitOk u
  | .voteCast _ _ u _ => unitOk u
  | .frameStart rails logic fec links _ =>
    rails.all (fun r => decide (r.rail < 21)) && logic.all (fun l => decide (l.die < 9)) &&
      fec.all (fun f => decide (f.port < 8)) && links.all fun l => decide (l.die < 9) && decide (l.link < 8)
  | .membershipNotice _ span x y z _ => decide (span < 256) && decide (x < 16) && decide (y < 8) && decide (z < 8)
  | .carriedRegisterWrite a _ os => addrOk a && othersOk 2 os
  | .timetableFrameStart ts => ts.all fun t => decide (t.memory < 16)
  | .memorySlot _ c k _ => decide (c < 64) && decide (k < 4096)
  | .slotFlitReceived _ f => f.length == 400
  | .openerReceived _ o => o.length == 362
  | .windowWrite _ a d => spanOk a d.length
  | .windowRead _ a n => spanOk a n
  | .adapterWrite _ _ _ a d => spanOk a d.length
  | .adapterRead _ _ _ a n => spanOk a n
  | .peerRequest _ a _ => addrOk a
  | .interruptFileWrite a _ => addrOk a && a % 4 == 0
  | .tagEntryWrite e _ => decide (1 ≤ e) && decide (e ≤ 4095)
  | .clkSwitchEffect _ k => decide (k < 8)
  | .registerWrite src a n _ os => addrOk a && sizeOk n && othersOk src os
  | .registerRead _ a n => addrOk a && sizeOk n
  | .hartMemoryAccess _ _ a d => spanOk a d.length
  | _ => true

end Sys2Proof
end

