-- ==== Sys2Proof/Certificates/Slice0/Obligations.lean ====
section
/-! DEFINITION. The statements for the provers. -/

open Sys2Proof Sys2Proof.Machine


/-- For every command c, queue rest and state s whose pending queue is c followed by rest, step s is exec of c on s
with rest as its queue. The queue is the model's own (log entry 3). On an empty queue a live package's step adds
one to the time CSR and 40 STR cycles to span time, which stays below the next multiple of 4,000, and changes
nothing else; a package without power, in reset or stopped does not change at all. That a step of an empty queue
is one period is the model's choice (DESIGN CHOICE, log entry 8). (R8, R259, R453.) -/
def Obligations.StepRunsTheFrontCommand : Prop :=
  (∀ (c : Instr) (rest : List Instr) (s : State), s.pending = c :: rest →
    step s = exec c { s with pending := rest }) ∧
  ∀ s : State, s.pending = [] →
    (s.live = true → step s = .next { s with time := { s.time with
        csr := s.time.csr + 1
        span := min (s.time.span + 40) (s.time.span / 4000 * 4000 + 3999) } }) ∧
    (s.live = false → step s = .next s)

/-- For every command and every state, exec answers a next state: the spec gives every row of the table an effect,
and an event that is not due changes nothing (DESIGN CHOICE, log entry 1). (model.) -/
def Obligations.EveryCommandAnswersANextState : Prop :=
  ∀ (i : Instr) (s : State), ∃ r, exec i s = .next r

/-- Once a package stop has halted all logic, and as long as PWRGD is asserted and PKG_RESET_N released, every
command other than the deassertion of PWRGD and the assertion of PKG_RESET_N leaves the whole state as it is.
(R524.) -/
def Obligations.StoppedPackageKeepsItsState : Prop :=
  ∀ (i : Instr) (s : State), s.boot.stopped = true → s.boot.powerGood = true → s.boot.released = true →
    i ≠ .pwrgdDeassert → i ≠ .pkgResetAssert → exec i s = .next s

/-- After reset nothing waits in the queue, memory lists nothing, no image is in force, every troupe is undefined
with the default wait limit 0x0001_0000 and the norm ceiling 0x7F7F_FFFF, every tile is in no scene with an
empty log, no token is counted, no fence stands, no error is recorded, and the package is neither powered nor
released. (R96, R128, R92, R205, R315.) -/
def Obligations.ResetValues : Prop :=
  let s := State.reset
  s.pending = [] ∧ s.mem = [] ∧ s.img.inForce = none ∧ s.time.span = 0 ∧
  (∀ i, (s.troupe i).state = 0 ∧ (s.troupe i).waitLimit = 0x0001_0000 ∧ (s.troupe i).normCeil = 0x7F7F_FFFF#32) ∧
  (∀ t, (s.tile t).state = tsNone ∧ (s.tile t).logWr = 0 ∧ (s.tile t).logRd = 0) ∧
  (∀ c, (s.token c).count = 0) ∧ (∀ u, (s.fence u).fenced = false) ∧ (∀ d, (s.dieErr d).wr = (s.dieErr d).rd) ∧
  s.err.fatal = none ∧ s.boot.powerGood = false ∧ s.boot.released = false

/-- The memory of the state after reset is in canonical form: addresses strictly rise and no listed byte equals what
an unlisted byte reads as (log entry 9). The form is the model's own. (R24.) -/
def Obligations.MemoryIsCanonicalAtReset : Prop :=
  MemoryOk State.reset

/-- For every state whose memory is in canonical form, every step that answers a next state leaves memory in
canonical form, whatever command stands at the front of the queue and whatever the rest of the state. The form
is the model's own (log entry 9). (R24.) -/
def Obligations.EveryStepKeepsMemoryCanonical : Prop :=
  ∀ s t : State, MemoryOk s → step s = .next t → MemoryOk t

/-- Whatever command runs, the queue after a step is the queue before it without its first command: no meaning
sends, drops or reorders commands (the single sender does that, log entry 3). (model.) -/
def Obligations.EveryStepTakesExactlyTheFrontCommand : Prop :=
  ∀ s t : State, step s = .next t → t.pending = s.pending.tail

/-- A tile that can issue the word at its pc, whose word is well formed and which has no open chain: CT.NOP issues
in one cycle and moves past itself; CT.IDLE delays the next word by n further cycles; CT.LOOP opens a loop of
its level, count and body with index 0; CT.OPEN and CT.CLOSE change the window of exactly the named banks, from
the next cycle on; CT.END notes its address, closes every window and leaves the tile ending. Moving past a word
closes or repeats the innermost loop body that ends there. Then the faults that earlier commands' accesses
commit in the cycles now reached are raised (judgeOn); where there are none, nothing else of the state changes.
(R83, R88, R105, R108, R109, R110, R111, R129.) -/
def Obligations.ControlWordsIssue : Prop :=
  ∀ (t : TileId) (s : State),
    let x := s.tile t
    let w := x.word
    let goes := fun (c : Instr) (y : Tile) => exec c s = .next (judgeOn t x.cycle (s.modTile t fun _ => y))
    (x.vec.chain = [] →
      (s.issues t 0x00 = true → reservedClear w [] = true → goes (.ctNop t) (x.beyond 1)) ∧
      (s.issues t 0x01 = true → reservedClear w [(8, 32)] = true → fld w 8 32 ≠ 0 →
        goes (.ctIdle t) (x.beyond (1 + fld w 8 32))) ∧
      (s.issues t 0x02 = true → loopOk x w = true → goes (.ctLoop t) { x with
          pc := x.pc + 16, cycle := x.cycle + 1
          idxLog := (x.cycle + 1, (List.range 4).map fun l => if l = fld w 56 2 then 0 else loopIndex x.loops l) :: x.idxLog
          loops := { level := fld w 56 2, count := fld w 8 32, index := 0, first := x.pc + 16,
                     last := x.pc + 16 + 16 * fld w 40 14 } :: x.loops }) ∧
      (s.issues t 0x03 = true → reservedClear w [(8, 32), (40, 4)] = true → 7 ≤ fld w 40 4 → fld w 40 4 ≤ 9 →
        ∃ y, goes (.ctOpen t) y ∧ y = { x.beyond 1 with windows := y.windows, winLog := y.winLog } ∧
          (∀ b c, y.windowAt b c = if x.cycle < c ∧ (fld w 8 32).testBit b = true then true else x.windowAt b c) ∧
          ∀ b, tget none y.windows b =
            if b < 32 ∧ (fld w 8 32).testBit b = true then some (fld w 40 4) else tget none x.windows b) ∧
      (s.issues t 0x04 = true → reservedClear w [(8, 32)] = true →
        ∃ y, goes (.ctClose t) y ∧ y = { x.beyond 1 with windows := y.windows, winLog := y.winLog } ∧
          (∀ b c, y.windowAt b c = if x.cycle < c ∧ (fld w 8 32).testBit b = true then false else x.windowAt b c) ∧
          ∀ b, tget none y.windows b =
            if b < 32 ∧ (fld w 8 32).testBit b = true then none else tget none x.windows b) ∧
      (s.issues t 0x05 = true → reservedClear w [] = true → x.loops = [] → goes (.ctEnd t) { x with
          state := tsEnding, endAddr := x.pc, windows := [], cycle := x.cycle + 1
          winLog := (0xFFFF_FFFF, false, x.cycle + 1) :: x.winLog })) ∧
    ∀ (y : Tile) (lo : Nat), (s.modTile t fun _ => y).unbroken t lo →
      judgeOn t lo (s.modTile t fun _ => y) = s.modTile t fun _ => y

/-- For TK.SIGNAL, ST.ARRIVE, MV.LD, MV.ST, MV.CP, MM.DRAIN, GT.ARM, GT.FIRE, LG.REC, LG.MARK and LG.CLR: when the
tile can issue the word at its pc, the word's opcode is the row's, the unit it names (R102) has fewer than 8
occupied entries and the word is well formed, the word is appended to that unit's queue with its address, its
number, its issue cycle, the four loop indices and the kind of its bank, the sequencer moves past it in one
cycle, and the faults of the cycles now reached are raised; where there are none, nothing else changes. (R73,
R74, R80, R101, R102, R112, R113, R114, R117, R119, R120.) -/
def Obligations.UnitWordsEnterTheirQueues : Prop :=
  ∀ (t : TileId) (s : State),
    let x := s.tile t
    let w := x.word
    let mover := 2 + fld w 8 1
    let takes := fun (op u : Nat) (ok : Bool) (c : Instr) =>
      s.issues t op = true → x.full u = false → ok = true →
      exec c s = .next (judgeOn t x.cycle (s.modTile t fun _ => x.queued u)) ∧
      ((s.modTile t fun _ => x.queued u).unbroken t x.cycle → exec c s = .next (s.modTile t fun _ => x.queued u))
    takes 0x10 5 (reservedClear w [(8, 8), (16, 2), (32, 16), (64, 32)] && !bitOf w 13 && decide (fld w 16 2 ≤ 1) &&
      channelOk (fld w 16 2) (fld w 32 16) && decide (fld w 64 32 ≠ 0)) (.tkSignal t) ∧
    takes 0x20 6 (reservedClear w [(48, 16)]) (.stArrive t) ∧
    takes 0x30 mover (mvOk 0x30 x w) (.mvLd t) ∧
    takes 0x31 mover (mvOk 0x31 x w) (.mvSt t) ∧
    takes 0x32 mover (mvOk 0x32 x w) (.mvCp t) ∧
    takes 0x41 0 (drainOk x w) (.mmDrain t) ∧
    takes 0x60 4 (reservedClear w [(64, 9), (96, 32)] && decide (1 ≤ fld w 64 9) && decide (fld w 64 9 ≤ 256)) (.gtArm t) ∧
    takes 0x62 4 (reservedClear w []) (.gtFire t) ∧
    takes 0x70 7 (reservedClear w [(8, 8), (32, 32)]) (.lgRec t) ∧
    takes 0x71 7 (reservedClear w [(32, 32), (64, 64)]) (.lgMark t) ∧
    takes 0x72 7 (reservedClear w [(8, 8), (16, 8)] && decide (fld w 8 8 ≤ fld w 16 8)) (.lgClr t)

/-- A well-formed MM.ACC word with room in the arrays' queue is appended to it, and the sequencer records for the
accumulator bank that the word names whether it now holds floating-point or INT8 products, leaving the other
bank's kind alone; a well-formed GT.FILL word with room in the gate's queue is appended to it and its format is
the format of the scene's fills. The sequencer moves past the word in one cycle, and the faults of the cycles
now reached are raised; nothing else changes. (R74, R115, R116, R119, R143, R145.) -/
def Obligations.AccumulateAndFillWordsIssue : Prop :=
  ∀ (t : TileId) (s : State),
    let x := s.tile t
    let w := x.word
    (s.issues t 0x40 = true → x.full 0 = false → accOk x w = true →
      ∃ ks, exec (.mmAcc t) s = .next (judgeOn t x.cycle (s.modTile t fun _ => { x with accKind := ks }.queued 0)) ∧
        tget 0 ks (fld w 8 1) = (if (descAt x.imem (fld w 16 12)).format = fmInt8 then 2 else 1) ∧
        ∀ b, b ≠ fld w 8 1 → tget 0 ks b = tget 0 x.accKind b) ∧
    (s.issues t 0x61 = true → x.full 4 = false →
      reservedClear w [(16, 7), (32, 12)] = true → fld w 16 7 ≤ 95 → (descAt x.imem (fld w 32 12)).ok = true →
      westFormat (descAt x.imem (fld w 32 12)).format = true →
      (x.gate.format = none ∨ x.gate.format = some (descAt x.imem (fld w 32 12)).format) →
      exec (.gtFill t) s = .next (judgeOn t x.cycle (s.modTile t fun _ => { x.queued 4 with
        gate := { x.gate with format := some (descAt x.imem (fld w 32 12)).format } })))

/-- For each of the 42 rows of the vector engine: when the tile can issue the word at its pc, the word's family and
function are the row's, the vector engine's queue has room, fewer than 8 words stand in the open chain and the
word is well formed, the word is appended to the queue; a word whose result is a hand-off register is appended
to the open chain, a word whose result is a descriptor, and VX.KEY, leave no chain open. The sequencer moves
past it in one cycle, and the faults of the cycles now reached are raised; nothing else changes. (R118, R188,
R189, R193, R194, R195, R199, R201, R203, R206, R207.) -/
def Obligations.VectorWordsJoinTheirChain : Prop :=
  ∀ (t : TileId) (s : State),
    let x := s.tile t
    let w := x.word
    let joins := fun (op : Nat) (f : Nat → Bool) (c : Instr) =>
      s.issues t op = true → f (fld w 8 8) = true → x.full 1 = false → x.vec.chain.length < 8 → vxOk x w = true →
      exec c s = .next (judgeOn t x.cycle (s.modTile t fun _ => { x.queued 1 with
        vec := { x.vec with chain := match selOf (fld w 64 14), (vxOf w).isKey with
          | .hand _, false => x.vec.chain ++
              [⟨BitVec.ofNat 128 w, x.pc, x.nextSeq, x.cycle, x.idx, tget 0 x.accKind (fld w 8 1)⟩]
          | _, _ => [] } }))
    joins 0x50 (· == 0) (.vxAdd t) ∧ joins 0x50 (· == 1) (.vxSub t) ∧ joins 0x50 (· == 2) (.vxMul t) ∧
    joins 0x50 (· == 3) (.vxMax t) ∧ joins 0x50 (· == 4) (.vxMin t) ∧
    joins 0x51 (· == 0) (.vxFma t) ∧ joins 0x51 (· == 1) (.vxFms t) ∧ joins 0x51 (· == 2) (.vxFnma t) ∧
    joins 0x52 (· == 0) (.vxMov t) ∧ joins 0x52 (· == 1) (.vxNeg t) ∧ joins 0x52 (· == 2) (.vxAbs t) ∧
    joins 0x52 (· == 3) (.vxRelu t) ∧
    joins 0x53 (· == 0) (.vxCgt t) ∧ joins 0x53 (· == 1) (.vxCge t) ∧ joins 0x53 (· == 2) (.vxCeq t) ∧
    joins 0x53 (· == 3) (.vxCne t) ∧ joins 0x54 (· == 0) (.vxSel t) ∧
    joins 0x55 (· == 0) (.vxExp2 t) ∧ joins 0x55 (· == 1) (.vxLog2 t) ∧ joins 0x55 (· == 2) (.vxRcp t) ∧
    joins 0x55 (· == 3) (.vxRsqrt t) ∧ joins 0x55 (· == 4) (.vxTanh t) ∧ joins 0x55 (· == 5) (.vxErf t) ∧
    joins 0x56 (· == 0) (.vxRsum t) ∧ joins 0x56 (· == 1) (.vxRmax t) ∧ joins 0x56 (· == 2) (.vxRmin t) ∧
    joins 0x56 (· == 3) (.vxRssq t) ∧ joins 0x56 (· == 4) (.vxCsum t) ∧ joins 0x56 (· == 5) (.vxCmax t) ∧
    joins 0x56 (· == 6) (.vxCmin t) ∧ joins 0x57 (· == 0) (.vxCmpr t) ∧ joins 0x57 (· == 1) (.vxExpd t) ∧
    joins 0x58 (fun f => f == 0x81 || f == 0x82 || f == 0x84 || f == 0x85) (.vxKey t) ∧
    joins 0x58 (fun f => decide (0x11 ≤ f ∧ f ≤ 0x17)) (.vxDrop t) ∧
    joins 0x58 (fun f => decide (0x21 ≤ f ∧ f ≤ 0x27)) (.vxKeep t) ∧
    joins 0x58 (fun f => decide (0x31 ≤ f ∧ f ≤ 0x37)) (.vxUnif t) ∧
    joins 0x59 (· == 0) (.vxIadd t) ∧ joins 0x59 (· == 1) (.vxIsub t) ∧ joins 0x59 (· == 2) (.vxImax t) ∧
    joins 0x59 (· == 3) (.vxImin t) ∧ joins 0x59 (· == 4) (.vxItof t) ∧ joins 0x59 (· == 5) (.vxFtoi t)

/-- A well-formed TK.WAIT on a tile's own channel, or on a channel or region in which its naming raises no fault,
and a well-formed ST.SYNC, ST.RED or ST.VOTE with room in the Strings queue, answer a next state, where no
earlier access breaks a rule: the tile has moved past the word and waits; the wait names the kind, the channel
or object, k, the command's limit (the troupe's captured default where the word gives 0), the span time and the
cycle of issue. An ST word also enters the Strings queue and its outcome is awaited. A wait on a device-wide
channel or region makes the tile its waiter. Nothing else changes. Where a tile's own channel already holds k,
counted in cycles before the issue, and the tile has no command, the release of TK.WAIT in the cycle of its
issue takes k from the channel and the tile issues again 2 cycles later. (R73, R79, R96, R112, R113, R251, R253,
R254, R257.) -/
def Obligations.BlockingWordsBlockTheTile : Prop :=
  ∀ (t : TileId) (s : State),
    let x := s.tile t
    let w := x.word
    let limit := waitLimitOf s t (fld w 96 32)
    let waits := fun (kind chan k : Nat) => (some ⟨kind, chan, k, limit, s.time.span, x.cycle, x.pc, false⟩ : Option WaitRec)
    let y := { x.beyond 1 with nextSeq := x.nextSeq + 1, state := tsWait }
    (s.issues t 0x11 = true → x.vec.chain = [] →
      reservedClear w [(16, 2), (32, 16), (64, 32), (96, 32)] = true → channelOk (fld w 16 2) (fld w 32 16) = true →
      fld w 64 32 ≠ 0 → (fld w 16 2 = 0 ∨ waitFault s t (1 + fld w 16 2) (fld w 32 16) = none) →
      (s.modTile t fun _ => y).unbroken t x.cycle →
      ∃ r, exec (.tkWait t) s = .next r ∧
        r.tile t = y ∧ (∀ u, u ≠ t.val → r.tile u = s.tile u) ∧
        r.wait t = waits (1 + fld w 16 2) (fld w 32 16) (fld w 64 32) ∧ (∀ u, u ≠ t.val → r.wait u = s.wait u) ∧
        (fld w 16 2 = 1 → (r.token (fld w 32 16)) = { s.token (fld w 32 16) with waiter := some t.val }) ∧
        (fld w 16 2 = 2 → (r.region (fld w 32 16)) = { s.region (fld w 32 16) with waiter := some t.val }) ∧
        r = { s with tiles := r.tiles, waits := r.waits, tokens := r.tokens, plc := r.plc } ∧
        (fld w 16 2 = 0 → x.units = [] → x.uses = [] → x.dues = [] → x.gate.fills = [] →
          (∀ e ∈ tget [] x.tokenLog (fld w 32 16), e.2.1 ≤ x.cycle ∧ e.2.2 ≤ x.cycle) →
          fld w 64 32 ≤ ((tget [] x.tokenLog (fld w 32 16)).map fun e => e.1).sum →
          ∀ u : UnitId, u.val = t.val → ∃ q, exec (.waitRelease u x.cycle) r = .next q ∧ (q.tile t).state = tsIssue ∧
            (q.tile t).cycle = x.cycle + 2 ∧ q.wait t = none ∧ (q.tile t).pc = y.pc ∧
            ∀ c, tget 0 (q.tile t).tokens c = tget 0 x.tokens c - if c = fld w 32 16 then fld w 64 32 else 0)) ∧
    (let issued := fun (op kind : Nat) (ok : Bool) (c : Instr) =>
      s.issues t op = true → x.full 6 = false → ok = true →
      (s.modTile t fun _ => { x.queued 6 with state := tsWait }).unbroken t x.cycle →
      ∃ r, exec c s = .next r ∧
        r.tile t = { x.queued 6 with state := tsWait } ∧ (∀ u, u ≠ t.val → r.tile u = s.tile u) ∧
        r.wait t = waits 4 (fld w 48 16) 0 ∧ (∀ u, u ≠ t.val → r.wait u = s.wait u) ∧
        tget { kind := 0, obj := 0 } r.str.waits t =
          { kind := kind, obj := fld w 48 16, seq := x.nextSeq, addr := x.pc, queued := true } ∧
        r = { s with tiles := r.tiles, waits := r.waits, str := { s.str with waits := r.str.waits } }
    issued 0x21 1 (reservedClear w [(48, 16), (96, 32)]) (.stSync t) ∧
    issued 0x22 2 (reservedClear w [(8, 4), (16, 12), (32, 12), (48, 16), (96, 32)] && decide (fld w 8 4 ≤ 4) &&
      (descAt x.imem (fld w 16 12)).ok && (descAt x.imem (fld w 32 12)).ok) (.stRed t) ∧
    issued 0x23 3 (reservedClear w [(12, 1), (13, 1), (16, 12), (32, 12), (48, 16), (96, 32)] &&
      (!bitOf w 12 || (descAt x.imem (fld w 16 12)).ok) && (descAt x.imem (fld w 32 12)).ok) (.stVote t))

/-- When the word at pc of a running troupe's tile has an opcode that is not in force, or is a CT word met with a
chain open, or is a CT.LOOP that breaks R110, or an MV, MM or VX word that its checks refuse (its queue having
room), the sequencer halts at that word, the troupe's fault count rises by one, and the troupe begins to abort
with fault code 0x0E against that tile. The pc, the cycle and every queue are unchanged. (R88, R90, R91, R103,
R189, R551.) -/
def Obligations.MalformedWordsHaltTheSequencer : Prop :=
  ∀ (t : TileId) (s : State) (tr : Nat),
    let x := s.tile t
    let w := x.word
    let halts := fun (c : Instr) => ∃ r, exec c s = .next r ∧
      (r.tile t) = { x with halted := true, raised := x.raised ++ [(x.nextSeq, 0x0E)] } ∧
      (∀ u, u ≠ t.val → r.tile u = s.tile u) ∧
      (r.troupe tr).state = 2 ∧ (r.troupe tr).faultCode = 0x0E ∧ (r.troupe tr).faultUnit = t.val ∧
      (r.troupe tr).faultCount = min ((s.troupe tr).faultCount + 1) 0xFF ∧
      r.mem = s.mem ∧ r.waits = s.waits ∧ r.str = s.str
    s.image.unitTroupe t = some tr → tr < 16 → (s.troupe tr).state = 1 → (x.nextSeq, 0x0E) ∉ x.raised →
    (s.issues t (opcodeOf w) = true → opcodeInForce (opcodeOf w) = false → halts (.ctNop t)) ∧
    (s.issues t 0x00 = true → x.vec.chain ≠ [] → halts (.ctNop t)) ∧
    (s.issues t 0x01 = true → x.vec.chain ≠ [] → halts (.ctIdle t)) ∧
    (s.issues t 0x02 = true → loopOk x w = false → halts (.ctLoop t)) ∧
    (s.issues t 0x05 = true → x.loops ≠ [] → halts (.ctEnd t)) ∧
    (s.issues t 0x30 = true → x.full (2 + fld w 8 1) = false → mvOk 0x30 x w = false → halts (.mvLd t)) ∧
    (s.issues t 0x40 = true → x.full 0 = false → accOk x w = false → halts (.mmAcc t)) ∧
    (s.issues t 0x50 = true → fld w 8 8 = 0 → x.full 1 = false → vxOk x w = false → halts (.vxAdd t))

/-- When in the cycle of a word's issue the 8 entries of the queue that it names are occupied, a started command's
up to the cycle of its start, the word does not issue, be it well formed or not: the tile is held for that unit,
and neither its pc nor its cycle changes. When fewer than 8 commands wait in that queue, ISSUE_RESUME ends the
hold, and the word's cycle is at least the cycle after the start that frees an entry for it. The faults of the
cycles then reached are raised; where there are none, nothing else changes. (R73, R74, R102.) -/
def Obligations.FullQueueHoldsIssueUntilAStart : Prop :=
  (∀ (t : TileId) (s : State),
    ∀ c ∈ [(0x10, 5, Instr.tkSignal t), (0x20, 6, Instr.stArrive t), (0x21, 6, Instr.stSync t), (0x22, 6, Instr.stRed t),
           (0x23, 6, Instr.stVote t), (0x30, 2 + fld (s.tile t).word 8 1, Instr.mvLd t),
           (0x31, 2 + fld (s.tile t).word 8 1, Instr.mvSt t), (0x32, 2 + fld (s.tile t).word 8 1, Instr.mvCp t),
           (0x40, 0, Instr.mmAcc t), (0x41, 0, Instr.mmDrain t), (0x60, 4, Instr.gtArm t), (0x61, 4, Instr.gtFill t),
           (0x62, 4, Instr.gtFire t), (0x70, 7, Instr.lgRec t), (0x71, 7, Instr.lgMark t), (0x72, 7, Instr.lgClr t)],
      s.issues t c.1 = true → (s.tile t).full c.2.1 = true →
      exec c.2.2 s = .next (s.modTile t fun x => { x with held := some c.2.1 })) ∧
  ∀ (t : TileId) (s : State) (u : Nat), s.live = true → (s.tile t).held = some u → (s.tile t).state = tsIssue →
    ((s.tile t).unit u).queue.length < 8 →
    let y := s.modTile t fun x => { x with held := none, cycle := max x.cycle ((s.tile t).unit u).roomFrom }
    exec (.issueResume t) s = .next (judgeOn t (s.tile t).cycle y) ∧
    (y.unbroken t (s.tile t).cycle → exec (.issueResume t) s = .next y)

/-- On a working tile whose words and starts of earlier cycles have been taken (log entry 132), COMMAND_START of a
unit other than the vector engine takes the oldest command out of that unit's queue, and the start that the unit
remembers is at least the command's issue plus 2; the queues of the other units are unchanged. A gated MM.ACC
with no fired round, and a GT.ARM or GT.FIRE with a fired round not yet released, is held instead: its queue
keeps it, and the hold's beginning is noted. (R73, R74, R75, R140, R147, R154.) -/
def Obligations.CommandsStartNoSoonerThanTheirUnitIsFree : Prop :=
  ∀ (t : TileId) (unit : TileUnitId) (s : State) (c : Cmd) (cs : List Cmd),
    let x := s.tile t
    let held := (unit.val = 0 ∧ arrayBlocked x c = true) ∨ (unit.val = 4 ∧ gateBlocked x c = true)
    s.live = true → x.works = true → unit.val ≠ 1 → (x.unit unit).queue = c :: cs →
    (¬ held → (∀ τ, x.headStart unit = some τ → x.settled τ = true) → startReady x unit c = true →
      ∃ r, exec (.commandStart t unit) s = .next r ∧
      ((r.tile t).unit unit).queue = cs ∧ c.issue + 2 ≤ ((r.tile t).unit unit).lastStart ∧
      (∀ u, u ≠ unit.val → ((r.tile t).unit u).queue = (x.unit u).queue) ∧ (∀ u, u ≠ t.val → r.tile u = s.tile u) ∧
      r.time = s.time ∧ r.grots = s.grots ∧ r.coh = s.coh) ∧
    (held → exec (.commandStart t unit) s = .next (s.modTile t fun x => { x with
      gate := { x.gate with holdSince := some (x.gate.holdSince.getD s.time.span) } }))

/-- When the oldest command of the counter logger starts, in its turn: LG.REC appends a record of kind 1 with the
completion entry it names as it stands before the additions of its start + 4, LG.MARK one of kind 2 with its tag
and value, each at the write pointer, which moves on by one modulo 1,024, or is dropped and counted where the
pointer would meet the read pointer; LG.CLR clears exactly the entries of its range, with every addition made up
to its start + 4. Scratchpads, tiers and every other tile are unchanged. (R121, R122, R123, R124.) -/
def Obligations.LoggerRecordsAndClears : Prop :=
  ∀ (t : TileId) (s : State) (c : Cmd) (cs : List Cmd),
    let x := s.tile t
    let w := c.word.toNat
    let op := opcodeOf w
    let at_ := (x.unit 7).startOf c + 4
    s.live = true → x.works = true → (x.unit 7).queue = c :: cs → (x.unit 5).running = [] →
    x.settled at_ = true → x.caughtUp at_ = true →
    ∃ r, exec (.commandStart t 7) s = .next r ∧ OnlyTile t s r ∧ (r.tile t).adds = x.adds ∧
      ((op = 0x70 ∨ op = 0x71) → (x.logWr + 1) % 1024 ≠ x.logRd →
        (r.tile t).logWr = (x.logWr + 1) % 1024 ∧ (r.tile t).logDropped = x.logDropped ∧ (r.tile t).clears = x.clears ∧
        tget {} (r.tile t).log x.logWr =
          { kind := if op = 0x70 then 1 else 2, tile := t, troupe := (s.image.unitTroupe t).getD 0, sceneId := x.sceneId
            cycle := c.issue, addr := c.addr, tag := fld w 32 32
            value := if op = 0x70 then 0 else BitVec.ofNat 64 (fld w 64 64)
            body := if op = 0x70 then x.entryAt at_ (fld w 8 8) else {} }) ∧
      ((op = 0x70 ∨ op = 0x71) → (x.logWr + 1) % 1024 = x.logRd →
        (r.tile t).logWr = x.logWr ∧ (r.tile t).log = x.log ∧ (r.tile t).logDropped = min (x.logDropped + 1) 0xFFFF) ∧
      (op = 0x72 → (r.tile t).log = x.log ∧ (r.tile t).logWr = x.logWr ∧
        (∀ e, ¬ (fld w 8 8 ≤ e ∧ e ≤ fld w 16 8) → (r.tile t).centry e = x.centry e) ∧
        ∀ e, fld w 8 8 ≤ e → e ≤ fld w 16 8 → at_ < 2 ^ 64 → (∀ a ∈ x.adds, a.cycle ≤ at_) → (r.tile t).centry e = {})

/-- On a tile whose earlier words and starts have been taken. MOVER_LINE_SLOT: where every requested line of the
mover has a slot somewhere, the first waiting line of its way that the slot serves moves in it, at least 40
cycles (20 ns) after its request, and leaves as its port reads it: a load's line holds the bytes that stand at
its addresses unless the read corrects the line wrongly. A line for which no slot is owned raises NO_SLOT in a
running troupe. MOVER_LINE_LANDS, where the regions reached are bound: a line of a store to a tier, with no
reduce flow, writes its bytes at its address; a line of a copy whose window and binding allow it writes them at
its pattern's addresses; a line of a contributing store goes to the die's reduction engine and changes no
memory; a line of a load whose banks are bound, closed to asynchronous ports and free of clashes writes exactly
the converted bytes that it completes. No other byte changes, and no other tile's accumulators or commands.
(R73, R76, R77, R85, R114, R588, R236, R106.) -/
def Obligations.MoverLinesTakeSlotsAndLand : Prop :=
  (∀ (t : TileId) (mover : Fin 2) (slot cycle : Nat) (ecc : Ecc) (s : State) (r : Run) (l : MvLine),
    let u := 2 + mover.val
    let x := s.tile t
    let op := opcodeOf r.cmd.word.toNat
    let p := convParOf s.image t mover x r.cmd r.start
    s.live = true →
    (unownedLine s.image t mover (x.unit u) = none → x.settled cycle = true → pickLine s t mover slot cycle = some (r, l) →
      l.req + 40 ≤ cycle ∧ ∃ q k, exec (.moverLineSlot t mover slot cycle ecc) s = .next q ∧
        q.tile t = x.modLine u r.cmd.seq l.idx (fun _ => some k) ∧
        k = { l with stage := 1, slotAt := cycle, data := k.data, counts := k.counts } ∧
        (∀ v, v ≠ t.val → q.tile v = s.tile v) ∧
        (op ≠ 0x30 → q.mem = s.mem ∧ (k.data, k.counts) = lineData t s p l) ∧
        (op = 0x30 → effEcc s l.addr ecc ≠ .miscorrected →
          q.mem = s.mem ∧ k.data = (lineSpan op p l.idx).map fun b => memRead s.mem (movingByte op p b))) ∧
    (∀ tr, unownedLine s.image t mover (x.unit u) = some (r, l) → s.image.unitTroupe t = some tr → tr < 16 →
      (s.troupe tr).state = 1 → (r.cmd.seq, 0x05) ∉ x.raised →
      ∃ q, exec (.moverLineSlot t mover slot cycle ecc) s = .next q ∧ (q.troupe tr).state = 2 ∧
        (q.troupe tr).faultCode = 0x05 ∧ q.mem = s.mem)) ∧
  (∀ (t : TileId) (mover : Fin 2) (line cycle : Nat) (s : State) (r : Run) (k : MvLine),
    let u := 2 + mover.val
    let x := s.tile t
    let op := opcodeOf r.cmd.word.toNat
    let p := convParOf s.image t mover x r.cmd r.start
    let l := if k.stage = 0 then leave t mover s r k else k
    let at_ := fun b => movingByte op p b
    s.live = true → x.settled cycle = true → landing t line cycle (x.unit u) = some (r, k) →
    regionsBound s.image mover op p line = true →
    ∃ q, exec (.moverLineLands t mover line cycle) s = .next q ∧
      (op = 0x31 → redFlowOf p.dst = none → (memOf l.addr).isSome = true →
        MemoryKept l.addr l.data.length s q ∧ ∀ i (h : i < l.data.length), memRead q.mem (l.addr + i) = l.data[i]) ∧
      (op = 0x31 → redFlowOf p.dst = none → (memOf l.addr).isSome = false →
        ∀ b, (∀ j ∈ lineSpan op p l.idx, at_ j ≠ b) → memRead q.mem b = memRead s.mem b) ∧
      (op = 0x31 → ∀ f, redFlowOf p.dst = some f → q.mem = s.mem ∧
        (q.flowCtx f).lines = (s.flowCtx f).lines + 1 ∧ (q.redEng (t.val / 12)).inputs =
        (s.redEng (t.val / 12)).inputs ++ [{ flow := f, addr := l.addr, data := l.data, since := s.time.span, cause := r.cmd.addr
                                             position := ((s.image.flowRec f).map FlowRec.contributor).getD 0 }]) ∧
      (op = 0x32 → (∀ b ∈ p.dst.banks p.idx p.dstTier (128 * l.idx) l.data.length,
          asyncFault s ((l.addr - 0x400_0000_0000) / 0x100_0000) b 7 = none) →
        (∀ b, (∀ j ∈ lineSpan op p l.idx, at_ j ≠ b) → memRead q.mem b = memRead s.mem b) ∧
        ((∀ i ∈ lineSpan op p l.idx, ∀ j ∈ lineSpan op p l.idx, at_ i = at_ j → i = j) →
          ∀ e ∈ (lineSpan op p l.idx).zip l.data, memRead q.mem (at_ e.1) = e.2)) ∧
      (op = 0x30 →
        let r2 := { r with lines := r.lines.map fun n => if n.idx = line then { l with stage := 2 } else n }
        let ks := completedBy r2 p line
        let out := (convertAll p (landedBytes r2 (p.src.byteCount p.srcTier))).1
        let dst := fun n => p.dst.byteAt p.idx p.dstTier n
        s.inOrder t [cycle] →
        (∀ b, (∀ n ∈ ks, dst n ≠ b) → memRead q.mem b = memRead s.mem b) ∧
        ((∀ n ∈ ks, s.image.bound t (bankOf (dst n)) (4 + mover.val) = true ∧ x.windowAt (bankOf (dst n)) cycle = false ∧
            ∀ v ∈ x.uses, usesClash ⟨bankOf (dst n), 4 + mover.val, cycle, 1, 1, r.cmd.seq⟩ v.1 cycle = false) →
          (∀ i ∈ ks, ∀ j ∈ ks, dst i = dst j → i = j) → ∀ n ∈ ks, memRead q.mem (dst n) = out.getD n 0)) ∧
      (∀ v, v ≠ t.val → (q.tile v).acc = (s.tile v).acc ∧ (q.tile v).units = (s.tile v).units))

/-- When every line of the oldest command of a mover is written and the cycle is 2 to 4 after the last, with no
TK.SIGNAL started and unsent: the command leaves the mover. Where an abort has discarded none of its lines, a
counted command's counts are added to its completion entry unless the table is sealed, and a store with a tag
counts one part of the copy; on a tile that is not aborting a destination signal of kind 1 adds one to the tile
channel it names, visible from that cycle, and one of kind 2 leaves for the device-wide channel. No byte of
memory changes. A command that lost lines to an abort only leaves the mover. (R73, R76, R80, R91, R106, R121,
R183, R359.) -/
def Obligations.MoverCommandFinishes : Prop :=
  ∀ (t : TileId) (mover : Fin 2) (cycle : Nat) (s : State) (r : Run) (rs : List Run),
    let u := 2 + mover.val
    let x := s.tile t
    let w := r.cmd.word.toNat
    let p := convParOf s.image t mover x r.cmd r.start
    let ch := p.dst.signal % 256
    s.live = true → (x.unit u).running = r :: rs → (∀ l ∈ r.lines, l.stage = 2) → r.done + 2 ≤ cycle → cycle ≤ r.done + 4 →
    (r.cut = true → exec (.moverFinish t mover cycle) s = .next (s.modTile t fun x => x.dropRun u r.cmd.seq)) ∧
    (r.cut = false → (x.unit 5).running = [] → tget 0 x.tokens ch + 1 < 2 ^ 32 →
      ∃ q, exec (.moverFinish t mover cycle) s = .next q ∧ q.mem = s.mem ∧
        ((q.tile t).unit u).running = (x.unit u).running.filter (fun y => y.cmd.seq != r.cmd.seq) ∧
        (∀ v, v ≠ t.val → q.tile v = s.tile v) ∧
        (q.tile t).adds = x.adds ++ (if bitOf w 9 = true ∧ x.sealed = false
          then [⟨fld w 48 8, r.done, u, r.cmd.addr, moverCounts (opcodeOf w) p r⟩] else []) ∧
        (∀ c, tget 0 (q.tile t).tokens c =
          tget 0 x.tokens c + if x.state ≠ tsAbort ∧ p.dst.signal / 2 ^ 14 = 1 ∧ c = ch then 1 else 0) ∧
        q.str.msgs = s.str.msgs ++ (if x.state ≠ tsAbort ∧ p.dst.signal / 2 ^ 14 = 2
          then [{ kind := 0, obj := p.dst.signal % 2 ^ 14, unit := t, value := 1, addr := r.cmd.addr
                  sent := max (x.spanAt cycle) s.time.span }] else []) ∧
        q.tag = (if opcodeOf w = 0x31 then (tagPart p.dst.tagRef s).tag else s.tag))

/-- When the oldest command of the arrays is an MM.ACC whose turn it is, that its checks allow and whose bank
accesses break no rule at its start, it runs, its accumulators complete at start + G + 128 and the unit free at
start + G, and no accumulator and no byte of memory has changed. ACCUMULATORS_COMPLETE then, in its turn, gives
each of the bank's 16,384 accumulators the cell's value after the groups in ascending order, each read in its
own cycle, from zero where the command starts its bank afresh and from its old value otherwise; the other bank
and every byte of memory are unchanged, and the command's counts are added to its completion entry. (R115, R134,
R135, R138, R140, R143, R164.) -/
def Obligations.AccumulateAddsTheProductsInGroupOrder : Prop :=
  (∀ (t : TileId) (s : State) (c : Cmd) (cs : List Cmd),
    let x := s.tile t
    let a := accOf c.word.toNat
    let nd := descAt x.imem a.north
    let wf := a.westFmt x nd.format
    let n := groupSize nd.format wf
    let start := accStart x a c
    let g := groupsOf a.kCount n
    let reads := feedUses nd c.idx (!a.northT) 0 1 c.seq start a.kStart n g ++ (if a.gate then [] else
      (List.range 4).flatMap fun i => feedUses (descAt x.imem a.west) c.idx a.westT (i * 0x8_0000) 0 c.seq start a.kStart n g)
    s.live = true → x.works = true → (x.unit 0).queue = c :: cs → opcodeOf c.word.toNat = 0x40 → arrayBlocked x c = false →
    x.settled start = true →
    n ≠ 0 → kGroupBad a nd.format wf n = false → accAddrOk t x a c.idx = true →
    (useBanks t start (reads.map fun u => (u, c.addr)) s).2 = true →
    ∃ q r, exec (.commandStart t 0) s = .next q ∧ q.mem = s.mem ∧ (q.tile t).acc = x.acc ∧
      ((q.tile t).unit 0).running = (x.unit 0).running ++ [r] ∧ r.cmd = c ∧ r.start = start ∧ r.done = start + g + 128 ∧
      tget 0 (q.tile t).accDone a.bank = start + g + 128 ∧ ((q.tile t).unit 0).freeAt = start + g ∧
      (∀ u, u ≠ t.val → q.tile u = s.tile u)) ∧
  ∀ (t : TileId) (s : State) (r : Run),
    let x := s.tile t
    let a := accOf r.cmd.word.toNat
    let f := runFeed t s r
    let cell := fun i => f.cell (if a.fresh r.cmd.idx = true then 0 else x.accAt (16384 * a.bank + i)) (i / 64) (i % 64)
    s.live = true → x.runOf 0 0x40 = some r → x.settled r.done = true → (x.unit 5).running = [] →
    ∃ q, exec (.accumulatorsComplete t) s = .next q ∧ OnlyTile t s q ∧
      (∀ i, i < 16384 → (q.tile t).accAt (16384 * a.bank + i) = (cell i).val) ∧
      (∀ i, i < 16384 → (q.tile t).accAt (16384 * (1 - a.bank) + i) = x.accAt (16384 * (1 - a.bank) + i)) ∧
      ((q.tile t).unit 0).running = (x.unit 0).running.filter (fun y => y.cmd.seq != r.cmd.seq) ∧
      (q.tile t).adds = x.adds ++ (if a.count = true ∧ x.sealed = false
        then [⟨a.entry, r.done, 0, r.cmd.addr, f.counts ((List.range 16384).map cell)⟩] else [])

/-- When a drain's occupancy ends, in its turn and with no TK.SIGNAL started and unsent, memory is as it was with
each of the drain's writes made in its cycle; where the tile's ports have written in no later cycle, and the
drain's writes follow one another in their cycles, that is the writes made in order, so a byte outside them all
is unchanged. The accumulators are unchanged; the drain leaves the arrays; a gated drain leaves no fired round,
and the gate's next GT.ARM or GT.FIRE starts no sooner than the cycle after the drain's last one. Every other
tile is unchanged. (R73, R142, R150, R151, R152.) -/
def Obligations.DrainsWriteTheirRowsAndReleaseTheRound : Prop :=
  ∀ (t : TileId) (s : State) (r : Run),
    let x := s.tile t
    s.live = true → x.runOf 0 0x41 = some r → x.settled r.done = true → (x.unit 5).running = [] →
    ∃ q, exec (.drainEnd t) s = .next q ∧
      q.mem = (padWrites t r.writes s).mem ∧
      (s.inOrder t (r.writes.map Write.cycle) →
        q.mem = r.writes.foldl (fun m w => memWrites m w.addr w.data) s.mem ∧
        ∀ b, (∀ w ∈ r.writes, b < w.addr ∨ w.addr + w.data.length ≤ b) → memRead q.mem b = memRead s.mem b) ∧
      (q.tile t).acc = x.acc ∧ (∀ u, u ≠ t.val → q.tile u = s.tile u) ∧
      ((q.tile t).unit 0).running = (x.unit 0).running.filter (fun y => y.cmd.seq != r.cmd.seq) ∧
      (bitOf r.cmd.word.toNat 13 = true → x.gate.fired.isSome = true →
        (q.tile t).gate.fired = none ∧ (q.tile t).gate.freeFrom = r.busyTo + 1) ∧
      (bitOf r.cmd.word.toNat 13 = false → (q.tile t).gate = x.gate ∧ (q.tile t).tokens = x.tokens)

/-- CHAIN_START, in its turn: the first whole chain of the queue, whose patterns lie in the tile's scratchpad and
whose bank accesses break no rule at its start, leaves the queue and runs, with the busy time of one cycle a row
and link; no byte of memory changes, and a VX.KEY gives its slot its derived key. CHAIN_FINISH, in its turn: the
chain whose last result is written first leaves the engine; where the tile's ports have written in no later
cycle, its FP32 results, computed from what its links read in their cycles, are written in order, four bytes
each at their elements' addresses, and no other byte changes; each counted link adds to its completion entry; a
VX.KEY writes no memory. (R73, R106, R187, R188, R190, R191, R192, R204, R206.) -/
def Obligations.VectorChainsRunAsOne : Prop :=
  (∀ (t : TileId) (s : State) (cs : List Cmd) (last : Cmd),
    let x := s.tile t
    let v := vxOf last.word.toNat
    let m := cs.length
    let start := chainStart x cs last
    let s1 := s.modTile t fun x => x.modUnit 1 fun q => { q.started m start with freeAt := start + m * v.rows }
    s.live = true → x.works = true → firstChain (x.unit 1).queue = some cs → cs.getLast? = some last →
    x.settled start = true →
    (∀ c ∈ cs, ∀ i ∈ (vxOf c.word.toNat).descs, (descAt x.imem i).allRows c.idx false (fun a n => inPad t a n) = true) →
    (useBanks t start (chainUses x cs last start) s1).2 = true →
    ∃ q r, exec (.chainStart t) s = .next q ∧ q.mem = s.mem ∧ ((q.tile t).unit 1).queue = (x.unit 1).queue.drop m ∧
      ((q.tile t).unit 1).freeAt = start + m * v.rows ∧ last.issue + 2 ≤ start ∧
      ((q.tile t).unit 1).running = (x.unit 1).running ++ [r] ∧ r.cmd = last ∧ r.start = start ∧
      r.done = chainDone v start m ∧ r.links.map Prod.fst = cs ∧
      (∀ p, keySlotOf t (useBanks t start (chainUses x cs last start) s1).1 last start = some p →
        tget {} (q.tile t).vec.keys p.1 = p.2) ∧
      (v.isKey = false → (q.tile t).vec = x.vec) ∧
      (∀ u, u ≠ t.val → q.tile u = s.tile u)) ∧
  ∀ (t : TileId) (s : State) (r : Run),
    let x := s.tile t
    let v := vxOf r.cmd.word.toNat
    let s1 := s.modTile t fun x => x.dropRun 1 r.cmd.seq
    let out := chainRun (padAt t s1) (s1.tile t) r
    s.live = true → firstDone (x.unit 1).running = some r → x.settled r.done = true → (x.unit 5).running = [] →
    ∃ q, exec (.chainFinish t) s = .next q ∧ (∀ u, u ≠ t.val → q.tile u = s.tile u) ∧
      ((q.tile t).unit 1).running = (x.unit 1).running.filter (fun y => y.cmd.seq != r.cmd.seq) ∧
      (∀ i, v.d = .stream i → (descAt x.imem i).format = fmFp32 → s.inOrder t (out.out.map VxOut.cycle) →
        let put := fun (m : List Host.Cell) (o : VxOut) =>
          memWrites m ((descAt x.imem i).byteAt r.cmd.idx false (4 * o.elem)) (leBytes 4 o.val.toNat)
        q.mem = out.out.foldl put s.mem ∧
        ∀ b, (∀ o ∈ out.out, b < (descAt x.imem i).byteAt r.cmd.idx false (4 * o.elem) ∨
            (descAt x.imem i).byteAt r.cmd.idx false (4 * o.elem) + 4 ≤ b) → memRead q.mem b = memRead s.mem b) ∧
      ((∀ i, v.d ≠ .stream i) → q.mem = s.mem) ∧ (q.tile t).acc = x.acc ∧
      (x.sealed = false → (q.tile t).adds.map (fun a => (a.entry, a.cycle, a.unit, a.addr)) =
        x.adds.map (fun a => (a.entry, a.cycle, a.unit, a.addr)) ++
        (((r.links.map Prod.fst).zip out.counts).filter fun l => (vxOf l.1.word.toNat).count).map fun l =>
          ((vxOf l.1.word.toNat).entry, r.done, 1, l.1.addr))

/-- For all INT32 operands, the result of VX.IADD is their sum and of VX.ISUB their difference, clamped to −2³¹ and
2³¹ − 1, and the lane counts one saturation exactly when the exact result lies outside that range; VX.IMAX and
VX.IMIN give the larger and the smaller operand and count none. VX.FTOI of NaN is 0 and of an infinity the limit
of its sign, and neither counts as saturated. (R195.) -/
def Obligations.IntegerLanesClamp : Prop :=
  ∀ (v : Vx) (k : KeySlot) (i : Nat) (a b c : W32), v.op = 0x59 →
    let clamp := fun (z : Int) => max (-2147483648) (min 2147483647 z)
    let out := fun (z : Int) => decide (z < -2147483648 ∨ 2147483647 < z)
    (v.func = 0 → (laneOp v k i a b c).val.toInt = clamp (a.toInt + b.toInt) ∧ (laneOp v k i a b c).sat = out (a.toInt + b.toInt)) ∧
    (v.func = 1 → (laneOp v k i a b c).val.toInt = clamp (a.toInt - b.toInt) ∧ (laneOp v k i a b c).sat = out (a.toInt - b.toInt)) ∧
    (v.func = 2 → (laneOp v k i a b c).val.toInt = max a.toInt b.toInt ∧ (laneOp v k i a b c).sat = false) ∧
    (v.func = 3 → (laneOp v k i a b c).val.toInt = min a.toInt b.toInt ∧ (laneOp v k i a b c).sat = false) ∧
    (v.func = 5 → (isNan32 a = true → (laneOp v k i a b c).val = 0) ∧
      (a = inf32 false → (laneOp v k i a b c).val.toInt = 2147483647) ∧
      (a = inf32 true → (laneOp v k i a b c).val.toInt = -2147483648) ∧
      (nonFin32 a = true → (laneOp v k i a b c).sat = false))

/-- For every pattern of the operands: a NaN operand gives the canonical NaN from VX.ADD, VX.SUB, VX.MUL, VX.FMA,
VX.FMS, VX.FNMA, VX.MAX, VX.MIN, VX.MOV, VX.NEG, VX.ABS and VX.RELU; a comparison with a NaN gives +0, but
VX.CNE gives 1.0; VX.SEL takes b where c is a NaN; VX.MAX of the two zeros is +0 and VX.MIN −0, and VX.CEQ finds
them equal; VX.RELU of a negative value or −0 is +0; VX.NEG changes only the sign of a number that is normal,
zero or infinite. (R168, R194.) -/
def Obligations.FloatingLanesTreatNaNAndZeroAsTheyMust : Prop :=
  ∀ (v : Vx) (k : KeySlot) (i : Nat) (a b c : W32),
    let d := (laneOp v k i a b c).val
    let nan := 0x7FC0_0000#32
    (v.op = 0x50 → v.func ≤ 4 → (isNan32 a = true ∨ isNan32 b = true) → d = nan) ∧
    (v.op = 0x51 → v.func ≤ 2 → (isNan32 a = true ∨ isNan32 b = true ∨ isNan32 c = true) → d = nan) ∧
    (v.op = 0x52 → isNan32 a = true → d = nan) ∧
    (v.op = 0x53 → v.func ≤ 3 → (isNan32 a = true ∨ isNan32 b = true) → d = if v.func = 3 then 0x3F80_0000#32 else 0) ∧
    (v.op = 0x54 → isNan32 c = true → d = canon32 b) ∧
    (v.op = 0x50 → v.func = 3 → a = 0x8000_0000#32 → b = 0 → d = 0) ∧
    (v.op = 0x50 → v.func = 4 → a = 0 → b = 0x8000_0000#32 → d = 0x8000_0000#32) ∧
    (v.op = 0x53 → v.func = 2 → a = 0x8000_0000#32 → b = 0 → d = 0x3F80_0000#32) ∧
    (v.op = 0x52 → v.func = 3 → isNan32 a = false → a.msb = true → d = 0) ∧
    (v.op = 0x52 → v.func = 1 → isNan32 a = false → canon32 a = a → d = a ^^^ 0x8000_0000#32)

/-- FILL_COUNTED, in its turn and where no deadline comes first and no TK.SIGNAL is started and unsent: the first
fill's rows join the open round's rows of its context; if the armed threshold is thereby met the open round
becomes the fired one, 4 cycles after the cycle in which the rows were counted, a new empty unarmed round opens
and the fire count rises by one, else no round fires. GATE_DEADLINE: an armed round whose deadline is due before
every pending fill fires the same way. No copy left has begun by that cycle. No other tile and no byte of memory
changes, and where no copy is left nothing but this tile's gate. GATE_MAP_WRITE sets the context's entry exactly
where R144 takes it, and else sets map_reject. (R145, R146, R147, R148, R155.) -/
def Obligations.GateRoundsFireOnRowsOrDeadline : Prop :=
  (∀ (t : TileId) (s : State) (f : GateFill) (fs : List GateFill),
    let x := s.tile t
    let g := x.gate
    s.live = true → g.fills = f :: fs → (x.unit 5).running = [] →
    x.settled (f.endsAt + 1) = true →
    (g.openRound.armed = false ∨ g.openRound.deadline = 0 ∨ f.endsAt + 1 ≤ g.openRound.deadline) →
    ∃ q, exec (.fillCounted t) s = .next q ∧ (∀ u, u ≠ t.val → q.tile u = s.tile u) ∧ q.mem = s.mem ∧
      let counted := { g with fills := fs }.countFill f (fillRows t s f)
      (counted.met = false ∨ fs = [] → OnlyTile t s q) ∧
      (counted.met = false → (q.tile t).gate = counted) ∧
      (counted.met = true → (q.tile t).gate.fired = some { counted.openRound with armed := false } ∧
        (q.tile t).gate.firedAt = f.endsAt + 5 ∧ (q.tile t).gate.openRound = {} ∧
        (q.tile t).gate.fires = (g.fires + 1) % 2 ^ 32)) ∧
  (∀ (t : TileId) (s : State),
    let g := (s.tile t).gate
    s.live = true → g.openRound.armed = true → g.openRound.deadline ≠ 0 →
    (s.tile t).settled g.openRound.deadline = true → (∀ f ∈ g.fills, g.openRound.deadline < f.endsAt + 1) →
    ∃ q, exec (.gateDeadline t) s = .next q ∧ (∀ u, u ≠ t.val → q.tile u = s.tile u) ∧ q.mem = s.mem ∧
      (q.tile t).gate.fired = some { g.openRound with armed := false } ∧ (q.tile t).gate.openRound = {} ∧
      (q.tile t).gate.firedAt = g.openRound.deadline + 4 ∧ (q.tile t).gate.fires = (g.fires + 1) % 2 ^ 32 ∧
      (∀ f ∈ (q.tile t).gate.fills, g.openRound.deadline < f.begins) ∧
      (g.fills = [] → OnlyTile t s q ∧ q.tile t = { s.tile t with gate := (q.tile t).gate })) ∧
  ∀ (t : TileId) (context : Fin 96) (v : Word) (s : State), s.live = true →
    let x := s.tile t
    let e := gateSlotOf v.toNat
    let free := (s.fence t).fenced = true ∨ x.state = tsNone ∨ x.state = tsEnded
    let fits := e.enabled = false ∨ (1 ≤ e.rows ∧ e.base + e.rows ≤ 256 ∧
      ∀ p ∈ x.gate.map, p.1 ≠ context.val → p.2.enabled = true → slotsMeet e p.2 = false)
    (free → fits → exec (.gateMapWrite t context v) s =
      .next (s.modTile t fun _ => { x with gate := { x.gate with map := tset x.gate.map context e } })) ∧
    (¬ free ∨ ¬ fits → exec (.gateMapWrite t context v) s =
      .next (s.modTile t fun _ => { x with gate := { x.gate with mapReject := true } }))

/-- Whenever a tile waits, the words, starts and results before the cycle have been taken, and its tile channel,
device-wide channel or region holds k within R76's bounds, or its Strings operation has been released; and
whenever an engine's channel or region holds k within those bounds, or its operation has been released:
WAIT_RELEASE answers a next state in which the wait has ended. k leaves the tile channel, the device-wide
channel or the region's arrival count it was on, and that channel or region has no waiter; a tile issues again
from two cycles later; a tile blocked on a Strings operation receives its outcome, 8 bytes written at dst where
the bank lets mover 1's port write and the tile's ports have written in no later cycle, and no other byte of
memory changes; a blocked engine is released. The count is never taken below zero. (R73, R76, R79, R113, R253,
R254, R257, R438.) -/
def Obligations.WaitsReleaseWhenTheirCountIsReached : Prop :=
  ∀ (u : UnitId) (cycle : Nat) (s : State) (w : WaitRec),
    let q := tget { kind := 0, obj := 0 } s.str.waits u
    let x := s.tile u
    let inTile := x.state = tsWait ∧ w.cycle ≤ cycle ∧ x.settled cycle = true ∧ x.caughtUp cycle = true ∧
      ((w.kind = 1 ∧ inBounds (tget [] x.tokenLog w.chan) w.k w.cycle cycle = true) ∨
       ((w.kind = 2 ∨ w.kind = 3) ∧ countRelease s u (x.spanAt w.cycle) (x.spanAt cycle) w = true) ∨
       (w.kind = 4 ∧ q.released = true ∧ q.since ≤ x.spanAt cycle ∧
         (q.kind = 3 ∨ x.spanAt cycle ≤ max q.since (x.spanAt w.cycle) + releaseLimit s.image q.kind q.obj)))
    let inEngine := ((w.kind = 2 ∨ w.kind = 3) ∧ countRelease s u w.since (2 * cycle) w = true) ∨
      (w.kind = 4 ∧ ¬ (64 ≤ u.val ∧ u.val < 68) ∧ q.released = true)
    s.live = true → s.wait u = some w → (u.val < 48 → inTile) → (48 ≤ u.val → inEngine) →
    ∃ r, exec (.waitRelease u cycle) s = .next r ∧ r.wait u = none ∧ (∀ v, v ≠ u.val → r.wait v = s.wait v) ∧
      (u.val < 48 → (r.tile u).state = tsIssue ∧ (r.tile u).cycle = cycle + 2) ∧
      (w.kind = 1 → u.val < 48 → ∀ c, tget 0 (r.tile u).tokens c =
        if c = w.chan then tget 0 x.tokens c - w.k else tget 0 x.tokens c) ∧
      (w.kind = 2 → w.k ≤ (s.token w.chan).count ∧ (r.token w.chan).count = (s.token w.chan).count - w.k ∧
        (r.token w.chan).waiter = none) ∧
      (w.kind = 3 → w.k ≤ (s.region w.chan).arrivals ∧
        r.region w.chan = { s.region w.chan with
          arrivals := (s.region w.chan).arrivals - w.k, waiter := none, log := (r.region w.chan).log }) ∧
      (w.kind ≠ 4 ∨ 48 ≤ u.val → r.mem = s.mem) ∧ (s.inOrder u [cycle] → MemoryKept q.dst 8 s r) ∧
      (w.kind = 4 → u.val < 48 → q.mismatch = false → s.inOrder u [cycle] → ∀ v, q.result = some v →
        (∀ b ∈ banksOf q.dst 8, s.image.bound u b 5 = true ∧ x.windowAt b cycle = false ∧
          ∀ k ∈ x.uses, usesClash ⟨b, 5, cycle, 1, 1, q.seq⟩ k.1 cycle = false) →
        r.bytes q.dst 8 = leBytes 8 v.toNat) ∧
      (w.kind ≠ 4 → 48 ≤ u.val → u.val < 52 → (r.redEng (u.val - 48)).released = true ∧ (r.redEng (u.val - 48)).state = 1) ∧
      (w.kind ≠ 4 → 72 ≤ u.val → (r.fabEng (u.val - 72)).released = true ∧ (r.fabEng (u.val - 72)).state = 1)

/-- When a unit's wait that has not been reported is still blocked at its limit in frames, when a tile's gate hold
has reached its troupe's default limit, or when a second arrival held for the next phase has reached its limit
while its unit is not itself blocked on that object, WAIT_LIMIT (0x09) is raised against the unit: its running
troupe begins to abort with that fault code, its fault count rises, and the wait, command or arrival is marked
so that it is not raised again. Memory is unchanged. (R88, R90, R91, R96, R154, R253.) -/
def Obligations.WaitsAndHoldsAtTheirLimitAbort : Prop :=
  ∀ (u : UnitId) (s : State) (tr : Nat),
    let aborts := fun (r : State) => (r.troupe tr).state = 2 ∧ (r.troupe tr).faultCode = 0x09 ∧
      (r.troupe tr).faultUnit = u.val ∧ (r.troupe tr).faultCount = min ((s.troupe tr).faultCount + 1) 0xFF ∧ r.mem = s.mem
    s.live = true → s.image.unitTroupe u = some tr → tr < 16 → (s.troupe tr).state = 1 →
    (∀ w, s.wait u = some w → w.raised = false → s.time.span ≥ w.since + 4000 * w.limit → stillBlocked s u w = true →
      ∃ r, exec (.waitLimitExpiry u) s = .next r ∧ aborts r ∧ r.wait u = some { w with raised := true }) ∧
    (∀ c, s.wait u = none → u.val < 48 → holdExpired s u = some c →
      ∃ r, exec (.waitLimitExpiry u) s = .next r ∧ aborts r ∧ (c.seq, 0x09) ∈ (r.tile u).raised) ∧
    (∀ obj h, dueArrival s u = some (1, obj, h) →
      ∃ r, exec (.arrivalHoldLimit u) s = .next r ∧ aborts r ∧ (r.barrier obj).held = markHeld h (s.barrier obj).held) ∧
    (∀ obj h, dueArrival s u = some (2, obj, h) →
      ∃ r, exec (.arrivalHoldLimit u) s = .next r ∧ aborts r ∧ (r.redObj obj).held = markHeld h (s.redObj obj).held) ∧
    (∀ obj h, dueArrival s u = some (3, obj, h) →
      ∃ r, exec (.arrivalHoldLimit u) s = .next r ∧ aborts r ∧ (r.voteObj obj).held = markHeld h (s.voteObj obj).held)

/-- TILE_SCENE_START: a tile whose troupe's start is on its way begins issuing at its entry in cycle 0 with no
loops, tokens, queued or running commands, windows, completion entries or gate rounds, keeps its instruction
memory, its log and its gate map, its accumulators hold free values (log entry 37), the cycles active in the
frame stand, and it derives key slot 0 from the troupe's captured seed and step. TILE_SCENE_END: a tile past
CT.END with nothing queued or running has ended, its gate holds no round, and it has arrived at its troupe's end
barrier. No memory, no other tile and no other troupe changes. (R99, R109, R111, R121, R129, R154, R155, R205.) -/
def Obligations.TileSceneBeginsAndEnds : Prop :=
  (∀ (t : TileId) (s : State) (tr : Nat),
    let x := s.tile t
    let p := s.troupe tr
    s.live = true → s.image.unitTroupe t = some tr → t.val ∈ p.starting →
    ∃ r, exec (.tileSceneStart t) s = .next r ∧ (∀ u, u ≠ t.val → r.tile u = s.tile u) ∧
      (∀ j, j ≠ tr → r.troupe j = s.troupe j) ∧ r = { s with tiles := r.tiles, troupes := r.troupes, fresh := s.fresh + 1 } ∧
      r.troupe tr = { p with starting := p.starting.filter (fun u => u != t.val) } ∧
      let y := r.tile t
      y.state = tsIssue ∧ y.pc = tget 0 p.entries t ∧ y.sceneId = p.sceneId ∧ y.cycle = 0 ∧ y.loops = [] ∧ y.units = [] ∧
      y.tokens = [] ∧ y.adds = [] ∧ y.clears = [] ∧ y.sealed = false ∧ y.windows = [] ∧ y.winLog = [] ∧ y.halted = false ∧ y.held = none ∧
      y.gate.fired = none ∧ y.gate.fires = 0 ∧ y.gate.map = x.gate.map ∧ y.imem = x.imem ∧ y.log = x.log ∧
      (∀ k, y.accAt k = Config.freeAcc s.fresh k) ∧ y.arrayActive = x.arrayActive ∧ y.vectorActive = x.vectorActive ∧
      (tget {} y.vec.keys 0).key = rattleKey p.capSeed 0x02 0 p.capStep ∧ (tget {} y.vec.keys 0).derived = true ∧
      ∀ j, 1 ≤ j → j ≤ 7 → (tget {} y.vec.keys j).derived = false) ∧
  ∀ (t : TileId) (s : State) (tr : Nat),
    let x := s.tile t
    s.live = true → x.state = tsEnding → x.quiet = true → s.image.unitTroupe t = some tr →
    ∃ r, exec (.tileSceneEnd t) s = .next r ∧ (∀ u, u ≠ t.val → r.tile u = s.tile u) ∧
      (∀ j, j ≠ tr → r.troupe j = s.troupe j) ∧ r = { s with tiles := r.tiles, troupes := r.troupes } ∧
      (r.tile t) = { x with state := tsEnded, endCycle := some (max x.cycle x.lastDone), gate := (r.tile t).gate } ∧ (r.tile t).gate.fired = none ∧
      t.val ∈ (r.troupe tr).arrived ∧ ∀ u, u ≠ t.val → (u ∈ (r.troupe tr).arrived ↔ u ∈ (s.troupe tr).arrived)

/-- SCENE_BOUNDARY, when every unit that arrives has arrived: the completion table of every tile of the troupe is
sealed, with a seal record of the tile's totals in its log where it has room, and the audit is under way; if
every object of the troupe has its expected value no record is formed, and if one has not the package owes a
reset. AUDIT_COMPLETE, when the audit is under way and no reset is owed: the troupe is quiescent, its units'
pending fences stand, and the queue command that started the scene has a completion record of status 0 and the
scene's number. (R111, R123, R125, R414, R420, R557, R558, R559, R561.) -/
def Obligations.BoundarySealsAndAuditsBeforeQuiescence : Prop :=
  (∀ (tr : TroupeId) (s : State),
    let x := s.troupe tr
    s.live = true → x.state = 1 → x.auditing = false → x.starting = [] → (∀ u ∈ arriving s.image tr, u ∈ x.arrived) →
    ∃ r, exec (.sceneBoundary tr) s = .next r ∧ (r.troupe tr).auditing = true ∧ r.mem = s.mem ∧
      (∀ t ∈ s.image.tiles tr, (r.tile t).sealed = true ∧ (r.tile t).adds = (s.tile t).adds ∧
        (r.tile t).clears = (s.tile t).clears ∧
        ((((s.tile t).logWr + 1) % 1024 ≠ (s.tile t).logRd) →
          tget {} (r.tile t).log (s.tile t).logWr = sealRec t tr (s.tile t) false)) ∧
      (∀ t, t ∉ s.image.tiles tr → r.tile t = s.tile t) ∧
      (auditTroupe s tr = [] → r = { s with tiles := r.tiles, troupes := r.troupes }) ∧
      ((∃ m ∈ auditTroupe s tr, m.die < 9) → r.boot.resetDue.isSome = true)) ∧
  ∀ (tr : TroupeId) (s : State),
    let x := s.troupe tr
    s.live = true → x.state = 1 → x.auditing = true → s.boot.resetDue = none →
    ∃ r, exec (.auditComplete tr) s = .next r ∧
      r.troupe tr = { x with state := 0, auditing := false, arrived := [], owner := none } ∧
      (∀ u ∈ s.image.units tr, (s.fence u).pending = 1 → (r.fence u).fenced = true ∧ (r.fence u).pending = 0) ∧
      (∀ u, u ∉ s.image.units tr → r.fence u = s.fence u) ∧
      ∀ q n c, x.owner = some (q, n) → (s.queue q).started.find? (fun c => c.number == n) = some c →
        (r.queue q).records = (s.queue q).records ++
          [⟨c.seq, 0, c.opcode, c.tag, x.sceneId, bitOf c.flags 1, s.time.span⟩]

/-- ABORT_NOTICE reaching a tile of an aborting troupe: the tile issues no more, its queues are empty and its loops
stand, its wait is gone, the tier lines that it was still to write are noted, and no byte of memory changes.
SAFE_POINT, when every unit has been reached and is idle with nothing in transit: the troupe awaits its next
scene in state 3, every token channel of it holds its CREDIT value with no waiter, its tiles are sealed and in
no scene, and no byte of the tiers changes but of the lines that were still due. SAFE_POINT_TIMEOUT, 50 µs after
the abort began: a fatal record of the first fault is formed and the package owes a reset. (R91, R92, R93, R96,
R123, R125, R414.) -/
def Obligations.AbortsReachTheSafePoint : Prop :=
  (∀ (tr : TroupeId) (u : UnitId) (s : State),
    let x := s.troupe tr
    s.live = true → x.state = 2 → u.val ∈ s.image.units tr → u.val ∉ x.noticed → u.val < 48 →
    ∃ r, exec (.abortNotice tr u) s = .next r ∧ (r.tile u).state = tsAbort ∧ (r.tile u).loops = (s.tile u).loops ∧
      (∀ k, ((r.tile u).unit k).queue = []) ∧ ((r.tile u).unit 5).running = [] ∧ r.wait u = none ∧
      (r.tile u).acc = (s.tile u).acc ∧ (∀ v, v ≠ u.val → r.tile v = s.tile v ∧ r.wait v = s.wait v) ∧
      u.val ∈ (r.troupe tr).noticed ∧ u.val ∉ (r.troupe tr).starting ∧
      (r.troupe tr).due = x.due ++ unitDue s u ∧ r.mem = s.mem) ∧
  (∀ (tr : TroupeId) (s : State) (rec : TroupeRec),
    let x := s.troupe tr
    s.live = true → x.state = 2 → s.image.troupeRec tr = some rec →
    (∀ u ∈ s.image.units tr, u ∈ x.noticed ∧ unitIdle s u = true) →
    (∀ f ∈ s.image.flowsOf tr, inTransit s f.flow = 0) →
    ∃ r, exec (.safePoint tr) s = .next r ∧ (r.troupe tr).state = 3 ∧ (r.troupe tr).noticed = [] ∧
      (r.troupe tr).owner = none ∧
      (∀ k, k < rec.tokenCount → r.token (rec.tokenBase + k) = { count := s.image.creditOf 0 (rec.tokenBase + k), waiter := none }) ∧
      (∀ k, k < rec.barrierCount → r.barrier (rec.barrierBase + k) = {}) ∧
      (∀ t ∈ s.image.tiles tr, (r.tile t).sealed = true ∧ (r.tile t).tokens = [] ∧ (r.tile t).state = tsNone) ∧
      ∀ b, inTier b 1 = true → (∀ a ∈ x.due, b < a.1 ∨ a.1 + a.2 ≤ b) → memRead r.mem b = memRead s.mem b) ∧
  ∀ (tr : TroupeId) (s : State),
    let x := s.troupe tr
    s.live = true → x.state = 2 → x.abortAt + 200000 ≤ s.time.span →
    ∃ r, exec (.safePointTimeout tr) s = .next r ∧ r.boot.resetDue = some (s.boot.resetDue.getD .fatal) ∧
      ∃ e, r.err.fatalFormed = s.err.fatalFormed ++ [e] ∧ e.cls = 1 ∧ e.severity = 2 ∧ e.code = x.faultCode ∧
        e.unit = x.faultUnit ∧ e.troupe = tr.val ∧ e.sceneId = x.sceneId ∧ e.spanTime = s.time.span

/-- FENCE_REQUEST fences a unit that belongs to no troupe or whose troupe stands between scenes, and is pending
otherwise; the first fence's cause stands. RETURN_REQUEST returns such a unit that software fenced, is pending
while its troupe runs, and does nothing where the image fenced the unit, or hardware whose condition still
holds. A returned tile's token channels read 0 and memory outside its scratchpad is unchanged; no other fence
changes. (R560, R561, R562, R572.) -/
def Obligations.FencesTakeEffectAtOnceOrAtTheBoundary : Prop :=
  (∀ (u : UnitId) (s : State), s.live = true →
    (unitQuiet s u = true → exec (.fenceRequest u) s = .next (s.modFence u fun x =>
      { fenced := true, pending := 0, cause := if x.fenced = true then x.cause else 2 })) ∧
    (unitQuiet s u = false → exec (.fenceRequest u) s = .next (s.modFence u fun x => { x with pending := 1 }))) ∧
  ∀ (u : UnitId) (s : State), s.live = true →
    let x := s.fence u
    (x.fenced = true → x.cause = 2 → unitQuiet s u = true →
      ∃ r, exec (.returnRequest u) s = .next r ∧ r.fence u = {} ∧ (∀ v, v ≠ u.val → r.fence v = s.fence v) ∧
        (u.val < 48 → (r.tile u).tokens = [] ∧ MemoryKept (padBase u) 0x100_0000 s r ∧ (r.tile u).log = (s.tile u).log) ∧
        (48 ≤ u.val → r = { s with fences := r.fences })) ∧
    (x.fenced = true → x.cause = 2 → unitQuiet s u = false →
      exec (.returnRequest u) s = .next (s.modFence u fun x => { x with pending := 2 })) ∧
    (x.fenced = true → (x.cause = 1 ∨ (x.cause = 3 ∧ fencePersists s u = true)) → exec (.returnRequest u) s = .next s)

/-- TOKEN_SIGNAL_MESSAGE: the first of the channel's signals on their way that add up to k are counted together and
leave the network, and a signal from another package through a port of the channel's route is counted as it
comes. At the package that is the channel's root the count rises by exactly k and its waiter stays; where the
sum would exceed 32 bits the count is unchanged and the channel's running troupe aborts with TOKEN_OVERFLOW. Any
other package counts nothing. (R79, R88, R248, R250, R252.) -/
def Obligations.TokenSignalsAddAtTheirHolder : Prop :=
  ∀ (ch : Fin 16384) (k : W32) (s : State), s.live = true →
    let mine := mergeable s 0 ch.val
    (∀ n, 0 < n → prefixLen k.toNat (mine.map fun m => m.value.toNat) = some n →
      ∃ r, exec (.tokenSignalMessage none ch k) s = .next r ∧ r.str.msgs.length + n = s.str.msgs.length ∧
        r.mem = s.mem ∧ r.tiles = s.tiles ∧ (∀ c, c ≠ ch.val → r.token c = s.token c) ∧
        (isRoot s.image 0 ch = true → (s.token ch).count + k.toNat < 2 ^ 32 →
          (r.token ch).count = (s.token ch).count + k.toNat ∧ (r.token ch).waiter = (s.token ch).waiter ∧ r.troupes = s.troupes) ∧
        (isRoot s.image 0 ch = false → r.tokens = s.tokens)) ∧
    ∀ p : PortId, portHears s p = true → p.val ∈ s.image.downs 0 ch →
      (isRoot s.image 0 ch = true → (s.token ch).count + k.toNat < 2 ^ 32 →
        exec (.tokenSignalMessage (some p) ch k) s = .next (s.modToken ch fun x =>
          { x with count := x.count + k.toNat, log := x.log ++ [(k.toNat, s.time.span, 0xFF)] })) ∧
      (isRoot s.image 0 ch = false → exec (.tokenSignalMessage (some p) ch k) s = .next s) ∧
      ∀ tr, isRoot s.image 0 ch = true → 2 ^ 32 ≤ (s.token ch).count + k.toNat → s.image.tokenTroupe ch = some tr → tr < 16 →
        (s.troupe tr).state = 1 →
        ∃ r, exec (.tokenSignalMessage (some p) ch k) s = .next r ∧ r.tokens = s.tokens ∧
          (r.troupe tr).state = 2 ∧ (r.troupe tr).faultCode = 0x08

/-- BARRIER_ARRIVAL: the first arrivals on their way, merged or alone, leave the network; a local member's first
arrival of the phase is counted and a second one is held, and a report of a port that the phase lacks is
counted; no other barrier changes. BARRIER_RELEASE, when the phase is complete at the root package or has gone
up from here and come down, and no publication over its route is outstanding: the phase ends, the held arrivals
open the next one, no port has reported in it, and every counted member that is blocked on the barrier, its
command started, with no held arrival and none on its way is released. (R81, R248, R253, R363.) -/
def Obligations.BarrierPhasesCountHoldAndRelease : Prop :=
  (∀ (obj unit n : Nat) (s : State) (m : StrMsg) (ms : List StrMsg), s.live = true → mergeable s 1 obj = m :: ms →
    m.unit = unit → 0 < n → n ≤ ms.length + 1 →
    let x := s.barrier obj
    ∃ r, exec (.barrierArrival none obj { unit := unit, count := n }) s = .next r ∧ (∀ o, o ≠ obj → r.barrier o = s.barrier o) ∧
      r = { s with str := { s.str with barriers := r.str.barriers, msgs := r.str.msgs, merged := r.str.merged } } ∧
      r.str.msgs.length + n = s.str.msgs.length ∧ (r.barrier obj).ports = x.ports ∧
      (r.barrier obj).arrived.length + (r.barrier obj).held.length = x.arrived.length + x.held.length + n ∧
      (n = 1 → r.str.msgs = s.str.msgs.erase m) ∧
      (n = 1 → unit ∉ x.arrived → x.forwarded = false → (r.barrier obj).arrived = x.arrived ++ [unit] ∧ (r.barrier obj).held = x.held) ∧
      (n = 1 → unit ∈ x.arrived ∨ x.forwarded = true → (r.barrier obj).arrived = x.arrived ∧
        (r.barrier obj).held = x.held ++ [heldOf s m])) ∧
  (∀ (p : PortId) (obj unit n : Nat) (s : State), s.live = true → portHears s p = true → p.val ∈ s.image.downs 1 obj →
    p.val ∉ (s.barrier obj).ports →
    ∃ r, exec (.barrierArrival (some p) obj { unit := unit, count := n }) s = .next r ∧ (∀ o, o ≠ obj → r.barrier o = s.barrier o) ∧
      (r.barrier obj).ports = (s.barrier obj).ports ++ [p.val] ∧ (r.barrier obj).arrived = (s.barrier obj).arrived ∧
      r = { s with str := { s.str with barriers := r.str.barriers } }) ∧
  ∀ (obj : Nat) (s : State),
    let x := s.barrier obj
    let since := releaseFrom s (isRoot s.image 1 obj) x.lastAt
    s.live = true → (isRoot s.image 1 obj = true → barrierFull s obj = true) → (isRoot s.image 1 obj = false → x.forwarded = true) →
    (∀ q ∈ s.pubs, q.barrier ≠ obj) →
    ∃ r, exec (.barrierRelease obj) s = .next r ∧ (∀ o, o ≠ obj → r.barrier o = s.barrier o) ∧
      r = { s with str := { s.str with barriers := r.str.barriers, waits := r.str.waits } } ∧
      (r.barrier obj).ports = [] ∧ (r.barrier obj).arrived = (refillBarrier x.held since).arrived ∧
      (x.held = [] → (r.barrier obj).arrived = []) ∧
      ∀ u w, tget { kind := 0, obj := 0 } s.str.waits u = w → w.kind = 1 → w.obj = obj → w.released = false → w.queued = false →
        u ∈ x.arrived → (∀ h ∈ x.held, h.unit ≠ u) → s.strSent 1 obj u = false →
        tget { kind := 0, obj := 0 } r.str.waits u = { w with released := true, since := since }

/-- REDUCTION_OPERAND: a local member's first operand of the phase is taken with its red_op (the low half for an
FP32 sum), and a port's partial result that the phase lacks is taken too, be it none, or without one red_op.
REDUCTION_RESULT at the root package, with every member's operand and every port's partial in: each waiting
member, its command started, that has no held operand and none on its way is released with the phase's value,
which is the tree over the local operands combined with the ports' partials in ascending order, or with a
mismatch where the operands name different red_ops; the phase ends. (R253, R254, R255.) -/
def Obligations.ReductionsCombineInTheFixedTree : Prop :=
  (∀ (obj : Fin 1024) (unit : Nat) (redOp : Fin 5) (v : Word) (s : State) (m : StrMsg),
    let x := s.redObj obj
    s.live = true → s.strMsg 2 obj unit = some m → m.op = redOp.val → m.value = v → thas x.operands unit = false →
    x.forwarded = false →
    ∃ r, exec (.reductionOperand none obj unit (some redOp) (some v)) s = .next r ∧ (∀ o, o ≠ obj.val → r.redObj o = s.redObj o) ∧
      (∀ u, tget (0, 0) (r.redObj obj).operands u = if u = unit
        then (redOp.val, if redOp.val = 4 then (v.setWidth 32).setWidth 64 else v) else tget (0, 0) x.operands u) ∧
      r = { s with str := { s.str with reds := r.str.reds, msgs := s.str.msgs.erase m } }) ∧
  (∀ (p : PortId) (obj : Fin 1024) (unit : Nat) (redOp : Option (Fin 5)) (v : Option Word) (s : State),
    let x := s.redObj obj
    let op := (redOp.map Fin.val).getD 5
    s.live = true → portHears s p = true → p.val ∈ s.image.downs 2 obj → thas x.ports p.val = false →
    ∃ r, exec (.reductionOperand (some p) obj unit redOp v) s = .next r ∧ (r.redObj obj).operands = x.operands ∧
      tget (0, none) (r.redObj obj).ports p.val = (op, v.map (redOperand op)) ∧
      r = { s with str := { s.str with reds := r.str.reds } }) ∧
  ∀ (obj : Fin 1024) (above : Option Word) (s : State),
    let x := s.redObj obj
    let root := isRoot s.image 2 obj
    s.live = true → (root = true → redFull s obj = true) → (root = false → x.forwarded = true) →
    ∃ r, exec (.reductionResult obj above) s = .next r ∧ (∀ o, o ≠ obj.val → r.redObj o = s.redObj o) ∧
      r = { s with str := { s.str with reds := r.str.reds, waits := r.str.waits } } ∧ (r.redObj obj).ports = [] ∧
      ∀ u w, tget { kind := 0, obj := 0 } s.str.waits u = w → w.kind = 2 → w.obj = obj.val → w.released = false →
        w.queued = false → u ∈ x.operands.map Prod.fst → (∀ h ∈ x.held, h.unit ≠ u) → s.strSent 2 obj u = false →
        let v := if root = true then x.value else above
        tget { kind := 0, obj := 0 } r.str.waits u =
          { w with released := true, result := v, mismatch := v.isNone, since := releaseFrom s root x.lastAt }

/-- VOTE_CAST: a local member's first vote of the phase is taken, and a port's vote that the phase lacks.
VOTE_OUTCOME at the root package, or where the way to the root is lost, with every contribution in: every
waiting member, its command started, with no held vote and none on its way is released with 1 if each of them is
go, no veto stands and no lost port has cast no-go, else with 0; on go, and only then, the current number of
every valid tag entry bound to the object rises by one and its count of parts returns to 0. STR_VETO_WRITE makes
the package's contribution no-go, or that of the next phase where this one's has gone up. (R257, R258, R263,
R317, R358.) -/
def Obligations.VotesGoOnlyIfEveryContributionIsGo : Prop :=
  (∀ (obj : Fin 256) (unit : Nat) (go : Bool) (s : State) (m : StrMsg),
    let x := s.voteObj obj
    s.live = true → s.strMsg 3 obj unit = some m → (m.value == 1) = go → thas x.votes unit = false → x.forwarded = false →
    ∃ r, exec (.voteCast none obj unit go) s = .next r ∧ (∀ o, o ≠ obj.val → r.voteObj o = s.voteObj o) ∧
      (∀ u, tget false (r.voteObj obj).votes u = if u = unit then go else tget false x.votes u) ∧
      r = { s with str := { s.str with votes := r.str.votes, msgs := s.str.msgs.erase m } }) ∧
  (∀ (p : PortId) (obj : Fin 256) (unit : Nat) (go : Bool) (s : State),
    s.live = true → portHears s p = true → p.val ∈ s.image.downs 3 obj → thas (s.voteObj obj).ports p.val = false →
    ∃ r, exec (.voteCast (some p) obj unit go) s = .next r ∧ tget true (r.voteObj obj).ports p.val = go ∧
      (r.voteObj obj).votes = (s.voteObj obj).votes ∧ r = { s with str := { s.str with votes := r.str.votes } }) ∧
  (∀ (obj : Fin 256) (above : Bool) (s : State),
    let x := s.voteObj obj
    let root := isRoot s.image 3 obj || voteCut s obj
    let go := if root = true then x.votes.all (fun p => p.2) && x.ports.all (fun p => p.2) && !x.veto && !voteLost s obj else above
    s.live = true → (root = true → voteFull s obj = true) → (root = false → x.forwarded = true) →
    ∃ r, exec (.voteOutcome obj above) s = .next r ∧ (∀ o, o ≠ obj.val → r.voteObj o = s.voteObj o) ∧
      r.mem = s.mem ∧ r.tiles = s.tiles ∧ (go = true → r.troupes = s.troupes) ∧
      (∀ e, tget {} r.tag.tags e = if go = true ∧ (tget {} s.tag.tags e).valid = true ∧ (tget {} s.tag.tags e).vote = obj.val
        then { tget {} s.tag.tags e with current := ((tget {} s.tag.tags e).current + 1) % 2 ^ 32, done := 0 }
        else tget {} s.tag.tags e) ∧
      ∀ u w, tget { kind := 0, obj := 0 } s.str.waits u = w → w.kind = 3 → w.obj = obj.val → w.released = false →
        w.queued = false → u ∈ x.votes.map Prod.fst → (∀ h ∈ x.held, h.unit ≠ u) → s.strSent 3 obj u = false →
        tget { kind := 0, obj := 0 } r.str.waits u =
          { w with released := true, result := some (if go = true then 1 else 0), since := s.time.span }) ∧
  ∀ (v : Word) (s : State), s.live = true →
    let o := v.toNat % 256
    ∃ r, exec (.strVetoWrite v) s = .next r ∧ (∀ p, p ≠ o → r.voteObj p = s.voteObj p) ∧
      r = { s with str := { s.str with votes := r.str.votes } } ∧
      ((s.voteObj o).forwarded = false → (r.voteObj o).veto = true) ∧
      ((s.voteObj o).forwarded = true → (r.voteObj o).vetoNext = true ∧ (r.voteObj o).veto = (s.voteObj o).veto)

/-- FRAME_START: span time becomes the next multiple of 4,000 of a 64-bit count, the time CSR keeps pace, every
tile's frame count rises by one, every flow's completed lines are returned, an uncorrectable error in tags or
tables of a running die owes a reset, and one in a root unit's store makes its update processor refuse the
commit vote. FRAME_MARK_RECEIPT on the parent's port: span time becomes the carried value plus the port's delay,
modulo 2⁶⁴, and marks_ok is 1 exactly from the third consecutive frame with a mark; a root compared with the
marks is good while its phase moves by at most 2 ppm over 16 marks, and stable at 256 good frames in a row.
MARK_LOSS after three frames without one: the package is in no span and every die's reference is REFCLK.
MEMBERSHIP_NOTICE: STR_MEMBER counts the change and names the package. TELEMETRY_CONFIG_WRITE: the base or
control register is written and the write pointer is 0. (R8, R132, R259, R261, R262, R264, R272, R286, R510,
R556, R574, R580.) -/
def Obligations.FramesOpenOnTimeAndKeepTheirSamples : Prop :=
  (∀ (rails : List RailSample) (logic : List LogicSample) (fec : List FecSample) (links : List LinkSample) (sram : List SramError)
      (s : State), s.live = true →
    let next := min ((s.time.span / 4000 + 1) * 4000) (2 ^ 64)
    ∃ r, exec (.frameStart rails logic fec links sram) s = .next r ∧ r.time.span = next % 2 ^ 64 ∧
      r.time.csr = s.time.csr + (next - s.time.span) / 40 ∧
      (∀ p ∈ s.tiles, (p.1, p.2.closeFrame (s.time.span / 4000)) ∈ r.tiles) ∧ (∀ p ∈ r.fab.flows, p.2.completed = 0) ∧
      r.img = s.img ∧ r.tokens = s.tokens ∧ r.waits = s.waits ∧
      (∀ d : DieId, ⟨.cacheTag d, false⟩ ∈ sram ∨ ⟨.table d, false⟩ ∈ sram → d.val = 0 ∨ s.dieUp d.val = true →
        r.boot.resetDue.isSome = true) ∧
      ∀ g : GrottoId, ⟨.rootStore g, false⟩ ∈ sram → s.dieUp (5 + g.val) = true → (r.grot g.val).refuse = true) ∧
  (∀ (p : PortId) (carried : Word) (phases : List Int) (s : State), s.live = true → markPort s = some p.val → portHears s p = true →
    ∃ r, exec (.frameMarkReceipt p carried phases) s = .next r ∧ r.time.span = (carried.toNat + (s.port p).delay) % 2 ^ 64 ∧
      r.time.csr = s.time.csr ∧ r.str.gotMark = true ∧ r.str.sinceMark = 0 ∧ hopDelay r = (s.port p).delay ∧
      r.str.marksRun = (if s.str.gotMark = true then s.str.marksRun else s.str.marksRun + 1) ∧
      r.str.marksOk = decide (3 ≤ r.str.marksRun) ∧ (∀ d, 3 ≤ r.str.marksRun → d < 9 → (r.clkDie d).marks = true) ∧
      (∀ d q qs, d < 9 → (s.clkDie d).marks = true → s.image.clockRec.spanClass = 1 → (s.clkDie d).phases = q :: qs → qs.length = 15 →
        let good := if -3072 ≤ (phases.getD d 0 - q) * 125 ∧ (phases.getD d 0 - q) * 125 ≤ 3072 then min ((s.clkDie d).good + 1) 0xFFFF else 0
        (r.clkDie d).good = good ∧ ((r.clkDie d).stable = true ↔ (s.clkDie d).stable = true ∨ 256 ≤ good)) ∧
      r.mem = s.mem ∧ r.tiles = s.tiles ∧ r.troupes = s.troupes) ∧
  (∀ s : State, s.live = true → (markPort s).isSome = true → 3 ≤ s.str.sinceMark → (s.str.inSpan = true ∨ (s.clkDie 0).marks = true) →
    ∃ r, exec .markLoss s = .next r ∧ r.str.inSpan = false ∧ (∀ d, d < 9 → (r.clkDie d).marks = false) ∧ r.mem = s.mem) ∧
  (∀ (join : Bool) (span x y z : Nat) (s : State), s.live = true →
    ∃ r, exec (.membershipNotice join span x y z none) s = .next r ∧ r.str.changes = (s.str.changes + 1) % 2 ^ 32 ∧
      r.str.lastKind = (if join = true then 2 else 1) ∧ r.str.lastSpan = span % 256 ∧ r.str.lastX = x % 16 ∧
      r.str.lastY = y % 8 ∧ r.str.lastZ = z % 8 ∧ r.mem = s.mem ∧ r.troupes = s.troupes ∧
      ((s.img.op = .voting ∨ s.img.op = .activating) → r.img.op = .idle ∧ r.img.code = 0x13)) ∧
  (∀ (join : Bool) (span x y z : Nat) (p : PortId) (s : State) (tr : Nat), s.live = true → join = false →
    tr ∈ troupesThrough s.image p → tr < 16 → (s.troupe tr).state = 1 →
    ∃ r, exec (.membershipNotice join span x y z (some p)) s = .next r ∧ (r.troupe tr).state = 2) ∧
  ∀ (v : Word) (s : State), s.live = true →
    (exec (.telemetryConfigWrite 0 v) s = .next { s with tel := { s.tel with base := v.toNat / 4096 % 2 ^ 36 * 4096, wr := 0 } }) ∧
    ∃ r, exec (.telemetryConfigWrite 1 v) s = .next r ∧ r = { s with tel := r.tel } ∧ r.tel.wr = 0 ∧
      r.tel.base = s.tel.base ∧ r.tel.rd = s.tel.rd ∧ r.tel.enable = v.toNat % 16 ∧
      (v.toNat / 2 ^ 48 = 0 → r.tel.interval = 0) ∧ (16 ≤ v.toNat / 2 ^ 48 → r.tel.interval = v.toNat / 2 ^ 48)

/-- MEMORY_SLOT, for a slot of a channel that begins now and has not begun before: where the first request that it
serves is a window write, or DataHome, of a whole line, its 128 bytes read as written, no other byte changes and
the request is gone; of a partial write the first slot, unless it finds a line that is corrected wrongly,
changes no byte, and keeps the request, or drops it where the line cannot be corrected; the second changes only
bytes of that line, to the merge. A slot of no owner only passes. A slot that scrubs changes no byte and marks
its channel. TIMETABLE_FRAME_START: every memory's reading, peak and hot, warn and halt bits follow the frame's
readings in sixteenths of a degree, a memory with no reading acting as above 100 °C, and the alert output
follows the warnings. (R78, R228, R229, R232, R234, R238, R239, R240, R241, R242, R404, R578.) -/
def Obligations.TimetableSlotsServeTheirOwners : Prop :=
  (∀ (m : MemoryId) (ch slot : Nat) (e : Ecc) (s : State),
    let g := s.time.ttFrames * memSlots m + slot
    let w := ownerWord s m ch slot
    let passed := s.modMem m fun c => { c with nextSlot := tset c.nextSlot ch (g + 1) }
    s.live = true → ch < 2 ^ chanBits m → slot < memSlots m → tget 0 (s.memCtl m).nextSlot ch ≤ g →
    s.beginsNow (memSlotAt m g) = true →
    (∀ (q : MemReq),
      carriesRequests w = true → slotTaker s m ch w (memSlotAt m g) = some q → q.write = true →
      (∃ h, q.who = .window h) ∨ q.who = .dataHome →
      q.poison = false → q.data.length = 128 →
      let a := 128 * q.line
      ∃ r, exec (.memorySlot m ch slot e) s = .next r ∧ r.tiles = s.tiles ∧ r.img = s.img ∧
        (q.mask = [] → r.bytes a 128 = q.data ∧ MemoryKept a 128 s r ∧ (r.memCtl m).reqs = (s.memCtl m).reqs.erase q) ∧
        (q.mask.length = 128 → q.readDone = true → r.bytes a 128 = mergeBytes (s.bytes a 128) q.data q.mask ∧
          MemoryKept a 128 s r ∧ (r.memCtl m).reqs = (s.memCtl m).reqs.erase q) ∧
        (q.mask.length = 128 → q.readDone = false → effEcc s a e ≠ .miscorrected → r.mem = s.mem ∧
          (effEcc s a e = .uncorrectable → (r.memCtl m).reqs = (s.memCtl m).reqs.erase q) ∧
          (effEcc s a e ≠ .uncorrectable →
            (r.memCtl m).reqs = (s.memCtl m).reqs.map fun k => if k = q then { k with readDone := true } else k))) ∧
    (w = 0 → exec (.memorySlot m ch slot e) s = .next passed) ∧
    (w = 0x4000_0000 → e.finding ≠ .miscorrected →
      ∃ r, exec (.memorySlot m ch slot e) s = .next r ∧ r.mem = s.mem ∧ r.tiles = s.tiles ∧ r.img = s.img ∧
        (scrubs (s.memCtl m).hot slot = true → ch ∉ (s.memCtl m).scrubbed →
          (s.memCtl m).scrubbed.length + 1 ≠ 2 ^ chanBits m → (r.memCtl m).scrubbed = (s.memCtl m).scrubbed ++ [ch]))) ∧
  ∀ (temps : List TempSample) (s : State), s.live = true → s.time.span / 65536 ≠ s.time.ttFrames →
    ∃ r, exec (.timetableFrameStart temps) s = .next r ∧ r.time = { s.time with ttFrames := s.time.span / 65536 } ∧
      r.mem = s.mem ∧ r.tiles = s.tiles ∧
      (r.elec.alert = true ↔ (∃ m, m < 16 ∧ (r.memCtl m).warn = true) ∨ s.elec.hotDies ≠ []) ∧
      ∀ m, m < 16 →
        let v := readingOf temps m
        let t := v.getD 1616
        (r.memCtl m).sensorFail = v.isNone ∧ (r.memCtl m).peak = max (s.memCtl m).peak (v.getD 0) ∧
        (r.memCtl m).temp = v.getD (s.memCtl m).temp ∧
        (1360 < t → (r.memCtl m).hot = true) ∧ (1520 < t → (r.memCtl m).warn = true) ∧ (1600 < t → (r.memCtl m).halt = true) ∧
        (∀ x, v = some x → x ≤ 1280 → (r.memCtl m).hot = false) ∧
        (∀ x, v = some x → x ≤ 1440 → (r.memCtl m).warn = false) ∧
        ((∀ k ∈ haltPeers m, ∃ x, readingOf temps k = some x ∧ x ≤ 1472) → (r.memCtl m).halt = false)

/-- LINK_TRAINED: both ends are active with every module up, and else down. LINK_RETRAIN_START: both ends leave the
active state and count a retrain. LINK_UP_AGAIN within 2 ms: the link is active again, each end counts its own
replays, and every running troupe with a flow on it begins to abort. LINK_LOSS_TIMEOUT after 2 ms: both ends are
down, and a link between device dies owes a package reset. HOST_LINK_LOSS: ERR_FATAL holds a LINK record 0x07
unless a fatal record has been copied for a reset that is due, no image is in force, every tile and queue stands
at its reset value, and no region is valid. (R14, R15, R17, R36, R423, R424, R440, R553, R555.) -/
def Obligations.LinksTrainRetrainAndFail : Prop :=
  ∀ (d : DieId) (l : LinkId) (s : State) (e : Nat), s.live = true → linkPeer d l = some e →
    let x := s.link d l
    let up := 2 ^ linkModules d e - 1
    (∀ m : BitVec 6, (x.state = 0 ∨ x.state = 1) → (d.val = 0 ∨ s.dieUp d = true) → (e = 0 ∨ s.dieUp e = true) →
      ∃ r, exec (.linkTrained d l m) s = .next r ∧ r = { s with links := r.links } ∧
        (m.toNat % (up + 1) = up → (r.link d l).state = 2 ∧ (r.link d l).modules = up) ∧
        (m.toNat % (up + 1) ≠ up → (r.link d l).state = 4)) ∧
    (x.state = 2 → ∃ r, exec (.linkRetrainStart d l) s = .next r ∧ r = { s with links := r.links } ∧
      (r.link d l) = { x with state := 3, retrains := min (x.retrains + 1) 0xFFFF, leftAt := s.time.span } ∧
      ∀ l', linkTo e d = some l' → (r.link e l').state = 3) ∧
    (∀ n k, x.state = 3 → s.time.span < x.leftAt + 8_000_000 →
      ∃ r, exec (.linkUpAgain d l { near := n, far := k }) s = .next r ∧ (r.link d l).state = 2 ∧ (r.link d l).modules = up ∧ r.mem = s.mem ∧
        (r.link d l).replays = min (x.replays + n) 0xFFFF ∧
        (∀ l', linkTo e d = some l' → (r.link e l').state = 2 ∧ (r.link e l').replays = min ((s.link e l').replays + k) 0xFFFF) ∧
        (∀ tr ∈ troupesOnLink s.image d e, tr < 16 → (s.troupe tr).state = 1 → (r.troupe tr).state = 2) ∧
        (troupesOnLink s.image d e = [] → r.troupes = s.troupes)) ∧
    (x.state = 3 → x.leftAt + 8_000_000 ≤ s.time.span →
      ∃ r, exec (.linkLossTimeout d l) s = .next r ∧ (r.link d l).state = 4 ∧ r.mem = s.mem ∧
        (d.val ≠ 0 → e ≠ 0 → r.boot.resetDue.isSome = true) ∧
        (d.val = 0 ∨ e = 0 → r.boot = s.boot ∧ r.err = s.err)) ∧
    (d.val ≠ 0 → (s.link 0 (d.val - 1)).state = 4 → s.dieUp d = true →
      ∃ r, exec (.hostLinkLoss d) s = .next r ∧ r.img.inForce = none ∧ (∀ t, t < 48 → r.tile t = {}) ∧ r.queues = [] ∧
        (∀ i, (r.region i).valid = false) ∧ r.host = s.host ∧ r.time = s.time ∧
        (s.err.fatalCopied = false → ∃ f, r.err.fatal = some f ∧ f.cls = 5 ∧ f.severity = 2 ∧ f.code = 7 ∧ f.info1 = d.val) ∧
        (s.err.fatalCopied = true → r.err.fatal = s.err.fatal))

/-- SLOT_FLIT_RECEIVED at the next position of the neighbour's frame, the numbers being known: a flit that fails its
check hands no line over; at a slot position it is counted against the number due there, and naked where that is
the number awaited. One that passes, with the number awaited, hands its lines over in order and moves that
number on by one; one ahead of it within half the range is held. REPLAY_SEND at its time sends the first flit
whose nak came 5 ns before and counts it, or an idle flit. OPENER_RECEIVED: a valid opener's identity is kept; a
fenced port whose neighbour is another than its place in the span asks is miswired, an active one is lost.
Nothing else of the state changes. (R275, R278, R279, R280, R281, R294, R295.) -/
def Obligations.AbasisPortsAcceptInSequence : Prop :=
  ∀ (p : PortId) (s : State), s.live = true →
    let x := s.port p
    (∀ flit, (x.state = 2 ∨ x.state = 3) → x.rxPlace ≤ 1002 → x.rxSync = true →
      let n := trailer flit 0 12
      let replay := x.rxPlace ∈ replayPlaces
      ∃ r, exec (.slotFlitReceived p flit) s = .next r ∧ r = { s with fab := { s.fab with ports := r.fab.ports } } ∧
      (∀ q, q ≠ p.val → r.port q = s.port q) ∧ (r.port p).rxPlace = x.rxPlace + 1 ∧
      (flitOk flit = false → (r.port p).arrived = x.arrived ∧ (r.port p).rxNext = x.rxNext ∧ (r.port p).rxHeld = x.rxHeld) ∧
      (flitOk flit = false → ¬ replay → (r.port p).crcFail = min (x.crcFail + 1) 0xFFFF ∧
        (r.port p).rxDue = (x.rxDue + 1) % 4096 ∧ tget 0 (r.port p).rxFails x.rxDue = tget 0 x.rxFails x.rxDue + 1 ∧
        (x.rxDue = x.rxNext → (r.port p).nakDue = true) ∧ (x.rxDue ≠ x.rxNext → (r.port p).nakDue = x.nakDue)) ∧
      (flitOk flit = true → (replay → idleFlit flit = false) → n = x.rxNext → x.rxHeld = [] →
        (r.port p).arrived = x.arrived ++ flitLines flit ∧ (r.port p).rxNext = (x.rxNext + 1) % 4096 ∧
        (r.port p).nakSent = false ∧ (r.port p).rxHeld = [] ∧ (r.port p).crcFail = x.crcFail) ∧
      (flitOk flit = true → (replay → idleFlit flit = false) → 0 < (n + 4096 - x.rxNext) % 4096 → (n + 4096 - x.rxNext) % 4096 < 2048 →
        (∀ h ∈ x.rxHeld, h.1 ≠ n) →
        (r.port p).arrived = x.arrived ∧ (r.port p).rxNext = x.rxNext ∧ (r.port p).rxHeld = x.rxHeld ++ [(n, flit)])) ∧
    (∀ (k : Fin 3),
      let g := s.frame * 3 + k.val
      (x.state = 2 ∨ x.state = 3) → x.txReplay ≤ g → s.beginsNow (replayAt g) = true →
      ∃ r, exec (.replaySend p k) s = .next r ∧ r = { s with fab := { s.fab with ports := r.fab.ports } } ∧
        (∀ q, q ≠ p.val → r.port q = s.port q) ∧ (r.port p).txReplay = g + 1 ∧
        (∀ n, x.toReplay.find? (fun n => decide (n.2 + 20 ≤ replayAt g)) = some n →
          (r.port p).toReplay = x.toReplay.erase n ∧ (r.port p).replays = min (x.replays + 1) 0xFFFF ∧
          ∀ l, x.txKept.find? (fun k => k.1 == n.1) = some l → (r.port p).sentFlit = flitBytes x n.1 l.2) ∧
        (x.toReplay.find? (fun n => decide (n.2 + 20 ≤ replayAt g)) = none →
          (r.port p).toReplay = x.toReplay ∧ (r.port p).replays = x.replays ∧ (r.port p).sentFlit = flitBytes x 0 [])) ∧
    (∀ o, o.length = 362 → crc32 (o.take 358) = fieldAt o 358 4 → x.state ≠ 0 →
      ∃ r, exec (.openerReceived p o) s = .next r ∧ (∀ q, q ≠ p.val → r.port q = s.port q) ∧
        (r.port p).rxPlace = 0 ∧ (r.port p).identified = true ∧ (r.port p).peerSpanId = fieldAt o 0x10 8 ∧
        (r.port p).peerSpan = fieldAt o 0x18 2 ∧ (r.port p).peerX = fieldAt o 0x1A 1 ∧ (r.port p).peerY = fieldAt o 0x1B 1 ∧
        (r.port p).peerZ = fieldAt o 0x1C 1 ∧ (r.port p).peerPort = fieldAt o 0x1D 1 ∧
        (x.state ≠ 3 ∨ identityOk r p = true → r = { s with fab := { s.fab with ports := r.fab.ports } }) ∧
        (x.state = 2 ∨ x.state = 6 → (r.port p).state = if identityOk r p = true then 2 else 6) ∧
        (x.state = 3 → (r.port p).state = if identityOk r p = true then 3 else 6) ∧
        (x.state = 3 → identityOk r p = false →
          ∀ tr ∈ troupesOnPort s.image p, tr < 16 → (s.troupe tr).state = 1 → (r.troupe tr).state = 2) ∧
        (x.state ≠ 2 → x.state ≠ 3 → x.state ≠ 6 → (r.port p).state = x.state))

/-- PORT_TRAINED, of a port in use, with a delay of at most 50 ns and its Strings lanes up: the port is fenced, or
miswired where its neighbour is known to be another, with its receiver and transmitter empty; with a longer
delay, or without Strings, it stays in training. PORT_RETRAIN: the port retrains and counts it.
PORT_RETRAIN_TIMEOUT after 2 ms: it is down. STRINGS_LANE_LOST: it is down and the package is in no span. At a
retrain, a timeout and a lost lane every running troupe with a flow on the port begins to abort, and a fabric
engine with neither port active is fenced. (R262, R274, R275, R277, R282, R292, R294, R297, R560.) -/
def Obligations.AbasisPortsTrainRetrainAndGoDown : Prop :=
  ∀ (p : PortId) (s : State), s.live = true →
    let x := s.port p
    let lost := fun (r : State) => (∀ tr ∈ troupesOnPort s.image p, tr < 16 → (s.troupe tr).state = 1 → (r.troupe tr).state = 2) ∧
      (∀ q, q ≠ p.val → r.port q = s.port q) ∧ (r.port p).txKept = [] ∧ (r.port p).rxHeld = [] ∧ r.mem = s.mem ∧
      ((s.port (2 * (p.val / 2) + (1 - p.val % 2))).state ≠ 3 → (r.fence (72 + p.val / 2)).fenced = true)
    (∀ delay up, portUsed s p = true → (x.state = 0 ∨ x.state = 1 ∨ x.state = 4 ∨ x.state = 5) →
      ∃ r, exec (.portTrained p delay up) s = .next r ∧ (∀ q, q ≠ p.val → r.port q = s.port q) ∧
        r = { s with fab := { s.fab with ports := r.fab.ports } } ∧
        (r.port p).delay = delay % 65536 ∧ (r.port p).stringsUp = (up && decide (delay ≤ 200)) ∧ (r.port p).rxSync = false ∧ (r.port p).rxHeld = [] ∧
        (r.port p).txKept = [] ∧ (r.port p).toReplay = [] ∧
        (200 < delay ∨ up = false → (r.port p).state = 1) ∧
        (delay ≤ 200 → up = true → (r.port p).state = if x.identified = true ∧ identityOk s p = false then 6 else 2)) ∧
    (∀ cause, (x.state = 2 ∨ x.state = 3 ∨ x.state = 6) → (cause = .flitFailedThrice → ∃ f ∈ x.rxFails, 3 ≤ f.2) →
      ∃ r, exec (.portRetrain p cause) s = .next r ∧ (r.port p).state = 4 ∧
        (r.port p).retrains = min (x.retrains + 1) 0xFFFF ∧ (r.port p).leftAt = s.time.span ∧ lost r) ∧
    (x.state = 4 → x.leftAt + 8_000_000 ≤ s.time.span →
      ∃ r, exec (.portRetrainTimeout p) s = .next r ∧ (r.port p).state = 5 ∧ lost r) ∧
    (x.stringsUp = true →
      ∃ r, exec (.stringsLaneLost p) s = .next r ∧ (r.port p).state = 5 ∧ (r.port p).stringsUp = false ∧
        r.str.inSpan = false ∧ lost r)

/-- FABRIC_LINE_ARRIVAL of the first line accepted on a port, its troupe's scene not aborted here: with no record
for its flow on that port it is discarded and a corrected LINK record is formed; a forwarded line enters the
port's forward buffer; a delivered one, with its slots and no board entry, stands at its place in the flow's
region and no other byte changes, and counts as accepted at once outside the tiers; a line of kind 3 is both; a
contribution is handed to the reduction engine of its region. FORWARD_LAUNCH: in a slot of a flow that does not
start here its first buffered line, 20 ns old, leaves and takes a credit, or is held for one; a slot of no flow
passes idle. CREDIT_RETURN adds to the flow's credits. (R278, R283, R284, R285, R286, R287, R290, R294, R85.) -/
def Obligations.FabricLinesFollowTheirFlow : Prop :=
  (∀ (p : PortId) (s : State) (l : Nat × List Byte) (ls : List (Nat × List Byte)),
    let d := p.val / 2
    s.live = true → (s.port p).arrived = l :: ls →
    ∃ r, exec (.fabricLineArrival p) s = .next r ∧ (r.port p).arrived = ls ∧ r.tiles = s.tiles ∧
      ((s.image.flowRec l.1).filter (fun f => f.inPort == p.val) = none →
        r.mem = s.mem ∧ r.fab.flows = s.fab.flows ∧ (r.dieErr (1 + d)).corrected = min ((s.dieErr (1 + d)).corrected + 1) (2 ^ 32 - 1)) ∧
      ∀ f, s.image.flowRec l.1 = some f → f.inPort = p.val → abortedHere s f.troupe d = false →
        let x := s.flowCtx f.flow
        let a := f.lineAt x.lines
        let room := ownsFabSlot s.image f.outPort f.flow = true
        let reach := fabReach s.image d 1 f.flow a true = true
        (f.kind = 0 → room →
          r.mem = s.mem ∧ (r.port p).forward = (s.port p).forward ++ [⟨f.flow, l.2, s.time.span, false⟩] ∧
          (r.flowCtx f.flow).lines = x.lines + 1) ∧
        (f.kind = 1 → x.skip = 0 → reach → boardOf s f.flow = none → l.2.length = 128 →
          MemoryKept a 128 s r ∧ r.bytes a 128 = l.2 ∧ (r.flowCtx f.flow).lines = x.lines + 1 ∧
          (inTier a 128 = false →
            (r.flowCtx f.flow).accepted = x.accepted + 1 ∧ (r.flowCtx f.flow).completed = x.completed + 1) ∧
          (inTier a 128 = true → (r.flowCtx f.flow).accepted = x.accepted)) ∧
        (f.kind = 2 → reach →
          let c := (a - 0x500_0000_0000) / 0x800_0000
          r.mem = s.mem ∧ (r.flowCtx f.flow).lines = x.lines + 1 ∧
          (r.redEng c).inputs = (s.redEng c).inputs ++ [⟨f.flow, a, f.contributor, l.2, s.time.span, 0⟩]) ∧
        (f.kind = 3 → x.skip = 0 → reach → room → boardOf s f.flow = none → l.2.length = 128 →
          MemoryKept a 128 s r ∧ r.bytes a 128 = l.2 ∧
          (r.port p).forward = (s.port p).forward ++ [⟨f.flow, l.2, s.time.span, false⟩])) ∧
  (∀ (p : PortId) (slot : Nat) (s : State),
    let w := fabOwner s.image p slot
    let flow := w % 2 ^ 18
    let g := s.frame * 3000 + slot
    s.live = true → (s.port p).state = 3 → slotDue s p slot = true →
    (w / 2 ^ 28 ≠ 3 → exec (.forwardLaunch p slot) s = .next (passSlot p slot none s)) ∧
    ∀ (f : FlowRec) (l : FwdLine), w / 2 ^ 28 = 3 → s.image.flowRec flow = some f → f.outPort = p.val → f.inPort ≠ 8 →
      (s.port f.inPort).forward.find? (fun l => l.flow == flow) = some l → l.since + 80 ≤ portSlotAt g →
      ∃ r, exec (.forwardLaunch p slot) s = .next r ∧ r = { s with fab := { s.fab with ports := r.fab.ports, flows := r.fab.flows } } ∧
        (r.port p).txSlot = g + 1 ∧ (∀ o, o ≠ flow → r.flowCtx o = s.flowCtx o) ∧
        ((s.flowCtx flow).credits = 0 → r.flowCtx flow = s.flowCtx flow ∧
          (r.port f.inPort).forward.map FwdLine.data = (s.port f.inPort).forward.map FwdLine.data ∧
          (r.port p).held = if l.waited = true then (s.port p).held else min ((s.port p).held + 1) 0xFFFF) ∧
        (0 < (s.flowCtx flow).credits → (r.flowCtx flow).credits = (s.flowCtx flow).credits - 1 ∧
          (r.flowCtx flow).left = (s.flowCtx flow).left + 1 ∧
          (f.kind = 0 → (r.flowCtx flow).completed = (s.flowCtx flow).completed + 1) ∧
          (r.port f.inPort).forward = (s.port f.inPort).forward.erase l)) ∧
  ∀ (flow : Fin 262144) (n : W32) (s : State) (f : FlowRec), s.live = true → s.image.flowRec flow = some f → f.outPort ≠ 0xFF →
    portHears s f.outPort = true →
    exec (.creditReturn flow n) s = .next (s.modFlow flow fun x => { x with credits := min (x.credits + n.toNat) 0xFFFF_FFFF })

/-- FAB_SEND requests the lines of its range, and launches the next one that is ready in a slot of its flow and
takes a credit, without changing memory; FAB_SEND_COMPLETE moves to the next entry and signals; FAB_RECV
registers a RECV for its count of further lines; FAB_RECV_COMPLETE ends one whose lines have been accepted and
signals; FAB_END arrives at the end barrier with nothing pending, and waits else. FETCH_CHECK accepts a copy
whose digest is the board's and counts a miss else. REPEAT_REQUEST at the source owes the SEND once more.
PUBLICATION_RECEIPT writes digest and generation into exactly the valid entries of its key. (R79, R286, R288,
R289, R363, R365, R366.) -/
def Obligations.FabricEngineRunsItsRing : Prop :=
  (∀ (d : ChipId) (slot : Nat) (s : State) (f : FlowRec),
    let x := s.fabEng d
    let e := x.cur
    let flow := fieldAt e 8 4 % 2 ^ 18
    s.live = true → (s.fence (72 + d.val)).fenced = false → x.state = 1 → x.repeats = [] →
    (fieldAt e 0 1 = 1 → fabEntryFault s d e = none → (fieldAt e 2 2 = 0xFFFF ∨ x.released = true) → s.image.flowRec flow = some f →
      let first := fieldAt e 0x0C 4
      let count := fieldAt e 0x10 4
      (x.asked = false → (∀ i, i < count → fabReach s.image d 0 f.flow (f.lineAt (first + i)) false = true) →
        ∃ r, exec (.fabSend d slot) s = .next r ∧ (r.fabEng d).asked = true ∧ r.mem = s.mem ∧ r.tiles = s.tiles ∧
          r.fab.flows = s.fab.flows ∧ r.fab.ports = s.fab.ports) ∧
      ∀ data, x.asked = true → slotOfFlow s slot f = true → x.sent < count → readyLine s d (first + x.sent) f = some data →
        0 < (s.flowCtx f.flow).credits →
        ∃ r, exec (.fabSend d slot) s = .next r ∧ (r.fabEng d).sent = x.sent + 1 ∧ r.mem = s.mem ∧ r.tiles = s.tiles ∧
          (r.flowCtx f.flow).credits = (s.flowCtx f.flow).credits - 1 ∧
          (r.flowCtx f.flow).lines = (s.flowCtx f.flow).lines + 1) ∧
    (fieldAt e 0 1 = 2 → x.recvs.length < 64 → fabEntryFault s d e = none →
      ∃ r, exec (.fabRecv d) s = .next r ∧ (r.fabEng d).entry = x.entry + 1 ∧ (r.fabEng d).recvs = x.recvs ++
        [⟨flow, (s.flowCtx flow).claimed + fieldAt e 0x10 4, fieldAt e 0x14 2⟩] ∧
        (r.flowCtx flow).claimed = (s.flowCtx flow).claimed + fieldAt e 0x10 4 ∧ r = { s with fab := r.fab }) ∧
    (fieldAt e 0 1 = 1 → 0 < x.sent → x.sent = fieldAt e 0x10 4 →
      ∃ r, exec (.fabSendComplete d) s = .next r ∧ (r.fabEng d).entry = x.entry + 1 ∧ (r.fabEng d).sent = 0 ∧
        r.str.msgs = s.str.msgs ++ (if fieldAt e 0x14 2 = 0xFFFF then [] else
          [{ kind := 0, obj := fieldAt e 0x14 2, unit := 72 + d.val, value := 1, sent := s.time.span }]) ∧ r.mem = s.mem) ∧
    (fieldAt e 0 1 = 3 → ∃ r, exec (.fabEnd d) s = .next r ∧ r.mem = s.mem ∧ (x.recvs = [] → (r.fabEng d).state = 4) ∧
      (x.recvs ≠ [] → (r.fabEng d).state = 3) ∧
      ∀ tr, x.recvs = [] → s.image.unitTroupe (72 + d.val) = some tr → 72 + d.val ∈ (r.troupe tr).arrived)) ∧
  (∀ (d : ChipId) (n : Nat) (s : State) (v : Recv), s.live = true → (s.fabEng d).recvs[n]? = some v →
    v.target ≤ (s.flowCtx v.flow).accepted → v.signal = 0xFFFF →
    exec (.fabRecvComplete d n) s = .next (s.modFab d fun x => { x with recvs := x.recvs.eraseIdx n })) ∧
  (∀ (n : Fin 1024) (s : State) (c : Word) (cs : List Word),
    let b := s.boardEntry n
    s.live = true → b.valid = true → (s.flowCtx b.flow).copies = c :: cs →
    ∃ r, exec (.fetchCheck n) s = .next r ∧ r.mem = s.mem ∧ (r.flowCtx b.flow).copies = cs ∧
      (c = b.digest → (r.boardEntry n).misses = 0 ∧ (r.boardEntry n).matched = min (b.matched + 1) 0xFFFF ∧
        (r.flowCtx b.flow).accepted = (s.flowCtx b.flow).accepted + b.lines) ∧
      (c ≠ b.digest → (r.boardEntry n).misses = min (b.misses + 1) 3 ∧ (r.flowCtx b.flow).accepted = (s.flowCtx b.flow).accepted ∧
        (b.misses < 2 → (r.flowCtx b.flow).asked = (s.flowCtx b.flow).asked + 1))) ∧
  (∀ (flow : Fin 262144) (s : State) (f : FlowRec), s.live = true → s.image.flowRec flow = some f → f.inPort = 8 →
    thas (s.fabEng (f.outPort / 2)).lastSend flow = true → (s.fabEng (f.outPort / 2)).state = 1 →
    exec (.repeatRequest flow) s = .next (s.modFab (f.outPort / 2) fun x => { x with repeats := x.repeats ++ [(flow.val, 0)] })) ∧
  ∀ (key : W32) (digest : Word) (gen : W32) (s : State), s.live = true →
    ∃ r, exec (.publicationReceipt key digest gen) s = .next r ∧ r = { s with pubs := r.pubs, tag := { s.tag with board := r.tag.board } } ∧
      ∀ n, r.boardEntry n = if (s.boardEntry n).valid = true ∧ (s.boardEntry n).key = key.toNat
        then { s.boardEntry n with digest := digest, gen := gen.toNat } else s.boardEntry n

/-- REDUCTION_CONTRIBUTION, the first of its flow and 10 ns old, in its turn, with its region bound and none
waiting: the running sum takes it, element by element with binary32 rounding, and with the last contributor the
line's 128 bytes become the sum and no other byte changes; out of turn it waits and no byte changes. RED_NORM
adds the squares of its lines to the norm in line order and moves on. RED_NORM_VOTE first contributes its norm
to the reduction object and waits, then casts go exactly if the sum is finite and at most the captured ceiling.
RED_END arrives when nothing is waiting. (R87, R168, R283, R290, R302, R303, R304, R588.) -/
def Obligations.ReductionEngineAddsInContributorOrder : Prop :=
  (∀ (d : ChipId) (n : Nat) (s : State) (c : Contribution),
    let x := s.redEng d
    let total := ((s.image.flowRec c.flow).map FlowRec.contributors).getD 1
    let l := tget {} x.lines (c.addr / 128)
    let sum := List.zipWith (fun a b => (fAdd a b).val) (if l.next = 0 then List.replicate 32 0 else l.sum) (lineF32 c.data)
    s.live = true → x.inputs[n]? = some c → (∀ b ∈ x.inputs.take n, b.flow ≠ c.flow) → c.since + 40 ≤ s.time.span →
    s.noticed (48 + d.val) = false →
    s.image.bound (0xF0 + d.val) ((c.addr - redBase d) / 0x80_0000) 9 = true →
    ∃ r, exec (.reductionContribution d n) s = .next r ∧ (r.redEng d).inputs = x.inputs.eraseIdx n ∧ r.tiles = s.tiles ∧
      (l.next = c.position → x.reorder = [] → c.position + 1 < total →
        r.mem = s.mem ∧ tget {} (r.redEng d).lines (c.addr / 128) = ⟨l.next + 1, sum⟩) ∧
      (l.next = c.position → x.reorder = [] → total ≤ c.position + 1 → (l.next = 0 ∨ l.sum.length = 32) →
        MemoryKept c.addr 128 s r ∧ r.bytes c.addr 128 = sum.flatMap (fun w => leBytes 4 w.toNat) ∧
        tget {} (r.redEng d).lines (c.addr / 128) = {}) ∧
      (l.next ≠ c.position → x.reorder.length < 32768 → r.mem = s.mem ∧ (r.redEng d).reorder = x.reorder ++ [c] ∧
        (r.redEng d).lines = x.lines)) ∧
  ∀ (d : ChipId) (s : State),
    let x := s.redEng d
    let e := x.cur
    let u := 48 + d.val
    s.live = true →
    (x.state = 1 → fieldAt e 0 1 = 0x21 → (fieldAt e 2 2 = 0xFFFF ∨ x.released = true) → fieldAt e 8 8 % 128 = 0 →
      inRed d (fieldAt e 8 8) (128 * fieldAt e 0x10 4) = true →
      (∀ i, i < fieldAt e 0x10 4 → s.image.bound (0xF0 + d.val) ((fieldAt e 8 8 + 128 * i - redBase d) / 0x80_0000) 9 = true) →
      ∃ r, exec (.redNorm d) s = .next r ∧ r = { s with reds := r.reds } ∧ (r.redEng d).entry = x.entry + 1 ∧
        (r.redEng d).norm = (List.range (fieldAt e 0x10 4)).foldl (fun a i => normLine a (s.bytes (fieldAt e 8 8 + 128 * i) 128)) x.norm) ∧
    (x.state = 1 → fieldAt e 0 1 = 0x22 → x.contributed = false → (fieldAt e 2 2 = 0xFFFF ∨ x.released = true) →
      objectFault s u 2 (fieldAt e 0x14 2) = none → objectFault s u 3 (fieldAt e 0x18 1) = none →
      ∃ r, exec (.redNormVote d) s = .next r ∧ (r.redEng d).contributed = true ∧ (r.redEng d).norm = 0 ∧ (r.redEng d).state = 2 ∧
        r.mem = s.mem ∧ (∃ w, r.wait u = some w ∧ w.kind = 4 ∧ w.chan = fieldAt e 0x14 2) ∧
        r.str.msgs = s.str.msgs ++ [⟨2, fieldAt e 0x14 2, u, 4, x.norm.setWidth 64, x.entry, fieldAt e 0x16 2, s.time.span⟩]) ∧
    (x.state = 1 → fieldAt e 0 1 = 0x22 → x.contributed = true →
      let tr := (s.image.unitTroupe u).getD 0xFF
      let go := nonFin32 x.norm = false ∧ leF32 x.norm (s.troupe tr).capCeil = true
      ∃ r, exec (.redNormVote d) s = .next r ∧ (r.redEng d).entry = x.entry + 1 ∧ r.mem = s.mem ∧ (r.troupe tr).norm = some x.norm ∧
        (go → r.str.msgs = s.str.msgs ++ [⟨3, fieldAt e 0x18 1, u, 0, 1, x.entry, 0, s.time.span⟩]) ∧
        (¬ go → r.str.msgs = s.str.msgs ++ [⟨3, fieldAt e 0x18 1, u, 0, 0, x.entry, 0, s.time.span⟩])) ∧
    (x.state = 1 → fieldAt e 0 1 = 0x2F → ∃ r, exec (.redEnd d) s = .next r ∧ r.mem = s.mem ∧
      (x.inputs = [] → x.reorder = [] → (r.redEng d).state = 4 ∧ ∀ tr, s.image.unitTroupe u = some tr → u ∈ (r.troupe tr).arrived) ∧
      (x.inputs ≠ [] ∨ x.reorder ≠ [] → (r.redEng d).state = 3))

/-- An update processor that has begun no entry runs the one at its ring's head. After a no-go norm outcome every
entry but COMMIT and END completes without executing. NORM_WAIT casts go and waits; NORM_OUTCOME keeps the
outcome and moves on. CONST loads its constants from the entry or, with mode 1, from the row of its table for
the captured step, and no others. INIT fills its region of the inactive generation, and of the active one where
the two do not overlap, with zeros or identity blocks; no byte outside the two regions changes. DIGEST records
the digest of its range, counts it, and marks a mode 0 result that differs from digest_a. CONST from a table,
INIT and DIGEST first request the slots of their lines and complete when all have come. END arrives when the
root unit is idle and waits else. (R302, R306, R325, R326, R327, R328, R345, R375.) -/
def Obligations.UpdateProcessorEntriesDoTheirPart : Prop :=
  ∀ (g : GrottoId) (s : State),
    let x := s.grot g
    let e := x.cur
    let u := 64 + g.val
    s.live = true → s.asks (fun w => w == .update g) = false →
    (x.state = 1 → x.begun = false → x.skipping = true →
      (x.op = 0x31 → exec (.updNormWait g) s = .next (s.modGrot g Grotto.next)) ∧
      (x.op = 0x32 → exec (.updUpdate g) s = .next (s.modGrot g Grotto.next)) ∧
      (x.op = 0x33 → exec (.updRoot g) s = .next (s.modGrot g Grotto.next)) ∧
      (x.op = 0x35 → exec (.updDigest g) s = .next (s.modGrot g Grotto.next)) ∧
      (x.op = 0x36 → exec (.updConst g) s = .next (s.modGrot g Grotto.next)) ∧
      (x.op = 0x37 → exec (.updInit g) s = .next (s.modGrot g Grotto.next))) ∧
    (x.state = 1 → x.begun = false → x.skipping = false → x.op = 0x31 → objectFault s u 3 (fieldAt e 1 1) = none →
      ∃ r, exec (.updNormWait g) s = .next r ∧ r.grot g = { x with begun := true, state := 2 } ∧ r.mem = s.mem ∧
        (∃ w, r.wait u = some w ∧ w.kind = 4 ∧ w.chan = fieldAt e 1 1) ∧
        r.str.msgs = s.str.msgs ++ [⟨3, fieldAt e 1 1, u, 0, 1, x.entry, 0, s.time.span⟩]) ∧
    (∀ go, x.state = 2 → x.op = 0x31 → voteResult s u = some go →
      let tr := updTroupe s g
      ∃ r, exec (.normOutcome g) s = .next r ∧ r.grot g = { x.next with normGo := go, skipping := !go } ∧ r.mem = s.mem ∧
        r.wait u = none ∧
        (go = true → (r.troupe tr).stepState =
          if (s.troupe tr).commitScene = true ∧ (s.troupe tr).stepState = 1 then 2 else (s.troupe tr).stepState) ∧
        (go = false → (s.troupe tr).commitScene = true → (s.troupe tr).stepDone = false →
          (r.troupe tr).stepState = 5 ∧ (r.troupe tr).declines = min ((s.troupe tr).declines + 1) 0xFFFF) ∧
        (go = false → (s.troupe tr).commitScene = false ∨ (s.troupe tr).stepDone = true → r.troupe tr = s.troupe tr)) ∧
    (x.state = 1 → x.begun = false → x.skipping = false → x.op = 0x36 →
      let first := fieldAt e 1 1
      let count := fieldAt e 2 1
      let row := fieldAt e 8 8 + (x.capStep.toNat % 2 ^ 48) * 128
      count ≠ 0 → first + count ≤ 32 →
      (fieldAt e 3 1 = 0 ∧ count ≤ 4) ∨ (fieldAt e 3 1 = 1 ∧ fieldAt e 8 8 % 128 = 0 ∧ inTier row 128 = true ∧ noSlot s.image u 0 row 128 = none) →
      (fieldAt e 3 1 = 1 → x.asked = false →
        ∃ r, exec (.updConst g) s = .next r ∧ r.grot g = { x with asked := true } ∧ r.mem = s.mem ∧ r.tiles = s.tiles) ∧
      (fieldAt e 3 1 = 0 ∨ x.asked = true → ∃ r, exec (.updConst g) s = .next r ∧ (r.grot g).entry = x.entry + 1 ∧ r.mem = s.mem ∧ r.tiles = s.tiles ∧
        ∀ i, tget 0 (r.grot g).consts i = if first ≤ i ∧ i < first + count then
          (if fieldAt e 3 1 = 0 then BitVec.ofNat 32 (fieldAt e (0x10 + 4 * (i - first)) 4)
            else BitVec.ofNat 32 (leNat (s.bytes (row + 4 * i) 4)))
          else tget 0 x.consts i)) ∧
    (x.state = 1 → x.begun = false → x.skipping = false → x.op = 0x37 →
      let i := fieldAt e 2 2
      let b := fieldAt e 4 2
      let n := fieldAt e 0x10 8
      let sh := s.shard g i
      let act := sh.region false + fieldAt e 8 8
      let new := sh.region true + fieldAt e 8 8
      (x.asked = true → ∃ r, exec (.updInit g) s = .next r ∧ (r.grot g).entry = x.entry + 1 ∧ r.mem = s.mem ∧
        (laterInit x.ring i 4096 (x.entry + 1) = false → (r.shard g i).initialised = true ∧
          (r.shard g i).digestA = rangeDigest s.mem (sh.region false) (sh.bytes / 128))) ∧
      (x.asked = false → (fieldAt e 1 1 = 0 ∧ b = 0) ∨ (fieldAt e 1 1 = 1 ∧ 64 ≤ b ∧ b ≤ 1024 ∧ b % 64 = 0 ∧ n % (4 * b * b) = 0) →
      sh.valid = true → sh.initialised = false → fieldAt e 8 8 % 128 = 0 → n % 128 = 0 → fieldAt e 8 8 + n ≤ sh.bytes →
      noSlot s.image u 1 act n = none → noSlot s.image u 1 new n = none →
      let fill := if fieldAt e 1 1 = 0 then List.replicate n (0 : Byte)
        else (List.range (n / 4)).flatMap fun k => leBytes 4 (identityElem b k).toNat
      ∃ r, exec (.updInit g) s = .next r ∧ (r.grot g).entry = x.entry ∧ (r.grot g).asked = true ∧ r.bytes new n = fill ∧
        (act + n ≤ new ∨ new + n ≤ act → r.bytes act n = fill) ∧
        (∀ a, (a < act ∨ act + n ≤ a) → (a < new ∨ new + n ≤ a) → memRead r.mem a = memRead s.mem a))) ∧
    (x.state = 1 → x.begun = false → x.skipping = false → x.op = 0x35 →
      let mode := fieldAt e 1 1
      let sh := s.shard g (fieldAt e 2 2)
      let a := if mode = 0 then sh.region false else fieldAt e 0x10 8
      let n := if mode = 0 then sh.bytes else fieldAt e 0x18 8
      mode ≤ 1 → (mode = 0 → sh.valid = true) → a % 128 = 0 → n % 128 = 0 →
      (∃ m o, placeOf a = .slow m o ∧ m = g.val) → inTier a n = true → noSlot s.image u 2 a n = none →
      (x.asked = false → ∃ r, exec (.updDigest g) s = .next r ∧ r.grot g = { x with asked := true } ∧ r.mem = s.mem) ∧
      (x.asked = true → ∃ r, exec (.updDigest g) s = .next r ∧ (r.grot g).entry = x.entry + 1 ∧ r.mem = s.mem ∧
        (r.grot g).digLast = rangeDigest s.mem a (n / 128) ∧ (r.grot g).digDone = (x.digDone + 1) % 2 ^ 32 ∧
        (mode = 0 → rangeDigest s.mem a (n / 128) ≠ sh.digestA → (r.grot g).mismatch = true) ∧
        (mode = 1 → (r.grot g).mismatch = x.mismatch))) ∧
    (x.state = 1 → x.begun = false → x.op = 0x3F → ∃ r, exec (.updEnd g) s = .next r ∧ r.mem = s.mem ∧
      (rootIdle s g = true → (r.grot g).state = 4 ∧ ∀ tr, s.image.unitTroupe u = some tr → u ∈ (r.troupe tr).arrived) ∧
      (rootIdle s g = false → (r.grot g).state = 3))

/-- UPDATE, once it needs no wait, starts its program when the shard is valid and the program, its streams and its
first group's lines are in order. PROGRAM_GROUP_RESUME marks the reduction-buffer lines of a group as arrived.
UPDATE_COMPLETE moves to the next entry and signals. ROOT puts its job at the end of the root unit's queue.
ROOT_BLOCK_COMPLETE first requests the slots of the block's lines, and when they have come writes the root of
one block and its residual into the inactive generation of the root shard and no other byte; the residual is
kept, the block counter moves on, and the job leaves with its last block. (R329, R331, R334, R335, R340, R341,
R343, R345.) -/
def Obligations.UpdatesAndRootJobsWriteOnlyInactiveGenerations : Prop :=
  ∀ (g : GrottoId) (s : State),
    let x := s.grot g
    let u := x.update.1
    let sh := x.update.2.1
    let p := x.update.2.2
    s.live = true →
    (x.state = 1 → x.begun = false → x.skipping = false → x.op = 0x32 → (u.waitCh = 0xFFFF ∨ x.released = true) →
      sh.valid = true → u.program ≤ 63 → 0 < u.elements → programOk p sh u.flags = true →
      (∀ i, i < 8 → usedIn p i = true → inOk sh u (inDesc p i) = true) →
      (∀ j, j < 6 → usedOut p j = true → outOk sh u (outDesc p j) = true) → groupUnowned s.image g p sh u 0 = none →
      exec (.updUpdate g) s = .next (s.modGrot g fun x => { x with begun := true, groupSt := {} })) ∧
    (x.updating = true → x.missing = [] → x.groupSt.resumed = false → x.groupSt.group < u.groups →
      (∀ l ∈ x.remote, ∀ d o, placeOf (128 * l) = .red d o → s.image.bound (0xF0 + d) (o / 0x80_0000) 9 = true) →
      exec (.programGroupResume g) s = .next (s.modGrot g fun x => { x with groupSt := { x.groupSt with resumed := true } })) ∧
    (x.updating = true → u.groups ≤ x.groupSt.group → s.asks (fun w => w == .update g) = false →
      ∃ r, exec (.updateComplete g) s = .next r ∧ r.grot g = { x.next with groupSt := {} } ∧ r.mem = s.mem ∧
        r.str.msgs = s.str.msgs ++ (if u.signal = 0xFFFF then [] else [{ kind := 0, obj := u.signal, unit := 64 + g.val, value := 1, sent := s.time.span }])) ∧
    (x.state = 1 → x.begun = false → x.skipping = false → x.op = 0x33 → x.rootQueue.length < 16 →
      s.image.unitTroupe (68 + g.val) = s.image.unitTroupe (64 + g.val) → s.image.unitTroupe (68 + g.val) ≠ none →
      let j := rootJob x.cur
      j.ok = true → j.inside (x.shard j.src) (x.shard j.root) = true →
      exec (.updRoot g) s = .next (s.modGrot g fun x => { x with rootQueue := x.rootQueue ++ [j] }.next)) ∧
    ∀ j js, x.rootQueue = j :: js → rootNoSlot s g j = none → s.asks (fun w => w == .root g) = false →
      let n := 4 * j.b * j.b
      let src := (x.shard j.src).region (j.srcGen == 1) + j.srcOff + n * j.next
      let out := rootBlock (matOf j.b fun r c => BitVec.ofNat 32 (leNat (s.bytes (src + 4 * (r * j.b + c)) 4))) j.b j.p j.iters j.eps
      let dst := (s.shard g j.root).region true + j.dstOff + n * j.next
      let res := (s.shard g j.root).region true + j.resOff + 4 * j.next
      (x.rootAsked = false → ∃ r, exec (.rootBlockComplete g) s = .next r ∧ r.mem = s.mem ∧
        r.grot g = { x with rootAsked := true, rootSince := s.time.span }) ∧
      (x.rootAsked = true → ∃ r, exec (.rootBlockComplete g) s = .next r ∧ (r.grot g).rootAsked = false ∧ (r.grot g).rootResidual = out.2 ∧ (r.shard g j.root).dirty = true ∧
        (r.shard g j.root).digestA = (s.shard g j.root).digestA ∧ (r.shard g j.root).gen = (s.shard g j.root).gen ∧
        r.bytes res 4 = leBytes 4 out.2.toNat ∧
        (res + 4 ≤ dst ∨ dst + n ≤ res → r.bytes dst n = out.1.flatMap fun row => row.flatMap fun w => leBytes 4 w.toNat) ∧
        (∀ a, (a < dst ∨ dst + n ≤ a) → (a < res ∨ res + 4 ≤ a) → memRead r.mem a = memRead s.mem a) ∧
        (j.next + 1 = j.blocks → (r.grot g).rootQueue = js) ∧
        (j.next + 1 ≠ j.blocks → (r.grot g).rootQueue = { j with next := j.next + 1 } :: js))

/-- When the next instruction of a running UPDATE is of an op and its group's lines are there, it issues: in every
element of the group the destination register becomes the op's function of the three operands read before it,
and every other register keeps its value. If it is not the program's last instruction, memory is unchanged and
the next one is due; if it is the last, no byte changes outside the group's output lines of the shard's inactive
generation. The fifteen ops compute the sum, difference, product, the three fused forms, quotient, square root,
maximum, minimum, absolute value, negation, selection, comparison and move. (R168, R194, R332, R333, R335,
R337.) -/
def Obligations.ProgramInstructionsComputeLaneByLane : Prop :=
  (∀ (g : GrottoId) (s : State),
    let x := s.grot g
    let u := x.update.1
    let sh := x.update.2.1
    let p := x.update.2.2
    let ins := progInstr p x.groupSt.instr
    let lo := 256 * x.groupSt.group
    let n := min 256 (u.elements - lo)
    let issues := fun (c : Instr) (f : W32 → W32 → W32 → W32) => ∃ r, exec c s = .next r ∧
      (x.groupSt.instr + 1 < fieldAt p 0 1 → r = { s with grots := r.grots } ∧ (r.grot g).groupSt.instr = x.groupSt.instr + 1 ∧
        ∀ l, l < n →
          let v := prgOperand s.mem x sh u p ins.k l (lo + l)
          tget 0 (r.grot g).groupSt.lanes (64 * l + ins.d) = f (v ins.a) (v ins.b) (v ins.c) ∧
          ∀ q, q < 30 → q ≠ ins.d → tget 0 (r.grot g).groupSt.lanes (64 * l + q) = tget 0 x.groupSt.lanes (64 * l + q)) ∧
      (∀ a, (∀ j, j < 6 → usedOut p j = true →
          let d := outDesc p j
          let at_ := sh.region true + d.offset + lo * elemBytes d.format
          a < at_ ∨ at_ + roundUp (n * elemBytes d.format) 128 ≤ a) → memRead r.mem a = memRead s.mem a)
    s.live = true → ins.d < 30 →
    (x.at_ 1 = true → issues (.prgAdd g) fun a b _ => (fAdd a b).val) ∧
    (x.at_ 2 = true → issues (.prgSub g) fun a b _ => (fSub a b).val) ∧
    (x.at_ 3 = true → issues (.prgMul g) fun a b _ => (fMul a b).val) ∧
    (x.at_ 4 = true → issues (.prgFma g) fun a b c => (fFma a b c).val) ∧
    (x.at_ 5 = true → issues (.prgFms g) fun a b c => (fFms a b c).val) ∧
    (x.at_ 6 = true → issues (.prgFnma g) fun a b c => (fFnma a b c).val) ∧
    (x.at_ 7 = true → issues (.prgDiv g) fun a b _ => (divNum (num32 a).1 (num32 b).1).val) ∧
    (x.at_ 8 = true → issues (.prgSqrt g) fun a _ _ => (sqrtNum (num32 a).1).val) ∧
    (x.at_ 9 = true → issues (.prgMax g) fun a b _ => fMax a b) ∧
    (x.at_ 10 = true → issues (.prgMin g) fun a b _ => fMin a b) ∧
    (x.at_ 11 = true → issues (.prgAbs g) fun a _ _ => if isNan32 a then nan32 else canon32 a &&& 0x7FFF_FFFF#32) ∧
    (x.at_ 12 = true → issues (.prgNeg g) fun a _ _ => if isNan32 a then nan32 else canon32 a ^^^ 0x8000_0000#32) ∧
    (x.at_ 13 = true → issues (.prgSel g) fun a b c =>
      if !isNan32 c && numLt (.fin false 0 0) (num32 c).1 then canon32 a else canon32 b) ∧
    (x.at_ 14 = true → issues (.prgCgt g) fun a b _ =>
      one32 (!(isNan32 a || isNan32 b) && numLt (num32 b).1 (num32 a).1)) ∧
    (x.at_ 15 = true → issues (.prgMov g) fun a _ _ => if isNan32 a then nan32 else canon32 a))

/-- UPD_COMMIT, with the root unit idle, casts go exactly if the norm outcome was go and nothing was refused, and
waits. COMMIT_OUTCOME go: every dirty shard takes the next generation and its inactive digest, and memory is
unchanged; no-go: every shard keeps its generation and active digest, no shard is dirty and every inactive
digest is cleared. STEP_RESOLVE_FLIP and STEP_RESOLVE_DISCARD act only in state unknown and do the same to the
shards of the troupe's processors whose outcome is unknown, counted as a commit and as a decline, with reason 8
where nothing local speaks against the step, unless the outcome has already been counted. SNAPSHOT_PIN captures
the commit count in force, and SNAPSHOT_RELEASE ends the pin. (R307, R310, R311, R314, R316, R318, R346, R358.) -/
def Obligations.CommitFlipsOnGoAndOnlyOnGo : Prop :=
  (∀ (g : GrottoId) (s : State),
    let x := s.grot g
    let u := 64 + g.val
    let vote := fieldAt x.cur 1 1
    let go := x.normGo && !x.refuse
    s.live = true →
    (x.state = 1 → x.begun = false → x.op = 0x34 → rootIdle s g = true → objectFault s u 3 vote = none →
      objectFault s u 1 (fieldAt x.cur 2 2) = none →
      ∃ r, exec (.updCommit g) s = .next r ∧ r.grot g = { x with begun := true, castGo := go, state := 2 } ∧ r.mem = s.mem ∧
        r.str.msgs = s.str.msgs ++ [⟨3, vote, u, 0, if go = true then 1 else 0, x.entry, 0, s.time.span⟩] ∧
        (∃ w, r.wait u = some w ∧ w.kind = 4 ∧ w.chan = vote)) ∧
    (∀ out, x.state = 2 → x.op = 0x34 → voteResult s u = some out →
      ∃ r, exec (.commitOutcome g) s = .next r ∧ r.wait u = none ∧ (r.grot g).entry = x.entry + 1 ∧
        (r.grot g).castGo = false ∧
        r.str.msgs = s.str.msgs ++ [{ kind := 1, obj := fieldAt x.cur 2 2, unit := u, addr := x.entry, sent := s.time.span }] ∧
        (out = true → r.mem = s.mem ∧ ∀ i, (r.shard g i).dirty = false ∧
          ((s.shard g i).dirty = true → (r.shard g i).gen = ((s.shard g i).gen + 1) % 2 ^ 32 ∧
            (r.shard g i).digestA = (s.shard g i).digestI) ∧
          ((s.shard g i).dirty = false → r.shard g i = s.shard g i)) ∧
        (out = false → ∀ i, (r.shard g i).dirty = false ∧ (r.shard g i).gen = (s.shard g i).gen ∧
          (r.shard g i).digestA = (s.shard g i).digestA ∧
          (r.shard g i).digestI = 0))) ∧
  ∀ (tr : TroupeId) (s : State),
    let unknown := fun (g : Nat) => g ∈ unknownGrottos s tr
    s.live = true →
    ((s.troupe tr).stepState = 6 →
      (∃ r, exec (.stepResolveFlip tr) s = .next r ∧ r.mem = s.mem ∧ (r.troupe tr).stepState = 4 ∧
        ((s.troupe tr).stepDone = false →
          (r.troupe tr).commits = ((s.troupe tr).commits + 1) % 2 ^ 40 ∧ (r.troupe tr).declines = 0) ∧
        ((s.troupe tr).stepDone = true → (r.troupe tr).commits = (s.troupe tr).commits) ∧
        ∀ g, (unknown g → (r.grot g).unknown = false ∧ ∀ i, (s.shard g i).dirty = true →
          (r.shard g i).gen = ((s.shard g i).gen + 1) % 2 ^ 32 ∧ (r.shard g i).digestA = (s.shard g i).digestI) ∧
          (¬ unknown g → r.grot g = s.grot g)) ∧
      (∃ r, exec (.stepResolveDiscard tr) s = .next r ∧ (r.troupe tr).stepState = 5 ∧ (r.troupe tr).commits = (s.troupe tr).commits ∧
        ((s.troupe tr).stepDone = false → (r.troupe tr).declines = min ((s.troupe tr).declines + 1) 0xFFFF ∧
          (r.troupe tr).decline.reason = declineReason (s.troupe tr) 8) ∧
        ((s.troupe tr).stepDone = true → (r.troupe tr).declines = (s.troupe tr).declines) ∧
        ∀ g, (unknown g → (r.grot g).unknown = false ∧ ∀ i, (r.shard g i).dirty = false ∧ (r.shard g i).gen = (s.shard g i).gen ∧
          (r.shard g i).digestA = (s.shard g i).digestA) ∧ (¬ unknown g → r.grot g = s.grot g))) ∧
    ((s.troupe tr).stepState ≠ 6 → exec (.stepResolveFlip tr) s = .next s ∧ exec (.stepResolveDiscard tr) s = .next s) ∧
    exec (.snapshotPin tr) s = .next (s.modTroupe tr fun x => { x with pinned := true, pinCommit := x.commits }) ∧
    exec (.snapshotRelease tr) s = .next (s.modTroupe tr fun x => { x with pinned := false })

/-- Six requests, taken from the messages in flight. On a busy line the request waits behind it and nothing else
changes. On a free line with nothing queued: with no entry, and with sharers where the request only reads, it
asks for a slot of its class on the line's channel; an Upgrade of the only sharer is answered at once; any other
request with other sharers invalidates those; an owner is snooped, or the snoop waits where 64 of the home's
snoops of that cache are unanswered. In its slot a read is answered with the line's bytes (DataE, DataS, DataM
or DataI), a WrFull or WrPart writes exactly the line's bytes, or those that its mask names, and is answered
with Cmp, and the directory takes the state that the transaction leaves; a write-back that is written is
acknowledged. A request queued behind a line, or for a way of a full set, leaves its queue and starts when the
line is free and it has its way. (R27, R382, R384, R385, R386, R392, R393, R396.) -/
def Obligations.HomesServeRequestsByDirectoryState : Prop :=
  (∀ (line txn h : Nat) (a : AgentId) (s : State) (c : Instr) (op from_ : Nat) (m : CohMsg),
    let x := s.home h
    let rest := s.coh.msgs.erase m
    let snoop := fun (op : Nat) (t : Nat) => ({ op := op, line := line, txn := txn, req := from_, dst := t, src := 16 + h } : CohMsg)
    let asks := fun (r : State) => (∃ t, (r.home h).txns.find? (fun p => p.1 == line) = some (line, t) ∧ t.memWait = true) ∧
      ∀ d o, memOf (128 * line) = some (d, o) → (r.memCtl d).reqs = (s.memCtl d).reqs ++
        [{ owner := 0x2000_0000 + m.cls, die := 1 + h, line := line, write := op == 5 || op == 6, who := .home,
           mask := if op = 6 then m.mask else [], since := s.time.span }]
    s.live = true → homeOf line = some h →
    (c, op, from_) ∈ [(Instr.rdShared a line txn, 1, a.val), (Instr.rdUnique a line txn, 2, a.val),
      (Instr.upgrade a line txn, 3, a.val), (Instr.rdOnce line txn, 4, 12), (Instr.wrFull line txn, 5, 12),
      (Instr.wrPart line txn, 6, 12)] →
    cohFind s (fun m => msgFrom op line from_ m && m.txn == txn) = some m →
    (x.busy line = true → ∃ r, exec c s = .next r ∧ r.mem = s.mem ∧ r.coh.msgs = rest ∧ r.coh.caches = s.coh.caches ∧
      r.home h = { x with lineQ := x.lineQ ++ [(line, ⟨op, from_, txn, m.data, m.mask, m.cls⟩)] }) ∧
    (x.busy line = false → (∀ p ∈ x.lineQ, p.1 ≠ line) → x.setQ = [] →
      (x.entry line = none → (x.ways h line).length < 16 →
        ∃ r, exec c s = .next r ∧ r.coh.caches = s.coh.caches ∧ r.tiles = s.tiles ∧ r.mem = s.mem ∧ r.coh.msgs = rest ∧ asks r ∧
          (r.home h).entry line = (if op ≤ 3 then some (.EM from_) else none)) ∧
      (∀ v, x.entry line = some (.S v) → (∀ b, x.snpsOut b < 64) →
        let others := (sharerList v).filter fun t => t != from_
        (op = 1 ∨ op = 4 → ∃ r, exec c s = .next r ∧ r.mem = s.mem ∧ r.coh.caches = s.coh.caches ∧ r.coh.msgs = rest ∧ asks r ∧
          (r.home h).entry line = some (.S v)) ∧
        (op = 3 → bitOf v from_ = true → others = [] → ∃ r, exec c s = .next r ∧ r.mem = s.mem ∧
          r.coh.msgs = rest ++ [⟨0x29, line, txn, from_, from_, 16 + h, [], [], false, m.cls⟩] ∧
          (r.home h).entry line = some (.EM from_)) ∧
        (op ≠ 1 → op ≠ 4 → others ≠ [] → ∃ r, exec c s = .next r ∧ r.mem = s.mem ∧ r.coh.caches = s.coh.caches ∧
          r.coh.msgs = rest ++ others.map (snoop 0x13) ∧ (r.home h).entry line = some (.S v) ∧ (r.home h).busy line = true)) ∧
      (∀ o, x.entry line = some (.EM o) →
        let asked := snoop (if op = 1 then 0x11 else if op = 2 ∨ op = 3 then 0x12 else if op = 4 then 0x14 else 0x13) o
        ∃ r, exec c s = .next r ∧ r.mem = s.mem ∧ r.coh.caches = s.coh.caches ∧ (r.home h).busy line = true ∧
          (r.home h).entry line = some (.EM o) ∧
          (x.snpsOut o < 64 → r.coh.msgs = rest ++ [asked] ∧ (r.home h).snpQ = x.snpQ) ∧
          (64 ≤ x.snpsOut o → r.coh.msgs = rest ∧ (r.home h).snpQ = x.snpQ ++ [asked])))) ∧
  (∀ (m : MemoryId) (ch slot : Nat) (e : Ecc) (s : State) (q : MemReq) (h : Nat),
    let g := s.time.ttFrames * memSlots m + slot
    let w := ownerWord s m ch slot
    let a := 128 * q.line
    s.live = true → ch < 2 ^ chanBits m → slot < memSlots m → tget 0 (s.memCtl m).nextSlot ch ≤ g →
    s.beginsNow (memSlotAt m g) = true → carriesRequests w = true → slotTaker s m ch w (memSlotAt m g) = some q →
    homeOf q.line = some h → q.poison = false →
    (∀ k t, q.who = .home → q.data = [] → (s.home h).txns.find? (fun p => p.1 == q.line && p.2.memWait) = some (k, t) → t.acked = false →
      let reply := fun (op : Nat) (data : List Byte) => (⟨op, q.line, t.req.txn, t.req.req, t.req.req, 16 + h, data, [], false, t.req.cls⟩ : CohMsg)
      (∀ o, q.write = false → t.req.op ≠ 5 → t.req.op ≠ 6 → t.give = some o → o ≠ 0x29 → effEcc s a e = .clean ∨ effEcc s a e = .corrected →
        ∃ r, exec (.memorySlot m ch slot e) s = .next r ∧ r.mem = s.mem ∧ r.coh.msgs = s.coh.msgs ++ [reply o (s.bytes a 128)] ∧
          (r.home h).entry q.line = t.final) ∧
      (q.write = true → t.req.op = 5 → q.mask = [] → t.give = some 0x29 → t.req.data.length = 128 →
        ∃ r, exec (.memorySlot m ch slot e) s = .next r ∧ MemoryKept a 128 s r ∧ r.bytes a 128 = t.req.data ∧
          r.coh.msgs = s.coh.msgs ++ [reply 0x29 []] ∧ (r.home h).entry q.line = t.final) ∧
      (q.write = true → t.req.op = 6 → q.mask ≠ [] → q.readDone = true → t.give = some 0x29 → t.req.data.length = 128 →
        t.req.mask.length = 128 →
        ∃ r, exec (.memorySlot m ch slot e) s = .next r ∧ MemoryKept a 128 s r ∧ r.coh.msgs = s.coh.msgs ++ [reply 0x29 []] ∧
          ∀ i, i < 128 → memRead r.mem (a + i) =
            if t.req.mask.getD i false = true then t.req.data.getD i 0 else memRead s.mem (a + i))) ∧
    (∀ b n, q.who = .writeBack b n → q.write = true → q.mask = [] → q.data.length = 128 →
      ∃ r, exec (.memorySlot m ch slot e) s = .next r ∧ MemoryKept a 128 s r ∧ r.bytes a 128 = q.data ∧
        r.coh.msgs = s.coh.msgs ++ [{ op := 0x2B, line := q.line, req := b, dst := b, src := 16 + h }])) ∧
  (∀ (line h : Nat) (s : State) (p : Nat × HomeReq),
    let x := s.home h
    s.live = true → homeOf line = some h → x.busy line = false → (∀ q ∈ x.setQ, q.1 ≠ line) →
    x.lineQ.find? (fun p => p.1 == line) = some p →
    ((x.entry line).isSome = true → ∃ r, exec (.queuedRequestStart line) s = .next r ∧ (r.home h).lineQ = x.lineQ.erase p ∧
      (r.home h).busy line = true ∧ (r.home h).requests = min (x.requests + 1) 0xFFFF_FFFF) ∧
    (x.canStart h line p.2.op = false → ∃ r, exec (.queuedRequestStart line) s = .next r ∧ r.mem = s.mem ∧
      r.home h = { x with lineQ := x.lineQ.erase p, setQ := x.setQ ++ [p] })) ∧
  ∀ (home : AgentId) (set : Nat) (s : State) (p : Nat × HomeReq),
    let h := home.val - 16
    let x := s.home h
    s.live = true → 16 ≤ home.val → x.setQ.find? (fun p => setOf h p.1 == set) = some p → x.busy p.1 = false →
    ((x.entry p.1).isSome = true ∨ (x.ways h p.1).length < 16) →
    ∃ r, exec (.setQueueRequestStart home set) s = .next r ∧ (r.home h).setQ = x.setQ.erase p ∧ (r.home h).busy p.1 = true ∧
      (r.home h).requests = min (x.requests + 1) 0xFFFF_FFFF

/-- A snoop answered in I, S, E, M or WBP sends exactly the stated response, forwards the line's data where it holds
the only copy, sends DataHome where dirty data must go home, and leaves the stated state; no other line changes.
DataE, DataS and DataM fill a line in IS or IM, with a waiting store made, and are acknowledged; Cmp does so for
a line in SM, and ends agent 12's write; data that comes serves a free engine's read that waited for it; DataI
ends agent 12's read; WbAck ends an eviction. An E or M line is evicted by a WbClean or a WbDirty with its data.
A hart's load is served from its line, a miss sends a request if the cache has a credit of the home and room, a
store to an E or M line makes it M, and an access outside the map raises an access fault. (R25, R236, R380,
R384, R385, R387, R390, R391, R455.) -/
def Obligations.CachesAnswerByTheirState : Prop :=
  (∀ (a : AgentId) (line : Nat) (s : State) (m : CohMsg),
    let c := s.cline a line
    let kept := fun (r : State) => r.mem = s.mem ∧ r.coh.homes = s.coh.homes ∧ (∀ b l, (b ≠ a.val ∨ l ≠ line) → r.cline b l = s.cline b l)
    let msg := fun (op dst : Nat) (data : List Byte) (poison : Bool) =>
      ({ op := op, line := line, txn := m.txn, req := m.req, dst := dst, src := a.val, data := data, poison := poison } : CohMsg)
    let ans := fun (i : Instr) (op rsp : Nat) (fwd : Option Nat) (home : Bool) (next : CLine) =>
      cohFind s (msgTo op line a) = some m →
      ∃ r, exec i s = .next r ∧ kept r ∧ r.cline a line = next ∧
        r.coh.msgs = s.coh.msgs.erase m ++ [msg rsp m.src [] false] ++
          (match fwd with | some d => [msg d m.req c.data c.poison] | none => []) ++
          (if home = true then [msg 0x34 m.src c.data c.poison] else [])
    let quiet := ∀ q ∈ s.coh.edge, q.done = true ∨ 8 + q.die ≠ a.val
    s.live = true →
    (∀ i op, (i, op) ∈ [(Instr.snpShared a line, 0x11), (Instr.snpUnique a line, 0x12), (Instr.snpInv a line, 0x13),
        (Instr.snpCur a line, 0x14)] →
      (c.st = .I ∨ c.st = .S → ans i op 0x21 none false {}) ∧
      (c.st = .SM → ans i op 0x21 none false { c with st := .IM, data := [], poison := false })) ∧
    (c.st = .E →
      ans (.snpShared a line) 0x11 0x22 (some 0x32) false { c with st := .S } ∧
      ans (.snpUnique a line) 0x12 0x24 (some 0x33) false {} ∧
      ans (.snpInv a line) 0x13 0x21 none false {} ∧ ans (.snpCur a line) 0x14 0x28 (some 0x35) false c) ∧
    (c.st = .M →
      ans (.snpShared a line) 0x11 0x23 (some 0x32) true { c with st := .S } ∧
      ans (.snpUnique a line) 0x12 0x24 (some 0x33) false {} ∧
      ans (.snpInv a line) 0x13 0x25 none true {} ∧ ans (.snpCur a line) 0x14 0x28 (some 0x35) false c) ∧
    (c.st = .WBP →
      ans (.snpShared a line) 0x11 0x26 (some 0x32) false c ∧ ans (.snpUnique a line) 0x12 0x26 (some 0x33) false c ∧
      ans (.snpInv a line) 0x13 0x27 none false c ∧ ans (.snpCur a line) 0x14 0x26 (some 0x35) false c) ∧
    (∀ i op wait st, (i, op, wait, st) ∈ [(Instr.dataE a line, 0x31, CState.IS, CState.E), (Instr.dataS a line, 0x32, CState.IS, CState.S),
        (Instr.dataM a line, 0x33, CState.IM, CState.M)] → c.st = wait → cohFind s (msgTo op line a) = some m →
      quiet → ∃ r, exec i s = .next r ∧ kept r ∧
        r.cline a line = (match c.store with
          | none => { st := st, data := m.data, poison := m.poison }
          | some (off, bs) => { st := .M, data := m.data.take off ++ bs ++ m.data.drop (off + bs.length),
                                poison := m.poison && decide (bs.length < 128) }) ∧
        r.coh.msgs = s.coh.msgs.erase m ++ [{ op := 0x2A, line := line, txn := m.txn, req := a.val, dst := ackHome line, src := a.val, cls := m.cls }]) ∧
    (∀ q, s.coh.edge = [q] → q.kind = .read → q.done = false → 8 + q.die = a.val → q.addr = 128 * line → q.data = [] →
      c.st = .IS → c.store = none → cohFind s (msgTo 0x31 line a) = some m →
      ∃ r, exec (.dataE a line) s = .next r ∧ r.coh.edge = [{ q with done := true, data := m.data, poison := m.poison }]) ∧
    (a.val ≠ 12 → c.st = .SM → c.store = none → cohFind s (msgTo 0x29 line a) = some m → quiet →
      ∃ r, exec (.cmp a line) s = .next r ∧ kept r ∧ r.cline a line = { st := .M, data := c.data, poison := c.poison } ∧
        r.coh.msgs = s.coh.msgs.erase m ++ [{ op := 0x2A, line := line, txn := m.txn, req := a.val, dst := m.src, src := a.val, cls := m.cls }]) ∧
    (a.val = 12 → cohFind s (msgTo 0x29 line a) = some m →
      ∃ r, exec (.cmp a line) s = .next r ∧ r.mem = s.mem ∧ (∀ k, ioKey s line m.txn = some k → k ∉ r.coh.ioOut) ∧ r.coh.caches = s.coh.caches ∧
        r.coh.msgs = s.coh.msgs.erase m ++ [{ op := 0x2A, line := line, txn := m.txn, req := 12, dst := m.src, src := 12, cls := m.cls }] ∧
        (∀ i, (r.region i).inflight.length = (s.region i).inflight.length) ∧ ∀ w ∈ r.sec.quoteTxns, ioKey s line m.txn ≠ some w) ∧
    (a.val = 12 → cohFind s (msgTo 0x35 line a) = some m →
      ∃ r, exec (.dataI a line) s = .next r ∧ kept r ∧ ∀ k, ioKey s line m.txn = some k → k ∉ r.coh.ioOut) ∧
    (c.st = .WBP → cohFind s (msgTo 0x2B line a) = some m → quiet →
      ∃ r, exec (.wbAck a line) s = .next r ∧ kept r ∧ r.cline a line = {} ∧ r.coh.msgs = s.coh.msgs.erase m) ∧
    (hasWbCredit s a line = true →
      (c.st = .M → ∃ r, exec (.cacheEviction a line) s = .next r ∧ kept r ∧ r.cline a line = { c with st := .WBP, dirty := true } ∧
        r.coh.msgs = s.coh.msgs ++ [{ op := 0x41, line := line, req := a.val, dst := ackHome line, src := a.val, data := c.data, poison := c.poison }]) ∧
      (c.st = .E → ∃ r, exec (.cacheEviction a line) s = .next r ∧ kept r ∧ r.cline a line = { c with st := .WBP, dirty := false } ∧
        r.coh.msgs = s.coh.msgs ++ [{ op := 0x42, line := line, req := a.val, dst := ackHome line, src := a.val }]))) ∧
  ∀ (h : HartId) (addr : Nat) (data : List Byte) (s : State) (home : Nat),
    let line := addr / 128
    let a := sliceOf line
    let c := s.cline a line
    let off := addr % 128
    s.live = true → (if h.val < 64 then bitOf s.host.run0.toNat h else bitOf s.host.run1.toNat (h.val - 64)) = true →
    (inTier addr 1 = true → s.boot.bootRam = false → homeOf line = some home → s.dieUp (1 + home) = true → off + data.length ≤ 128 →
      (c.st = .S ∨ c.st = .E ∨ c.st = .M → c.poison = false →
        exec (.hartMemoryAccess h .load addr data) s = .next ((s.modHart h fun x => x.useBytes false addr data.length).reply
          ⟨BitVec.ofNat 64 (fieldAt c.data off (min data.length 8)), (c.data.drop off).take data.length, false, false⟩)) ∧
      (c.st = .E ∨ c.st = .M → exec (.hartMemoryAccess h .store addr data) s = .next (breakReservations h (2 * line + off / 64)
        ((s.modHart h fun x => x.useBytes false addr data.length).setCline a line
          { c with st := .M, data := c.data.take off ++ data ++ c.data.drop (off + data.length),
                   poison := c.poison && decide (data.length < 128) }))) ∧
      (c.st = .I → hasReqCredit s a home = false → exec (.hartMemoryAccess h .load addr data) s = .next s ∧
        exec (.hartMemoryAccess h .store addr data) s = .next s) ∧
      (c.st = .I → hasReqCredit s a home = true → (tget [] s.coh.caches a).length < cacheLines a →
        (∃ r, exec (.hartMemoryAccess h .load addr data) s = .next r ∧
          (r.cline a line).st = .IS ∧ r.mem = s.mem ∧ ∃ n, r.coh.msgs = s.coh.msgs ++
            [{ op := 1, line := line, txn := n, req := a, dst := 16 + home, src := a }]) ∧
        ∃ r, exec (.hartMemoryAccess h .store addr data) s = .next r ∧
          (r.cline a line).st = .IM ∧ (r.cline a line).store = some (off, data) ∧ r.mem = s.mem ∧ ∃ n, r.coh.msgs = s.coh.msgs ++
            [{ op := 2, line := line, txn := n, req := a, dst := 16 + home, src := a }])) ∧
    (placeOf addr = .unmapped → exec (.hartMemoryAccess h .load addr data) s = .next (s.reply { accessFault := true }) ∧
      exec (.hartMemoryAccess h .store addr data) s = .next (s.reply { accessFault := true }) ∧
      exec (.hartMemoryAccess h .prefetch addr data) s = .next s)

/-- A response that is not the last only leaves the set of agents awaited, and lets a snoop of its cache that waited
go out, and a crossing eviction announces its write-back. The last one lets the home act: it asks for a slot
where no owner has forwarded the data, and where one has it leaves the directory state of the transaction. Ack
ends a transaction whose part is done. DataHome asks for a slot for its line. A WB of the recorded owner on a
free line frees the entry, and is acknowledged if clean, or asks for a slot with its data if dirty; from any
other agent it is fatal; behind a busy transaction it is held. A line busy for 2 ms is fatal. A purge begins on
a good start and is refused else, snoops every copy of its one line, and completes when the walk's time has
passed and nothing is left. (R381, R386, R387, R388, R389, R394, R396, R399, R400.) -/
def Obligations.HomesEndTransactionsAndPurges : Prop :=
  (∀ (a : AgentId) (line h : Nat) (s : State) (m : CohMsg) (k : Nat) (t : Txn),
    let x := s.home h
    let rest := s.coh.msgs.erase m ++ (x.snpQ.find? fun q => q.dst == a.val).toList
    let rows := [(Instr.rspI a line, 0x21), (Instr.rspFwdS a line, 0x22), (Instr.rspFwdSWb a line, 0x23), (Instr.rspFwdI a line, 0x24),
      (Instr.rspIWb a line, 0x25), (Instr.rspFwdEvict a line, 0x26), (Instr.rspIEvict a line, 0x27), (Instr.rspCur a line, 0x28)]
    s.live = true → homeOf line = some h → x.txns.find? (fun p => p.1 == line) = some (k, t) → t.effectDue = true → t.waitWay = false →
    (∀ i op, (i, op) ∈ rows → cohFind s (msgFrom op line a) = some m → (∃ b ∈ t.awaiting, b ≠ a.val) →
      ∃ r, exec i s = .next r ∧ r.mem = s.mem ∧ r.coh.msgs = rest ∧ r.coh.caches = s.coh.caches ∧ (r.home h).dir = x.dir ∧
        ∃ t', (r.home h).txns.find? (fun p => p.1 == line) = some (line, t') ∧ t'.awaiting = t.awaiting.filter (fun b => b != a.val) ∧
          (op ≠ 0x26 → op ≠ 0x27 → t'.announced = t.announced) ∧
          (op = 0x26 ∨ op = 0x27 → (∀ w ∈ x.heldWbs, w.1 ≠ line) → t'.announced = t.announced ++ [a.val])) ∧
    (t.awaiting = [a.val] → t.dataDue = [] → t.acked = false → t.backInv = false → t.memWait = false → t.req.op ≤ 3 →
      (∀ i op, (i, op) ∈ rows → cohFind s (msgFrom op line a) = some m → op = 0x21 ∨ op = 0x27 → ∀ g, t.give = some g → g ≠ 0x29 →
        ∃ r, exec i s = .next r ∧ r.mem = s.mem ∧ r.coh.msgs = rest ∧ (r.home h).dir = x.dir ∧
          (∃ t', (r.home h).txns.find? (fun p => p.1 == line) = some (line, t') ∧ t'.memWait = true ∧ t'.awaiting = []) ∧
          ∀ d o, memOf (128 * line) = some (d, o) → (r.memCtl d).reqs = (s.memCtl d).reqs ++
            [{ owner := 0x2000_0000 + t.req.cls, die := 1 + h, line := line, write := false, who := .home, since := s.time.span }]) ∧
      (cohFind s (msgFrom 0x24 line a) = some m → ∃ r, exec (.rspFwdI a line) s = .next r ∧ r.mem = s.mem ∧ r.coh.msgs = rest ∧
        (r.home h).entry line = t.final) ∧
      (cohFind s (msgFrom 0x22 line a) = some m → ∃ r, exec (.rspFwdS a line) s = .next r ∧ r.mem = s.mem ∧ r.coh.msgs = rest ∧
        (r.home h).entry line = some (.S (addSharer (2 ^ a.val) t.req.req))) ∧
      (cohFind s (msgFrom 0x26 line a) = some m → ∃ r, exec (.rspFwdEvict a line) s = .next r ∧ r.mem = s.mem ∧ r.coh.msgs = rest ∧
        (r.home h).entry line = if t.req.op = 1 then some (.S (2 ^ t.req.req)) else t.final) ∧
      (cohFind s (msgFrom 0x23 line a) = some m → t.dataGot = [] → ∃ r, exec (.rspFwdSWb a line) s = .next r ∧ r.mem = s.mem ∧ r.coh.msgs = rest ∧
        (r.home h).dir = x.dir)) ∧
    (cohFind s (msgFrom 0x34 line a) = some m → (∃ b, b ∈ t.awaiting) →
      ∃ r, exec (.dataHome a line) s = .next r ∧ r.coh.msgs = s.coh.msgs.erase m ∧ r.mem = s.mem ∧ (r.home h).dir = x.dir ∧
        ∀ d o, memOf (128 * line) = some (d, o) → (r.memCtl d).reqs = (s.memCtl d).reqs ++
          [{ owner := 0x2000_0000, die := 1 + h, line := line, write := true, who := .dataHome, data := m.data,
             poison := m.poison, since := s.time.span }])) ∧
  (∀ (a : AgentId) (line h : Nat) (s : State) (m : CohMsg),
    let x := s.home h
    let rest := s.coh.msgs.erase m
    s.live = true → homeOf line = some h →
    (∀ k t, cohFind s (msgFrom 0x2A line a) = some m → x.txns = [(k, t)] → k = line → t.effectDue = false → t.waitWay = false →
      t.awaiting = [] → t.dataDue = [] → t.announced = [] → t.forLine = none → x.heldWbs = [] → x.purgeLeft = [] → s.coh.ioWait = [] →
      exec (.ack a line) s = .next ({ s with coh := { s.coh with msgs := rest } }.modHome h fun x => { x with txns := [] })) ∧
    (∀ i op, (i, op) ∈ [(Instr.wbDirty a line, 0x41), (Instr.wbClean a line, 0x42)] → cohFind s (msgFrom op line a) = some m →
      (x.busy line = false → x.entry line = some (.EM a.val) → ∃ r, exec i s = .next r ∧ (r.home h).entry line = none ∧
        r.mem = s.mem ∧
        (op = 0x42 → r.coh.msgs = rest ++ [{ op := 0x2B, line := line, req := a.val, dst := a.val, src := 16 + h }]) ∧
        (op = 0x41 → r.coh.msgs = rest ∧ ∀ d o, memOf (128 * line) = some (d, o) → (r.memCtl d).reqs = (s.memCtl d).reqs ++
          [{ owner := 0x2000_0000, die := 1 + h, line := line, write := true, who := .writeBack a.val 0, data := m.data,
             poison := m.poison, since := s.time.span }])) ∧
      (x.busy line = false → x.entry line ≠ some (.EM a.val) → ∃ r, exec i s = .next r ∧ r.mem = s.mem ∧ r.coh.msgs = rest ∧
        r.boot.resetDue.isSome = true ∧ ∃ f ∈ r.err.fatalFormed, f.cls = 6 ∧ f.code = 1 ∧ f.addr = 128 * line ∧ f.info0 = a.val) ∧
      (∀ k t, x.txns.find? (fun p => p.1 == line) = some (k, t) → t.awaiting ≠ [] → ∃ r, exec i s = .next r ∧ r.mem = s.mem ∧
        r.coh.msgs = rest ∧ (r.home h).dir = x.dir ∧
        (r.home h).heldWbs = x.heldWbs ++ [(line, ⟨a.val, op == 0x41, m.data, m.poison, t.announced.contains a.val⟩)])) ∧
    (∀ k t, x.txns.find? (fun p => p.1 == line) = some (k, t) → t.since + 8_000_000 ≤ s.time.span →
      ∃ r, exec (.busyLimit line) s = .next r ∧ r.mem = s.mem ∧ r.boot.resetDue.isSome = true ∧
        ∃ f ∈ r.err.fatalFormed, f.cls = 6 ∧ f.code = 2 ∧ f.addr = 128 * line)) ∧
  ∀ (home : Fin 8) (v : Word) (s : State),
    let h := home.val
    let x := s.home h
    let lines := bitsOf v.toNat 0 32
    s.live = true →
    (bitOf v.toNat 62 = true → x.purgeBusy = true ∨ lines = 0 ∨ homeHolds h x.purgeBase lines = false →
      ∃ r, exec (.purgeStart home v) s = .next r ∧ (r.home h).purgeReject = true ∧ (r.home h).purgeBusy = x.purgeBusy ∧
        (r.home h).dir = x.dir ∧ r.coh.msgs = s.coh.msgs ∧ r.mem = s.mem) ∧
    (bitOf v.toNat 62 = true → x.purgeBusy = false → lines = 1 → homeHolds h x.purgeBase 1 = true → x.busy x.purgeBase = false →
      x.dir.map Prod.fst = [x.purgeBase] → ∀ o, x.entry x.purgeBase = some (.EM o) → x.snpsOut o < 64 →
      ∃ r, exec (.purgeStart home v) s = .next r ∧ (r.home h).purgeBusy = true ∧ (r.home h).purgeSince = s.time.span ∧ (r.home h).purgeLeft = [x.purgeBase] ∧ r.mem = s.mem ∧
        r.coh.msgs = s.coh.msgs ++ [{ op := 0x13, line := x.purgeBase, req := 16 + h, dst := o, src := 16 + h }] ∧
        (r.home h).busy x.purgeBase = true) ∧
    (x.purgeBusy = true → x.purgeLeft = [] → x.purgeSince + walkCycles h ≤ s.time.span → writesWait s x.purgeBase x.purgeLines = false → ∃ r, exec (.purgeComplete home) s = .next r ∧ r.home h = { x with purgeBusy := false } ∧
      r.mem = s.mem ∧ r.coh.msgs = s.coh.msgs ∧ r.str.msgs = s.str.msgs ++ (if x.purgeSig = true then
        [{ kind := 0, obj := x.purgeChan, unit := 0xFF, value := 1, sent := s.time.span }] else []))

/-- A window write joins its line's buffer or takes a free one and leaves memory alone; a die that is down answers
with an access fault. A drained buffer goes to its stack's controller, or to a scratchpad bank whose window is
open; for one that may not be reached it is discarded, which the discarded bit keeps. With nothing buffered and
every write durable, a window read of DRAM asks for a slot of class WIN and answers in it with the bytes of
memory, one of a scratchpad answers at once, and WIN_FLUSH with discarded. Enabling a queue clears its counters;
disabling it stops fetching and keeps what has started; a restart makes a stopped queue active. A doorbell ahead
within the queue moves it, one behind or equal counts as stale, and one too far stops the queue. A slot that
passes its check is fetched, one that fails is read again, 1 µs after the read that failed, up to eight times
and then stops the queue. A completed command's record leaves for its ring, and its interrupt is set pending
once it is durable. (R94, R404, R405, R406, R408, R409, R412, R418, R419, R420, R421, R422.) -/
def Obligations.WindowAndQueuesKeepTheirOrder : Prop :=
  (∀ (h : HartId) (addr : Nat) (data : List Byte) (d : Nat) (s : State),
    let w := s.hartWin h
    let line := addr / 128
    let off := addr % 128
    s.live = true → windowDie addr = some d → off + data.length ≤ 128 → windowCarried s d = true →
    (s.dieUp d = false → exec (.windowWrite h addr data) s = .next (s.reply { accessFault := true })) ∧
    (s.dieUp d = true → data.length < 128 →
      (∀ b x, w.bufs.find? (fun p => p.2.used && p.2.line == line) = some (b, x) → tget {} w.bufs b = x →
        (x.put off data).mask.all id = false →
        ∃ r, exec (.windowWrite h addr data) s = .next r ∧ tget {} (r.hartWin h).bufs b = x.put off data ∧
          r = { s with wins := r.wins }) ∧
      (w.bufs = [] → ∃ r, exec (.windowWrite h addr data) s = .next r ∧ r = { s with wins := r.wins } ∧
        (tget {} (r.hartWin h).bufs 0).used = true ∧ (tget {} (r.hartWin h).bufs 0).line = line ∧
        ((tget {} (r.hartWin h).bufs 0).data.drop off).take data.length = data ∧
        ∀ i, i < 128 → (tget {} (r.hartWin h).bufs 0).mask.getD i false = (decide (off ≤ i) && decide (i < off + data.length)))) ∧
    (usedBuffers w = [] → windowDurable s h (fun e => e == d) = true → s.dieUp d = true →
      (∀ m o, placeOf addr = .winFast m o → s.asks (fun u => u == .windowRead h addr data.length) = false →
        ∃ r, exec (.windowRead h addr data.length) s = .next r ∧ r.mem = s.mem ∧ r.out = s.out ∧
          let q : MemReq := { owner := 0x2000_0001, die := 0, line := behind addr / 128, write := false, who := .windowRead h addr data.length, since := s.time.span }
          (r.memCtl m).reqs = (s.memCtl m).reqs ++ [q]) ∧
      (∀ t b o, placeOf addr = .winPad t b o → windowBankFault s t b = none →
        exec (.windowRead h addr data.length) s = .next (s.reply ⟨BitVec.ofNat 64 (leNat ((s.bytes (behind addr) data.length).take 8)),
          s.bytes (behind addr) data.length, false, false⟩)) ∧
      (∀ t b o, placeOf addr = .winPad t b o → windowBankFault s t b ≠ none → ∃ r, exec (.windowRead h addr data.length) s = .next r ∧
        r.mem = s.mem ∧ r.out.data = List.replicate data.length 0 ∧
        (r.dieErr (1 + t / 12)).corrected = min ((s.dieErr (1 + t / 12)).corrected + 1) (2 ^ 32 - 1)))) ∧
  (∀ (m : MemoryId) (ch slot : Nat) (e : Ecc) (s : State) (q : MemReq) (h addr len : Nat),
    let g := s.time.ttFrames * memSlots m + slot
    let w := ownerWord s m ch slot
    s.live = true → ch < 2 ^ chanBits m → slot < memSlots m → tget 0 (s.memCtl m).nextSlot ch ≤ g →
    s.beginsNow (memSlotAt m g) = true → carriesRequests w = true → slotTaker s m ch w (memSlotAt m g) = some q →
    q.write = false → q.who = .windowRead h addr len → q.line = behind addr / 128 → effEcc s (128 * q.line) e ≠ .miscorrected →
    ∃ r, exec (.memorySlot m ch slot e) s = .next r ∧ r.mem = s.mem ∧ r.tiles = s.tiles ∧
      r.out.data = (if effEcc s (128 * q.line) e = .uncorrectable then List.replicate len 0xFF else s.bytes (behind addr) len)) ∧
  (∀ (h : HartId) (b : Fin 4) (s : State),
    let x := tget {} (s.hartWin h).bufs b
    s.live = true →
    (x.used = true → (∀ d, windowDie (128 * x.line) = some d → windowCarried s d = true) →
      (∀ m o, placeOf (128 * x.line) = .winFast m o → ∃ r, exec (.wcBufferDrain h b) s = .next r ∧ r.mem = s.mem ∧
        (tget {} (r.hartWin h).bufs b).used = false ∧ (r.memCtl m).reqs = (s.memCtl m).reqs ++
          [{ owner := 0x2000_0001, die := 0, line := behind (128 * x.line) / 128, write := true, who := .window h, data := x.data,
             mask := if x.mask.all id = true then [] else x.mask, since := s.time.span }]) ∧
      (∀ t k o, placeOf (128 * x.line) = .winPad t k o → s.image.bound t k 8 = true → tget none (s.tile t).windows k = some 8 →
        ∃ r, exec (.wcBufferDrain h b) s = .next r ∧ (tget {} (r.hartWin h).bufs b).used = false ∧
          r = { s with mem := memMasked s.mem (behind (128 * x.line)) x.data x.mask, wins := r.wins }) ∧
      (∀ t k o, placeOf (128 * x.line) = .winPad t k o → windowBankFault s t k ≠ none →
        ∃ r, exec (.wcBufferDrain h b) s = .next r ∧ (tget {} (r.hartWin h).bufs b).used = false ∧ r.mem = s.mem ∧
          (r.hartWin h).discarded = true ∧ (r.dieErr (1 + t / 12)).corrected = min ((s.dieErr (1 + t / 12)).corrected + 1) (2 ^ 32 - 1))) ∧
    (usedBuffers (s.hartWin h) = [] → windowDurable s h (fun _ => true) = true →
      ∃ r, exec (.winFlushRead h) s = .next r ∧ (r.hartWin h).discarded = false ∧ r.mem = s.mem ∧
        r.out.value = (if (s.hartWin h).discarded = true then 3 else 1))) ∧
  ∀ (q : QueueId) (v : Word) (s : State),
    let x := s.queue q
    let w := v.toNat
    let same := bitsOf w 48 4 = x.size ∧ bitOf w 61 = x.view ∧ bitsOf w 0 16 = x.troupes
    s.live = true →
    (bitOf w 63 = true → x.enable = false → ∃ r, exec (.queueEnable q v) s = .next r ∧ r = { s with queues := r.queues } ∧
      (∀ p, p ≠ q.val → r.queue p = s.queue p) ∧ (r.queue q).enable = true ∧ (r.queue q).state = 1 ∧ (r.queue q).head = 0 ∧
      (r.queue q).doorbell = 0 ∧ (r.queue q).cplWr = 0 ∧ (r.queue q).fetched = none ∧ (r.queue q).troupes = bitsOf w 0 16 ∧
      (r.queue q).started = x.started ∧ (r.queue q).records = x.records) ∧
    (bitOf w 63 = false → x.enable = true → same → ∃ r, exec (.queueDisable q v) s = .next r ∧ r.mem = s.mem ∧
      (∀ p, p ≠ q.val → r.queue p = s.queue p) ∧ (r.queue q).enable = false ∧ (r.queue q).state = 0 ∧ (r.queue q).fetched = none ∧
      (r.queue q).started = x.started ∧ (r.queue q).records = x.records) ∧
    (bitOf w 63 = true → bitOf w 62 = true → x.enable = true → x.state = 3 → same → x.base + 256 * x.slots ≤ 0x090_0000_0000 →
      ∃ r, exec (.queueRestart q v) s = .next r ∧ r.mem = s.mem ∧ (r.queue q).state = 1 ∧ (r.queue q).code = 0 ∧
        (r.queue q).head = x.head ∧ (r.queue q).started = x.started) ∧
    (x.enable = true → x.base + 256 * x.slots ≤ 0x090_0000_0000 →
      let d := w % 2 ^ 32
      let ahead := (d + 2 ^ 32 - x.doorbell) % 2 ^ 32
      let used := (x.doorbell + 2 ^ 32 - x.head) % 2 ^ 32
      ∃ r, exec (.doorbellWrite q v) s = .next r ∧ r.mem = s.mem ∧ (r.queue q).head = x.head ∧
        (0 < ahead → ahead ≤ x.slots - used → (r.queue q).doorbell = d ∧ (r.queue q).state = x.state) ∧
        (¬ (0 < ahead ∧ ahead ≤ x.slots - used) → (ahead = 0 ∨ 2 ^ 31 ≤ ahead) →
          r.queue q = { x with stale := min (x.stale + 1) 255 }) ∧
        (x.slots - used < ahead → ahead < 2 ^ 31 → (r.queue q).state = 3 ∧ (r.queue q).code = 2 ∧ (r.queue q).doorbell = x.doorbell)) ∧
    (x.enable = true → x.view = true → x.fetched = none → x.head ≠ x.doorbell → x.base + 256 * x.slots ≤ 0x090_0000_0000 →
      let a := x.slotAddr x.head
      s.badLine a = false → s.badLine (a + 128) = false → s.asks (fun w => w == .slot q) = false → x.rereadAt = none →
      (slotPasses x.head (s.bytes a 256) = true →
        (x.state = 1 → ∃ r, exec (.slotFetch q x.head) s = .next r ∧ r.mem = s.mem ∧ (r.queue q).state = 1 ∧
          (r.queue q).fetched = some (slotOf x.head (s.bytes a 256)) ∧ (r.queue q).head = (x.head + 1) % 2 ^ 32) ∧
        (x.state = 2 → ∃ r, exec (.slotReread q x.head) s = .next r ∧ r.mem = s.mem ∧ (r.queue q).state = 1 ∧
          (r.queue q).fetched = some (slotOf x.head (s.bytes a 256)) ∧ (r.queue q).rereads = min (x.rereads + 1) 255)) ∧
      (slotPasses x.head (s.bytes a 256) = false →
        (x.state = 1 → ∃ r, exec (.slotFetch q x.head) s = .next r ∧ (r.queue q).state = 2 ∧ (r.queue q).tries = 0 ∧
          (r.queue q).rereadAt = some (s.time.span + 4000) ∧ (r.queue q).fetched = none ∧ (r.queue q).head = x.head) ∧
        (x.state = 2 → x.tries < 7 → ∃ r, exec (.slotReread q x.head) s = .next r ∧ (r.queue q).state = 2 ∧
          (r.queue q).tries = x.tries + 1 ∧ (r.queue q).rereadAt = some (s.time.span + 4000) ∧ (r.queue q).head = x.head) ∧
        (x.state = 2 → x.tries = 7 → ∃ r, exec (.slotReread q x.head) s = .next r ∧ (r.queue q).state = 3 ∧ (r.queue q).code = 1 ∧
          (r.queue q).head = x.head))) ∧
    (x.state = 2 → (∀ t, x.rereadAt = some t → s.time.span < t → s.asks (fun w => w == .slot q) = false →
        exec (.slotReread q x.head) s = .next s) ∧
      ∀ t, x.rereadAt = some t → t ≤ s.time.span → x.enable = true → x.fetched = none → x.reading = [] → x.head ≠ x.doorbell →
        x.base + 256 * x.slots ≤ 0x090_0000_0000 →
        ∃ r, exec (.slotReread q x.head) s = .next r ∧ r.mem = s.mem ∧ (r.queue q).state = 2 ∧ (r.queue q).rereadAt = none ∧
          (r.queue q).tries = x.tries ∧ (r.queue q).head = x.head ∧
          (x.view = true → r.asks (fun w => w == .slot q) = true) ∧ (x.view = false → (r.queue q).reading.length = 2)) ∧
    (∀ c cs, x.records = c :: cs → x.ringFull = false → inTier (x.cplBase + 32 * (x.cplWr % x.ringSize)) 32 = true →
      ∃ r, exec (.completionRecordWrite q) s = .next r ∧ r.mem = s.mem ∧ (r.queue q).records = cs ∧
        (r.queue q).cplWr = (x.cplWr + 1) % 2 ^ 17 ∧ (r.queue q).started = x.started ∧ 
        s.coh.msgs.length + s.coh.ioWait.length < r.coh.msgs.length + r.coh.ioWait.length) ∧
    (0 < x.msisReady → x.msiAddr = 0x800_0084_0000 → 1 ≤ x.msiEiid → x.msiEiid ≤ 2047 →
      ∃ r, exec (.msiWrite q) s = .next r ∧ r.mem = s.mem ∧ (r.queue q).msisReady = x.msisReady - 1 ∧
        x.msiEiid ∈ tget [] r.host.imsic 0)

/-- A fetched command starts when its queue is enabled and not stopped, its fence is met and the completion ring has
room. NOP completes with OK and an unknown opcode with ENCODING. INLINE_WRITE sends its bytes, at once where the
home has credits for them, and completes with their Cmp. SCENE_LOAD of a passing image writes its segments into
a quiescent troupe's units, and into no unit of a busy one. SCENE_START, held or not, starts the scene of a
troupe that can take it, is held otherwise, and completes with FENCED where a unit is fenced. SIGNAL sends its
count. DECOMP, GATHER, SCATTER and LAYOUT put their descriptor in the engine's list, marked as refused where it
runs scheduled. A command that breaks a check completes with its status and has no effect. Memory is unchanged
at the start of every command. (R98, R410, R413, R414, R415, R416, R417, R420, R477, R562.) -/
def Obligations.QueueCommandsStartAndComplete : Prop :=
  ∀ (q : QueueId) (s : State) (c : Slot) (op : Nat),
    let x := s.queue q
    let done := fun (r : State) (st detail : Nat) => r.mem = s.mem ∧ (r.queue q).fetched = none ∧ (r.queue q).started = x.started ∧
      (r.queue q).records = x.records ++ [⟨c.seq, st, c.opcode, c.tag, detail, bitOf c.flags 1 || st != 0, s.time.span⟩]
    let runs := fun (r : State) => r.mem = s.mem ∧ (r.queue q).fetched = none ∧ (r.queue q).records = x.records ∧
      ∃ y, (r.queue q).started = x.started ++ [y] ∧ y.number = x.nextCmd ∧ y.opcode = c.opcode ∧ y.seq = c.seq ∧ y.tag = c.tag
    s.live = true → x.enable = true → x.state ≠ 3 → x.ringFull = false → x.fetched = some c → c.opcode = op →
    (bitOf c.flags 0 = true → x.started = []) → (∀ y ∈ x.started, y.number < x.nextCmd) →
    (op = 1 → c.headerOk 0 0 = true → c.arg0 = 0 → c.arg1 = 0 → ∃ r, exec (.qNop q) s = .next r ∧ done r 0 0) ∧
    (opcodeKnown op = false → ∃ r, exec (.qNop q) s = .next r ∧ done r 1 0) ∧
    (op = 2 → c.headerOk 1 224 = true → c.arg1 = 0 →
      (inTier c.arg0 c.payloadLen = false → ∃ r, exec (.qInlineWrite q) s = .next r ∧ done r 3 0) ∧
      (inTier c.arg0 c.payloadLen = true → c.payload.length = c.payloadLen → c.arg0 % 128 + c.payloadLen < 128 →
        ∃ r, exec (.qInlineWrite q) s = .next r ∧ runs r ∧ ∃ m, (m ∈ r.coh.msgs ∨ ∃ k, (k, m) ∈ r.coh.ioWait) ∧
          (∀ h, homeOf (c.arg0 / 128) = some h → s.coh.ioWait = [] → (txnsOut s 12 h).length < 62 → m ∈ r.coh.msgs) ∧
          m.op = 6 ∧ m.line = c.arg0 / 128 ∧ m.req = 12 ∧ ∀ i, i < c.payloadLen → m.mask.getD (c.arg0 % 128 + i) false = true ∧ m.data.getD (c.arg0 % 128 + i) 0 = c.payload.getD i 0)) ∧
    (op = 5 → c.headerOk 0 0 = true → c.arg0 < 2 ^ 14 → c.arg1 < 2 ^ 32 → c.arg1 ≠ 0 →
      (∀ tr, s.image.tokenTroupe c.arg0 = some tr → mayName s q tr = true → ∃ r, exec (.qSignal q) s = .next r ∧ done r 0 0 ∧
        r.str.msgs = s.str.msgs ++ [{ kind := 0, obj := c.arg0, unit := 0xFF, value := BitVec.ofNat 64 c.arg1, sent := s.time.span }]) ∧
      (s.image.tokenTroupe c.arg0 = none → ∃ r, exec (.qSignal q) s = .next r ∧ done r 2 0 ∧ r.str = s.str)) ∧
    (op = 3 → c.headerOk 0 0 = true → c.arg0 < 2 ^ 48 → c.arg1 < 16 → mayName s q c.arg1 = true → c.arg0 % 128 = 0 → inTier c.arg0 64 = true →
      (sceneImage s c.arg0 c.arg1 = none → ∃ r, exec (.qSceneLoad q) s = .next r ∧ done r 4 0 ∧ r.tiles = s.tiles ∧ r.grots = s.grots) ∧
      (∀ gs, sceneImage s c.arg0 c.arg1 = some gs →
        (quiescentTroupe s c.arg1 = false → ∃ r, exec (.qSceneLoad q) s = .next r ∧ done r 5 0 ∧ r.tiles = s.tiles ∧ r.grots = s.grots) ∧
        (∀ g, gs = [g] → g.unit < 48 → quiescentTroupe s c.arg1 = true → (s.fence g.unit).fenced = false →
          ∃ r, exec (.qSceneLoad q) s = .next r ∧ done r 0 0 ∧ (∀ t, t ≠ g.unit → r.tile t = s.tile t) ∧
            ∀ a, tget 0 (r.tile g.unit).imem a =
              let o := g.target * 0x4_0000 + g.dst
              if o ≤ a ∧ a < o + g.bytes then memRead s.mem (c.arg0 + g.src + (a - o)) else tget 0 (s.tile g.unit).imem a))) ∧
    (op = 4 → sceneStatus s q c = 0 →
      let tr := c.arg0 % 16
      let es := sceneEntries s tr c
      let i := if x.heldCmd = true then Instr.heldSceneStart q else Instr.qSceneStart q
      (sceneHeld s tr (isCommitScene s es) = true → exec i s = .next (s.modQueue q fun x => { x with heldCmd := true })) ∧
      (sceneHeld s tr (isCommitScene s es) = false → (∃ u ∈ s.image.units tr, (s.fence u).fenced = true) →
        ∃ r, exec i s = .next r ∧ done r 7 (c.arg0 / 2 ^ 32) ∧ r.troupes = s.troupes) ∧
      (sceneHeld s tr (isCommitScene s es) = false → (∀ u ∈ s.image.units tr, (s.fence u).fenced = false) →
        ∃ r, exec i s = .next r ∧ runs r ∧ (∀ j, j ≠ tr → r.troupe j = s.troupe j) ∧ r.tiles = s.tiles ∧
          (r.troupe tr).state = 1 ∧ (r.troupe tr).sceneId = c.arg0 / 2 ^ 32 ∧ (r.troupe tr).entries = es ∧
          (r.troupe tr).owner = some (q.val, x.nextCmd) ∧ (r.troupe tr).starting = (s.image.units tr).filter (fun u => decide (u < 48)) ∧
          (r.troupe tr).capLimit = (s.troupe tr).waitLimit ∧ (r.troupe tr).capSeed = (s.troupe tr).seed ∧
          (r.troupe tr).capStep = (s.troupe tr).rngStep ∧ (r.troupe tr).capCeil = (s.troupe tr).normCeil ∧
          (r.troupe tr).commitScene = isCommitScene s es)) ∧
    ∀ i base, (i, base, op) ∈ [(Instr.qDecomp q, 8, 0x10), (Instr.qGather q, 4, 0x11), (Instr.qScatter q, 4, 0x12), (Instr.qLayout q, 0, 0x13)] →
      let e := base + c.arg0 % 4
      (datStatus s c = 0 → ∃ r, exec i s = .next r ∧ runs r ∧
        (r.dat e).queue = (s.dat e).queue ++ [⟨c.payload, q.val, x.nextCmd, datScheduled s e, false⟩] ∧
        ∀ k, k ≠ e → r.dat k = s.dat k) ∧
      (datStatus s c ≠ 0 → ∃ r, exec i s = .next r ∧ done r (datStatus s c) 0 ∧ r.dats = s.dats)

/-- A scheduled entry whose checks pass requests the lines that it reads, and when they have come runs: it writes
only the ranges of its descriptor and keeps its result. DECOMP writes what its input decodes to, up to the
capacity; GATHER copies each row that its index names and zeros for an index out of range; LAYOUT copies each
row, or each element to its place in the transposed matrix. A free job at the head of its engine's list asks its
edge cache for what it reads, a GATHER then for its table, and gives it what it puts, or ends with READ_ERROR.
END arrives. A job whose writes are made writes its status word and no other byte, and then signals or completes
with its code; one for an engine that runs scheduled completes with NOT_FREE. VCD_OPEN opens a stream on its
frame buffers; VCD_DECODE, VCD_ENCODE and VCD_DRAIN put a job in the engine's list; VCD_CLOSE of a stream
without jobs closes it. A codec job whose reads have come takes its buffers, runs, and leaves the list with its
status once its edge cache has made its writes. A job gives way to one of class 0, and its state goes to its
save area. A frame buffer of an open stream keeps its base. (R468, R470, R471, R472, R474, R475, R478, R483,
R487, R491, R495, R508.) -/
def Obligations.DataAndCodecJobsRunAndReport : Prop :=
  (∀ (d : ChipId) (s : State) (i : Instr) (e op : Nat),
    let x := s.dat e
    let j := x.cur
    let u := 52 + e
    s.live = true → (i, e, op) ∈ [(Instr.datDecomp d, 8 + d.val, 1), (Instr.datGather d, 4 + d.val, 2), (Instr.datScatter d, 4 + d.val, 3),
      (Instr.datLayout d, d.val, 4)] → x.result = none → s.asks (fun w => w == .dataEngine e) = false →
    (datScheduled s e = true → x.state = 1 → j.op = op → j.fieldsOk = true →
      j.addressOk s.image (s.image.unitTroupe u) = true → j.aligned = true → j.pitchOk = true →
      (x.asked = false → (j.waitCh = 0xFFFF ∨ x.released = true) →
        (∀ a ∈ j.touched s.bytes ++ j.written s.bytes, padBreach s a = none) → (∀ a ∈ j.touched s.bytes, noSlotLine s.image u 0 a = none) →
        (∀ a ∈ j.written s.bytes, noSlotLine s.image u 1 a = none) →
        ∃ r, exec i s = .next r ∧ r.dat e = { x with asked := true } ∧ r.mem = s.mem) ∧
      (x.asked = true → ∃ r, exec i s = .next r ∧ (r.dat e).result.isSome = true ∧ (r.dat e).entry = x.entry ∧
        (∀ a, (∀ w ∈ j.writes, a < w.1 ∨ w.1 + w.2 ≤ a) → memRead r.mem a = memRead s.mem a) ∧
        (op = 1 →
          let o := decompress j.mode (s.bytes j.a j.p0)
          (r.dat e).result = some (if j.p1 < o.1.length then 0x12 else o.2, 0, min o.1.length j.p1) ∧
          r.bytes j.b (min o.1.length j.p1) = o.1.take j.p1) ∧
        (op = 2 → ∀ k, k < j.count →
          let n := leNat (s.bytes (j.a + k * j.idxBytes) j.idxBytes)
          r.bytes (j.b + k * j.rowBytes) j.rowBytes =
            if n < j.tableRows then s.bytes (j.p0 + n * j.rowPitch) j.rowBytes else List.replicate j.rowBytes 0) ∧
        (op = 4 → ∀ k m n, k < j.batches → m < j.rows → n < j.cols →
          r.bytes (if j.mode = 0 then j.b + (k * j.rows + m) * j.dstPitch + n * j.elemBytes
              else j.b + (k * j.cols + n) * j.dstPitch + m * j.elemBytes) j.elemBytes =
            s.bytes (j.a + (k * j.rows + m) * j.srcPitch + n * j.elemBytes) j.elemBytes))) ∧
    (∀ f fs, datScheduled s e = false → x.queue = f :: fs → f.refused = false → (datDesc f.desc).op = op →
      let k := datDesc f.desc
      let o := runDat false (s.edgeBytes (.data e)) k
      let reads := fun (r : State) (rs : List (Nat × Nat)) => ∀ w ∈ rs, ∀ l ∈ linesOf w.1 w.2,
        ∃ q ∈ r.coh.edge, q.die = d.val ∧ q.who = .data e ∧ q.kind = .read ∧ q.addr = 128 * l
      (x.asked = false → ∃ r, exec i s = .next r ∧ r.dat e = { x with asked := true, state := 1 } ∧ r.mem = s.mem ∧ reads r k.plainReads) ∧
      (x.asked = true → s.edgeOpen (.data e) = true → exec i s = .next (edgeTurn (8 + e % 4) s)) ∧
      (x.asked = true → s.edgeOpen (.data e) = false → op = 2 → x.tabled = false →
        ∃ r, exec i s = .next r ∧ r.dat e = { x with tabled := true } ∧ r.mem = s.mem ∧ reads r (k.tableRanges (s.edgeBytes (.data e)))) ∧
      (x.asked = true → s.edgeOpen (.data e) = false → (op = 2 → x.tabled = true) →
        (s.edgeBad (.data e) = true → ∃ r, exec i s = .next r ∧ r.dat e = { x with result := some (0x15, 0, 0) } ∧ r.mem = s.mem) ∧
        (s.edgeBad (.data e) = false → ∃ r, exec i s = .next r ∧ r.dat e = { x with result := some (o.code, o.aux, o.produced) } ∧
          r.mem = s.mem ∧ ∀ p ∈ o.puts, ∀ c ∈ edgePuts d.val (.data e) (if p.1 = true then .add else .write) p.2.1 p.2.2,
            ∃ q ∈ r.coh.edge, q.who = c.who ∧ q.kind = c.kind ∧ q.addr = c.addr ∧ q.data = c.data)))) ∧
  (∀ (e : Fin 12) (s : State),
    let x := s.dat e
    s.live = true →
    (datScheduled s e = true → x.state = 1 → x.result = none → x.cur.op = 0x0F →
      ∃ r, exec (.datEnd e) s = .next r ∧ r.mem = s.mem ∧ (r.dat e).state = 4 ∧
        ∀ tr, s.image.unitTroupe (52 + e.val) = some tr → 52 + e.val ∈ (r.troupe tr).arrived) ∧
    (∀ code aux n, x.queue.head?.filter DatJob.refused = none → x.result = some (code, aux, n) →
      s.asks (fun w => w == .dataEngine e) = false →
      let word := leBytes 8 (code * 2 ^ 56 + aux * 2 ^ 40 + n % 2 ^ 40)
      (datScheduled s e = true →
        (x.cur.status ≠ 0 → x.told = false → ∃ r, exec (.dataJobFinish e) s = .next r ∧ r.dat e = { x with told := true } ∧
          MemoryKept x.cur.status 8 s r ∧ r.bytes x.cur.status 8 = word) ∧
        (x.cur.status = 0 ∨ x.told = true → ∃ r, exec (.dataJobFinish e) s = .next r ∧ (r.dat e).result = none ∧
          (r.dat e).entry = x.entry + 1 ∧ (r.dat e).jobs = min (x.jobs + 1) 0xFFFF_FFFF ∧ r.mem = s.mem ∧
          r.str.msgs = s.str.msgs ++ (if x.cur.signalCh = 0xFFFF then [] else
            [{ kind := 0, obj := x.cur.signalCh, unit := 52 + e.val, value := 1, sent := s.time.span }]))) ∧
      (datScheduled s e = false → s.edgeOpen (.data e) = true → exec (.dataJobFinish e) s = .next (edgeTurn (8 + e.val % 4) s)) ∧
      (∀ f fs, datScheduled s e = false → s.edgeOpen (.data e) = false → s.edgeBad (.data e) = false → x.queue = f :: fs →
        (datDesc f.desc).status ≠ 0 → (datDesc f.desc).status % 8 = 0 → x.told = false →
        ∃ r, exec (.dataJobFinish e) s = .next r ∧ r.dat e = { x with told := true } ∧ r.mem = s.mem ∧
          ∃ q ∈ r.coh.edge, q.who = .data e ∧ q.kind = .write ∧ q.addr = (datDesc f.desc).status ∧ q.data = word) ∧
      (∀ f fs c, datScheduled s e = false → s.edgeOpen (.data e) = false → s.edgeBad (.data e) = false → x.queue = f :: fs →
        (datDesc f.desc).status = 0 ∨ x.told = true → (s.queue f.queue).started.find? (fun c => c.number == f.number) = some c →
        ∃ r, exec (.dataJobFinish e) s = .next r ∧ r.mem = s.mem ∧ (r.dat e).queue = fs ∧ (r.dat e).state = 0 ∧ (r.dat e).result = none ∧
          (r.queue f.queue).records = (s.queue f.queue).records ++
            [⟨c.seq, code, c.opcode, c.tag, n % 2 ^ 32, bitOf c.flags 1 || code != 0, s.time.span⟩])) ∧
    (∀ f fs, x.queue = f :: fs → f.refused = true → s.edgeOpen (.data e) = false →
      ((datDesc f.desc).status ≠ 0 → (datDesc f.desc).status % 8 = 0 → f.told = false → ∃ r, exec (.dataJobFinish e) s = .next r ∧
        r.mem = s.mem ∧ (r.dat e).queue = { f with told := true } :: fs ∧ ∃ q ∈ r.coh.edge, q.who = .data e ∧ q.kind = .write ∧
          q.addr = (datDesc f.desc).status ∧ q.data = leBytes 8 (0x10 * 2 ^ 56)) ∧
      ((datDesc f.desc).status = 0 ∨ f.told = true → ∀ c, (s.queue f.queue).started.find? (fun c => c.number == f.number) = some c →
        ∃ r, exec (.dataJobFinish e) s = .next r ∧ r.mem = s.mem ∧ r.dat e = { x with queue := fs } ∧
          (r.queue f.queue).records = (s.queue f.queue).records ++ [⟨c.seq, 0x10, c.opcode, c.tag, 0, true, s.time.span⟩]))) ∧
  (∀ (q : QueueId) (s : State) (c : Slot) (op : Nat),
    let x := s.queue q
    let d := vcdDie c
    let n := vcdStream c
    let y := s.codec d
    let done := fun (r : State) (st : Nat) => r.mem = s.mem ∧ (r.queue q).started = x.started ∧
      (r.queue q).records = x.records ++ [⟨c.seq, st, c.opcode, c.tag, 0, bitOf c.flags 1 || st != 0, s.time.span⟩]
    s.live = true → x.enable = true → x.state ≠ 3 → x.ringFull = false → x.fetched = some c → c.opcode = op →
    (bitOf c.flags 0 = true → x.started = []) → (∀ y ∈ x.started, y.number < x.nextCmd) →
    (op = 0x18 → y.jobs.length < 1024 → openStatus s c = 0 → ∃ r, exec (.vcdOpen q) s = .next r ∧ done r 0 ∧ ((r.codec d).stream n).state = 1 ∧
      ((r.codec d).stream n).params = c.payload ∧ (∀ k, k ≠ n → (r.codec d).stream k = y.stream k) ∧
      ∀ f, pPool c.payload ≤ f → f < pPool c.payload + pPoolCount c.payload →
        ((r.codec d).buf f).owned = true ∧ ((r.codec d).buf f).stream = n ∧ ((r.codec d).buf f).base = (y.buf f).base) ∧
    (op = 0x18 → y.jobs.length < 1024 → openStatus s c ≠ 0 → ∃ r, exec (.vcdOpen q) s = .next r ∧ done r (openStatus s c) ∧ r.codecs = s.codecs) ∧
    (∀ i kind, (i, kind, op) ∈ [(Instr.vcdDecode q, 0, 0x19), (Instr.vcdEncode q, 1, 0x1A), (Instr.vcdDrain q, 2, 0x1C)] → y.jobs.length < 1024 →
      (jobStatus s c kind = 0 → (y.running? (if kind = 1 then 1 else 0)).isSome = true → ∃ r, exec i s = .next r ∧ r.mem = s.mem ∧
        (r.codec d).jobs = y.jobs ++ [{ stream := n, kind := kind, desc := c.payload, queue := q.val, number := x.nextCmd, order := y.order }] ∧
        (r.codec d).streams = y.streams ∧ (r.queue q).records = x.records) ∧
      (jobStatus s c kind ≠ 0 → ∃ r, exec i s = .next r ∧ done r (jobStatus s c kind) ∧ r.codecs = s.codecs)) ∧
    (op = 0x1B → vcdArgsOk c 0 = true → y.jobs.length < 1024 → ((y.stream n).state = 1 ∨ (y.stream n).state = 2) →
      (∀ k ∈ y.jobs, k.stream ≠ n) →
      ∃ r, exec (.vcdClose q) s = .next r ∧ done r 0 ∧ (r.codec d).stream n = {} ∧ (r.codec d).jobs = y.jobs)) ∧
  ∀ (d : ChipId) (pipe : Fin 2) (s : State) (o : Nat) (j : CodecJob),
    let x := s.codec d
    s.live = true →
    (x.running? pipe = some o → x.jobs.find? (fun j => j.order == o) = some j →
      let put := fun (k : CodecJob) => x.jobs.map fun i => if i.order = o then k else i
      (s.edgeOpen (j.user d) = true → exec (.codecJobFinish d pipe) s = .next (edgeTurn (8 + d.val) s)) ∧
      (s.edgeOpen (j.user d) = false → j.result = none → j.ready = false → ∃ r, exec (.codecJobFinish d pipe) s = .next r ∧ r.mem = s.mem ∧
        r.coh = s.coh ∧ (r.codec d).jobs = put (prepareJob d x j s) ∧ (r.codec d).streams = x.streams) ∧
      (s.edgeOpen (j.user d) = false → j.result = none → j.ready = true →
        (∀ st, j.early = some st → ∃ r, exec (.codecJobFinish d pipe) s = .next r ∧ r.mem = s.mem ∧ r.coh = s.coh ∧
          (r.codec d).jobs = put { j with result := some (st, 0) } ∧
          (st = 0x26 → (x.stream j.stream).state ≠ 3 → ((r.codec d).stream j.stream).state = 2)) ∧
        (j.early = none → j.kind ≠ 2 → s.edgeBad (j.user d) = true → ∃ r, exec (.codecJobFinish d pipe) s = .next r ∧ r.mem = s.mem ∧
          (r.codec d).jobs = put { j with result := some (0x26, 0) }) ∧
        ∃ r st, exec (.codecJobFinish d pipe) s = .next r ∧ r.mem = s.mem ∧ (r.codec d).jobs = put { j with result := some st }) ∧
      ∀ st, s.edgeOpen (j.user d) = false → j.result = some st → ∃ r, exec (.codecJobFinish d pipe) s = .next r ∧ r.mem = s.mem ∧
        (∀ k ∈ (r.codec d).jobs, k.order ≠ o) ∧ (r.codec d).running? pipe ≠ some o ∧
        ∀ c, (s.queue j.queue).started.find? (fun c => c.number == j.number) = some c →
          ∃ rec ∈ (r.queue j.queue).records, rec.status = st.1 ∧ rec.detail = st.2 ∧ rec.seq = c.seq) ∧
    (∀ k, x.running? pipe = some o → x.jobs.find? (fun j => j.order == o && j.result.isNone && x.classOf j != 0) = some j → k ∈ x.jobs →
      k.pipe = pipe.val → x.eligible k = true → x.classOf k = 0 →
      ∃ r, exec (.codecSuspend d pipe) s = .next r ∧ (r.codec d).suspensions = min (x.suspensions + 1) 0xFFFF ∧
        r.mem = s.mem ∧ (pSave (x.stream j.stream).params % 128 = 0 → ∀ l, l < 2048 → ∃ q ∈ r.coh.edge, q.who = .save d o ∧
          q.kind = .write ∧ q.addr = pSave (x.stream j.stream).params + 128 * l) ∧
        ∃ z ∈ x.jobs, x.classOf z = 0 ∧ (r.codec d).running? pipe = some z.order) ∧
    ∀ (f : Fin 4096) (v : Word),
      ((x.buf f).owned = false → exec (.vcdFbBaseWrite d f v) s = .next (s.modCodec d fun x =>
        { x with bufs := tmod {} x.bufs f fun b => { b with base := bitsOf v.toNat 12 36 * 4096 } })) ∧
      ((x.buf f).owned = true → exec (.vcdFbBaseWrite d f v) s = .next (s.modCodec d fun x => { x with reject := true }))

/-- A write of an entry through the RED block of any compute die that is out of reset changes the one tag table as
the command TAG_ENTRY_WRITE does, and a read returns the same value on every such die. A write while a troupe
whose scene is running or aborting names the entry's vote object in a STRROUTE record, or one that changes a
field other than valid while valid is 1, changes no entry and sets RED_TAG_STATUS.reject. Any other write takes
its fields; writing valid from 0 to 1 sets current to 0, copy to 0xFFFF_FFFF and done to 0, so that the copy is
stale. No other entry changes. (R357.) -/
def Obligations.TagTableIsOneTableUnderOneWriteRule : Prop :=
  ∀ (e : Nat) (v : Word) (s : State),
    let x := s.tagEntry e
    let w := v.toNat
    let reg := fun (c : ChipId) => 0x800_0000_0000 + (1 + c.val) * 0x1000_0000 + 0x50_0000 + 0x1_0000 + 16 * e
    let named := ∃ r ∈ s.image.route, r.kind = 3 ∧ r.id = x.vote ∧ ∃ u ∈ maskUnits r.tiles r.engines, ∃ tr,
      s.image.unitTroupe u = some tr ∧ ((s.troupe tr).state = 1 ∨ (s.troupe tr).state = 2)
    s.live = true → 1 ≤ e → e ≤ 4095 →
    ∃ t, exec (.tagEntryWrite e v) s = .next t ∧ (∀ k, k ≠ e → t.tagEntry k = s.tagEntry k) ∧ t.tag.board = s.tag.board ∧
      (∀ c source, s.dieUp (1 + c.val) = true →
        (∃ r, exec (.registerWrite source (reg c) 8 v []) s = .next r ∧ r.tag = t.tag) ∧
        ∀ c' source', s.dieUp (1 + c'.val) = true → ∀ k, k = 0 ∨ k = 8 → ∃ p q,
          exec (.registerRead source (reg c + k) 8) s = .next p ∧ exec (.registerRead source' (reg c' + k) 8) s = .next q ∧
          p.out.value = q.out.value) ∧
      (named ∨ (x.valid = true ∧ (bitsOf w 48 8 ≠ x.vote ∨ bitsOf w 32 16 ≠ x.parts)) →
        t = { s with tag := { s.tag with reject := true } }) ∧
      (¬ named → (x.valid = true → bitsOf w 48 8 = x.vote ∧ bitsOf w 32 16 = x.parts) → t.tag.reject = s.tag.reject ∧
        (t.tagEntry e).valid = bitOf w 63 ∧ (t.tagEntry e).vote = bitsOf w 48 8 ∧ (t.tagEntry e).parts = bitsOf w 32 16 ∧
        (x.valid = false → bitOf w 63 = true → (t.tagEntry e).current = 0 ∧ (t.tagEntry e).copy = 0xFFFF_FFFF ∧
          (t.tagEntry e).done = 0 ∧ (t.tagEntry e).copy ≠ (t.tagEntry e).current) ∧
        (x.valid = true ∨ bitOf w 63 = false → (t.tagEntry e).current = x.current ∧ (t.tagEntry e).copy = x.copy ∧
          (t.tagEntry e).done = x.done))

/-- FATAL_COPY of the first fatal record of a reset puts that record into ERR_FATAL. Each of the eight registers at
host die ERR + 0x7E00 reads its eight bytes of the record held there, and 0 where none has been copied; a write
to one changes no record. A write of ERR_FATAL_CLR at ERR + 0x7E40 with bit 0 set, or the command
ERR_FATAL_CLR_WRITE with it, leaves every one of them reading 0; with bit 0 clear it changes nothing, whatever
its reserved bits. ERR_FATAL_CLR reads 0. (R571.) -/
def Obligations.ErrFatalHoldsTheCopiedRecordUntilCleared : Prop :=
  ∀ (s : State) (source : SourceId) (v : Word),
    let words := fun (r : State) (f : Option ErrRec) => ∀ (who : SourceId) (k : Nat), k < 8 → ∃ q,
      exec (.registerRead who (0x800_0070_7E00 + 8 * k) 8) r = .next q ∧ q.err = r.err ∧
      q.out.value = BitVec.ofNat 64 (match f with | some f => fieldAt f.bytes (8 * k) 8 | none => 0)
    s.live = true → words s s.err.fatal ∧
    (∀ d r, s.err.fatalCopied = false → s.err.fatalFormed.find? (fun r => r.die == d.val) = some r →
      ∃ q, exec (.fatalCopy d) s = .next q ∧ words q (some r) ∧ q = { s with err := q.err }) ∧
    (∀ k, k < 8 → ∃ q, exec (.registerWrite source (0x800_0070_7E00 + 8 * k) 8 v []) s = .next q ∧ q.err.fatal = s.err.fatal) ∧
    (bitOf v.toNat 0 = true →
      (∃ q, exec (.errFatalClrWrite v) s = .next q ∧ words q none ∧ q = { s with err := { s.err with fatal := none } }) ∧
      (∃ q, exec (.registerWrite source 0x800_0070_7E40 8 v []) s = .next q ∧ words q none ∧ q = { s with err := { s.err with fatal := none } })) ∧
    (bitOf v.toNat 0 = false → exec (.errFatalClrWrite v) s = .next s ∧ exec (.registerWrite source 0x800_0070_7E40 8 v []) s = .next s) ∧
    ∃ q, exec (.registerRead source 0x800_0070_7E40 8) s = .next q ∧ q.out.value = 0 ∧ q.err = s.err

/-- ROOT_LOCK locks a root, the host die's not before 12 µs. STABILITY_COUNT_EXPIRY makes a root that is judged by
count stable, not before 65,536 reference cycles, and the host die's first stability starts the ROM's three
switches. A switch to root or bypass of a domain that stands there already does nothing; one that may be made is
accepted and takes effect at its edge, the first common one at least two cycles of the old source after the
write (which REFCLK edges are common is log 158's choice); one that may not is counted, and recorded with its
reason where no refusal stands: the domain is absent, the root is not stable, or a running troupe has a unit on
the die. REFCLK_LOSS and LOCK_LOSS stop the package and latch the die and the cause, where none is latched; no
error record is formed. (R511, R513, R518, R519, R520, R523, R524, R528, R532.) -/
def Obligations.ClocksLockSettleSwitchAndStop : Prop :=
  ∀ (d : DieId) (source : SourceId) (k : BitVec 4) (s : State),
    let x := s.clkDie d
    let n := k.toNat
    let accepted := fun (r : State) (root : Bool) => r = s.modClk d fun x =>
      { x with switching := x.switching.filter (fun p => p.1 != n) ++ [(n, root, if n ∈ x.onRoot then s.time.csr + 1 + (s.time.csr + 1) % 2 else s.time.csr + 2 + (s.time.csr + 2) % 2)] }
    let refused := fun (r : State) (reason : Nat) (root : Bool) => r = { s with clk := { s.clk with dies := r.clk.dies } } ∧
      (r.clkDie d).refCount = min (x.refCount + 1) (2 ^ 32 - 1) ∧ (r.clkDie d).switching = x.switching ∧ (r.clkDie d).onRoot = x.onRoot ∧
      (x.refValid = false → (r.clkDie d).refValid = true ∧ (r.clkDie d).refReason = reason ∧ (r.clkDie d).refDomain = n ∧
        (r.clkDie d).refTarget = root ∧ (r.clkDie d).refSource = source.val) ∧
      (x.refValid = true → (r.clkDie d).refReason = x.refReason ∧ (r.clkDie d).refDomain = x.refDomain)
    let busy := ∃ tr, tr < 16 ∧ ((s.troupe tr).state = 1 ∨ (s.troupe tr).state = 2) ∧ ∃ u ∈ s.image.units tr, unitDie u = d
    let stops := fun (r : State) (cause : Nat) => r.boot.stopped = true ∧ r.alertN = true ∧ r.err = s.err ∧ r.str.inSpan = false ∧ r.clk.lossValid = true ∧
      (s.clk.lossValid = false → r.clk.lossDie = d.val ∧ r.clk.lossCause = cause) ∧
      (s.clk.lossValid = true → r.clk.lossDie = s.clk.lossDie ∧ r.clk.lossCause = s.clk.lossCause)
    s.live = true →
    (x.locked = false → (d.val = 0 → 1200 ≤ s.time.csr) →
      exec (.rootLock d) s = .next (s.modClk d fun x => { x with locked := true, since := s.time.csr })) ∧
    (s.time.csr < x.since + 65536 → exec (.stabilityCountExpiry d) s = .next s) ∧
    (judgesByCount s d = true → x.since + 65536 ≤ s.time.csr → ∃ r, exec (.stabilityCountExpiry d) s = .next r ∧ (r.clkDie d).stable = true ∧ (r.clkDie d).onRoot = x.onRoot ∧
      (∀ e, e ≠ d.val → r.clkDie e = s.clkDie e) ∧
      (d.val = 0 → x.onRoot = [] → x.switching = [] → 
        (r.clkDie d).switching.map (fun p => (p.1, p.2.1)) = [(1, true), (7, true), (2, true)])) ∧
    (n ∈ domainsOf d →
      (n ∈ x.onRoot → exec (.clkSwitchRoot d source k) s = .next s) ∧
      (n ∉ x.onRoot → x.stable = true → ∃ r, exec (.clkSwitchRoot d source k) s = .next r ∧ accepted r true) ∧
      (n ∉ x.onRoot → x.stable = false → ∃ r, exec (.clkSwitchRoot d source k) s = .next r ∧ refused r 0 true) ∧
      (n ∉ x.onRoot → exec (.clkSwitchBypass d source k) s = .next s) ∧
      (n ∈ x.onRoot → (n ∉ [0, 1, 3, 4, 6] ∨ ¬ busy) → ∃ r, exec (.clkSwitchBypass d source k) s = .next r ∧ accepted r false) ∧
      (n ∈ x.onRoot → n ∈ [0, 1, 3, 4, 6] → busy → ∃ r, exec (.clkSwitchBypass d source k) s = .next r ∧ refused r 2 false)) ∧
    (n ∉ domainsOf d → (∃ r, exec (.clkSwitchRoot d source k) s = .next r ∧ refused r 1 true) ∧
      ∃ r, exec (.clkSwitchBypass d source k) s = .next r ∧ refused r 1 false) ∧
    ((∀ p ∈ x.switching, p.1 = n → s.time.csr < p.2.2) → exec (.clkSwitchEffect d n) s = .next s) ∧
    (∀ root due, x.switching.find? (fun p => p.1 == n && decide (p.2.2 ≤ s.time.csr)) = some (n, root, due) → ∃ r, exec (.clkSwitchEffect d n) s = .next r ∧
      (n ∈ (r.clkDie d).onRoot ↔ root = true) ∧ (∀ m, m ≠ n → (m ∈ (r.clkDie d).onRoot ↔ m ∈ x.onRoot)) ∧
      (∀ p ∈ (r.clkDie d).switching, p.1 ≠ n) ∧ (∀ e, e ≠ d.val → r.clkDie e = s.clkDie e)) ∧
    (∃ r, exec (.refclkLoss d) s = .next r ∧ stops r 1) ∧
    (x.locked = true → ∃ r, exec (.lockLoss d) s = .next r ∧ stops r 2)

/-- REGION_ENABLE validates a region whose fields are sound and clears its counts, and is refused else;
REGION_DISABLE only clears valid. An adapter's write that passes is in flight and memory unchanged until it is
durable; a read that passes in view 1 asks for slots of class PLC and answers in the last with memory's bytes,
all ones in a line that cannot be corrected; a request that is refused changes no memory, is counted and
recorded, and a read aborts. A durable placement adds its bytes to the residue and the whole units to the
arrivals. A peer request is routed or refused by its enable. Containment marks its port. A write to an interrupt
file sets the identity pending. A route with a hart above 95 or identity 0 is disabled. HART_RELEASE and
HART_STOP set and clear the run bit of a hart that may change. (R432, R433, R434, R435, R436, R440, R441, R457,
R458, R460, R464, R465.) -/
def Obligations.AdaptersReachOnlyRegisteredRegions : Prop :=
  (∀ (r : RegionId) (v : Word) (s : State),
    let x := s.region r
    let y := x.withBase v.toNat
    s.live = true →
    (x.valid = false → bitOf v.toNat 63 = true →
      (regionOk s r y = true → ∃ t, exec (.regionEnable r v) s = .next t ∧ (∀ k, k ≠ r.val → t.region k = s.region k) ∧
        t.region r = { y with valid := true, arrivals := 0, log := [], residue := 0, ovf := false } ∧ t.mem = s.mem) ∧
      (regionOk s r y = false → exec (.regionEnable r v) s = .next { s with plc := { s.plc with reject := true } })) ∧
    (x.valid = true → bitOf v.toNat 63 = false → y = x →
      exec (.regionDisable r v) s = .next (s.modRegion r fun x => { x with valid := false, waiter := none })) ∧
    (∀ p ps, x.inflight = p :: ps → p.txns = [] → p.reqs = 0 → x.unit ≠ 0 →
      ∃ t, exec (.placementDurable r) s = .next t ∧ t.mem = s.mem ∧ (t.region r).inflight = ps ∧
        (t.region r).residue = (x.residue + p.bytes) % x.unit ∧
        (t.region r).arrivals = min (x.arrivals + (x.residue + p.bytes) / x.unit) (2 ^ 32 - 1) ∧
        (x.arrivals + (x.residue + p.bytes) / x.unit < 2 ^ 32 → t.err = s.err ∧ t.troupes = s.troupes) ∧
        (2 ^ 32 ≤ x.arrivals + (x.residue + p.bytes) / x.unit → (t.region r).ovf = true ∧
          ∀ tr, tr < 16 → bitOf x.troupes tr = true → (s.troupe tr).state = 1 → (t.troupe tr).state = 2))) ∧
  (∀ (port : Fin 4) (rid : BitVec 16) (pasid : Option (BitVec 20)) (addr : Nat) (data : List Byte) (s : State),
    let id := pasid.map BitVec.toNat
    let n := data.length
    s.live = true → interruptPage addr = false → peerPort addr = none → s.boot.lantern = false →
    (∀ r, regionAt s addr = some r →
      (placeRefusal (s.region r) rid.toNat id addr n true = none → ∃ t, exec (.adapterWrite port rid pasid addr data) s = .next t ∧
        t.mem = s.mem ∧ t.err = s.err ∧ ∃ p, (t.region r).inflight = (s.region r).inflight ++ [p] ∧ p.bytes = n) ∧
      (placeRefusal (s.region r) rid.toNat id addr n false = none → (s.region r).view = true → 0 < n → inTier addr n = true →
        ∃ t, exec (.adapterRead port rid pasid addr n) s = .next t ∧ t.mem = s.mem ∧ t.out = s.out ∧ t.err = s.err ∧
          t.asks (fun u => u == .placementRead r addr n) = true) ∧
      (∀ why, placeRefusal (s.region r) rid.toNat id addr n false = some why → ∃ t, exec (.adapterRead port rid pasid addr n) s = .next t ∧
        t.mem = s.mem ∧ t.out.aborted = true ∧ t.out.data = [] ∧ (t.region r).refused = min ((s.region r).refused + 1) (2 ^ 32 - 1) ∧
        t.plc.refValid = true ∧ (s.plc.refValid = false → t.plc.refReason = why ∧ t.plc.refPort = port.val ∧ t.plc.refRid = rid.toNat))) ∧
    (regionAt s addr = none → ∃ t, exec (.adapterWrite port rid pasid addr data) s = .next t ∧ t.mem = s.mem ∧
      t.plc.regions = s.plc.regions ∧ t.plc.refValid = true ∧ (s.plc.refValid = false → t.plc.refReason = 0))) ∧
  (∀ (m : MemoryId) (ch slot : Nat) (e : Ecc) (s : State) (q : MemReq) (r addr len : Nat),
    let g := s.time.ttFrames * memSlots m + slot
    let w := ownerWord s m ch slot
    s.live = true → ch < 2 ^ chanBits m → slot < memSlots m → tget 0 (s.memCtl m).nextSlot ch ≤ g →
    s.beginsNow (memSlotAt m g) = true → carriesRequests w = true → slotTaker s m ch w (memSlotAt m g) = some q →
    q.write = false → q.who = .placementRead r addr len → effEcc s (128 * q.line) e ≠ .miscorrected →
    (s.modMem m fun c => { c with reqs := c.reqs.erase q }).asks (fun u => u == .placementRead r addr len) = false →
    ∃ t, exec (.memorySlot m ch slot e) s = .next t ∧ t.mem = s.mem ∧ t.out.aborted = false ∧
      t.out.data = (List.range len).map fun i => if t.badLine (addr + i) = true then 0xFF else memRead s.mem (addr + i)) ∧
  ∀ (port : Fin 4) (addr : Nat) (write : Bool) (ev : RootPortEvent) (e : Fin 16) (v : Word) (h : HartId) (s : State),
    let hart := bitsOf v.toNat 32 7
    let eiid := bitsOf v.toNat 0 11
    s.live = true →
    (s.boot.lantern = true → port.val ≠ 0 → exec (.peerRequest port addr write) s = .next s) ∧
    (∀ d, peerPort addr = some d → (s.boot.lantern = false ∨ port.val = 0) → ∃ t, exec (.peerRequest port addr write) s = .next t ∧ t.mem = s.mem ∧
      (bitOf s.plc.peer (4 * port.val + d) = true → t.plc.peerRefused = s.plc.peerRefused ∧ t.out.aborted = false) ∧
      (bitOf s.plc.peer (4 * port.val + d) = false → t.plc.peerRefused = min (s.plc.peerRefused + 1) (2 ^ 32 - 1) ∧ t.out.aborted = !write)) ∧
    (∃ t, exec (.downstreamPortContainment port ev) s = .next t ∧ tget false t.plc.contained port = true ∧ t.mem = s.mem ∧
      (∀ p, p ≠ port.val → tget false t.plc.contained p = tget false s.plc.contained p)) ∧
    (∀ (w : W32), 1 ≤ w.toNat → w.toNat ≤ 2047 →
      (∃ t, exec (.interruptFileWrite (0x800_0084_0000 + 0x1000 * h.val) w) s = .next t ∧ w.toNat ∈ tget [] t.host.imsic (2 * h.val) ∧
        ∀ f, f ≠ 2 * h.val → tget [] t.host.imsic f = tget [] s.host.imsic f) ∧
      (∃ t, exec (.interruptFileWrite (0x800_008A_0000 + 0x1000 * h.val) w) s = .next t ∧ w.toNat ∈ tget [] t.host.imsic (2 * h.val + 1))) ∧
    (∃ t, exec (.evtRouteWrite e v) s = .next t ∧ (∀ k, k ≠ e.val → tget {} t.host.routes k = tget {} s.host.routes k) ∧
      tget {} t.host.routes e = ⟨bitOf v.toNat 63 && decide (hart ≤ 95) && eiid != 0, bitOf v.toNat 62, hart, eiid⟩) ∧
    (h.val ≠ 0 → (s.boot.lantern = false ∨ h.val < 4) →
      (hartRuns s h = false → ∃ t, exec (.hartRelease h) s = .next t ∧ hartRuns t h = true ∧ (∀ k, k < 96 → k ≠ h.val → hartRuns t k = hartRuns s k) ∧
        t.hart h = { pc := s.host.entry } ∧ t.mem = s.mem) ∧
      (hartRuns s h = true → ∃ t, exec (.hartStop h) s = .next t ∧ hartRuns t h = false ∧ (∀ k, k < 96 → k ≠ h.val → hartRuns t k = hartRuns s k) ∧
        t.mem = s.mem)) ∧
    (h.val = 0 ∨ (s.boot.lantern = true ∧ 4 ≤ h.val) → exec (.hartRelease h) s = .next s ∧ exec (.hartStop h) s = .next s)

/-- An image command while one is under way only sets ignored; otherwise it discards the staged image, begins a
check, or votes in an epoch change. A check that fails leaves the images as they are and reports its code; one
that passes awaits the switch, or is staged. IMAGE_SWITCH, at a mark, puts the full image in force, discards
what was staged, sets every troupe's state to 0 and fences every tile that is in no troupe. A vote that another
member asks for is cast when it arrives. The outcome go of a vote sets frame F, 16 frames on at the time master,
and no-go ends the change with 0x13; at the mark of frame F, and of no other, the staged image is merged into
the one in force. (R44, R58, R59, R61, R66, R67, R69, R70, R71, R95.) -/
def Obligations.ImagesLoadStageAndChangeEpoch : Prop :=
  ∀ s : State, s.live = true → s.boot.lantern = false →
    (s.img.op ≠ .idle → ∀ c, c ∈ [Instr.imgDiscardStaged, .imgLoadFull, .imgStagePartial, .imgEpochChange] →
      exec c s = .next { s with img := { s.img with ignored := true } }) ∧
    (s.img.op = .idle →
      (∃ r, exec .imgDiscardStaged s = .next r ∧ r = { s with img := r.img } ∧ r.img.staged = none ∧ r.img.inForce = s.img.inForce ∧
        r.img.op = .idle ∧ r.img.code = 0) ∧
      (∃ r, exec .imgLoadFull s = .next r ∧ r = { s with img := r.img } ∧ r.img.staged = s.img.staged ∧ r.img.inForce = s.img.inForce ∧
        r.img.op = .checkingFull) ∧
      (∃ r, exec .imgStagePartial s = .next r ∧ r = { s with img := r.img } ∧ r.img.staged = s.img.staged ∧ r.img.inForce = s.img.inForce ∧
        r.img.op = .checkingPartial) ∧
      (∃ r, exec .imgEpochChange s = .next r ∧ r = { s with img := r.img } ∧ r.img.op = .voting ∧ r.img.staged = s.img.staged ∧
        (r.img.votedGo = true ↔ ∃ i, s.img.staged = some i ∧ i.header.epoch = s.img.changes + 1 ∧
          ∀ tr, tr < 16 → bitOf i.header.affected tr = true → quiescentTroupe s tr = true))) ∧
    (∀ bad kind, (s.img.op = .checkingFull ∧ kind = 1) ∨ (s.img.op = .checkingPartial ∧ kind = 2) →
      (∀ f, checkImage s s.img.base kind bad = some f → ∃ r, exec (.imageCheckComplete bad) s = .next r ∧ r.mem = s.mem ∧ r.tiles = s.tiles ∧
        r.troupes = s.troupes ∧ r.img.op = .idle ∧ r.img.code = f.code ∧ r.img.sec = f.sec ∧ r.img.record = f.record ∧
        r.img.inForce = s.img.inForce ∧ r.img.staged = s.img.staged) ∧
      (checkImage s s.img.base kind bad = none → ∃ r, exec (.imageCheckComplete bad) s = .next r ∧ r.mem = s.mem ∧ r.tiles = s.tiles ∧
        r.img.inForce = s.img.inForce ∧
        let i := imageOf s s.img.base (headerOf (s.bytes s.img.base 0x1000))
        (kind = 1 → r.img.op = .switching ∧ r.img.next = some i ∧ r.img.staged = s.img.staged) ∧
        (kind = 2 → r.img.op = .idle ∧ r.img.code = 0 ∧ r.img.staged = some i))) ∧
    (∀ i, s.img.op = .switching → s.img.next = some i → s.atMark = true → bypassHold s = false → freeJobRuns s i = false →
      ∃ r, exec .imageSwitch s = .next r ∧ r.img.inForce = some i ∧ r.img.next = none ∧ r.img.staged = none ∧ r.img.loaded = true ∧
        r.img.discarded = s.img.staged.isSome ∧ r.img.changes = 0 ∧ r.img.accepted = s.img.accepted + 1 ∧ r.img.op = .idle ∧ r.img.code = 0 ∧
        (∀ tr, (r.troupe tr).state = 0) ∧ (∀ t, t < 48 → i.unitTroupe t = none → (r.fence t).fenced = true) ∧
        (∀ tr, (r.troupe tr).faultCount = (s.troupe tr).faultCount ∧ (r.troupe tr).commits = (s.troupe tr).commits)) ∧
    (∀ frame go, s.img.op = .idle → spanMember s = true → ∃ r, exec (.epochVoteOutcome go frame) s = .next r ∧ r = { s with img := r.img } ∧
      r.img.op = .voting ∧ r.img.votedGo = epochVote s ∧ r.img.staged = s.img.staged ∧ r.img.inForce = s.img.inForce) ∧
    (∀ frame, s.img.op = .voting →
      (s.img.votedGo = true → ∃ r, exec (.epochVoteOutcome true frame) s = .next r ∧ r.img.op = .activating ∧
        r.img.frame = (if (markPort s).isNone = true then s.frame + 16 else frame) ∧
        r.img.staged = s.img.staged ∧ r.img.inForce = s.img.inForce) ∧
      (∃ r, exec (.epochVoteOutcome false frame) s = .next r ∧ r.img.op = .idle ∧ r.img.code = 0x13 ∧ r.img.staged = s.img.staged ∧
        r.img.inForce = s.img.inForce ∧ r.mem = s.mem)) ∧
    ∀ i, s.img.op = .activating → s.img.staged = some i → (s.img.frame ≠ s.frame → exec .epochActivation s = .next s) ∧
      (s.img.frame = s.frame → s.atMark = true → ∃ r, exec .epochActivation s = .next r ∧ r.img.inForce = some (mergeImage s.image i) ∧
        r.img.staged = none ∧ r.img.op = .idle ∧ r.img.code = 0 ∧ r.img.changes = (s.img.changes + 1) % 2 ^ 32 ∧ r.mem = s.mem ∧ r.tiles = s.tiles ∧
        ((∀ tr, (s.troupe tr).state ≠ 1) → r.troupes = s.troupes))

/-- POWER_GOOD asserts power. PWRGD_DEASSERT and PKG_RESET_ASSERT put every die at its reset values; fuses and flash
stay, and the pin reset keeps ERR_FATAL. PKG_RESET_RELEASE boots: Lantern mode exactly after three failures in a
row. A package reset that is owed resets and boots; a fatal one waits for its copy. A watchdog expiry and a
reported failure latch their reason and owe a reset; after the attempt has succeeded a failure is only noted.
BOOT_COMMIT succeeds once. BOOT_CLEAR writes a cleared record in the first erased slot. BOOT_DIE_RELEASE sets
the released dies. In Lantern mode the boot RAM stays locked. (R423, R531, R532, R533, R534, R536, R539, R540,
R541, R546, R548, R549.) -/
def Obligations.PowerResetAndBootControl : Prop :=
  ∀ s : State,
    let clean := fun (r : State) => r.pending = s.pending ∧ r.tiles = [] ∧ r.troupes = [] ∧ r.queues = [] ∧ r.img.inForce = none ∧
      r.time = {} ∧ r.tokens = [] ∧ r.sec.fuses = s.sec.fuses
    let run := failedRun s.boot.flash
    (s.boot.powerGood = false → exec .powerGood s = .next { s with boot := { s.boot with powerGood := true } }) ∧
    (s.boot.powerGood = true → ∃ r, exec .pwrgdDeassert s = .next r ∧ clean r ∧ r.boot.powerGood = false ∧ r.boot.released = false ∧
      r.boot.flash = s.boot.flash ∧ r.err.fatal = none) ∧
    (s.boot.powerGood = true → s.boot.released = true → ∃ r, exec .pkgResetAssert s = .next r ∧ clean r ∧ r.boot.released = false ∧
      r.boot.powerGood = true ∧ r.boot.flash = s.boot.flash ∧ r.err.fatal = s.err.fatal) ∧
    (s.boot.powerGood = true → s.boot.released = false → (∀ a, (attempts s.boot.flash).head? = some a → a.state ≠ 0xFE) →
      ∃ r, exec .pkgResetRelease s = .next r ∧ r.boot.released = true ∧ r.boot.failures = min run.length 15 ∧ r.boot.bootRam = true ∧
        (r.boot.lantern = true ↔ 3 ≤ run.length ∨ s.boot.lantern = true) ∧ r.sec.fuses = s.sec.fuses ∧
        r.boot.cause = (if s.clk.lossValid = true then 5 else causeOf s.boot.resetKind) ∧ r.clk.lossValid = false ∧
        (3 ≤ run.length → r.boot.ibi = some r.boot.reason0)) ∧
    (s.live = true →
      (∀ k, s.boot.resetDue = some k → (k = .fatal → s.err.fatalCopied = true) → ∃ r, exec .packageReset s = .next r ∧
        r.boot.released = true ∧ r.boot.powerGood = true ∧ r.boot.stopped = false ∧ r.tiles = [] ∧ r.troupes = [] ∧ r.img.inForce = none ∧
        r.pending = s.pending ∧ (k ≠ .powerOn → r.err.fatal = s.err.fatal) ∧ r.sec.fuses = s.sec.fuses) ∧
      (s.boot.resetDue = some .fatal → s.err.fatalCopied = false → exec .packageReset s = .next s) ∧
      (s.boot.wdogArmed = true → s.time.csr < s.boot.wdogFrom + 100000 * s.boot.wdogMs → exec .watchdogExpiry s = .next s) ∧
      (s.boot.wdogArmed = true → s.boot.wdogFrom + 100000 * s.boot.wdogMs ≤ s.time.csr → ∃ r, exec .watchdogExpiry s = .next r ∧ r = { s with boot := r.boot } ∧ r.boot.resetDue.isSome = true ∧
        r.boot.latched = some (9, s.boot.stage) ∧ r.boot.reason = 9 ∧ r.boot.wdogArmed = false) ∧
      (s.boot.resetDue = none → exec .bootReset s = .next { s with boot := { s.boot with resetDue := some .boot } }) ∧
      (s.boot.done = true ∨ s.boot.lantern = true → exec .bootCommit s = .next s) ∧
      (s.boot.done = false → s.boot.lantern = false → ∃ r, exec .bootCommit s = .next r ∧ r = { s with boot := r.boot } ∧ r.boot.done = true ∧
        r.boot.wdogArmed = false ∧ (∀ o, 0x1_0000 ≤ o → tget 0xFF r.boot.flash o = tget 0xFF s.boot.flash o)) ∧
      (∀ i, erasedSlot s.boot.flash = some i → ∃ r seq, exec .bootClear s = .next r ∧
        r = { s with boot := { s.boot with flash := r.boot.flash }, fresh := r.fresh } ∧
        flashRead r.boot.flash (64 * i) 64 = attemptBytes seq 0xFF s.boot.cause s.sec.fuses 0 0xE0 ∧
        ∀ o, o < 64 * i ∨ 64 * i + 64 ≤ o → tget 0xFF r.boot.flash o = tget 0xFF s.boot.flash o) ∧
      (s.boot.lantern = false → exec .bootUnlockRam s = .next { s with boot := { s.boot with bootRam := false } }) ∧
      (s.boot.lantern = true → exec .bootUnlockRam s = .next s) ∧
      (∀ n : BitVec 4, (3 ≤ n.toNat → n.toNat ≤ 6 → exec (.bootStage n) s = .next { s with boot := { s.boot with stage := n.toNat } }) ∧
        (n.toNat < 3 ∨ 6 < n.toNat → exec (.bootStage n) s = .next s)) ∧
      (∀ n : BitVec 8, n ≠ 0 → ∃ r, exec (.bootFail n) s = .next r ∧ r = { s with boot := r.boot } ∧ r.boot.reason = n.toNat ∧
        (s.boot.done = false → r.boot.resetDue.isSome = true ∧ r.boot.latched = some (n.toNat, s.boot.stage)) ∧
        (s.boot.done = true → r.boot.resetDue = s.boot.resetDue)) ∧
      exec (.bootFail 0) s = .next s ∧
      ∀ m : BitVec 8, s.boot.lantern = false → (∀ d, d < 8 → bitOf s.boot.dieMask d = true → bitOf m.toNat d = true) →
        ∃ r, exec (.bootDieRelease m) s = .next r ∧ r.boot.dieMask = m.toNat ∧ r.mem = s.mem ∧ r.tiles = s.tiles ∧
          r = { s with boot := { s.boot with dieMask := m.toNat }, links := r.links })

/-- A flash operation starts when none is in progress; programming or erasing the attempt-record sector is an error.
A read fills the buffer, a program turns bits from 1 to 0 in its page, an erase sets its 64 KiB to 0xFF; no
other byte of the flash changes. A verified bundle extends its measurement register only when it is accepted.
The fuses rise to the written number, only after the boot has succeeded and up to the running firmware's number,
and never fall. A quote starts for an aligned buffer in a tier and completes when nothing of it is outstanding.
Software extends only registers 8 to 15. (R535, R537, R538, R541, R543, R544, R545, R549.) -/
def Obligations.FlashFusesAndAttestation : Prop :=
  ∀ s : State, s.live = true →
    let b := s.boot
    (∀ i op, (i, op) ∈ [(Instr.bootFlashRead, 1), (Instr.bootFlashProgram, 2), (Instr.bootFlashErase, 3)] →
      (b.flashBusy = true → exec i s = .next s) ∧
      (b.flashBusy = false → (op = 1 ∨ 0x1_0000 ≤ b.flashAddr) → exec i s = .next { s with boot := { b with flashBusy := true, flashOp := op } }) ∧
      (b.flashBusy = false → op ≠ 1 → b.flashAddr < 0x1_0000 → exec i s = .next { s with boot := { b with flashError := true } })) ∧
    (b.flashBusy = true →
      ∃ r, exec (.flashOpComplete true) s = .next r ∧ r.boot.flashBusy = false ∧ r.boot.flashError = false ∧ r.mem = s.mem ∧
        (b.flashOp = 1 → r.boot.flash = b.flash ∧ ∀ i, i < 4096 → tget 0 r.boot.flashBuf i = tget 0xFF b.flash (b.flashAddr + i)) ∧
        (b.flashOp = 2 → ∀ o, tget 0xFF r.boot.flash o = if b.flashAddr ≤ o ∧ o < b.flashAddr + 4096
          then tget 0xFF b.flash o &&& tget 0 b.flashBuf (o - b.flashAddr) else tget 0xFF b.flash o) ∧
        (b.flashOp = 3 → ∀ o, tget 0xFF r.boot.flash o = if o / 0x1_0000 = b.flashAddr / 0x1_0000 then 0xFF else tget 0xFF b.flash o)) ∧
    (∀ o types, ∃ r, exec (.bundleVerify o types) s = .next r ∧ r.out.value = BitVec.ofNat 64 (bundleCheck s o types) ∧ r.mem = s.mem ∧
      r.boot = s.boot ∧
      (bundleCheck s o types ≠ 0 → r = { s with out := r.out }) ∧
      (bundleCheck s o types = 0 → (bundleAt b.flash o).type ≠ 1 →
        tget 0 r.sec.mreg (mregOf (bundleAt b.flash o).type) =
          Config.sha3 (bytes256 (tget 0 s.sec.mreg (mregOf (bundleAt b.flash o).type)) ++ bytes256 (bundleDigest b.flash o)) ∧
        ∀ i, i ≠ mregOf (bundleAt b.flash o).type → tget 0 r.sec.mreg i = tget 0 s.sec.mreg i)) ∧
    (∀ v : Word,
      let n := bitsOf v.toNat 0 7
      (∃ r, exec (.secSvnAdvWrite v) s = .next r ∧ s.sec.fuses ≤ r.sec.fuses ∧ r = { s with sec := r.sec }) ∧
      (b.done = true → b.lantern = false → n ≤ b.fwSvn →
        exec (.secSvnAdvWrite v) s = .next { s with sec := { s.sec with fuses := max s.sec.fuses (min n 64) } }) ∧
      (b.done = false ∨ b.lantern = true ∨ b.fwSvn < n →
        exec (.secSvnAdvWrite v) s = .next { s with sec := { s.sec with svnReject := true } })) ∧
    (s.sec.quoteBusy = true → exec .quoteStart s = .next s) ∧
    (s.sec.quoteBusy = false → inTier s.sec.quoteAddr 8052 = true → s.sec.quoteAddr % 128 = 0 →
      (∀ h, homeOf (s.sec.quoteAddr / 128) = some h → s.dieUp (1 + h) = true → ∃ r, exec .quoteStart s = .next r ∧ r.sec.quoteBusy = true ∧
        r.sec.quoteTxns ≠ [] ∧ r.mem = s.mem ∧ r.coh.caches = s.coh.caches)) ∧
    (s.sec.quoteBusy = false → inTier s.sec.quoteAddr 8052 = false →
      exec .quoteStart s = .next { s with sec := { s.sec with quoteError := true } }) ∧
    (s.sec.quoteBusy = true → s.sec.quoteTxns = [] → exec .quoteComplete s = .next { s with sec := { s.sec with quoteBusy := false } }) ∧
    ∀ v : Word,
      let i := bitsOf v.toNat 0 4
      (bitOf v.toNat 4 = true → 8 ≤ i → ∃ r, exec (.mregExtend v) s = .next r ∧ r = { s with sec := { s.sec with mreg := r.sec.mreg } } ∧
        (∀ j, j ≠ i → tget 0 r.sec.mreg j = tget 0 s.sec.mreg j) ∧
        tget 0 r.sec.mreg i = Config.sha3 (bytes256 (tget 0 s.sec.mreg i) ++ ((List.range 4).flatMap fun j => leBytes 8 (tget 0 s.sec.mext j).toNat))) ∧
      (bitOf v.toNat 4 = false ∨ i < 8 → exec (.mregExtend v) s = .next s)

/-- A read of a mapped register answers with its value and clears its RC fields. A narrow, misaligned or unmapped
read answers 0 and is recorded, and a write of that kind only is recorded; a record that stands is kept. A
hart's access to a die in reset raises an access fault. A write carried by Strings is one of source 2. Of two
writes of one cycle each field takes the one of higher rank, or else of the lower source, and a loser is
counted. SHARD_TABLE_WRITE and BOARD_ENTRY_WRITE change exactly their entry, and set the reject flag with no
other effect while a scene runs or where a fixed field would change. (R10, R11, R33, R34, R35, R248, R267, R268,
R323, R364, R423.) -/
def Obligations.RegisterAccessesFollowTheirRules : Prop :=
  (∀ (source : SourceId) (addr size : Nat) (die off : Nat) (v : Word) (s : State),
    let noted := fun (r : State) (kind : Nat) => (∀ d, d ≠ die → r.dieErr d = s.dieErr d) ∧
      r = { s with err := { s.err with dies := r.err.dies }, out := r.out } ∧
      ((s.dieErr die).regValid = false → ((r.dieErr die).regValid = true ∧ (r.dieErr die).regKind = kind ∧
        (r.dieErr die).regSource = source.val ∧ (r.dieErr die).regAddr = addr / 8 * 8))
    s.live = true → placeOf addr = .regs die off → interruptPage addr = false →
    (die ≠ 0 → s.dieUp die = false → source.val = 0 →
      exec (.registerRead source addr size) s = .next (s.reply { accessFault := true }) ∧
      exec (.registerWrite source addr size v []) s = .next (s.reply { accessFault := true })) ∧
    (die = 0 ∨ s.dieUp die = true →
      (size ≠ 8 ∨ addr % 8 ≠ 0 → (∃ r, exec (.registerRead source addr size) s = .next r ∧ noted r 1 ∧ r.out.value = 0) ∧
        (∃ r, exec (.registerWrite source addr size v []) s = .next r ∧ noted r 1 ∧ r.out = s.out)) ∧
      (size = 8 → addr % 8 = 0 → registerAt die off s = none →
        (∃ r, exec (.registerRead source addr size) s = .next r ∧ noted r 0 ∧ r.out.value = 0) ∧
        (∃ r, exec (.registerWrite source addr size v []) s = .next r ∧ noted r 0 ∧ r.out = s.out)) ∧
      (size = 8 → addr % 8 = 0 → ∀ g, registerAt die off s = some g →
        exec (.registerRead source addr size) s = .next ((g.clear s).reply ⟨BitVec.ofNat 64 g.read, [], false, false⟩))) ∧
    (∀ others, exec (.carriedRegisterWrite addr v others) s = exec (.registerWrite 2 addr 8 v others) s)) ∧
  (∀ (f : RegField) (a b : Nat × Nat), f.acc ≠ .w1c → a.1 < b.1 → f.merged [a, b] =
    if f.rank (bitsOf a.2 f.lo f.n) < f.rank (bitsOf b.2 f.lo f.n) then bitsOf b.2 f.lo f.n else bitsOf a.2 f.lo f.n) ∧
  (∀ (g : GrottoId) (i : Fin 4096) (reg : Fin 8) (v : Word) (s : State),
    let x := s.shard g i
    let w := v.toNat
    let running := ∃ tr, s.image.unitTroupe (64 + g.val) = some tr ∧ ((s.troupe tr).state = 1 ∨ (s.troupe tr).state = 2)
    let takes := fun (y : Shard) => exec (.shardTableWrite g i reg v) s = .next (s.modShard g i fun _ => y)
    let rejects := exec (.shardTableWrite g i reg v) s = .next (s.modGrot g fun x => { x with reject := true })
    s.live = true →
    (running → rejects) ∧
    (¬ running →
      (reg.val = 0 → takes { x with base0 := w }) ∧ (reg.val = 1 → takes { x with base1 := w }) ∧
      (reg.val = 2 → takes { x with bytes := w }) ∧ (reg.val = 3 → takes { x with tensorId := w % 2 ^ 56 }) ∧
      (reg.val = 4 → takes { x with freeze := w % 2 ^ 48, freezeMode := bitsOf w 48 2 }) ∧
      (reg.val = 5 → x.valid = true → w % 2 ^ 32 ≠ x.gen → rejects) ∧
      (reg.val = 5 → bitOf w 33 ≠ x.dirty ∨ bitOf w 34 ≠ x.initialised → rejects) ∧
      (reg.val = 5 → bitOf w 33 = x.dirty → bitOf w 34 = x.initialised → x.valid = true → w % 2 ^ 32 = x.gen → takes { x with valid := bitOf w 32 }) ∧
      (reg.val = 5 → bitOf w 33 = x.dirty → bitOf w 34 = x.initialised → x.valid = false → bitOf w 32 = true → takes { x with
        gen := w % 2 ^ 32, valid := true, dirty := false, initialised := false, digestA := 0, digestI := 0, headDigest := 0 }) ∧
      (reg.val = 5 → bitOf w 33 = x.dirty → bitOf w 34 = x.initialised → x.valid = false → bitOf w 32 = false → takes { x with gen := w % 2 ^ 32 }) ∧
      (6 ≤ reg.val → rejects))) ∧
  ∀ (n : Fin 1024) (v : Word) (s : State),
    let x := s.boardEntry n
    let w := v.toNat
    let y := { x with tag := bitsOf w 52 12, flow := bitsOf w 32 18, lines := bitsOf w 0 32 }
    let rejects := fun (k : Fin 2) => exec (.boardEntryWrite n k v) s = .next { s with tag := { s.tag with reject := true } }
    s.live = true →
    ((∃ f, s.image.flowRec x.flow = some f ∧ ((s.troupe f.troupe).state = 1 ∨ (s.troupe f.troupe).state = 2)) → rejects 0 ∧ rejects 1) ∧
    (s.image.flowRec x.flow = none →
      (x.valid = true → bitsOf w 0 32 ≠ x.key → rejects 0) ∧ (x.valid = true → y ≠ x → rejects 1) ∧
      (x.valid = false → bitOf w 63 = true → exec (.boardEntryWrite n 0 v) s = .next (s.modBoard n fun _ =>
        { x with valid := true, key := bitsOf w 0 32, matched := 0 })) ∧
      (x.valid = false → exec (.boardEntryWrite n 1 v) s = .next (s.modBoard n fun _ => y)) ∧
      (x.valid = true → bitsOf w 0 32 = x.key → exec (.boardEntryWrite n 0 v) s = .next (s.modBoard n fun _ => { x with valid := bitOf w 63 })))
end

