-- ==== Sys2Proof/Laws/Tables.lean ====
section
/-! SUPPORT. The laws of the sparse tables: an entry read after an entry was set, changed or deleted. -/

namespace Sys2Proof.Machine

variable {α : Type} (d : α) (t : Tbl α) (k j : Nat) (v : α) (f : α → α)

@[simp] theorem tget_nil : tget d ([] : Tbl α) k = d := rfl

/-- An entry reads as it was set. -/
@[simp] theorem tget_tset_same : tget d (tset t k v) k = v := by
  induction t with
  | nil => simp [tset, tget]
  | cons p t ih =>
    obtain ⟨a, b⟩ := p
    simp only [tset]
    split
    · simp [tget]
    · split
      · simp [tget]
      · next h => simp [tget, h, ih]

/-- Setting an entry leaves every other entry alone. -/
theorem tget_tset_ne (h : j ≠ k) : tget d (tset t k v) j = tget d t j := by
  induction t with
  | nil => simp [tset, tget, h]
  | cons p t ih =>
    obtain ⟨a, b⟩ := p
    simp only [tset]
    split
    · simp [tget, h]
    · split
      · next hk => subst hk; simp [tget, h]
      · simp [tget, ih]

/-- Both laws at once. -/
theorem tget_tset : tget d (tset t k v) j = if j = k then v else tget d t j := by
  split
  · next h => subst h; simp
  · next h => exact tget_tset_ne d t k j v h

@[simp] theorem tget_tmod_same : tget d (tmod d t k f) k = f (tget d t k) := by simp [tmod]

theorem tget_tmod_ne (h : j ≠ k) : tget d (tmod d t k f) j = tget d t j := by
  simp [tmod, tget_tset_ne, h]

/-- A deleted entry reads as the default. -/
@[simp] theorem tget_tdel_same : tget d (tdel t k) k = d := by
  induction t with
  | nil => rfl
  | cons p t ih =>
    obtain ⟨a, b⟩ := p
    simp only [tdel]
    split
    · exact ih
    · next h => simp [tget, h, ih]

/-- Deleting an entry leaves every other entry alone. -/
theorem tget_tdel_ne (h : j ≠ k) : tget d (tdel t k) j = tget d t j := by
  induction t with
  | nil => rfl
  | cons p t ih =>
    obtain ⟨a, b⟩ := p
    simp only [tdel]
    split
    · next hk => subst hk; simp [tget, h, ih]
    · simp [tget, ih]

end Sys2Proof.Machine
end

