-- ==== Sys2Proof/Laws/Memory.lean ====
section
/-! SUPPORT. The laws of memory: a byte read after a write, and the canonical form, which every memory operation
keeps. -/

namespace Sys2Proof.Machine

open Sys2Proof

/-! ### Reading after writing -/

theorem memRead_memErase (m : List Host.Cell) (a x : Nat) :
    memRead (memErase m a) x = if x = a then unlisted else memRead m x := by
  induction m with
  | nil => simp [memErase, memRead]
  | cons c t ih =>
    obtain ⟨k, v⟩ := c
    simp only [memErase]
    split
    · next h => subst h; rw [ih]; simp only [memRead]; split <;> simp_all
    · next h =>
      simp only [memRead, ih]
      split <;> split <;> simp_all

theorem memRead_memInsert (m : List Host.Cell) (a x : Nat) (b : Byte) (h : memRead m a = unlisted)
    (hn : ∀ c ∈ m, c.1 ≠ a) : memRead (memInsert m a b) x = if x = a then b else memRead m x := by
  induction m with
  | nil => simp [memInsert, memRead]
  | cons c t ih =>
    obtain ⟨k, v⟩ := c
    have hk : k ≠ a := hn (k, v) (by simp)
    have ht : memRead t a = unlisted := by simpa [memRead, hk.symm] using h
    simp only [memInsert]
    split
    · simp [memRead]
    · simp only [memRead, ih ht (fun c hc => hn c (by simp [hc]))]
      split <;> split <;> simp_all

theorem memErase_free (m : List Host.Cell) (a : Nat) : ∀ c ∈ memErase m a, c.1 ≠ a := by
  induction m with
  | nil => simp [memErase]
  | cons c t ih =>
    obtain ⟨k, v⟩ := c
    simp only [memErase]
    split
    · exact ih
    · next h => simp only [List.mem_cons]; rintro c (rfl | hc); exacts [fun e => h e.symm, ih c hc]

/-- A byte reads as it was written, and a write of one byte leaves every other byte alone. -/
theorem memRead_memWrite (m : List Host.Cell) (a x : Nat) (b : Byte) :
    memRead (memWrite m a b) x = if x = a then b else memRead m x := by
  unfold memWrite
  split
  · next h => rw [memRead_memErase, h]
  · rw [memRead_memInsert _ _ _ _ (by simp [memRead_memErase]) (memErase_free m a), memRead_memErase]
    split <;> rfl

/-- Writing bytes from a leaves every byte outside them alone. -/
theorem memRead_memWrites_out (m : List Host.Cell) (a x : Nat) (bs : List Byte)
    (h : x < a ∨ a + bs.length ≤ x) : memRead (memWrites m a bs) x = memRead m x := by
  induction bs generalizing m a with
  | nil => rfl
  | cons b bs ih =>
    simp only [List.length_cons] at h
    rw [memWrites, ih _ _ (by omega), memRead_memWrite, if_neg (by omega)]

/-- A byte of a write reads as it was written. -/
theorem memRead_memWrites_in (m : List Host.Cell) (a i : Nat) (bs : List Byte) (h : i < bs.length) :
    memRead (memWrites m a bs) (a + i) = bs[i] := by
  induction bs generalizing m a i with
  | nil => simp at h
  | cons b bs ih =>
    cases i with
    | zero =>
      rw [memWrites, memRead_memWrites_out _ _ _ _ (Or.inl (by omega)), memRead_memWrite]
      simp
    | succ i =>
      have e : a + (i + 1) = a + 1 + i := by omega
      rw [memWrites, e, ih _ _ _ (by simpa using h)]
      rfl

@[simp] theorem memReads_length (m : List Host.Cell) (a n : Nat) : (memReads m a n).length = n := by
  induction n generalizing a with
  | zero => rfl
  | succ n ih => simp [memReads, ih]

/-- The bytes written are the bytes read. -/
theorem memReads_memWrites (m : List Host.Cell) (a : Nat) (bs : List Byte) :
    memReads (memWrites m a bs) a bs.length = bs := by
  induction bs generalizing m a with
  | nil => rfl
  | cons b bs ih =>
    simp only [List.length_cons, memReads]
    have h := memRead_memWrites_in m a 0 (b :: bs) (by simp)
    simp only [Nat.add_zero, List.getElem_cons_zero] at h
    rw [h, memWrites, ih]

/-- A masked write leaves every byte outside its range alone. -/
theorem memRead_memMasked_out (m : List Host.Cell) (a x : Nat) (bs : List Byte) (ks : List Bool)
    (h : x < a ∨ a + bs.length ≤ x) : memRead (memMasked m a bs ks) x = memRead m x := by
  induction bs generalizing m a ks with
  | nil => cases ks <;> rfl
  | cons b bs ih =>
    cases ks with
    | nil => rfl
    | cons k ks =>
      simp only [List.length_cons] at h
      rw [memMasked, ih _ _ _ (by omega)]
      split
      · rw [memRead_memWrite, if_neg (by omega)]
      · rfl

/-! ### The canonical form -/

/-- The canonical form, in the words of lists. -/
theorem Memory.wf_iff (m : List Host.Cell) :
    Memory.wf m = true ↔ m.Pairwise (fun x y => x.1 < y.1) ∧ ∀ c ∈ m, c.2 ≠ unlisted := by
  induction m with
  | nil => simp [Memory.wf]
  | cons c t ih =>
    obtain ⟨k, v⟩ := c
    cases t with
    | nil => simp [Memory.wf]
    | cons c' t =>
      obtain ⟨k', v'⟩ := c'
      simp only [Memory.wf, Bool.and_eq_true, bne_iff_ne, decide_eq_true_eq, ih]
      constructor
      · rintro ⟨⟨hv, hk⟩, hp, hc⟩
        refine ⟨List.pairwise_cons.2 ⟨fun c hc' => ?_, hp⟩, fun c hc' => ?_⟩
        · rcases List.mem_cons.1 hc' with rfl | h
          · exact hk
          · exact Nat.lt_trans hk ((List.pairwise_cons.1 hp).1 c h)
        · rcases List.mem_cons.1 hc' with rfl | h
          · exact hv
          · exact hc c h
      · rintro ⟨hp, hc⟩
        obtain ⟨h1, h2⟩ := List.pairwise_cons.1 hp
        exact ⟨⟨hc (k, v) (by simp), h1 (k', v') (by simp)⟩, h2, fun c h => hc c (List.mem_cons_of_mem _ h)⟩

theorem memErase_eq (m : List Host.Cell) (a : Nat) : memErase m a = m.filter fun c => decide (c.1 ≠ a) := by
  induction m with
  | nil => rfl
  | cons c t ih =>
    obtain ⟨k, v⟩ := c
    simp only [memErase, ih]
    split
    · next h => subst h; simp
    · next h => simp [Ne.symm h]

theorem memErase_wf (m : List Host.Cell) (a : Nat) (h : Memory.wf m = true) : Memory.wf (memErase m a) = true := by
  rw [Memory.wf_iff] at *
  rw [memErase_eq]
  exact ⟨h.1.filter _, fun c hc => h.2 c (List.mem_of_mem_filter hc)⟩

theorem mem_memInsert (m : List Host.Cell) (a : Nat) (b : Byte) (c : Host.Cell) :
    c ∈ memInsert m a b ↔ c = (a, b) ∨ c ∈ m := by
  induction m with
  | nil => simp [memInsert]
  | cons c' t ih =>
    obtain ⟨k, v⟩ := c'
    simp only [memInsert]
    split
    · simp
    · simp only [List.mem_cons, ih]; tauto

theorem memInsert_wf (m : List Host.Cell) (a : Nat) (b : Byte) (hb : b ≠ unlisted) (hn : ∀ c ∈ m, c.1 ≠ a)
    (h : Memory.wf m = true) : Memory.wf (memInsert m a b) = true := by
  rw [Memory.wf_iff] at *
  refine ⟨?_, fun c hc => ?_⟩
  · induction m with
    | nil => simp [memInsert]
    | cons c' t ih =>
      obtain ⟨k, v⟩ := c'
      obtain ⟨h1, h2⟩ := List.pairwise_cons.1 h.1
      have hk : k ≠ a := hn (k, v) (by simp)
      simp only [memInsert]
      split
      · next hlt =>
        refine List.pairwise_cons.2 ⟨fun c hc => ?_, h.1⟩
        rcases List.mem_cons.1 hc with rfl | hc
        · exact hlt
        · exact Nat.lt_trans hlt (h1 c hc)
      · refine List.pairwise_cons.2 ⟨fun c hc => ?_, ih (fun c hc => hn c (by simp [hc]))
          ⟨h2, fun c hc => h.2 c (by simp [hc])⟩⟩
        rcases (mem_memInsert t a b c).1 hc with rfl | hc
        · show k < a; omega
        · exact h1 c hc
  · rcases (mem_memInsert m a b c).1 hc with rfl | hc
    · exact hb
    · exact h.2 c hc

/-- A write of one byte keeps the canonical form. -/
theorem memWrite_wf (m : List Host.Cell) (a : Nat) (b : Byte) (h : Memory.wf m = true) :
    Memory.wf (memWrite m a b) = true := by
  unfold memWrite
  split
  · exact memErase_wf m a h
  · next hb => exact memInsert_wf _ a b hb (memErase_free m a) (memErase_wf m a h)

/-- A write of bytes keeps the canonical form. -/
theorem memWrites_wf (m : List Host.Cell) (a : Nat) (bs : List Byte) (h : Memory.wf m = true) :
    Memory.wf (memWrites m a bs) = true := by
  induction bs generalizing m a with
  | nil => exact h
  | cons b bs ih => exact ih _ _ (memWrite_wf m a b h)

/-- A masked write keeps the canonical form. -/
theorem memMasked_wf (m : List Host.Cell) (a : Nat) (bs : List Byte) (ks : List Bool) (h : Memory.wf m = true) :
    Memory.wf (memMasked m a bs ks) = true := by
  induction bs generalizing m a ks with
  | nil => cases ks <;> exact h
  | cons b bs ih =>
    cases ks with
    | nil => exact h
    | cons k ks =>
      rw [memMasked]
      apply ih
      split
      · exact memWrite_wf m a b h
      · exact h

/-- The free bytes of a range, as cells. -/
theorem freeCells_mem (base len k : Nat) (c : Host.Cell)
    (h : c ∈ (List.range len).filterMap fun i =>
      if Config.freeByte k (base + i) = unlisted then none else some (base + i, Config.freeByte k (base + i))) :
    base ≤ c.1 ∧ c.1 < base + len ∧ c.2 ≠ unlisted := by
  obtain ⟨i, hi, hc⟩ := List.mem_filterMap.1 h
  have hl := List.mem_range.1 hi
  split at hc
  · exact absurd hc (by simp)
  · next hne =>
    obtain rfl := Option.some.inj hc
    exact ⟨by simp, by simpa using hl, hne⟩

/-- Bytes that become free keep the canonical form. -/
theorem memFree_wf (m : List Host.Cell) (base len k : Nat) (h : Memory.wf m = true) :
    Memory.wf (memFree m base len k) = true := by
  rw [Memory.wf_iff] at *
  unfold memFree
  refine ⟨?_, ?_⟩
  · rw [List.pairwise_append, List.pairwise_append]
    refine ⟨⟨h.1.filter _, ?_, ?_⟩, h.1.filter _, ?_⟩
    · rw [List.pairwise_filterMap]
      refine List.Pairwise.imp (fun {i j} (hij : i < j) => ?_) List.pairwise_lt_range
      intro b hb b' hb'
      split at hb <;> simp at hb
      split at hb' <;> simp at hb'
      subst hb hb'
      simpa using hij
    · intro x hx y hy
      have hx' := List.mem_filter.1 hx
      have := (freeCells_mem base len k y hy).1
      have : x.1 < base := by simpa using hx'.2
      omega
    · intro x hx y hy
      have hy' : base + len ≤ y.1 := by simpa using (List.mem_filter.1 hy).2
      rcases List.mem_append.1 hx with hx | hx
      · have : x.1 < base := by simpa using (List.mem_filter.1 hx).2
        omega
      · have := (freeCells_mem base len k x hx).2.1
        omega
  · intro c hc
    rcases List.mem_append.1 hc with hc | hc
    · rcases List.mem_append.1 hc with hc | hc
      · exact h.2 c (List.mem_of_mem_filter hc)
      · exact (freeCells_mem base len k c hc).2.2
    · exact h.2 c (List.mem_of_mem_filter hc)

theorem State.store_wf (s : State) (a : Nat) (bs : List Byte) (h : Memory.wf s.mem = true) :
    Memory.wf (s.store a bs).mem = true := memWrites_wf s.mem a bs h

theorem State.freeFill_wf (s : State) (base len : Nat) (h : Memory.wf s.mem = true) :
    Memory.wf (s.freeFill base len).mem = true := memFree_wf s.mem base len s.fresh h

end Sys2Proof.Machine
end

