-- ==== Sys2Proof/Laws/State.lean ====
section
/-! SUPPORT. What each update of the state writes: one lemma for each field and update, and what the part that was
changed, and every other part of its kind, reads as afterwards. -/

namespace Sys2Proof.Machine

variable (s : State)

section
variable (t : Nat) (f : Tile → Tile)

@[simp] theorem State.modTile_pending : (s.modTile t f).pending = s.pending := rfl
@[simp] theorem State.modTile_fresh : (s.modTile t f).fresh = s.fresh := rfl
@[simp] theorem State.modTile_out : (s.modTile t f).out = s.out := rfl
@[simp] theorem State.modTile_time : (s.modTile t f).time = s.time := rfl
@[simp] theorem State.modTile_mem : (s.modTile t f).mem = s.mem := rfl
@[simp] theorem State.modTile_err : (s.modTile t f).err = s.err := rfl
@[simp] theorem State.modTile_conflict : (s.modTile t f).conflict = s.conflict := rfl
@[simp] theorem State.modTile_links : (s.modTile t f).links = s.links := rfl
@[simp] theorem State.modTile_img : (s.modTile t f).img = s.img := rfl
@[simp] theorem State.modTile_troupes : (s.modTile t f).troupes = s.troupes := rfl
@[simp] theorem State.modTile_waits : (s.modTile t f).waits = s.waits := rfl
@[simp] theorem State.modTile_tokens : (s.modTile t f).tokens = s.tokens := rfl
@[simp] theorem State.modTile_tiles : (s.modTile t f).tiles = tmod {} s.tiles t f := rfl
@[simp] theorem State.modTile_str : (s.modTile t f).str = s.str := rfl
@[simp] theorem State.modTile_tel : (s.modTile t f).tel = s.tel := rfl
@[simp] theorem State.modTile_mems : (s.modTile t f).mems = s.mems := rfl
@[simp] theorem State.modTile_fab : (s.modTile t f).fab = s.fab := rfl
@[simp] theorem State.modTile_tag : (s.modTile t f).tag = s.tag := rfl
@[simp] theorem State.modTile_reds : (s.modTile t f).reds = s.reds := rfl
@[simp] theorem State.modTile_grots : (s.modTile t f).grots = s.grots := rfl
@[simp] theorem State.modTile_pubs : (s.modTile t f).pubs = s.pubs := rfl
@[simp] theorem State.modTile_coh : (s.modTile t f).coh = s.coh := rfl
@[simp] theorem State.modTile_wins : (s.modTile t f).wins = s.wins := rfl
@[simp] theorem State.modTile_queues : (s.modTile t f).queues = s.queues := rfl
@[simp] theorem State.modTile_plc : (s.modTile t f).plc = s.plc := rfl
@[simp] theorem State.modTile_host : (s.modTile t f).host = s.host := rfl
@[simp] theorem State.modTile_dats : (s.modTile t f).dats = s.dats := rfl
@[simp] theorem State.modTile_codecs : (s.modTile t f).codecs = s.codecs := rfl
@[simp] theorem State.modTile_clk : (s.modTile t f).clk = s.clk := rfl
@[simp] theorem State.modTile_boot : (s.modTile t f).boot = s.boot := rfl
@[simp] theorem State.modTile_sec : (s.modTile t f).sec = s.sec := rfl
@[simp] theorem State.modTile_fences : (s.modTile t f).fences = s.fences := rfl
@[simp] theorem State.modTile_elec : (s.modTile t f).elec = s.elec := rfl
@[simp] theorem State.tile_modTile_same : (s.modTile t f).tile t = f (s.tile t) := tget_tmod_same _ _ _ _
theorem State.tile_modTile_ne (j : Nat) (hj : j ≠ t) : (s.modTile t f).tile j = s.tile j :=
  tget_tmod_ne _ _ _ _ _ hj
end

section
variable (i : Nat) (f : Troupe → Troupe)

@[simp] theorem State.modTroupe_pending : (s.modTroupe i f).pending = s.pending := rfl
@[simp] theorem State.modTroupe_fresh : (s.modTroupe i f).fresh = s.fresh := rfl
@[simp] theorem State.modTroupe_out : (s.modTroupe i f).out = s.out := rfl
@[simp] theorem State.modTroupe_time : (s.modTroupe i f).time = s.time := rfl
@[simp] theorem State.modTroupe_mem : (s.modTroupe i f).mem = s.mem := rfl
@[simp] theorem State.modTroupe_err : (s.modTroupe i f).err = s.err := rfl
@[simp] theorem State.modTroupe_conflict : (s.modTroupe i f).conflict = s.conflict := rfl
@[simp] theorem State.modTroupe_links : (s.modTroupe i f).links = s.links := rfl
@[simp] theorem State.modTroupe_img : (s.modTroupe i f).img = s.img := rfl
@[simp] theorem State.modTroupe_troupes : (s.modTroupe i f).troupes = tmod {} s.troupes i f := rfl
@[simp] theorem State.modTroupe_waits : (s.modTroupe i f).waits = s.waits := rfl
@[simp] theorem State.modTroupe_tokens : (s.modTroupe i f).tokens = s.tokens := rfl
@[simp] theorem State.modTroupe_tiles : (s.modTroupe i f).tiles = s.tiles := rfl
@[simp] theorem State.modTroupe_str : (s.modTroupe i f).str = s.str := rfl
@[simp] theorem State.modTroupe_tel : (s.modTroupe i f).tel = s.tel := rfl
@[simp] theorem State.modTroupe_mems : (s.modTroupe i f).mems = s.mems := rfl
@[simp] theorem State.modTroupe_fab : (s.modTroupe i f).fab = s.fab := rfl
@[simp] theorem State.modTroupe_tag : (s.modTroupe i f).tag = s.tag := rfl
@[simp] theorem State.modTroupe_reds : (s.modTroupe i f).reds = s.reds := rfl
@[simp] theorem State.modTroupe_grots : (s.modTroupe i f).grots = s.grots := rfl
@[simp] theorem State.modTroupe_pubs : (s.modTroupe i f).pubs = s.pubs := rfl
@[simp] theorem State.modTroupe_coh : (s.modTroupe i f).coh = s.coh := rfl
@[simp] theorem State.modTroupe_wins : (s.modTroupe i f).wins = s.wins := rfl
@[simp] theorem State.modTroupe_queues : (s.modTroupe i f).queues = s.queues := rfl
@[simp] theorem State.modTroupe_plc : (s.modTroupe i f).plc = s.plc := rfl
@[simp] theorem State.modTroupe_host : (s.modTroupe i f).host = s.host := rfl
@[simp] theorem State.modTroupe_dats : (s.modTroupe i f).dats = s.dats := rfl
@[simp] theorem State.modTroupe_codecs : (s.modTroupe i f).codecs = s.codecs := rfl
@[simp] theorem State.modTroupe_clk : (s.modTroupe i f).clk = s.clk := rfl
@[simp] theorem State.modTroupe_boot : (s.modTroupe i f).boot = s.boot := rfl
@[simp] theorem State.modTroupe_sec : (s.modTroupe i f).sec = s.sec := rfl
@[simp] theorem State.modTroupe_fences : (s.modTroupe i f).fences = s.fences := rfl
@[simp] theorem State.modTroupe_elec : (s.modTroupe i f).elec = s.elec := rfl
@[simp] theorem State.troupe_modTroupe_same : (s.modTroupe i f).troupe i = f (s.troupe i) := tget_tmod_same _ _ _ _
theorem State.troupe_modTroupe_ne (j : Nat) (hj : j ≠ i) : (s.modTroupe i f).troupe j = s.troupe j :=
  tget_tmod_ne _ _ _ _ _ hj
end

section
variable (c : Nat) (f : Token → Token)

@[simp] theorem State.modToken_pending : (s.modToken c f).pending = s.pending := rfl
@[simp] theorem State.modToken_fresh : (s.modToken c f).fresh = s.fresh := rfl
@[simp] theorem State.modToken_out : (s.modToken c f).out = s.out := rfl
@[simp] theorem State.modToken_time : (s.modToken c f).time = s.time := rfl
@[simp] theorem State.modToken_mem : (s.modToken c f).mem = s.mem := rfl
@[simp] theorem State.modToken_err : (s.modToken c f).err = s.err := rfl
@[simp] theorem State.modToken_conflict : (s.modToken c f).conflict = s.conflict := rfl
@[simp] theorem State.modToken_links : (s.modToken c f).links = s.links := rfl
@[simp] theorem State.modToken_img : (s.modToken c f).img = s.img := rfl
@[simp] theorem State.modToken_troupes : (s.modToken c f).troupes = s.troupes := rfl
@[simp] theorem State.modToken_waits : (s.modToken c f).waits = s.waits := rfl
@[simp] theorem State.modToken_tokens : (s.modToken c f).tokens = tmod {} s.tokens c f := rfl
@[simp] theorem State.modToken_tiles : (s.modToken c f).tiles = s.tiles := rfl
@[simp] theorem State.modToken_str : (s.modToken c f).str = s.str := rfl
@[simp] theorem State.modToken_tel : (s.modToken c f).tel = s.tel := rfl
@[simp] theorem State.modToken_mems : (s.modToken c f).mems = s.mems := rfl
@[simp] theorem State.modToken_fab : (s.modToken c f).fab = s.fab := rfl
@[simp] theorem State.modToken_tag : (s.modToken c f).tag = s.tag := rfl
@[simp] theorem State.modToken_reds : (s.modToken c f).reds = s.reds := rfl
@[simp] theorem State.modToken_grots : (s.modToken c f).grots = s.grots := rfl
@[simp] theorem State.modToken_pubs : (s.modToken c f).pubs = s.pubs := rfl
@[simp] theorem State.modToken_coh : (s.modToken c f).coh = s.coh := rfl
@[simp] theorem State.modToken_wins : (s.modToken c f).wins = s.wins := rfl
@[simp] theorem State.modToken_queues : (s.modToken c f).queues = s.queues := rfl
@[simp] theorem State.modToken_plc : (s.modToken c f).plc = s.plc := rfl
@[simp] theorem State.modToken_host : (s.modToken c f).host = s.host := rfl
@[simp] theorem State.modToken_dats : (s.modToken c f).dats = s.dats := rfl
@[simp] theorem State.modToken_codecs : (s.modToken c f).codecs = s.codecs := rfl
@[simp] theorem State.modToken_clk : (s.modToken c f).clk = s.clk := rfl
@[simp] theorem State.modToken_boot : (s.modToken c f).boot = s.boot := rfl
@[simp] theorem State.modToken_sec : (s.modToken c f).sec = s.sec := rfl
@[simp] theorem State.modToken_fences : (s.modToken c f).fences = s.fences := rfl
@[simp] theorem State.modToken_elec : (s.modToken c f).elec = s.elec := rfl
@[simp] theorem State.token_modToken_same : (s.modToken c f).token c = f (s.token c) := tget_tmod_same _ _ _ _
theorem State.token_modToken_ne (j : Nat) (hj : j ≠ c) : (s.modToken c f).token j = s.token j :=
  tget_tmod_ne _ _ _ _ _ hj
end

section
variable (u : Nat) (w : Option WaitRec)

@[simp] theorem State.setWait_pending : (s.setWait u w).pending = s.pending := rfl
@[simp] theorem State.setWait_fresh : (s.setWait u w).fresh = s.fresh := rfl
@[simp] theorem State.setWait_out : (s.setWait u w).out = s.out := rfl
@[simp] theorem State.setWait_time : (s.setWait u w).time = s.time := rfl
@[simp] theorem State.setWait_mem : (s.setWait u w).mem = s.mem := rfl
@[simp] theorem State.setWait_err : (s.setWait u w).err = s.err := rfl
@[simp] theorem State.setWait_conflict : (s.setWait u w).conflict = s.conflict := rfl
@[simp] theorem State.setWait_links : (s.setWait u w).links = s.links := rfl
@[simp] theorem State.setWait_img : (s.setWait u w).img = s.img := rfl
@[simp] theorem State.setWait_troupes : (s.setWait u w).troupes = s.troupes := rfl
@[simp] theorem State.setWait_waits : (s.setWait u w).waits = tset s.waits u w := rfl
@[simp] theorem State.setWait_tokens : (s.setWait u w).tokens = s.tokens := rfl
@[simp] theorem State.setWait_tiles : (s.setWait u w).tiles = s.tiles := rfl
@[simp] theorem State.setWait_str : (s.setWait u w).str = s.str := rfl
@[simp] theorem State.setWait_tel : (s.setWait u w).tel = s.tel := rfl
@[simp] theorem State.setWait_mems : (s.setWait u w).mems = s.mems := rfl
@[simp] theorem State.setWait_fab : (s.setWait u w).fab = s.fab := rfl
@[simp] theorem State.setWait_tag : (s.setWait u w).tag = s.tag := rfl
@[simp] theorem State.setWait_reds : (s.setWait u w).reds = s.reds := rfl
@[simp] theorem State.setWait_grots : (s.setWait u w).grots = s.grots := rfl
@[simp] theorem State.setWait_pubs : (s.setWait u w).pubs = s.pubs := rfl
@[simp] theorem State.setWait_coh : (s.setWait u w).coh = s.coh := rfl
@[simp] theorem State.setWait_wins : (s.setWait u w).wins = s.wins := rfl
@[simp] theorem State.setWait_queues : (s.setWait u w).queues = s.queues := rfl
@[simp] theorem State.setWait_plc : (s.setWait u w).plc = s.plc := rfl
@[simp] theorem State.setWait_host : (s.setWait u w).host = s.host := rfl
@[simp] theorem State.setWait_dats : (s.setWait u w).dats = s.dats := rfl
@[simp] theorem State.setWait_codecs : (s.setWait u w).codecs = s.codecs := rfl
@[simp] theorem State.setWait_clk : (s.setWait u w).clk = s.clk := rfl
@[simp] theorem State.setWait_boot : (s.setWait u w).boot = s.boot := rfl
@[simp] theorem State.setWait_sec : (s.setWait u w).sec = s.sec := rfl
@[simp] theorem State.setWait_fences : (s.setWait u w).fences = s.fences := rfl
@[simp] theorem State.setWait_elec : (s.setWait u w).elec = s.elec := rfl
@[simp] theorem State.wait_setWait_same : (s.setWait u w).wait u = w := tget_tset_same _ _ _ _
theorem State.wait_setWait_ne (j : Nat) (hj : j ≠ u) : (s.setWait u w).wait j = s.wait j :=
  tget_tset_ne _ _ _ _ _ hj
end

section
variable (d : Nat) (f : DieErr → DieErr)

@[simp] theorem State.modDieErr_pending : (s.modDieErr d f).pending = s.pending := rfl
@[simp] theorem State.modDieErr_fresh : (s.modDieErr d f).fresh = s.fresh := rfl
@[simp] theorem State.modDieErr_out : (s.modDieErr d f).out = s.out := rfl
@[simp] theorem State.modDieErr_time : (s.modDieErr d f).time = s.time := rfl
@[simp] theorem State.modDieErr_mem : (s.modDieErr d f).mem = s.mem := rfl
@[simp] theorem State.modDieErr_err : (s.modDieErr d f).err = { s.err with dies := tmod {} s.err.dies d f } := rfl
@[simp] theorem State.modDieErr_conflict : (s.modDieErr d f).conflict = s.conflict := rfl
@[simp] theorem State.modDieErr_links : (s.modDieErr d f).links = s.links := rfl
@[simp] theorem State.modDieErr_img : (s.modDieErr d f).img = s.img := rfl
@[simp] theorem State.modDieErr_troupes : (s.modDieErr d f).troupes = s.troupes := rfl
@[simp] theorem State.modDieErr_waits : (s.modDieErr d f).waits = s.waits := rfl
@[simp] theorem State.modDieErr_tokens : (s.modDieErr d f).tokens = s.tokens := rfl
@[simp] theorem State.modDieErr_tiles : (s.modDieErr d f).tiles = s.tiles := rfl
@[simp] theorem State.modDieErr_str : (s.modDieErr d f).str = s.str := rfl
@[simp] theorem State.modDieErr_tel : (s.modDieErr d f).tel = s.tel := rfl
@[simp] theorem State.modDieErr_mems : (s.modDieErr d f).mems = s.mems := rfl
@[simp] theorem State.modDieErr_fab : (s.modDieErr d f).fab = s.fab := rfl
@[simp] theorem State.modDieErr_tag : (s.modDieErr d f).tag = s.tag := rfl
@[simp] theorem State.modDieErr_reds : (s.modDieErr d f).reds = s.reds := rfl
@[simp] theorem State.modDieErr_grots : (s.modDieErr d f).grots = s.grots := rfl
@[simp] theorem State.modDieErr_pubs : (s.modDieErr d f).pubs = s.pubs := rfl
@[simp] theorem State.modDieErr_coh : (s.modDieErr d f).coh = s.coh := rfl
@[simp] theorem State.modDieErr_wins : (s.modDieErr d f).wins = s.wins := rfl
@[simp] theorem State.modDieErr_queues : (s.modDieErr d f).queues = s.queues := rfl
@[simp] theorem State.modDieErr_plc : (s.modDieErr d f).plc = s.plc := rfl
@[simp] theorem State.modDieErr_host : (s.modDieErr d f).host = s.host := rfl
@[simp] theorem State.modDieErr_dats : (s.modDieErr d f).dats = s.dats := rfl
@[simp] theorem State.modDieErr_codecs : (s.modDieErr d f).codecs = s.codecs := rfl
@[simp] theorem State.modDieErr_clk : (s.modDieErr d f).clk = s.clk := rfl
@[simp] theorem State.modDieErr_boot : (s.modDieErr d f).boot = s.boot := rfl
@[simp] theorem State.modDieErr_sec : (s.modDieErr d f).sec = s.sec := rfl
@[simp] theorem State.modDieErr_fences : (s.modDieErr d f).fences = s.fences := rfl
@[simp] theorem State.modDieErr_elec : (s.modDieErr d f).elec = s.elec := rfl
@[simp] theorem State.dieErr_modDieErr_same : (s.modDieErr d f).dieErr d = f (s.dieErr d) := tget_tmod_same _ _ _ _
theorem State.dieErr_modDieErr_ne (j : Nat) (hj : j ≠ d) : (s.modDieErr d f).dieErr j = s.dieErr j :=
  tget_tmod_ne _ _ _ _ _ hj
end

section
variable (u : Nat) (f : Fence → Fence)

@[simp] theorem State.modFence_pending : (s.modFence u f).pending = s.pending := rfl
@[simp] theorem State.modFence_fresh : (s.modFence u f).fresh = s.fresh := rfl
@[simp] theorem State.modFence_out : (s.modFence u f).out = s.out := rfl
@[simp] theorem State.modFence_time : (s.modFence u f).time = s.time := rfl
@[simp] theorem State.modFence_mem : (s.modFence u f).mem = s.mem := rfl
@[simp] theorem State.modFence_err : (s.modFence u f).err = s.err := rfl
@[simp] theorem State.modFence_conflict : (s.modFence u f).conflict = s.conflict := rfl
@[simp] theorem State.modFence_links : (s.modFence u f).links = s.links := rfl
@[simp] theorem State.modFence_img : (s.modFence u f).img = s.img := rfl
@[simp] theorem State.modFence_troupes : (s.modFence u f).troupes = s.troupes := rfl
@[simp] theorem State.modFence_waits : (s.modFence u f).waits = s.waits := rfl
@[simp] theorem State.modFence_tokens : (s.modFence u f).tokens = s.tokens := rfl
@[simp] theorem State.modFence_tiles : (s.modFence u f).tiles = s.tiles := rfl
@[simp] theorem State.modFence_str : (s.modFence u f).str = s.str := rfl
@[simp] theorem State.modFence_tel : (s.modFence u f).tel = s.tel := rfl
@[simp] theorem State.modFence_mems : (s.modFence u f).mems = s.mems := rfl
@[simp] theorem State.modFence_fab : (s.modFence u f).fab = s.fab := rfl
@[simp] theorem State.modFence_tag : (s.modFence u f).tag = s.tag := rfl
@[simp] theorem State.modFence_reds : (s.modFence u f).reds = s.reds := rfl
@[simp] theorem State.modFence_grots : (s.modFence u f).grots = s.grots := rfl
@[simp] theorem State.modFence_pubs : (s.modFence u f).pubs = s.pubs := rfl
@[simp] theorem State.modFence_coh : (s.modFence u f).coh = s.coh := rfl
@[simp] theorem State.modFence_wins : (s.modFence u f).wins = s.wins := rfl
@[simp] theorem State.modFence_queues : (s.modFence u f).queues = s.queues := rfl
@[simp] theorem State.modFence_plc : (s.modFence u f).plc = s.plc := rfl
@[simp] theorem State.modFence_host : (s.modFence u f).host = s.host := rfl
@[simp] theorem State.modFence_dats : (s.modFence u f).dats = s.dats := rfl
@[simp] theorem State.modFence_codecs : (s.modFence u f).codecs = s.codecs := rfl
@[simp] theorem State.modFence_clk : (s.modFence u f).clk = s.clk := rfl
@[simp] theorem State.modFence_boot : (s.modFence u f).boot = s.boot := rfl
@[simp] theorem State.modFence_sec : (s.modFence u f).sec = s.sec := rfl
@[simp] theorem State.modFence_fences : (s.modFence u f).fences = tmod {} s.fences u f := rfl
@[simp] theorem State.modFence_elec : (s.modFence u f).elec = s.elec := rfl
@[simp] theorem State.fence_modFence_same : (s.modFence u f).fence u = f (s.fence u) := tget_tmod_same _ _ _ _
theorem State.fence_modFence_ne (j : Nat) (hj : j ≠ u) : (s.modFence u f).fence j = s.fence j :=
  tget_tmod_ne _ _ _ _ _ hj
end

section
variable (p : Nat) (f : Port → Port)

@[simp] theorem State.modPort_pending : (s.modPort p f).pending = s.pending := rfl
@[simp] theorem State.modPort_fresh : (s.modPort p f).fresh = s.fresh := rfl
@[simp] theorem State.modPort_out : (s.modPort p f).out = s.out := rfl
@[simp] theorem State.modPort_time : (s.modPort p f).time = s.time := rfl
@[simp] theorem State.modPort_mem : (s.modPort p f).mem = s.mem := rfl
@[simp] theorem State.modPort_err : (s.modPort p f).err = s.err := rfl
@[simp] theorem State.modPort_conflict : (s.modPort p f).conflict = s.conflict := rfl
@[simp] theorem State.modPort_links : (s.modPort p f).links = s.links := rfl
@[simp] theorem State.modPort_img : (s.modPort p f).img = s.img := rfl
@[simp] theorem State.modPort_troupes : (s.modPort p f).troupes = s.troupes := rfl
@[simp] theorem State.modPort_waits : (s.modPort p f).waits = s.waits := rfl
@[simp] theorem State.modPort_tokens : (s.modPort p f).tokens = s.tokens := rfl
@[simp] theorem State.modPort_tiles : (s.modPort p f).tiles = s.tiles := rfl
@[simp] theorem State.modPort_str : (s.modPort p f).str = s.str := rfl
@[simp] theorem State.modPort_tel : (s.modPort p f).tel = s.tel := rfl
@[simp] theorem State.modPort_mems : (s.modPort p f).mems = s.mems := rfl
@[simp] theorem State.modPort_fab : (s.modPort p f).fab = { s.fab with ports := tmod {} s.fab.ports p f } := rfl
@[simp] theorem State.modPort_tag : (s.modPort p f).tag = s.tag := rfl
@[simp] theorem State.modPort_reds : (s.modPort p f).reds = s.reds := rfl
@[simp] theorem State.modPort_grots : (s.modPort p f).grots = s.grots := rfl
@[simp] theorem State.modPort_pubs : (s.modPort p f).pubs = s.pubs := rfl
@[simp] theorem State.modPort_coh : (s.modPort p f).coh = s.coh := rfl
@[simp] theorem State.modPort_wins : (s.modPort p f).wins = s.wins := rfl
@[simp] theorem State.modPort_queues : (s.modPort p f).queues = s.queues := rfl
@[simp] theorem State.modPort_plc : (s.modPort p f).plc = s.plc := rfl
@[simp] theorem State.modPort_host : (s.modPort p f).host = s.host := rfl
@[simp] theorem State.modPort_dats : (s.modPort p f).dats = s.dats := rfl
@[simp] theorem State.modPort_codecs : (s.modPort p f).codecs = s.codecs := rfl
@[simp] theorem State.modPort_clk : (s.modPort p f).clk = s.clk := rfl
@[simp] theorem State.modPort_boot : (s.modPort p f).boot = s.boot := rfl
@[simp] theorem State.modPort_sec : (s.modPort p f).sec = s.sec := rfl
@[simp] theorem State.modPort_fences : (s.modPort p f).fences = s.fences := rfl
@[simp] theorem State.modPort_elec : (s.modPort p f).elec = s.elec := rfl
@[simp] theorem State.port_modPort_same : (s.modPort p f).port p = f (s.port p) := tget_tmod_same _ _ _ _
theorem State.port_modPort_ne (j : Nat) (hj : j ≠ p) : (s.modPort p f).port j = s.port j :=
  tget_tmod_ne _ _ _ _ _ hj
end

section
variable (i : Nat) (f : FlowCtx → FlowCtx)

@[simp] theorem State.modFlow_pending : (s.modFlow i f).pending = s.pending := rfl
@[simp] theorem State.modFlow_fresh : (s.modFlow i f).fresh = s.fresh := rfl
@[simp] theorem State.modFlow_out : (s.modFlow i f).out = s.out := rfl
@[simp] theorem State.modFlow_time : (s.modFlow i f).time = s.time := rfl
@[simp] theorem State.modFlow_mem : (s.modFlow i f).mem = s.mem := rfl
@[simp] theorem State.modFlow_err : (s.modFlow i f).err = s.err := rfl
@[simp] theorem State.modFlow_conflict : (s.modFlow i f).conflict = s.conflict := rfl
@[simp] theorem State.modFlow_links : (s.modFlow i f).links = s.links := rfl
@[simp] theorem State.modFlow_img : (s.modFlow i f).img = s.img := rfl
@[simp] theorem State.modFlow_troupes : (s.modFlow i f).troupes = s.troupes := rfl
@[simp] theorem State.modFlow_waits : (s.modFlow i f).waits = s.waits := rfl
@[simp] theorem State.modFlow_tokens : (s.modFlow i f).tokens = s.tokens := rfl
@[simp] theorem State.modFlow_tiles : (s.modFlow i f).tiles = s.tiles := rfl
@[simp] theorem State.modFlow_str : (s.modFlow i f).str = s.str := rfl
@[simp] theorem State.modFlow_tel : (s.modFlow i f).tel = s.tel := rfl
@[simp] theorem State.modFlow_mems : (s.modFlow i f).mems = s.mems := rfl
@[simp] theorem State.modFlow_fab : (s.modFlow i f).fab = { s.fab with flows := tmod {} s.fab.flows i f } := rfl
@[simp] theorem State.modFlow_tag : (s.modFlow i f).tag = s.tag := rfl
@[simp] theorem State.modFlow_reds : (s.modFlow i f).reds = s.reds := rfl
@[simp] theorem State.modFlow_grots : (s.modFlow i f).grots = s.grots := rfl
@[simp] theorem State.modFlow_pubs : (s.modFlow i f).pubs = s.pubs := rfl
@[simp] theorem State.modFlow_coh : (s.modFlow i f).coh = s.coh := rfl
@[simp] theorem State.modFlow_wins : (s.modFlow i f).wins = s.wins := rfl
@[simp] theorem State.modFlow_queues : (s.modFlow i f).queues = s.queues := rfl
@[simp] theorem State.modFlow_plc : (s.modFlow i f).plc = s.plc := rfl
@[simp] theorem State.modFlow_host : (s.modFlow i f).host = s.host := rfl
@[simp] theorem State.modFlow_dats : (s.modFlow i f).dats = s.dats := rfl
@[simp] theorem State.modFlow_codecs : (s.modFlow i f).codecs = s.codecs := rfl
@[simp] theorem State.modFlow_clk : (s.modFlow i f).clk = s.clk := rfl
@[simp] theorem State.modFlow_boot : (s.modFlow i f).boot = s.boot := rfl
@[simp] theorem State.modFlow_sec : (s.modFlow i f).sec = s.sec := rfl
@[simp] theorem State.modFlow_fences : (s.modFlow i f).fences = s.fences := rfl
@[simp] theorem State.modFlow_elec : (s.modFlow i f).elec = s.elec := rfl
@[simp] theorem State.flowCtx_modFlow_same : (s.modFlow i f).flowCtx i = f (s.flowCtx i) := tget_tmod_same _ _ _ _
theorem State.flowCtx_modFlow_ne (j : Nat) (hj : j ≠ i) : (s.modFlow i f).flowCtx j = s.flowCtx j :=
  tget_tmod_ne _ _ _ _ _ hj
end

section
variable (d : Nat) (f : FabEngine → FabEngine)

@[simp] theorem State.modFab_pending : (s.modFab d f).pending = s.pending := rfl
@[simp] theorem State.modFab_fresh : (s.modFab d f).fresh = s.fresh := rfl
@[simp] theorem State.modFab_out : (s.modFab d f).out = s.out := rfl
@[simp] theorem State.modFab_time : (s.modFab d f).time = s.time := rfl
@[simp] theorem State.modFab_mem : (s.modFab d f).mem = s.mem := rfl
@[simp] theorem State.modFab_err : (s.modFab d f).err = s.err := rfl
@[simp] theorem State.modFab_conflict : (s.modFab d f).conflict = s.conflict := rfl
@[simp] theorem State.modFab_links : (s.modFab d f).links = s.links := rfl
@[simp] theorem State.modFab_img : (s.modFab d f).img = s.img := rfl
@[simp] theorem State.modFab_troupes : (s.modFab d f).troupes = s.troupes := rfl
@[simp] theorem State.modFab_waits : (s.modFab d f).waits = s.waits := rfl
@[simp] theorem State.modFab_tokens : (s.modFab d f).tokens = s.tokens := rfl
@[simp] theorem State.modFab_tiles : (s.modFab d f).tiles = s.tiles := rfl
@[simp] theorem State.modFab_str : (s.modFab d f).str = s.str := rfl
@[simp] theorem State.modFab_tel : (s.modFab d f).tel = s.tel := rfl
@[simp] theorem State.modFab_mems : (s.modFab d f).mems = s.mems := rfl
@[simp] theorem State.modFab_fab : (s.modFab d f).fab = { s.fab with engines := tmod {} s.fab.engines d f } := rfl
@[simp] theorem State.modFab_tag : (s.modFab d f).tag = s.tag := rfl
@[simp] theorem State.modFab_reds : (s.modFab d f).reds = s.reds := rfl
@[simp] theorem State.modFab_grots : (s.modFab d f).grots = s.grots := rfl
@[simp] theorem State.modFab_pubs : (s.modFab d f).pubs = s.pubs := rfl
@[simp] theorem State.modFab_coh : (s.modFab d f).coh = s.coh := rfl
@[simp] theorem State.modFab_wins : (s.modFab d f).wins = s.wins := rfl
@[simp] theorem State.modFab_queues : (s.modFab d f).queues = s.queues := rfl
@[simp] theorem State.modFab_plc : (s.modFab d f).plc = s.plc := rfl
@[simp] theorem State.modFab_host : (s.modFab d f).host = s.host := rfl
@[simp] theorem State.modFab_dats : (s.modFab d f).dats = s.dats := rfl
@[simp] theorem State.modFab_codecs : (s.modFab d f).codecs = s.codecs := rfl
@[simp] theorem State.modFab_clk : (s.modFab d f).clk = s.clk := rfl
@[simp] theorem State.modFab_boot : (s.modFab d f).boot = s.boot := rfl
@[simp] theorem State.modFab_sec : (s.modFab d f).sec = s.sec := rfl
@[simp] theorem State.modFab_fences : (s.modFab d f).fences = s.fences := rfl
@[simp] theorem State.modFab_elec : (s.modFab d f).elec = s.elec := rfl
@[simp] theorem State.fabEng_modFab_same : (s.modFab d f).fabEng d = f (s.fabEng d) := tget_tmod_same _ _ _ _
theorem State.fabEng_modFab_ne (j : Nat) (hj : j ≠ d) : (s.modFab d f).fabEng j = s.fabEng j :=
  tget_tmod_ne _ _ _ _ _ hj
end

section
variable (d : Nat) (f : RedEngine → RedEngine)

@[simp] theorem State.modRed_pending : (s.modRed d f).pending = s.pending := rfl
@[simp] theorem State.modRed_fresh : (s.modRed d f).fresh = s.fresh := rfl
@[simp] theorem State.modRed_out : (s.modRed d f).out = s.out := rfl
@[simp] theorem State.modRed_time : (s.modRed d f).time = s.time := rfl
@[simp] theorem State.modRed_mem : (s.modRed d f).mem = s.mem := rfl
@[simp] theorem State.modRed_err : (s.modRed d f).err = s.err := rfl
@[simp] theorem State.modRed_conflict : (s.modRed d f).conflict = s.conflict := rfl
@[simp] theorem State.modRed_links : (s.modRed d f).links = s.links := rfl
@[simp] theorem State.modRed_img : (s.modRed d f).img = s.img := rfl
@[simp] theorem State.modRed_troupes : (s.modRed d f).troupes = s.troupes := rfl
@[simp] theorem State.modRed_waits : (s.modRed d f).waits = s.waits := rfl
@[simp] theorem State.modRed_tokens : (s.modRed d f).tokens = s.tokens := rfl
@[simp] theorem State.modRed_tiles : (s.modRed d f).tiles = s.tiles := rfl
@[simp] theorem State.modRed_str : (s.modRed d f).str = s.str := rfl
@[simp] theorem State.modRed_tel : (s.modRed d f).tel = s.tel := rfl
@[simp] theorem State.modRed_mems : (s.modRed d f).mems = s.mems := rfl
@[simp] theorem State.modRed_fab : (s.modRed d f).fab = s.fab := rfl
@[simp] theorem State.modRed_tag : (s.modRed d f).tag = s.tag := rfl
@[simp] theorem State.modRed_reds : (s.modRed d f).reds = tmod {} s.reds d f := rfl
@[simp] theorem State.modRed_grots : (s.modRed d f).grots = s.grots := rfl
@[simp] theorem State.modRed_pubs : (s.modRed d f).pubs = s.pubs := rfl
@[simp] theorem State.modRed_coh : (s.modRed d f).coh = s.coh := rfl
@[simp] theorem State.modRed_wins : (s.modRed d f).wins = s.wins := rfl
@[simp] theorem State.modRed_queues : (s.modRed d f).queues = s.queues := rfl
@[simp] theorem State.modRed_plc : (s.modRed d f).plc = s.plc := rfl
@[simp] theorem State.modRed_host : (s.modRed d f).host = s.host := rfl
@[simp] theorem State.modRed_dats : (s.modRed d f).dats = s.dats := rfl
@[simp] theorem State.modRed_codecs : (s.modRed d f).codecs = s.codecs := rfl
@[simp] theorem State.modRed_clk : (s.modRed d f).clk = s.clk := rfl
@[simp] theorem State.modRed_boot : (s.modRed d f).boot = s.boot := rfl
@[simp] theorem State.modRed_sec : (s.modRed d f).sec = s.sec := rfl
@[simp] theorem State.modRed_fences : (s.modRed d f).fences = s.fences := rfl
@[simp] theorem State.modRed_elec : (s.modRed d f).elec = s.elec := rfl
@[simp] theorem State.redEng_modRed_same : (s.modRed d f).redEng d = f (s.redEng d) := tget_tmod_same _ _ _ _
theorem State.redEng_modRed_ne (j : Nat) (hj : j ≠ d) : (s.modRed d f).redEng j = s.redEng j :=
  tget_tmod_ne _ _ _ _ _ hj
end

section
variable (g : Nat) (f : Grotto → Grotto)

@[simp] theorem State.modGrot_pending : (s.modGrot g f).pending = s.pending := rfl
@[simp] theorem State.modGrot_fresh : (s.modGrot g f).fresh = s.fresh := rfl
@[simp] theorem State.modGrot_out : (s.modGrot g f).out = s.out := rfl
@[simp] theorem State.modGrot_time : (s.modGrot g f).time = s.time := rfl
@[simp] theorem State.modGrot_mem : (s.modGrot g f).mem = s.mem := rfl
@[simp] theorem State.modGrot_err : (s.modGrot g f).err = s.err := rfl
@[simp] theorem State.modGrot_conflict : (s.modGrot g f).conflict = s.conflict := rfl
@[simp] theorem State.modGrot_links : (s.modGrot g f).links = s.links := rfl
@[simp] theorem State.modGrot_img : (s.modGrot g f).img = s.img := rfl
@[simp] theorem State.modGrot_troupes : (s.modGrot g f).troupes = s.troupes := rfl
@[simp] theorem State.modGrot_waits : (s.modGrot g f).waits = s.waits := rfl
@[simp] theorem State.modGrot_tokens : (s.modGrot g f).tokens = s.tokens := rfl
@[simp] theorem State.modGrot_tiles : (s.modGrot g f).tiles = s.tiles := rfl
@[simp] theorem State.modGrot_str : (s.modGrot g f).str = s.str := rfl
@[simp] theorem State.modGrot_tel : (s.modGrot g f).tel = s.tel := rfl
@[simp] theorem State.modGrot_mems : (s.modGrot g f).mems = s.mems := rfl
@[simp] theorem State.modGrot_fab : (s.modGrot g f).fab = s.fab := rfl
@[simp] theorem State.modGrot_tag : (s.modGrot g f).tag = s.tag := rfl
@[simp] theorem State.modGrot_reds : (s.modGrot g f).reds = s.reds := rfl
@[simp] theorem State.modGrot_grots : (s.modGrot g f).grots = tmod {} s.grots g f := rfl
@[simp] theorem State.modGrot_pubs : (s.modGrot g f).pubs = s.pubs := rfl
@[simp] theorem State.modGrot_coh : (s.modGrot g f).coh = s.coh := rfl
@[simp] theorem State.modGrot_wins : (s.modGrot g f).wins = s.wins := rfl
@[simp] theorem State.modGrot_queues : (s.modGrot g f).queues = s.queues := rfl
@[simp] theorem State.modGrot_plc : (s.modGrot g f).plc = s.plc := rfl
@[simp] theorem State.modGrot_host : (s.modGrot g f).host = s.host := rfl
@[simp] theorem State.modGrot_dats : (s.modGrot g f).dats = s.dats := rfl
@[simp] theorem State.modGrot_codecs : (s.modGrot g f).codecs = s.codecs := rfl
@[simp] theorem State.modGrot_clk : (s.modGrot g f).clk = s.clk := rfl
@[simp] theorem State.modGrot_boot : (s.modGrot g f).boot = s.boot := rfl
@[simp] theorem State.modGrot_sec : (s.modGrot g f).sec = s.sec := rfl
@[simp] theorem State.modGrot_fences : (s.modGrot g f).fences = s.fences := rfl
@[simp] theorem State.modGrot_elec : (s.modGrot g f).elec = s.elec := rfl
@[simp] theorem State.grot_modGrot_same : (s.modGrot g f).grot g = f (s.grot g) := tget_tmod_same _ _ _ _
theorem State.grot_modGrot_ne (j : Nat) (hj : j ≠ g) : (s.modGrot g f).grot j = s.grot j :=
  tget_tmod_ne _ _ _ _ _ hj
end

section
variable (m : Nat) (f : MemCtl → MemCtl)

@[simp] theorem State.modMem_pending : (s.modMem m f).pending = s.pending := rfl
@[simp] theorem State.modMem_fresh : (s.modMem m f).fresh = s.fresh := rfl
@[simp] theorem State.modMem_out : (s.modMem m f).out = s.out := rfl
@[simp] theorem State.modMem_time : (s.modMem m f).time = s.time := rfl
@[simp] theorem State.modMem_mem : (s.modMem m f).mem = s.mem := rfl
@[simp] theorem State.modMem_err : (s.modMem m f).err = s.err := rfl
@[simp] theorem State.modMem_conflict : (s.modMem m f).conflict = s.conflict := rfl
@[simp] theorem State.modMem_links : (s.modMem m f).links = s.links := rfl
@[simp] theorem State.modMem_img : (s.modMem m f).img = s.img := rfl
@[simp] theorem State.modMem_troupes : (s.modMem m f).troupes = s.troupes := rfl
@[simp] theorem State.modMem_waits : (s.modMem m f).waits = s.waits := rfl
@[simp] theorem State.modMem_tokens : (s.modMem m f).tokens = s.tokens := rfl
@[simp] theorem State.modMem_tiles : (s.modMem m f).tiles = s.tiles := rfl
@[simp] theorem State.modMem_str : (s.modMem m f).str = s.str := rfl
@[simp] theorem State.modMem_tel : (s.modMem m f).tel = s.tel := rfl
@[simp] theorem State.modMem_mems : (s.modMem m f).mems = tmod {} s.mems m f := rfl
@[simp] theorem State.modMem_fab : (s.modMem m f).fab = s.fab := rfl
@[simp] theorem State.modMem_tag : (s.modMem m f).tag = s.tag := rfl
@[simp] theorem State.modMem_reds : (s.modMem m f).reds = s.reds := rfl
@[simp] theorem State.modMem_grots : (s.modMem m f).grots = s.grots := rfl
@[simp] theorem State.modMem_pubs : (s.modMem m f).pubs = s.pubs := rfl
@[simp] theorem State.modMem_coh : (s.modMem m f).coh = s.coh := rfl
@[simp] theorem State.modMem_wins : (s.modMem m f).wins = s.wins := rfl
@[simp] theorem State.modMem_queues : (s.modMem m f).queues = s.queues := rfl
@[simp] theorem State.modMem_plc : (s.modMem m f).plc = s.plc := rfl
@[simp] theorem State.modMem_host : (s.modMem m f).host = s.host := rfl
@[simp] theorem State.modMem_dats : (s.modMem m f).dats = s.dats := rfl
@[simp] theorem State.modMem_codecs : (s.modMem m f).codecs = s.codecs := rfl
@[simp] theorem State.modMem_clk : (s.modMem m f).clk = s.clk := rfl
@[simp] theorem State.modMem_boot : (s.modMem m f).boot = s.boot := rfl
@[simp] theorem State.modMem_sec : (s.modMem m f).sec = s.sec := rfl
@[simp] theorem State.modMem_fences : (s.modMem m f).fences = s.fences := rfl
@[simp] theorem State.modMem_elec : (s.modMem m f).elec = s.elec := rfl
@[simp] theorem State.memCtl_modMem_same : (s.modMem m f).memCtl m = f (s.memCtl m) := tget_tmod_same _ _ _ _
theorem State.memCtl_modMem_ne (j : Nat) (hj : j ≠ m) : (s.modMem m f).memCtl j = s.memCtl j :=
  tget_tmod_ne _ _ _ _ _ hj
end

section
variable (q : Nat) (f : Queue → Queue)

@[simp] theorem State.modQueue_pending : (s.modQueue q f).pending = s.pending := rfl
@[simp] theorem State.modQueue_fresh : (s.modQueue q f).fresh = s.fresh := rfl
@[simp] theorem State.modQueue_out : (s.modQueue q f).out = s.out := rfl
@[simp] theorem State.modQueue_time : (s.modQueue q f).time = s.time := rfl
@[simp] theorem State.modQueue_mem : (s.modQueue q f).mem = s.mem := rfl
@[simp] theorem State.modQueue_err : (s.modQueue q f).err = s.err := rfl
@[simp] theorem State.modQueue_conflict : (s.modQueue q f).conflict = s.conflict := rfl
@[simp] theorem State.modQueue_links : (s.modQueue q f).links = s.links := rfl
@[simp] theorem State.modQueue_img : (s.modQueue q f).img = s.img := rfl
@[simp] theorem State.modQueue_troupes : (s.modQueue q f).troupes = s.troupes := rfl
@[simp] theorem State.modQueue_waits : (s.modQueue q f).waits = s.waits := rfl
@[simp] theorem State.modQueue_tokens : (s.modQueue q f).tokens = s.tokens := rfl
@[simp] theorem State.modQueue_tiles : (s.modQueue q f).tiles = s.tiles := rfl
@[simp] theorem State.modQueue_str : (s.modQueue q f).str = s.str := rfl
@[simp] theorem State.modQueue_tel : (s.modQueue q f).tel = s.tel := rfl
@[simp] theorem State.modQueue_mems : (s.modQueue q f).mems = s.mems := rfl
@[simp] theorem State.modQueue_fab : (s.modQueue q f).fab = s.fab := rfl
@[simp] theorem State.modQueue_tag : (s.modQueue q f).tag = s.tag := rfl
@[simp] theorem State.modQueue_reds : (s.modQueue q f).reds = s.reds := rfl
@[simp] theorem State.modQueue_grots : (s.modQueue q f).grots = s.grots := rfl
@[simp] theorem State.modQueue_pubs : (s.modQueue q f).pubs = s.pubs := rfl
@[simp] theorem State.modQueue_coh : (s.modQueue q f).coh = s.coh := rfl
@[simp] theorem State.modQueue_wins : (s.modQueue q f).wins = s.wins := rfl
@[simp] theorem State.modQueue_queues : (s.modQueue q f).queues = tmod {} s.queues q f := rfl
@[simp] theorem State.modQueue_plc : (s.modQueue q f).plc = s.plc := rfl
@[simp] theorem State.modQueue_host : (s.modQueue q f).host = s.host := rfl
@[simp] theorem State.modQueue_dats : (s.modQueue q f).dats = s.dats := rfl
@[simp] theorem State.modQueue_codecs : (s.modQueue q f).codecs = s.codecs := rfl
@[simp] theorem State.modQueue_clk : (s.modQueue q f).clk = s.clk := rfl
@[simp] theorem State.modQueue_boot : (s.modQueue q f).boot = s.boot := rfl
@[simp] theorem State.modQueue_sec : (s.modQueue q f).sec = s.sec := rfl
@[simp] theorem State.modQueue_fences : (s.modQueue q f).fences = s.fences := rfl
@[simp] theorem State.modQueue_elec : (s.modQueue q f).elec = s.elec := rfl
@[simp] theorem State.queue_modQueue_same : (s.modQueue q f).queue q = f (s.queue q) := tget_tmod_same _ _ _ _
theorem State.queue_modQueue_ne (j : Nat) (hj : j ≠ q) : (s.modQueue q f).queue j = s.queue j :=
  tget_tmod_ne _ _ _ _ _ hj
end

section
variable (h : Nat) (f : HartWin → HartWin)

@[simp] theorem State.modWin_pending : (s.modWin h f).pending = s.pending := rfl
@[simp] theorem State.modWin_fresh : (s.modWin h f).fresh = s.fresh := rfl
@[simp] theorem State.modWin_out : (s.modWin h f).out = s.out := rfl
@[simp] theorem State.modWin_time : (s.modWin h f).time = s.time := rfl
@[simp] theorem State.modWin_mem : (s.modWin h f).mem = s.mem := rfl
@[simp] theorem State.modWin_err : (s.modWin h f).err = s.err := rfl
@[simp] theorem State.modWin_conflict : (s.modWin h f).conflict = s.conflict := rfl
@[simp] theorem State.modWin_links : (s.modWin h f).links = s.links := rfl
@[simp] theorem State.modWin_img : (s.modWin h f).img = s.img := rfl
@[simp] theorem State.modWin_troupes : (s.modWin h f).troupes = s.troupes := rfl
@[simp] theorem State.modWin_waits : (s.modWin h f).waits = s.waits := rfl
@[simp] theorem State.modWin_tokens : (s.modWin h f).tokens = s.tokens := rfl
@[simp] theorem State.modWin_tiles : (s.modWin h f).tiles = s.tiles := rfl
@[simp] theorem State.modWin_str : (s.modWin h f).str = s.str := rfl
@[simp] theorem State.modWin_tel : (s.modWin h f).tel = s.tel := rfl
@[simp] theorem State.modWin_mems : (s.modWin h f).mems = s.mems := rfl
@[simp] theorem State.modWin_fab : (s.modWin h f).fab = s.fab := rfl
@[simp] theorem State.modWin_tag : (s.modWin h f).tag = s.tag := rfl
@[simp] theorem State.modWin_reds : (s.modWin h f).reds = s.reds := rfl
@[simp] theorem State.modWin_grots : (s.modWin h f).grots = s.grots := rfl
@[simp] theorem State.modWin_pubs : (s.modWin h f).pubs = s.pubs := rfl
@[simp] theorem State.modWin_coh : (s.modWin h f).coh = s.coh := rfl
@[simp] theorem State.modWin_wins : (s.modWin h f).wins = tmod {} s.wins h f := rfl
@[simp] theorem State.modWin_queues : (s.modWin h f).queues = s.queues := rfl
@[simp] theorem State.modWin_plc : (s.modWin h f).plc = s.plc := rfl
@[simp] theorem State.modWin_host : (s.modWin h f).host = s.host := rfl
@[simp] theorem State.modWin_dats : (s.modWin h f).dats = s.dats := rfl
@[simp] theorem State.modWin_codecs : (s.modWin h f).codecs = s.codecs := rfl
@[simp] theorem State.modWin_clk : (s.modWin h f).clk = s.clk := rfl
@[simp] theorem State.modWin_boot : (s.modWin h f).boot = s.boot := rfl
@[simp] theorem State.modWin_sec : (s.modWin h f).sec = s.sec := rfl
@[simp] theorem State.modWin_fences : (s.modWin h f).fences = s.fences := rfl
@[simp] theorem State.modWin_elec : (s.modWin h f).elec = s.elec := rfl
@[simp] theorem State.hartWin_modWin_same : (s.modWin h f).hartWin h = f (s.hartWin h) := tget_tmod_same _ _ _ _
theorem State.hartWin_modWin_ne (j : Nat) (hj : j ≠ h) : (s.modWin h f).hartWin j = s.hartWin j :=
  tget_tmod_ne _ _ _ _ _ hj
end

section
variable (r : Nat) (f : Region → Region)

@[simp] theorem State.modRegion_pending : (s.modRegion r f).pending = s.pending := rfl
@[simp] theorem State.modRegion_fresh : (s.modRegion r f).fresh = s.fresh := rfl
@[simp] theorem State.modRegion_out : (s.modRegion r f).out = s.out := rfl
@[simp] theorem State.modRegion_time : (s.modRegion r f).time = s.time := rfl
@[simp] theorem State.modRegion_mem : (s.modRegion r f).mem = s.mem := rfl
@[simp] theorem State.modRegion_err : (s.modRegion r f).err = s.err := rfl
@[simp] theorem State.modRegion_conflict : (s.modRegion r f).conflict = s.conflict := rfl
@[simp] theorem State.modRegion_links : (s.modRegion r f).links = s.links := rfl
@[simp] theorem State.modRegion_img : (s.modRegion r f).img = s.img := rfl
@[simp] theorem State.modRegion_troupes : (s.modRegion r f).troupes = s.troupes := rfl
@[simp] theorem State.modRegion_waits : (s.modRegion r f).waits = s.waits := rfl
@[simp] theorem State.modRegion_tokens : (s.modRegion r f).tokens = s.tokens := rfl
@[simp] theorem State.modRegion_tiles : (s.modRegion r f).tiles = s.tiles := rfl
@[simp] theorem State.modRegion_str : (s.modRegion r f).str = s.str := rfl
@[simp] theorem State.modRegion_tel : (s.modRegion r f).tel = s.tel := rfl
@[simp] theorem State.modRegion_mems : (s.modRegion r f).mems = s.mems := rfl
@[simp] theorem State.modRegion_fab : (s.modRegion r f).fab = s.fab := rfl
@[simp] theorem State.modRegion_tag : (s.modRegion r f).tag = s.tag := rfl
@[simp] theorem State.modRegion_reds : (s.modRegion r f).reds = s.reds := rfl
@[simp] theorem State.modRegion_grots : (s.modRegion r f).grots = s.grots := rfl
@[simp] theorem State.modRegion_pubs : (s.modRegion r f).pubs = s.pubs := rfl
@[simp] theorem State.modRegion_coh : (s.modRegion r f).coh = s.coh := rfl
@[simp] theorem State.modRegion_wins : (s.modRegion r f).wins = s.wins := rfl
@[simp] theorem State.modRegion_queues : (s.modRegion r f).queues = s.queues := rfl
@[simp] theorem State.modRegion_plc : (s.modRegion r f).plc = { s.plc with regions := tmod {} s.plc.regions r f } := rfl
@[simp] theorem State.modRegion_host : (s.modRegion r f).host = s.host := rfl
@[simp] theorem State.modRegion_dats : (s.modRegion r f).dats = s.dats := rfl
@[simp] theorem State.modRegion_codecs : (s.modRegion r f).codecs = s.codecs := rfl
@[simp] theorem State.modRegion_clk : (s.modRegion r f).clk = s.clk := rfl
@[simp] theorem State.modRegion_boot : (s.modRegion r f).boot = s.boot := rfl
@[simp] theorem State.modRegion_sec : (s.modRegion r f).sec = s.sec := rfl
@[simp] theorem State.modRegion_fences : (s.modRegion r f).fences = s.fences := rfl
@[simp] theorem State.modRegion_elec : (s.modRegion r f).elec = s.elec := rfl
@[simp] theorem State.region_modRegion_same : (s.modRegion r f).region r = f (s.region r) := tget_tmod_same _ _ _ _
theorem State.region_modRegion_ne (j : Nat) (hj : j ≠ r) : (s.modRegion r f).region j = s.region j :=
  tget_tmod_ne _ _ _ _ _ hj
end

section
variable (e : Nat) (f : DatEngine → DatEngine)

@[simp] theorem State.modDat_pending : (s.modDat e f).pending = s.pending := rfl
@[simp] theorem State.modDat_fresh : (s.modDat e f).fresh = s.fresh := rfl
@[simp] theorem State.modDat_out : (s.modDat e f).out = s.out := rfl
@[simp] theorem State.modDat_time : (s.modDat e f).time = s.time := rfl
@[simp] theorem State.modDat_mem : (s.modDat e f).mem = s.mem := rfl
@[simp] theorem State.modDat_err : (s.modDat e f).err = s.err := rfl
@[simp] theorem State.modDat_conflict : (s.modDat e f).conflict = s.conflict := rfl
@[simp] theorem State.modDat_links : (s.modDat e f).links = s.links := rfl
@[simp] theorem State.modDat_img : (s.modDat e f).img = s.img := rfl
@[simp] theorem State.modDat_troupes : (s.modDat e f).troupes = s.troupes := rfl
@[simp] theorem State.modDat_waits : (s.modDat e f).waits = s.waits := rfl
@[simp] theorem State.modDat_tokens : (s.modDat e f).tokens = s.tokens := rfl
@[simp] theorem State.modDat_tiles : (s.modDat e f).tiles = s.tiles := rfl
@[simp] theorem State.modDat_str : (s.modDat e f).str = s.str := rfl
@[simp] theorem State.modDat_tel : (s.modDat e f).tel = s.tel := rfl
@[simp] theorem State.modDat_mems : (s.modDat e f).mems = s.mems := rfl
@[simp] theorem State.modDat_fab : (s.modDat e f).fab = s.fab := rfl
@[simp] theorem State.modDat_tag : (s.modDat e f).tag = s.tag := rfl
@[simp] theorem State.modDat_reds : (s.modDat e f).reds = s.reds := rfl
@[simp] theorem State.modDat_grots : (s.modDat e f).grots = s.grots := rfl
@[simp] theorem State.modDat_pubs : (s.modDat e f).pubs = s.pubs := rfl
@[simp] theorem State.modDat_coh : (s.modDat e f).coh = s.coh := rfl
@[simp] theorem State.modDat_wins : (s.modDat e f).wins = s.wins := rfl
@[simp] theorem State.modDat_queues : (s.modDat e f).queues = s.queues := rfl
@[simp] theorem State.modDat_plc : (s.modDat e f).plc = s.plc := rfl
@[simp] theorem State.modDat_host : (s.modDat e f).host = s.host := rfl
@[simp] theorem State.modDat_dats : (s.modDat e f).dats = tmod {} s.dats e f := rfl
@[simp] theorem State.modDat_codecs : (s.modDat e f).codecs = s.codecs := rfl
@[simp] theorem State.modDat_clk : (s.modDat e f).clk = s.clk := rfl
@[simp] theorem State.modDat_boot : (s.modDat e f).boot = s.boot := rfl
@[simp] theorem State.modDat_sec : (s.modDat e f).sec = s.sec := rfl
@[simp] theorem State.modDat_fences : (s.modDat e f).fences = s.fences := rfl
@[simp] theorem State.modDat_elec : (s.modDat e f).elec = s.elec := rfl
@[simp] theorem State.dat_modDat_same : (s.modDat e f).dat e = f (s.dat e) := tget_tmod_same _ _ _ _
theorem State.dat_modDat_ne (j : Nat) (hj : j ≠ e) : (s.modDat e f).dat j = s.dat j :=
  tget_tmod_ne _ _ _ _ _ hj
end

section
variable (d : Nat) (f : Codec → Codec)

@[simp] theorem State.modCodec_pending : (s.modCodec d f).pending = s.pending := rfl
@[simp] theorem State.modCodec_fresh : (s.modCodec d f).fresh = s.fresh := rfl
@[simp] theorem State.modCodec_out : (s.modCodec d f).out = s.out := rfl
@[simp] theorem State.modCodec_time : (s.modCodec d f).time = s.time := rfl
@[simp] theorem State.modCodec_mem : (s.modCodec d f).mem = s.mem := rfl
@[simp] theorem State.modCodec_err : (s.modCodec d f).err = s.err := rfl
@[simp] theorem State.modCodec_conflict : (s.modCodec d f).conflict = s.conflict := rfl
@[simp] theorem State.modCodec_links : (s.modCodec d f).links = s.links := rfl
@[simp] theorem State.modCodec_img : (s.modCodec d f).img = s.img := rfl
@[simp] theorem State.modCodec_troupes : (s.modCodec d f).troupes = s.troupes := rfl
@[simp] theorem State.modCodec_waits : (s.modCodec d f).waits = s.waits := rfl
@[simp] theorem State.modCodec_tokens : (s.modCodec d f).tokens = s.tokens := rfl
@[simp] theorem State.modCodec_tiles : (s.modCodec d f).tiles = s.tiles := rfl
@[simp] theorem State.modCodec_str : (s.modCodec d f).str = s.str := rfl
@[simp] theorem State.modCodec_tel : (s.modCodec d f).tel = s.tel := rfl
@[simp] theorem State.modCodec_mems : (s.modCodec d f).mems = s.mems := rfl
@[simp] theorem State.modCodec_fab : (s.modCodec d f).fab = s.fab := rfl
@[simp] theorem State.modCodec_tag : (s.modCodec d f).tag = s.tag := rfl
@[simp] theorem State.modCodec_reds : (s.modCodec d f).reds = s.reds := rfl
@[simp] theorem State.modCodec_grots : (s.modCodec d f).grots = s.grots := rfl
@[simp] theorem State.modCodec_pubs : (s.modCodec d f).pubs = s.pubs := rfl
@[simp] theorem State.modCodec_coh : (s.modCodec d f).coh = s.coh := rfl
@[simp] theorem State.modCodec_wins : (s.modCodec d f).wins = s.wins := rfl
@[simp] theorem State.modCodec_queues : (s.modCodec d f).queues = s.queues := rfl
@[simp] theorem State.modCodec_plc : (s.modCodec d f).plc = s.plc := rfl
@[simp] theorem State.modCodec_host : (s.modCodec d f).host = s.host := rfl
@[simp] theorem State.modCodec_dats : (s.modCodec d f).dats = s.dats := rfl
@[simp] theorem State.modCodec_codecs : (s.modCodec d f).codecs = tmod {} s.codecs d f := rfl
@[simp] theorem State.modCodec_clk : (s.modCodec d f).clk = s.clk := rfl
@[simp] theorem State.modCodec_boot : (s.modCodec d f).boot = s.boot := rfl
@[simp] theorem State.modCodec_sec : (s.modCodec d f).sec = s.sec := rfl
@[simp] theorem State.modCodec_fences : (s.modCodec d f).fences = s.fences := rfl
@[simp] theorem State.modCodec_elec : (s.modCodec d f).elec = s.elec := rfl
@[simp] theorem State.codec_modCodec_same : (s.modCodec d f).codec d = f (s.codec d) := tget_tmod_same _ _ _ _
theorem State.codec_modCodec_ne (j : Nat) (hj : j ≠ d) : (s.modCodec d f).codec j = s.codec j :=
  tget_tmod_ne _ _ _ _ _ hj
end

section
variable (d : Nat) (f : ClkDie → ClkDie)

@[simp] theorem State.modClk_pending : (s.modClk d f).pending = s.pending := rfl
@[simp] theorem State.modClk_fresh : (s.modClk d f).fresh = s.fresh := rfl
@[simp] theorem State.modClk_out : (s.modClk d f).out = s.out := rfl
@[simp] theorem State.modClk_time : (s.modClk d f).time = s.time := rfl
@[simp] theorem State.modClk_mem : (s.modClk d f).mem = s.mem := rfl
@[simp] theorem State.modClk_err : (s.modClk d f).err = s.err := rfl
@[simp] theorem State.modClk_conflict : (s.modClk d f).conflict = s.conflict := rfl
@[simp] theorem State.modClk_links : (s.modClk d f).links = s.links := rfl
@[simp] theorem State.modClk_img : (s.modClk d f).img = s.img := rfl
@[simp] theorem State.modClk_troupes : (s.modClk d f).troupes = s.troupes := rfl
@[simp] theorem State.modClk_waits : (s.modClk d f).waits = s.waits := rfl
@[simp] theorem State.modClk_tokens : (s.modClk d f).tokens = s.tokens := rfl
@[simp] theorem State.modClk_tiles : (s.modClk d f).tiles = s.tiles := rfl
@[simp] theorem State.modClk_str : (s.modClk d f).str = s.str := rfl
@[simp] theorem State.modClk_tel : (s.modClk d f).tel = s.tel := rfl
@[simp] theorem State.modClk_mems : (s.modClk d f).mems = s.mems := rfl
@[simp] theorem State.modClk_fab : (s.modClk d f).fab = s.fab := rfl
@[simp] theorem State.modClk_tag : (s.modClk d f).tag = s.tag := rfl
@[simp] theorem State.modClk_reds : (s.modClk d f).reds = s.reds := rfl
@[simp] theorem State.modClk_grots : (s.modClk d f).grots = s.grots := rfl
@[simp] theorem State.modClk_pubs : (s.modClk d f).pubs = s.pubs := rfl
@[simp] theorem State.modClk_coh : (s.modClk d f).coh = s.coh := rfl
@[simp] theorem State.modClk_wins : (s.modClk d f).wins = s.wins := rfl
@[simp] theorem State.modClk_queues : (s.modClk d f).queues = s.queues := rfl
@[simp] theorem State.modClk_plc : (s.modClk d f).plc = s.plc := rfl
@[simp] theorem State.modClk_host : (s.modClk d f).host = s.host := rfl
@[simp] theorem State.modClk_dats : (s.modClk d f).dats = s.dats := rfl
@[simp] theorem State.modClk_codecs : (s.modClk d f).codecs = s.codecs := rfl
@[simp] theorem State.modClk_clk : (s.modClk d f).clk = { s.clk with dies := tmod {} s.clk.dies d f } := rfl
@[simp] theorem State.modClk_boot : (s.modClk d f).boot = s.boot := rfl
@[simp] theorem State.modClk_sec : (s.modClk d f).sec = s.sec := rfl
@[simp] theorem State.modClk_fences : (s.modClk d f).fences = s.fences := rfl
@[simp] theorem State.modClk_elec : (s.modClk d f).elec = s.elec := rfl
@[simp] theorem State.clkDie_modClk_same : (s.modClk d f).clkDie d = f (s.clkDie d) := tget_tmod_same _ _ _ _
theorem State.clkDie_modClk_ne (j : Nat) (hj : j ≠ d) : (s.modClk d f).clkDie j = s.clkDie j :=
  tget_tmod_ne _ _ _ _ _ hj
end

section
variable (d l : Nat) (f : Link → Link)

@[simp] theorem State.modLink_pending : (s.modLink d l f).pending = s.pending := rfl
@[simp] theorem State.modLink_fresh : (s.modLink d l f).fresh = s.fresh := rfl
@[simp] theorem State.modLink_out : (s.modLink d l f).out = s.out := rfl
@[simp] theorem State.modLink_time : (s.modLink d l f).time = s.time := rfl
@[simp] theorem State.modLink_mem : (s.modLink d l f).mem = s.mem := rfl
@[simp] theorem State.modLink_err : (s.modLink d l f).err = s.err := rfl
@[simp] theorem State.modLink_conflict : (s.modLink d l f).conflict = s.conflict := rfl
@[simp] theorem State.modLink_links : (s.modLink d l f).links = tmod {} s.links (linkKey d l) f := rfl
@[simp] theorem State.modLink_img : (s.modLink d l f).img = s.img := rfl
@[simp] theorem State.modLink_troupes : (s.modLink d l f).troupes = s.troupes := rfl
@[simp] theorem State.modLink_waits : (s.modLink d l f).waits = s.waits := rfl
@[simp] theorem State.modLink_tokens : (s.modLink d l f).tokens = s.tokens := rfl
@[simp] theorem State.modLink_tiles : (s.modLink d l f).tiles = s.tiles := rfl
@[simp] theorem State.modLink_str : (s.modLink d l f).str = s.str := rfl
@[simp] theorem State.modLink_tel : (s.modLink d l f).tel = s.tel := rfl
@[simp] theorem State.modLink_mems : (s.modLink d l f).mems = s.mems := rfl
@[simp] theorem State.modLink_fab : (s.modLink d l f).fab = s.fab := rfl
@[simp] theorem State.modLink_tag : (s.modLink d l f).tag = s.tag := rfl
@[simp] theorem State.modLink_reds : (s.modLink d l f).reds = s.reds := rfl
@[simp] theorem State.modLink_grots : (s.modLink d l f).grots = s.grots := rfl
@[simp] theorem State.modLink_pubs : (s.modLink d l f).pubs = s.pubs := rfl
@[simp] theorem State.modLink_coh : (s.modLink d l f).coh = s.coh := rfl
@[simp] theorem State.modLink_wins : (s.modLink d l f).wins = s.wins := rfl
@[simp] theorem State.modLink_queues : (s.modLink d l f).queues = s.queues := rfl
@[simp] theorem State.modLink_plc : (s.modLink d l f).plc = s.plc := rfl
@[simp] theorem State.modLink_host : (s.modLink d l f).host = s.host := rfl
@[simp] theorem State.modLink_dats : (s.modLink d l f).dats = s.dats := rfl
@[simp] theorem State.modLink_codecs : (s.modLink d l f).codecs = s.codecs := rfl
@[simp] theorem State.modLink_clk : (s.modLink d l f).clk = s.clk := rfl
@[simp] theorem State.modLink_boot : (s.modLink d l f).boot = s.boot := rfl
@[simp] theorem State.modLink_sec : (s.modLink d l f).sec = s.sec := rfl
@[simp] theorem State.modLink_fences : (s.modLink d l f).fences = s.fences := rfl
@[simp] theorem State.modLink_elec : (s.modLink d l f).elec = s.elec := rfl
@[simp] theorem State.link_modLink_same : (s.modLink d l f).link d l = f (s.link d l) := tget_tmod_same _ _ _ _
end

section
variable (h : Nat) (f : Home → Home)

@[simp] theorem State.modHome_pending : (s.modHome h f).pending = s.pending := rfl
@[simp] theorem State.modHome_fresh : (s.modHome h f).fresh = s.fresh := rfl
@[simp] theorem State.modHome_out : (s.modHome h f).out = s.out := rfl
@[simp] theorem State.modHome_time : (s.modHome h f).time = s.time := rfl
@[simp] theorem State.modHome_mem : (s.modHome h f).mem = s.mem := rfl
@[simp] theorem State.modHome_err : (s.modHome h f).err = s.err := rfl
@[simp] theorem State.modHome_conflict : (s.modHome h f).conflict = s.conflict := rfl
@[simp] theorem State.modHome_links : (s.modHome h f).links = s.links := rfl
@[simp] theorem State.modHome_img : (s.modHome h f).img = s.img := rfl
@[simp] theorem State.modHome_troupes : (s.modHome h f).troupes = s.troupes := rfl
@[simp] theorem State.modHome_waits : (s.modHome h f).waits = s.waits := rfl
@[simp] theorem State.modHome_tokens : (s.modHome h f).tokens = s.tokens := rfl
@[simp] theorem State.modHome_tiles : (s.modHome h f).tiles = s.tiles := rfl
@[simp] theorem State.modHome_str : (s.modHome h f).str = s.str := rfl
@[simp] theorem State.modHome_tel : (s.modHome h f).tel = s.tel := rfl
@[simp] theorem State.modHome_mems : (s.modHome h f).mems = s.mems := rfl
@[simp] theorem State.modHome_fab : (s.modHome h f).fab = s.fab := rfl
@[simp] theorem State.modHome_tag : (s.modHome h f).tag = s.tag := rfl
@[simp] theorem State.modHome_reds : (s.modHome h f).reds = s.reds := rfl
@[simp] theorem State.modHome_grots : (s.modHome h f).grots = s.grots := rfl
@[simp] theorem State.modHome_pubs : (s.modHome h f).pubs = s.pubs := rfl
@[simp] theorem State.modHome_coh : (s.modHome h f).coh = { s.coh with homes := tmod {} s.coh.homes h f } := rfl
@[simp] theorem State.modHome_wins : (s.modHome h f).wins = s.wins := rfl
@[simp] theorem State.modHome_queues : (s.modHome h f).queues = s.queues := rfl
@[simp] theorem State.modHome_plc : (s.modHome h f).plc = s.plc := rfl
@[simp] theorem State.modHome_host : (s.modHome h f).host = s.host := rfl
@[simp] theorem State.modHome_dats : (s.modHome h f).dats = s.dats := rfl
@[simp] theorem State.modHome_codecs : (s.modHome h f).codecs = s.codecs := rfl
@[simp] theorem State.modHome_clk : (s.modHome h f).clk = s.clk := rfl
@[simp] theorem State.modHome_boot : (s.modHome h f).boot = s.boot := rfl
@[simp] theorem State.modHome_sec : (s.modHome h f).sec = s.sec := rfl
@[simp] theorem State.modHome_fences : (s.modHome h f).fences = s.fences := rfl
@[simp] theorem State.modHome_elec : (s.modHome h f).elec = s.elec := rfl
@[simp] theorem State.home_modHome_same : (s.modHome h f).home h = f (s.home h) := tget_tmod_same _ _ _ _
theorem State.home_modHome_ne (j : Nat) (hj : j ≠ h) : (s.modHome h f).home j = s.home j :=
  tget_tmod_ne _ _ _ _ _ hj
end

section
variable (m : List Host.Cell)

@[simp] theorem State.setMem_pending : (s.setMem m).pending = s.pending := rfl
@[simp] theorem State.setMem_fresh : (s.setMem m).fresh = s.fresh := rfl
@[simp] theorem State.setMem_out : (s.setMem m).out = s.out := rfl
@[simp] theorem State.setMem_time : (s.setMem m).time = s.time := rfl
@[simp] theorem State.setMem_mem : (s.setMem m).mem = m := rfl
@[simp] theorem State.setMem_err : (s.setMem m).err = s.err := rfl
@[simp] theorem State.setMem_conflict : (s.setMem m).conflict = s.conflict := rfl
@[simp] theorem State.setMem_links : (s.setMem m).links = s.links := rfl
@[simp] theorem State.setMem_img : (s.setMem m).img = s.img := rfl
@[simp] theorem State.setMem_troupes : (s.setMem m).troupes = s.troupes := rfl
@[simp] theorem State.setMem_waits : (s.setMem m).waits = s.waits := rfl
@[simp] theorem State.setMem_tokens : (s.setMem m).tokens = s.tokens := rfl
@[simp] theorem State.setMem_tiles : (s.setMem m).tiles = s.tiles := rfl
@[simp] theorem State.setMem_str : (s.setMem m).str = s.str := rfl
@[simp] theorem State.setMem_tel : (s.setMem m).tel = s.tel := rfl
@[simp] theorem State.setMem_mems : (s.setMem m).mems = s.mems := rfl
@[simp] theorem State.setMem_fab : (s.setMem m).fab = s.fab := rfl
@[simp] theorem State.setMem_tag : (s.setMem m).tag = s.tag := rfl
@[simp] theorem State.setMem_reds : (s.setMem m).reds = s.reds := rfl
@[simp] theorem State.setMem_grots : (s.setMem m).grots = s.grots := rfl
@[simp] theorem State.setMem_pubs : (s.setMem m).pubs = s.pubs := rfl
@[simp] theorem State.setMem_coh : (s.setMem m).coh = s.coh := rfl
@[simp] theorem State.setMem_wins : (s.setMem m).wins = s.wins := rfl
@[simp] theorem State.setMem_queues : (s.setMem m).queues = s.queues := rfl
@[simp] theorem State.setMem_plc : (s.setMem m).plc = s.plc := rfl
@[simp] theorem State.setMem_host : (s.setMem m).host = s.host := rfl
@[simp] theorem State.setMem_dats : (s.setMem m).dats = s.dats := rfl
@[simp] theorem State.setMem_codecs : (s.setMem m).codecs = s.codecs := rfl
@[simp] theorem State.setMem_clk : (s.setMem m).clk = s.clk := rfl
@[simp] theorem State.setMem_boot : (s.setMem m).boot = s.boot := rfl
@[simp] theorem State.setMem_sec : (s.setMem m).sec = s.sec := rfl
@[simp] theorem State.setMem_fences : (s.setMem m).fences = s.fences := rfl
@[simp] theorem State.setMem_elec : (s.setMem m).elec = s.elec := rfl
end

section
variable (a : Nat) (b : List Byte)

@[simp] theorem State.store_pending : (s.store a b).pending = s.pending := rfl
@[simp] theorem State.store_fresh : (s.store a b).fresh = s.fresh := rfl
@[simp] theorem State.store_out : (s.store a b).out = s.out := rfl
@[simp] theorem State.store_time : (s.store a b).time = s.time := rfl
@[simp] theorem State.store_mem : (s.store a b).mem = memWrites s.mem a b := rfl
@[simp] theorem State.store_err : (s.store a b).err = s.err := rfl
@[simp] theorem State.store_conflict : (s.store a b).conflict = s.conflict := rfl
@[simp] theorem State.store_links : (s.store a b).links = s.links := rfl
@[simp] theorem State.store_img : (s.store a b).img = s.img := rfl
@[simp] theorem State.store_troupes : (s.store a b).troupes = s.troupes := rfl
@[simp] theorem State.store_waits : (s.store a b).waits = s.waits := rfl
@[simp] theorem State.store_tokens : (s.store a b).tokens = s.tokens := rfl
@[simp] theorem State.store_tiles : (s.store a b).tiles = s.tiles := rfl
@[simp] theorem State.store_str : (s.store a b).str = s.str := rfl
@[simp] theorem State.store_tel : (s.store a b).tel = s.tel := rfl
@[simp] theorem State.store_mems : (s.store a b).mems = s.mems := rfl
@[simp] theorem State.store_fab : (s.store a b).fab = s.fab := rfl
@[simp] theorem State.store_tag : (s.store a b).tag = s.tag := rfl
@[simp] theorem State.store_reds : (s.store a b).reds = s.reds := rfl
@[simp] theorem State.store_grots : (s.store a b).grots = s.grots := rfl
@[simp] theorem State.store_pubs : (s.store a b).pubs = s.pubs := rfl
@[simp] theorem State.store_coh : (s.store a b).coh = s.coh := rfl
@[simp] theorem State.store_wins : (s.store a b).wins = s.wins := rfl
@[simp] theorem State.store_queues : (s.store a b).queues = s.queues := rfl
@[simp] theorem State.store_plc : (s.store a b).plc = s.plc := rfl
@[simp] theorem State.store_host : (s.store a b).host = s.host := rfl
@[simp] theorem State.store_dats : (s.store a b).dats = s.dats := rfl
@[simp] theorem State.store_codecs : (s.store a b).codecs = s.codecs := rfl
@[simp] theorem State.store_clk : (s.store a b).clk = s.clk := rfl
@[simp] theorem State.store_boot : (s.store a b).boot = s.boot := rfl
@[simp] theorem State.store_sec : (s.store a b).sec = s.sec := rfl
@[simp] theorem State.store_fences : (s.store a b).fences = s.fences := rfl
@[simp] theorem State.store_elec : (s.store a b).elec = s.elec := rfl
end

section
variable (r : Reply)

@[simp] theorem State.reply_pending : (s.reply r).pending = s.pending := rfl
@[simp] theorem State.reply_fresh : (s.reply r).fresh = s.fresh := rfl
@[simp] theorem State.reply_out : (s.reply r).out = r := rfl
@[simp] theorem State.reply_time : (s.reply r).time = s.time := rfl
@[simp] theorem State.reply_mem : (s.reply r).mem = s.mem := rfl
@[simp] theorem State.reply_err : (s.reply r).err = s.err := rfl
@[simp] theorem State.reply_conflict : (s.reply r).conflict = s.conflict := rfl
@[simp] theorem State.reply_links : (s.reply r).links = s.links := rfl
@[simp] theorem State.reply_img : (s.reply r).img = s.img := rfl
@[simp] theorem State.reply_troupes : (s.reply r).troupes = s.troupes := rfl
@[simp] theorem State.reply_waits : (s.reply r).waits = s.waits := rfl
@[simp] theorem State.reply_tokens : (s.reply r).tokens = s.tokens := rfl
@[simp] theorem State.reply_tiles : (s.reply r).tiles = s.tiles := rfl
@[simp] theorem State.reply_str : (s.reply r).str = s.str := rfl
@[simp] theorem State.reply_tel : (s.reply r).tel = s.tel := rfl
@[simp] theorem State.reply_mems : (s.reply r).mems = s.mems := rfl
@[simp] theorem State.reply_fab : (s.reply r).fab = s.fab := rfl
@[simp] theorem State.reply_tag : (s.reply r).tag = s.tag := rfl
@[simp] theorem State.reply_reds : (s.reply r).reds = s.reds := rfl
@[simp] theorem State.reply_grots : (s.reply r).grots = s.grots := rfl
@[simp] theorem State.reply_pubs : (s.reply r).pubs = s.pubs := rfl
@[simp] theorem State.reply_coh : (s.reply r).coh = s.coh := rfl
@[simp] theorem State.reply_wins : (s.reply r).wins = s.wins := rfl
@[simp] theorem State.reply_queues : (s.reply r).queues = s.queues := rfl
@[simp] theorem State.reply_plc : (s.reply r).plc = s.plc := rfl
@[simp] theorem State.reply_host : (s.reply r).host = s.host := rfl
@[simp] theorem State.reply_dats : (s.reply r).dats = s.dats := rfl
@[simp] theorem State.reply_codecs : (s.reply r).codecs = s.codecs := rfl
@[simp] theorem State.reply_clk : (s.reply r).clk = s.clk := rfl
@[simp] theorem State.reply_boot : (s.reply r).boot = s.boot := rfl
@[simp] theorem State.reply_sec : (s.reply r).sec = s.sec := rfl
@[simp] theorem State.reply_fences : (s.reply r).fences = s.fences := rfl
@[simp] theorem State.reply_elec : (s.reply r).elec = s.elec := rfl
end

section

@[simp] theorem State.draw_pending : (s.draw).pending = s.pending := rfl
@[simp] theorem State.draw_fresh : (s.draw).fresh = s.fresh + 1 := rfl
@[simp] theorem State.draw_out : (s.draw).out = s.out := rfl
@[simp] theorem State.draw_time : (s.draw).time = s.time := rfl
@[simp] theorem State.draw_mem : (s.draw).mem = s.mem := rfl
@[simp] theorem State.draw_err : (s.draw).err = s.err := rfl
@[simp] theorem State.draw_conflict : (s.draw).conflict = s.conflict := rfl
@[simp] theorem State.draw_links : (s.draw).links = s.links := rfl
@[simp] theorem State.draw_img : (s.draw).img = s.img := rfl
@[simp] theorem State.draw_troupes : (s.draw).troupes = s.troupes := rfl
@[simp] theorem State.draw_waits : (s.draw).waits = s.waits := rfl
@[simp] theorem State.draw_tokens : (s.draw).tokens = s.tokens := rfl
@[simp] theorem State.draw_tiles : (s.draw).tiles = s.tiles := rfl
@[simp] theorem State.draw_str : (s.draw).str = s.str := rfl
@[simp] theorem State.draw_tel : (s.draw).tel = s.tel := rfl
@[simp] theorem State.draw_mems : (s.draw).mems = s.mems := rfl
@[simp] theorem State.draw_fab : (s.draw).fab = s.fab := rfl
@[simp] theorem State.draw_tag : (s.draw).tag = s.tag := rfl
@[simp] theorem State.draw_reds : (s.draw).reds = s.reds := rfl
@[simp] theorem State.draw_grots : (s.draw).grots = s.grots := rfl
@[simp] theorem State.draw_pubs : (s.draw).pubs = s.pubs := rfl
@[simp] theorem State.draw_coh : (s.draw).coh = s.coh := rfl
@[simp] theorem State.draw_wins : (s.draw).wins = s.wins := rfl
@[simp] theorem State.draw_queues : (s.draw).queues = s.queues := rfl
@[simp] theorem State.draw_plc : (s.draw).plc = s.plc := rfl
@[simp] theorem State.draw_host : (s.draw).host = s.host := rfl
@[simp] theorem State.draw_dats : (s.draw).dats = s.dats := rfl
@[simp] theorem State.draw_codecs : (s.draw).codecs = s.codecs := rfl
@[simp] theorem State.draw_clk : (s.draw).clk = s.clk := rfl
@[simp] theorem State.draw_boot : (s.draw).boot = s.boot := rfl
@[simp] theorem State.draw_sec : (s.draw).sec = s.sec := rfl
@[simp] theorem State.draw_fences : (s.draw).fences = s.fences := rfl
@[simp] theorem State.draw_elec : (s.draw).elec = s.elec := rfl
end

/-- Free bytes touch memory and the counter of free values alone. -/
theorem State.freeFill_eq (base len : Nat) :
    s.freeFill base len = { s with mem := memFree s.mem base len s.fresh, fresh := s.fresh + 1 } := rfl

end Sys2Proof.Machine
end

