-- ==== Sys2Proof/Laws/Ops.lean ====
section
/-! SUPPORT. What each shared operation can do: the parts of the state that it may change (a lemma f_frame for each
operation f, which callers cite and do not unfold), and when an event acts. -/

namespace Sys2Proof.Machine

open Sys2Proof

variable (s : State)

/-! ### Events -/

theorem event_due (f : State → State) (h : s.live = true) : event s true f = .next (f s) := by simp [event, h]

theorem event_of_due (due : Bool) (f : State → State) (h : s.live = true) (d : due = true) :
    event s due f = .next (f s) := by simp [event, h, d]

theorem event_not_due (f : State → State) : event s false f = .next s := by simp [event]

theorem event_dead (due : Bool) (f : State → State) (h : s.live = false) : event s due f = .next s := by simp [event, h]

theorem eventOf_some {α : Type} (a : α) (f : α → State → State) (h : s.live = true) :
    eventOf s (some a) f = .next (f a s) := by simp [eventOf, h]

theorem eventOf_none {α : Type} (f : α → State → State) : eventOf s none f = .next s := by simp [eventOf]

theorem eventOf_dead {α : Type} (x : Option α) (f : α → State → State) (h : s.live = false) :
    eventOf s x f = .next s := by simp [eventOf, h]

/-- The outcome of an event: the state itself or the state after its effect. -/
theorem event_cases (due : Bool) (f : State → State) :
    event s due f = .next s ∨ (s.live = true ∧ due = true ∧ event s due f = .next (f s)) := by
  unfold event; split <;> simp_all

theorem eventOf_cases {α : Type} (x : Option α) (f : α → State → State) :
    eventOf s x f = .next s ∨ ∃ a, s.live = true ∧ x = some a ∧ eventOf s x f = .next (f a s) := by
  unfold eventOf; split <;> cases x <;> simp_all

/-! ### The frame of a state change -/

/-- The queue of commands is as it was and memory stays in canonical form. -/
def Keeps (s r : State) : Prop := r.pending = s.pending ∧ (Memory.wf s.mem = true → Memory.wf r.mem = true)

theorem Keeps.refl : Keeps s s := ⟨rfl, id⟩

theorem Keeps.trans {s r t : State} (h : Keeps s r) (k : Keeps r t) : Keeps s t := ⟨k.1.trans h.1, fun m => k.2 (h.2 m)⟩

/-- An operation that changes neither. -/
theorem Keeps.of_eq {s r : State} (p : r.pending = s.pending) (m : r.mem = s.mem) : Keeps s r := ⟨p, fun h => m ▸ h⟩

theorem Keeps.foldl {α : Type} (l : List α) (f : State → α → State) (h : ∀ s a, Keeps s (f s a)) (s : State) :
    Keeps s (l.foldl f s) := by
  induction l generalizing s with
  | nil => exact Keeps.refl s
  | cons a l ih => exact (h s a).trans (ih (f s a))

theorem Keeps.store (a : Nat) (bs : List Byte) : Keeps s (s.store a bs) := ⟨rfl, State.store_wf s a bs⟩

theorem Keeps.freeFill (base len : Nat) : Keeps s (s.freeFill base len) := ⟨rfl, State.freeFill_wf s base len⟩

/-! ### Router, aborts, resets and records -/

theorem setPending_frame (f e : Nat) : ∃ h, setPending f e s = { s with host := h } := ⟨_, rfl⟩

theorem evtSend_frame (e : Nat) : ∃ h, evtSend e s = { s with host := h } := by
  unfold evtSend; dsimp only; split
  · exact setPending_frame s _ _
  · exact ⟨s.host, rfl⟩

/-- beginAbort changes troupes and the interrupt files alone. -/
theorem beginAbort_frame (tr : Nat) : ∃ t h, beginAbort tr s = { s with troupes := t, host := h } := by
  unfold beginAbort; split
  · obtain ⟨h, e⟩ := evtSend_frame (s.modTroupe tr fun x =>
      { x with state := 2, noticed := [], abortAt := s.time.span, auditing := false }) 3
    exact ⟨_, h, e⟩
  · exact ⟨s.troupes, s.host, rfl⟩

theorem beginAbort_running (tr : Nat) (h : (s.troupe tr).state = 1) : ((beginAbort tr s).troupe tr).state = 2 := by
  unfold beginAbort; rw [if_pos h]
  obtain ⟨k, e⟩ := evtSend_frame (s.modTroupe tr fun x =>
    { x with state := 2, noticed := [], abortAt := s.time.span, auditing := false }) 3
  rw [e]; simp [State.troupe, State.modTroupe, tmod]

theorem beginAbort_idle (tr : Nat) (h : (s.troupe tr).state ≠ 1) : beginAbort tr s = s := by
  unfold beginAbort; rw [if_neg h]

theorem oweReset_frame (k : ResetKind) : ∃ b, oweReset k s = { s with boot := b } := by
  unfold oweReset; split
  · exact ⟨s.boot, rfl⟩
  · exact ⟨_, rfl⟩

theorem oweReset_owes (k : ResetKind) : (oweReset k s).boot.resetDue.isSome = true := by
  unfold oweReset; split <;> simp_all

/-- A record changes the ERR blocks, the interrupt files, troupes that abort and the reset that is owed. -/
theorem formRecord_frame (d : Nat) (r : ErrRec) :
    ∃ e h t b, formRecord d r s = { s with err := e, host := h, troupes := t, boot := b } := by
  unfold formRecord
  extract_lets r' written full s1 s2
  obtain ⟨h, e⟩ : ∃ h, s2 = { s1 with host := h } := by
    by_cases c : written && decide (r.severity ≤ 1)
    · obtain ⟨h, e⟩ := evtSend_frame s1 r.severity
      exact ⟨h, (if_pos c).trans e⟩
    · exact ⟨s1.host, if_neg c⟩
  split
  · split
    · exact ⟨_, _, _, _, e⟩
    · obtain ⟨t, k, f⟩ := beginAbort_frame s2 r.troupe
      rw [e] at f
      exact ⟨s1.err, k, t, s1.boot, by rw [e]; exact f⟩
  · split
    · obtain ⟨b, f⟩ := oweReset_frame { s2 with err := { s2.err with fatalFormed := s2.err.fatalFormed ++ [full] } } .fatal
      exact ⟨{ s2.err with fatalFormed := s2.err.fatalFormed ++ [full] }, s2.host, s2.troupes, b, f.trans (by rw [e]; rfl)⟩
    · exact ⟨_, _, _, _, e⟩

@[simp] theorem formRecord_mem (d : Nat) (r : ErrRec) : (formRecord d r s).mem = s.mem := by
  obtain ⟨_, _, _, _, e⟩ := formRecord_frame s d r; rw [e]

@[simp] theorem formRecord_pending (d : Nat) (r : ErrRec) : (formRecord d r s).pending = s.pending := by
  obtain ⟨_, _, _, _, e⟩ := formRecord_frame s d r; rw [e]

@[simp] theorem formRecord_tiles (d : Nat) (r : ErrRec) : (formRecord d r s).tiles = s.tiles := by
  obtain ⟨_, _, _, _, e⟩ := formRecord_frame s d r; rw [e]

theorem contractFaultAt_frame (at_ d tr u code addr info0 : Nat) :
    ∃ e h t b, contractFaultAt at_ d tr u code addr info0 s = { s with err := e, host := h, troupes := t, boot := b } := by
  unfold contractFaultAt
  extract_lets sid s1
  obtain ⟨e, h, t, b, k⟩ := formRecord_frame s1 d
    { cls := 1, severity := sevDeferred, unit := u, code := code, troupe := tr, sceneId := sid, addr := addr, info0 := info0 }
  exact ⟨e, h, t, b, k⟩

theorem contractFaultOn_frame (d tr u code addr info0 : Nat) :
    ∃ e h t b, contractFaultOn d tr u code addr info0 s = { s with err := e, host := h, troupes := t, boot := b } :=
  contractFaultAt_frame s _ _ _ _ _ _ _

theorem contractFault_frame (tr u code addr info0 : Nat) :
    ∃ e h t b, contractFault tr u code addr info0 s = { s with err := e, host := h, troupes := t, boot := b } :=
  contractFaultOn_frame s _ _ _ _ _ _

theorem unitFault_frame (u code addr info0 : Nat) :
    ∃ e h t b, unitFault u code addr info0 s = { s with err := e, host := h, troupes := t, boot := b } := by
  unfold unitFault; split
  · exact contractFault_frame s _ _ _ _ _
  · exact ⟨s.err, s.host, s.troupes, s.boot, rfl⟩

@[simp] theorem unitFault_mem (u code addr info0 : Nat) : (unitFault u code addr info0 s).mem = s.mem := by
  obtain ⟨_, _, _, _, e⟩ := unitFault_frame s u code addr info0; rw [e]

@[simp] theorem unitFault_pending (u code addr info0 : Nat) : (unitFault u code addr info0 s).pending = s.pending := by
  obtain ⟨_, _, _, _, e⟩ := unitFault_frame s u code addr info0; rw [e]

/-- A tile's fault changes besides only what the tile has raised. -/
theorem tileFaultAt_frame (t c seq addr code info0 : Nat) :
    ∃ ts e h tr b, tileFaultAt t c seq addr code info0 s =
      { s with tiles := ts, err := e, host := h, troupes := tr, boot := b } := by
  unfold tileFaultAt; split
  · exact ⟨s.tiles, s.err, s.host, s.troupes, s.boot, rfl⟩
  · extract_lets s1
    split
    · obtain ⟨e, h, tr, b, k⟩ := contractFaultAt_frame s1 ((s1.tile t).startCmp + c) (unitDie t) _ t code addr info0
      exact ⟨_, e, h, tr, b, k⟩
    · exact ⟨_, s.err, s.host, s.troupes, s.boot, rfl⟩

@[simp] theorem tileFaultAt_mem (t c seq addr code info0 : Nat) : (tileFaultAt t c seq addr code info0 s).mem = s.mem := by
  obtain ⟨_, _, _, _, _, e⟩ := tileFaultAt_frame s t c seq addr code info0; rw [e]

theorem tileFault_frame (t seq addr code info0 : Nat) :
    ∃ ts e h tr b, tileFault t seq addr code info0 s = { s with tiles := ts, err := e, host := h, troupes := tr, boot := b } :=
  tileFaultAt_frame s _ _ _ _ _ _

@[simp] theorem tileFault_mem (t seq addr code info0 : Nat) : (tileFault t seq addr code info0 s).mem = s.mem := by
  obtain ⟨_, _, _, _, _, e⟩ := tileFault_frame s t seq addr code info0; rw [e]

@[simp] theorem tileFault_pending (t seq addr code info0 : Nat) :
    (tileFault t seq addr code info0 s).pending = s.pending := by
  obtain ⟨_, _, _, _, _, e⟩ := tileFault_frame s t seq addr code info0; rw [e]

theorem recordRegAcc_frame (d src kind addr : Nat) : ∃ e, recordRegAcc d src kind addr s = { s with err := e } := ⟨_, rfl⟩

/-! ### Signals, waits and completions -/

theorem signalDevice_frame (u ch k sent addr : Nat) :
    ∃ tk e h t b, signalDevice u ch k sent addr s = { s with tokens := tk, err := e, host := h, troupes := t, boot := b } := by
  unfold signalDevice; extract_lets c; split
  · exact ⟨_, s.err, s.host, s.troupes, s.boot, rfl⟩
  · split
    · obtain ⟨e, h, t, b, k⟩ := contractFaultOn_frame s (1 + tokenHome ch) _ u fcTokenOverflow addr ch
      exact ⟨s.tokens, e, h, t, b, k⟩
    · exact ⟨s.tokens, s.err, s.host, s.troupes, s.boot, rfl⟩

theorem signalTile_frame (t ch k lo hi addr seq : Nat) :
    ∃ ts e h tr b, signalTile t ch k lo hi addr seq s = { s with tiles := ts, err := e, host := h, troupes := tr, boot := b } := by
  unfold signalTile; extract_lets c; split
  · exact ⟨_, s.err, s.host, s.troupes, s.boot, rfl⟩
  · exact tileFault_frame s _ _ _ _ _

theorem sendSignal_frame (u ch k sent addr : Nat) : ∃ x, sendSignal u ch k sent addr s = { s with str := x } := ⟨_, rfl⟩

theorem beginWait_frame (u kind chan k limit cycle addr : Nat) :
    ∃ w, beginWait u kind chan k limit cycle addr s = { s with waits := w } := ⟨_, rfl⟩

theorem completeQ_frame (q n status detail : Nat) : ∃ x, completeQ q n status detail s = { s with queues := x } := by
  unfold completeQ; split
  · exact ⟨_, rfl⟩
  · exact ⟨s.queues, rfl⟩

theorem completeOwner_frame (o : Option (Nat × Nat)) (status detail : Nat) :
    ∃ x, completeOwner o status detail s = { s with queues := x } := by
  unfold completeOwner; split
  · exact completeQ_frame s _ _ _ _
  · exact ⟨s.queues, rfl⟩

theorem sendStr_frame (m : StrMsg) : ∃ x, sendStr m s = { s with str := x } := ⟨_, rfl⟩

theorem countInto_frame (t entry addr u cycle : Nat) (c : Counts) : ∃ x, countInto t entry addr u cycle c s = { s with tiles := x } := ⟨_, rfl⟩

/-! ### Engines -/

theorem setEngState_frame (u n : Nat) :
    ∃ r d g f, setEngState u n s = { s with reds := r, dats := d, grots := g, fab := f } := by
  unfold setEngState
  split
  · exact ⟨_, s.dats, s.grots, s.fab, rfl⟩
  · split
    · exact ⟨s.reds, _, s.grots, s.fab, rfl⟩
    · split
      · exact ⟨s.reds, s.dats, _, s.fab, rfl⟩
      · split
        · exact ⟨s.reds, s.dats, s.grots, _, rfl⟩
        · exact ⟨s.reds, s.dats, s.grots, s.fab, rfl⟩

theorem engineFault_frame (u code entry info0 : Nat) :
    ∃ r d g f e h t b, engineFault u code entry info0 s =
      { s with reds := r, dats := d, grots := g, fab := f, err := e, host := h, troupes := t, boot := b } := by
  unfold engineFault
  obtain ⟨r, d, g, f, k⟩ := setEngState_frame s u esIdle
  obtain ⟨e, h, t, b, l⟩ := unitFault_frame (setEngState u esIdle s) u code entry info0
  rw [l, k]; exact ⟨r, d, g, f, e, h, t, b, rfl⟩

theorem engineSignal_frame (u ch : Nat) : ∃ x, engineSignal u ch s = { s with str := x } := by
  unfold engineSignal; split
  · exact ⟨s.str, rfl⟩
  · exact ⟨_, rfl⟩

/-! ### Tier reads and writes -/

/-- The corrected count of a read, and for a scheduled port its record. -/
theorem eccCorrected_frame (m ch off requester : Nat) (d : Nat) (r : ErrRec) :
    ∃ c e h t b, (let s := s.modMem m fun c => c.note false ch off
        if requester = rqPort then formRecord d r s else s) =
      { s with mems := c, err := e, host := h, troupes := t, boot := b } := by
  extract_lets s1
  split
  · obtain ⟨e, h, t, b, k⟩ := formRecord_frame s1 d r
    exact ⟨s1.mems, e, h, t, b, k⟩
  · exact ⟨s1.mems, s1.err, s1.host, s1.troupes, s1.boot, rfl⟩

/-- A read of a line counts and records its errors and may poison the line; memory is as it was, but for a line that is
corrected wrongly. -/
theorem eccRead_frame (a : Nat) (x : Ecc) (requester unit troupe : Nat) :
    ∃ r m c e h t b, (r = s ∨ r = s.freeFill (a / 128 * 128) 128 ∧ effEcc s a x = .miscorrected) ∧
      eccRead a x requester unit troupe s = { r with mems := m, coh := c, err := e, host := h, troupes := t, boot := b } := by
  unfold eccRead
  split
  · exact ⟨s, s.mems, s.coh, s.err, s.host, s.troupes, s.boot, .inl rfl, rfl⟩
  · rename_i m off _
    extract_lets ch base s1 s3 _ s2
    split
    · exact ⟨s, s.mems, s.coh, s.err, s.host, s.troupes, s.boot, .inl rfl, rfl⟩
    · obtain ⟨c, e, h, t, b, k⟩ := eccCorrected_frame s m ch off requester (memDie m) { base with cls := 3, severity := sevCorrected }
      exact ⟨s, c, s.coh, e, h, t, b, .inl rfl, k⟩
    · rename_i f
      obtain ⟨c, e, h, t, b, k⟩ := eccCorrected_frame (s.freeFill (a / 128 * 128) 128) m ch off requester (memDie m)
        { base with cls := 3, severity := sevCorrected }
      exact ⟨s.freeFill (a / 128 * 128) 128, c, s.coh, e, h, t, b, .inr ⟨rfl, f⟩, k⟩
    · obtain ⟨c, q⟩ : ∃ c, s2 = { s3 with coh := c } := by
        by_cases p : s3.badLine a = true
        · exact ⟨s3.coh, if_pos p⟩
        · exact ⟨_, if_neg p⟩
      obtain ⟨e, h, t, b, k⟩ := formRecord_frame s2 (memDie m) { base with cls := 4, severity := sevDeferred, info1 := requester }
      exact ⟨s, s3.mems, c, e, h, t, b, .inl rfl, by rw [k, q]; rfl⟩

theorem Keeps.eccRead (a : Nat) (x : Ecc) (requester unit troupe : Nat) :
    Keeps s (Machine.eccRead a x requester unit troupe s) := by
  obtain ⟨r, _, _, _, _, _, _, k, e⟩ := eccRead_frame s a x requester unit troupe
  rw [e]
  rcases k with rfl | ⟨rfl, _⟩
  · exact .of_eq rfl rfl
  · exact (Keeps.freeFill s _ _).trans (.of_eq rfl rfl)

@[simp] theorem eccRead_pending (a : Nat) (x : Ecc) (requester unit troupe : Nat) :
    (eccRead a x requester unit troupe s).pending = s.pending := (Keeps.eccRead s a x requester unit troupe).1

theorem cancelWriteBack_frame (a : Nat) : ∃ m, cancelWriteBack a s = { s with mems := m } := by
  unfold cancelWriteBack; split
  · exact ⟨s.mems, rfl⟩
  · extract_lets p; split
    · exact ⟨_, rfl⟩
    · exact ⟨s.mems, rfl⟩

/-- A whole line written: its bytes, its check bits, and no write-back of what stood there. -/
theorem storeLine_frame (a : Nat) (bs : List Byte) :
    ∃ m c, storeLine a bs s = { s with mem := memWrites s.mem a bs, mems := m, coh := c } := by
  unfold storeLine
  obtain ⟨m, e⟩ := cancelWriteBack_frame (s.store a bs) a
  rw [e]; exact ⟨m, _, rfl⟩

theorem Keeps.storeLine (a : Nat) (bs : List Byte) : Keeps s (Machine.storeLine a bs s) := by
  obtain ⟨m, c, e⟩ := storeLine_frame s a bs
  rw [e]; exact ⟨rfl, fun h => memWrites_wf s.mem a bs h⟩

theorem homeWrite_frame (line : Nat) (data : List Byte) (poison : Bool) :
    ∃ m c, homeWrite line data poison s = { s with mem := memWrites s.mem (128 * line) data, mems := m, coh := c } := by
  unfold homeWrite; extract_lets s1
  obtain ⟨m, c, e⟩ : ∃ m c, s1 = { s with mem := memWrites s.mem (128 * line) data, mems := m, coh := c } :=
    storeLine_frame s _ _
  split
  · exact ⟨m, _, by rw [e]⟩
  · exact ⟨m, c, e⟩

/-! ### Coherence messages -/

theorem cohSend_frame (m : CohMsg) : ∃ c, cohSend m s = { s with coh := c } := ⟨_, rfl⟩

theorem cohTake_frame (m : CohMsg) : ∃ c, cohTake m s = { s with coh := c } := ⟨_, rfl⟩

theorem acknowledge_frame (a line : Nat) (m : CohMsg) : ∃ c, acknowledge a line m s = { s with coh := c } := ⟨_, rfl⟩

theorem ioSend_frame (p : Nat × CohMsg) : ∃ c, ioSend s p = { s with coh := c } := by
  unfold ioSend; dsimp only; split <;> exact ⟨_, rfl⟩

/-- A fold of steps that change only the coherence state changes only that. -/
theorem foldl_coh_frame {α : Type} (f : State → α → State) (hf : ∀ s x, ∃ c, f s x = { s with coh := c }) (l : List α) :
    ∃ c, l.foldl f s = { s with coh := c } := by
  induction l generalizing s with
  | nil => exact ⟨s.coh, rfl⟩
  | cons x l ih =>
    obtain ⟨c, e⟩ := hf s x
    obtain ⟨d, g⟩ := ih { s with coh := c }
    exact ⟨d, by rw [List.foldl_cons, e]; exact g⟩

/-- Requests of agent 12 that leave are messages in flight and nothing else. -/
theorem ioPump_frame : ∃ c, ioPump s = { s with coh := c } := foldl_coh_frame s ioSend ioSend_frame _

theorem ioRequest_frame (cls op line : Nat) (data : List Byte) (mask : List Bool) :
    ∃ c, (ioRequest cls op line data mask s).2 = { s with coh := c } := by
  obtain ⟨c, e⟩ := ioPump_frame { s with coh := { s.coh with
    ioNext := s.coh.ioNext + 1, ioOut := s.coh.ioOut ++ [s.coh.ioNext]
    ioWait := s.coh.ioWait ++ [(s.coh.ioNext, { op := op, line := line, req := ioAgent, dst := ackHome line, src := ioAgent, data := data, mask := mask, cls := cls })] } }
  exact ⟨c, e⟩

theorem ioWriteLine_frame (cls a : Nat) (bs : List Byte) : ∃ c, (ioWriteLine cls a bs s).2 = { s with coh := c } := by
  unfold ioWriteLine; dsimp only; split <;> exact ioRequest_frame s _ _ _ _ _

/-- Agent 12's write of a byte string sends requests; memory changes when their homes serve them. -/
theorem ioWrites_frame (cls n a : Nat) (bs : List Byte) : ∃ c, (ioWrites cls n a bs s).2 = { s with coh := c } := by
  induction n generalizing a bs s with
  | zero => exact ⟨s.coh, rfl⟩
  | succ n ih =>
    unfold ioWrites; split
    · exact ⟨s.coh, rfl⟩
    · obtain ⟨c, e⟩ := ioWriteLine_frame s cls a (bs.take (128 - a % 128))
      obtain ⟨d, f⟩ := ih (ioWriteLine cls a (bs.take (128 - a % 128)) s).2 (a + (128 - a % 128)) (bs.drop (128 - a % 128))
      exact ⟨d, f.trans (by rw [e])⟩

theorem ioWrite_frame (cls a : Nat) (bs : List Byte) : ∃ c, (ioWrite cls a bs s).2 = { s with coh := c } :=
  ioWrites_frame s cls _ a bs

/-! ### Edge caches -/

theorem cacheRequest_frame (cls a line op : Nat) (c : CLine) : ∃ d, cacheRequest cls a line op c s = { s with coh := d } := by
  unfold cacheRequest; split
  · exact ⟨s.coh, rfl⟩
  · split
    · exact ⟨_, rfl⟩
    · exact ⟨s.coh, rfl⟩

theorem edgeFetch_frame (cls a : Nat) (own : Bool) (line : Nat) : ∃ c, edgeFetch cls a own s line = { s with coh := c } := by
  unfold edgeFetch; dsimp only
  split
  · exact cacheRequest_frame s _ _ _ _ _
  · split
    · exact cacheRequest_frame s _ _ _ _ _
    · exact ⟨s.coh, rfl⟩
  · exact ⟨s.coh, rfl⟩

theorem edgeFetches_frame (cls a : Nat) (own : Bool) (ls : List Nat) :
    ∃ c, ls.foldl (edgeFetch cls a own) s = { s with coh := c } :=
  foldl_coh_frame s _ (fun s l => edgeFetch_frame s cls a own l) ls

theorem edgeAdd_frame (a : Nat) (q : EdgeAsk) : ∃ c, edgeAdd a q s = { s with coh := c } := by
  unfold edgeAdd; dsimp only; split <;> exact ⟨_, rfl⟩

/-- An edge cache loses no line that a hart's caches hold. -/
theorem evictLine_frame {a : Nat} (h : 8 ≤ a) (line : Nat) : ∃ c, evictLine a line s = { s with coh := c } := by
  unfold evictLine leaveSlice; rw [if_pos h]; exact ⟨_, rfl⟩

theorem edgeOut_frame {a : Nat} (h : 8 ≤ a) (q : EdgeAsk) : ∃ c, (edgeOut a q s).2 = { s with coh := c } := by
  unfold edgeOut; dsimp only; split
  · dsimp only; split
    · exact evictLine_frame s h _
    · exact ⟨s.coh, rfl⟩
  · dsimp only; split
    · exact evictLine_frame s h _
    · exact ⟨s.coh, rfl⟩
  · exact ⟨_, rfl⟩
  · exact ⟨s.coh, rfl⟩
  · exact ⟨s.coh, rfl⟩

theorem edgeStep_frame {a : Nat} (h : 8 ≤ a) (q : EdgeAsk) : ∃ c, (edgeStep a q s).2 = { s with coh := c } := by
  unfold edgeStep; dsimp only; split
  · split
    · exact ⟨s.coh, rfl⟩
    · exact edgeFetches_frame s _ _ _ _
  · split
    · exact ⟨_, rfl⟩
    · exact edgeFetches_frame s _ _ _ _
  · split
    · exact edgeFetches_frame s _ _ _ _
    · split
      · exact ⟨s.coh, rfl⟩
      · exact edgeAdd_frame s a q
  · split
    · exact edgeOut_frame s h q
    · split
      · exact edgeOut_frame (edgePut a q.addr q.data s) h _
      · exact edgeFetches_frame s _ _ _ _

theorem edgeGo_frame {a : Nat} (h : 8 ≤ a) (l : List EdgeAsk) (held : List Nat) :
    ∃ c, (edgeGo a l held s).2 = { s with coh := c } := by
  induction l generalizing s held with
  | nil => exact ⟨s.coh, rfl⟩
  | cons q t ih =>
    unfold edgeGo; split
    · exact ih s _
    · dsimp only
      obtain ⟨c, e⟩ := edgeStep_frame s h q
      rw [e]; exact ih _ _

/-- The turns of an edge cache change nothing but the coherence state. -/
theorem edgeTurn_frame (d : Nat) : ∃ c, edgeTurn (8 + d) s = { s with coh := c } := by
  unfold edgeTurn; split
  · exact ⟨s.coh, rfl⟩
  · obtain ⟨c, e⟩ := edgeGo_frame s (Nat.le_add_right 8 d) s.coh.edge []
    dsimp only; rw [e]; exact ⟨_, rfl⟩

theorem askEdgeReads_frame (d : Nat) (who : EdgeUser) (rs : List (Nat × Nat)) :
    ∃ c, askEdgeReads d who rs s = { s with coh := c } :=
  edgeTurn_frame { s with coh := { s.coh with edge := _ } } d

theorem askEdgePuts_frame (d : Nat) (who : EdgeUser) (ps : List (EdgeKind × Nat × List Byte)) :
    ∃ c, askEdgePuts d who ps s = { s with coh := c } :=
  edgeTurn_frame { s with coh := { s.coh with edge := _ } } d

/-- A turn changes of an access neither who asks for what nor, where it writes, the bytes. -/
theorem edgeStep_keeps (a : Nat) (q : EdgeAsk) :
    let r := (edgeStep a q s).1
    r.die = q.die ∧ r.who = q.who ∧ r.kind = q.kind ∧ r.addr = q.addr ∧ (q.kind ≠ .read → r.data = q.data) := by
  unfold edgeStep edgeOut; dsimp only; split
  all_goals (repeat' split)
  all_goals simp_all

/-- The accesses of an edge cache keep their places, their users and what they are to do. -/
theorem edgeGo_keeps {α : Type} (f : EdgeAsk → α) (hf : ∀ s a q, f (edgeStep a q s).1 = f q) (a : Nat) (l : List EdgeAsk) (held : List Nat) :
    (edgeGo a l held s).1.map f = l.map f := by
  induction l generalizing s held with
  | nil => rfl
  | cons q t ih =>
    unfold edgeGo; split
    · simp only [List.map_cons, ih]
    · simp only [List.map_cons, ih, hf]

end Sys2Proof.Machine
end

