-- ==== Sys2Proof/Laws/PerInstr.lean ====
section
/-! SUPPORT. The facts that are stated per command: a well-formed coherence message is about a line of the address
space. -/

namespace Sys2Proof.Laws.LineInRange

open Sys2Proof

/-- The line that a well-formed command's message is about lies in the address space. -/
def Statement (i : Instr) : Prop := WellFormed i = true → ∀ l, protocolLine i = some l → l < 2 ^ 41

theorem of_wellFormed (i : Instr) : Statement i := by
  intro h l hl
  simp only [WellFormed, Bool.and_eq_true, hl, Option.all_some, lineOk, decide_eq_true_eq] at h
  exact h.1

theorem ctNop (t : TileId) : Statement (.ctNop t) := of_wellFormed _
theorem ctIdle (t : TileId) : Statement (.ctIdle t) := of_wellFormed _
theorem ctLoop (t : TileId) : Statement (.ctLoop t) := of_wellFormed _
theorem ctOpen (t : TileId) : Statement (.ctOpen t) := of_wellFormed _
theorem ctClose (t : TileId) : Statement (.ctClose t) := of_wellFormed _
theorem ctEnd (t : TileId) : Statement (.ctEnd t) := of_wellFormed _
theorem tkSignal (t : TileId) : Statement (.tkSignal t) := of_wellFormed _
theorem tkWait (t : TileId) : Statement (.tkWait t) := of_wellFormed _
theorem waitRelease (u : UnitId) (cycle : Nat) : Statement (.waitRelease u cycle) := of_wellFormed _
theorem stArrive (t : TileId) : Statement (.stArrive t) := of_wellFormed _
theorem stSync (t : TileId) : Statement (.stSync t) := of_wellFormed _
theorem stRed (t : TileId) : Statement (.stRed t) := of_wellFormed _
theorem stVote (t : TileId) : Statement (.stVote t) := of_wellFormed _
theorem mvLd (t : TileId) : Statement (.mvLd t) := of_wellFormed _
theorem mvSt (t : TileId) : Statement (.mvSt t) := of_wellFormed _
theorem mvCp (t : TileId) : Statement (.mvCp t) := of_wellFormed _
theorem mmAcc (t : TileId) : Statement (.mmAcc t) := of_wellFormed _
theorem mmDrain (t : TileId) : Statement (.mmDrain t) := of_wellFormed _
theorem vxAdd (t : TileId) : Statement (.vxAdd t) := of_wellFormed _
theorem vxSub (t : TileId) : Statement (.vxSub t) := of_wellFormed _
theorem vxMul (t : TileId) : Statement (.vxMul t) := of_wellFormed _
theorem vxMax (t : TileId) : Statement (.vxMax t) := of_wellFormed _
theorem vxMin (t : TileId) : Statement (.vxMin t) := of_wellFormed _
theorem vxFma (t : TileId) : Statement (.vxFma t) := of_wellFormed _
theorem vxFms (t : TileId) : Statement (.vxFms t) := of_wellFormed _
theorem vxFnma (t : TileId) : Statement (.vxFnma t) := of_wellFormed _
theorem vxMov (t : TileId) : Statement (.vxMov t) := of_wellFormed _
theorem vxNeg (t : TileId) : Statement (.vxNeg t) := of_wellFormed _
theorem vxAbs (t : TileId) : Statement (.vxAbs t) := of_wellFormed _
theorem vxRelu (t : TileId) : Statement (.vxRelu t) := of_wellFormed _
theorem vxCgt (t : TileId) : Statement (.vxCgt t) := of_wellFormed _
theorem vxCge (t : TileId) : Statement (.vxCge t) := of_wellFormed _
theorem vxCeq (t : TileId) : Statement (.vxCeq t) := of_wellFormed _
theorem vxCne (t : TileId) : Statement (.vxCne t) := of_wellFormed _
theorem vxSel (t : TileId) : Statement (.vxSel t) := of_wellFormed _
theorem vxExp2 (t : TileId) : Statement (.vxExp2 t) := of_wellFormed _
theorem vxLog2 (t : TileId) : Statement (.vxLog2 t) := of_wellFormed _
theorem vxRcp (t : TileId) : Statement (.vxRcp t) := of_wellFormed _
theorem vxRsqrt (t : TileId) : Statement (.vxRsqrt t) := of_wellFormed _
theorem vxTanh (t : TileId) : Statement (.vxTanh t) := of_wellFormed _
theorem vxErf (t : TileId) : Statement (.vxErf t) := of_wellFormed _
theorem vxRsum (t : TileId) : Statement (.vxRsum t) := of_wellFormed _
theorem vxRmax (t : TileId) : Statement (.vxRmax t) := of_wellFormed _
theorem vxRmin (t : TileId) : Statement (.vxRmin t) := of_wellFormed _
theorem vxRssq (t : TileId) : Statement (.vxRssq t) := of_wellFormed _
theorem vxCsum (t : TileId) : Statement (.vxCsum t) := of_wellFormed _
theorem vxCmax (t : TileId) : Statement (.vxCmax t) := of_wellFormed _
theorem vxCmin (t : TileId) : Statement (.vxCmin t) := of_wellFormed _
theorem vxCmpr (t : TileId) : Statement (.vxCmpr t) := of_wellFormed _
theorem vxExpd (t : TileId) : Statement (.vxExpd t) := of_wellFormed _
theorem vxKey (t : TileId) : Statement (.vxKey t) := of_wellFormed _
theorem vxDrop (t : TileId) : Statement (.vxDrop t) := of_wellFormed _
theorem vxKeep (t : TileId) : Statement (.vxKeep t) := of_wellFormed _
theorem vxUnif (t : TileId) : Statement (.vxUnif t) := of_wellFormed _
theorem vxIadd (t : TileId) : Statement (.vxIadd t) := of_wellFormed _
theorem vxIsub (t : TileId) : Statement (.vxIsub t) := of_wellFormed _
theorem vxImax (t : TileId) : Statement (.vxImax t) := of_wellFormed _
theorem vxImin (t : TileId) : Statement (.vxImin t) := of_wellFormed _
theorem vxItof (t : TileId) : Statement (.vxItof t) := of_wellFormed _
theorem vxFtoi (t : TileId) : Statement (.vxFtoi t) := of_wellFormed _
theorem gtArm (t : TileId) : Statement (.gtArm t) := of_wellFormed _
theorem gtFill (t : TileId) : Statement (.gtFill t) := of_wellFormed _
theorem gtFire (t : TileId) : Statement (.gtFire t) := of_wellFormed _
theorem lgRec (t : TileId) : Statement (.lgRec t) := of_wellFormed _
theorem lgMark (t : TileId) : Statement (.lgMark t) := of_wellFormed _
theorem lgClr (t : TileId) : Statement (.lgClr t) := of_wellFormed _
theorem issueResume (t : TileId) : Statement (.issueResume t) := of_wellFormed _
theorem commandStart (t : TileId) (unit : TileUnitId) : Statement (.commandStart t unit) := of_wellFormed _
theorem moverLineSlot (t : TileId) (mover : Fin 2) (slot : Nat) (cycle : Nat) (ecc : Ecc) : Statement (.moverLineSlot t mover slot cycle ecc) := of_wellFormed _
theorem moverLineLands (t : TileId) (mover : Fin 2) (line : Nat) (cycle : Nat) : Statement (.moverLineLands t mover line cycle) := of_wellFormed _
theorem moverFinish (t : TileId) (mover : Fin 2) (cycle : Nat) : Statement (.moverFinish t mover cycle) := of_wellFormed _
theorem accumulatorsComplete (t : TileId) : Statement (.accumulatorsComplete t) := of_wellFormed _
theorem drainEnd (t : TileId) : Statement (.drainEnd t) := of_wellFormed _
theorem chainStart (t : TileId) : Statement (.chainStart t) := of_wellFormed _
theorem chainFinish (t : TileId) : Statement (.chainFinish t) := of_wellFormed _
theorem fillCounted (t : TileId) : Statement (.fillCounted t) := of_wellFormed _
theorem gateDeadline (t : TileId) : Statement (.gateDeadline t) := of_wellFormed _
theorem waitLimitExpiry (u : UnitId) : Statement (.waitLimitExpiry u) := of_wellFormed _
theorem tileSceneStart (t : TileId) : Statement (.tileSceneStart t) := of_wellFormed _
theorem tileSceneEnd (t : TileId) : Statement (.tileSceneEnd t) := of_wellFormed _
theorem sceneBoundary (tr : TroupeId) : Statement (.sceneBoundary tr) := of_wellFormed _
theorem auditComplete (tr : TroupeId) : Statement (.auditComplete tr) := of_wellFormed _
theorem abortNotice (tr : TroupeId) (u : UnitId) : Statement (.abortNotice tr u) := of_wellFormed _
theorem safePoint (tr : TroupeId) : Statement (.safePoint tr) := of_wellFormed _
theorem safePointTimeout (tr : TroupeId) : Statement (.safePointTimeout tr) := of_wellFormed _
theorem tokenSignalMessage (port : Option PortId) (ch : Fin 16384) (k : W32) : Statement (.tokenSignalMessage port ch k) := of_wellFormed _
theorem barrierArrival (port : Option PortId) (obj : Nat) (a : Arrivals) : Statement (.barrierArrival port obj a) := of_wellFormed _
theorem barrierRelease (obj : Nat) : Statement (.barrierRelease obj) := of_wellFormed _
theorem arrivalHoldLimit (u : UnitId) : Statement (.arrivalHoldLimit u) := of_wellFormed _
theorem reductionOperand (port : Option PortId) (obj : Fin 1024) (unit : Nat) (redOp : Option (Fin 5)) (value : Option Word) : Statement (.reductionOperand port obj unit redOp value) := of_wellFormed _
theorem reductionResult (obj : Fin 1024) (fromRoot : Option Word) : Statement (.reductionResult obj fromRoot) := of_wellFormed _
theorem voteCast (port : Option PortId) (obj : Fin 256) (unit : Nat) (go : Bool) : Statement (.voteCast port obj unit go) := of_wellFormed _
theorem voteOutcome (obj : Fin 256) (fromRoot : Bool) : Statement (.voteOutcome obj fromRoot) := of_wellFormed _
theorem strVetoWrite (v : Word) : Statement (.strVetoWrite v) := of_wellFormed _
theorem frameStart (rails : List RailSample) (logic : List LogicSample) (fec : List FecSample) (links : List LinkSample) (sram : List SramError) : Statement (.frameStart rails logic fec links sram) := of_wellFormed _
theorem frameMarkReceipt (p : PortId) (carried : Word) (phases : List Int) : Statement (.frameMarkReceipt p carried phases) := of_wellFormed _
theorem markLoss : Statement .markLoss := of_wellFormed _
theorem membershipNotice (join : Bool) (span x y z : Nat) (viaPort : Option PortId) : Statement (.membershipNotice join span x y z viaPort) := of_wellFormed _
theorem carriedRegisterWrite (addr : Nat) (v : Word) (others : List OtherWrite) : Statement (.carriedRegisterWrite addr v others) := of_wellFormed _
theorem timetableFrameStart (temps : List TempSample) : Statement (.timetableFrameStart temps) := of_wellFormed _
theorem memorySlot (m : MemoryId) (channel : Nat) (slot : Nat) (ecc : Ecc) : Statement (.memorySlot m channel slot ecc) := of_wellFormed _
theorem linkRetrainStart (d : DieId) (l : LinkId) : Statement (.linkRetrainStart d l) := of_wellFormed _
theorem linkUpAgain (d : DieId) (l : LinkId) (n : Replays) : Statement (.linkUpAgain d l n) := of_wellFormed _
theorem linkLossTimeout (d : DieId) (l : LinkId) : Statement (.linkLossTimeout d l) := of_wellFormed _
theorem hostLinkLoss (d : DieId) : Statement (.hostLinkLoss d) := of_wellFormed _
theorem slotFlitReceived (p : PortId) (flit : List Byte) : Statement (.slotFlitReceived p flit) := of_wellFormed _
theorem replaySend (p : PortId) (position : Fin 3) : Statement (.replaySend p position) := of_wellFormed _
theorem openerReceived (p : PortId) (opener : List Byte) : Statement (.openerReceived p opener) := of_wellFormed _
theorem portTrained (p : PortId) (delay : Nat) (stringsUp : Bool) : Statement (.portTrained p delay stringsUp) := of_wellFormed _
theorem portRetrain (p : PortId) (cause : RetrainCause) : Statement (.portRetrain p cause) := of_wellFormed _
theorem portRetrainTimeout (p : PortId) : Statement (.portRetrainTimeout p) := of_wellFormed _
theorem stringsLaneLost (p : PortId) : Statement (.stringsLaneLost p) := of_wellFormed _
theorem fabricLineArrival (p : PortId) : Statement (.fabricLineArrival p) := of_wellFormed _
theorem forwardLaunch (p : PortId) (slot : Nat) : Statement (.forwardLaunch p slot) := of_wellFormed _
theorem creditReturn (flow : Fin 262144) (n : W32) : Statement (.creditReturn flow n) := of_wellFormed _
theorem reductionContribution (d : ChipId) (n : Nat) : Statement (.reductionContribution d n) := of_wellFormed _
theorem fabSend (d : ChipId) (slot : Nat) : Statement (.fabSend d slot) := of_wellFormed _
theorem fabSendComplete (d : ChipId) : Statement (.fabSendComplete d) := of_wellFormed _
theorem fabRecv (d : ChipId) : Statement (.fabRecv d) := of_wellFormed _
theorem fabRecvComplete (d : ChipId) (n : Nat) : Statement (.fabRecvComplete d n) := of_wellFormed _
theorem fabEnd (d : ChipId) : Statement (.fabEnd d) := of_wellFormed _
theorem fetchCheck (n : Fin 1024) : Statement (.fetchCheck n) := of_wellFormed _
theorem repeatRequest (flow : Fin 262144) : Statement (.repeatRequest flow) := of_wellFormed _
theorem redNorm (d : ChipId) : Statement (.redNorm d) := of_wellFormed _
theorem redNormVote (d : ChipId) : Statement (.redNormVote d) := of_wellFormed _
theorem redEnd (d : ChipId) : Statement (.redEnd d) := of_wellFormed _
theorem updNormWait (g : GrottoId) : Statement (.updNormWait g) := of_wellFormed _
theorem normOutcome (g : GrottoId) : Statement (.normOutcome g) := of_wellFormed _
theorem updUpdate (g : GrottoId) : Statement (.updUpdate g) := of_wellFormed _
theorem programGroupResume (g : GrottoId) : Statement (.programGroupResume g) := of_wellFormed _
theorem updateComplete (g : GrottoId) : Statement (.updateComplete g) := of_wellFormed _
theorem prgAdd (g : GrottoId) : Statement (.prgAdd g) := of_wellFormed _
theorem prgSub (g : GrottoId) : Statement (.prgSub g) := of_wellFormed _
theorem prgMul (g : GrottoId) : Statement (.prgMul g) := of_wellFormed _
theorem prgFma (g : GrottoId) : Statement (.prgFma g) := of_wellFormed _
theorem prgFms (g : GrottoId) : Statement (.prgFms g) := of_wellFormed _
theorem prgFnma (g : GrottoId) : Statement (.prgFnma g) := of_wellFormed _
theorem prgDiv (g : GrottoId) : Statement (.prgDiv g) := of_wellFormed _
theorem prgSqrt (g : GrottoId) : Statement (.prgSqrt g) := of_wellFormed _
theorem prgMax (g : GrottoId) : Statement (.prgMax g) := of_wellFormed _
theorem prgMin (g : GrottoId) : Statement (.prgMin g) := of_wellFormed _
theorem prgAbs (g : GrottoId) : Statement (.prgAbs g) := of_wellFormed _
theorem prgNeg (g : GrottoId) : Statement (.prgNeg g) := of_wellFormed _
theorem prgSel (g : GrottoId) : Statement (.prgSel g) := of_wellFormed _
theorem prgCgt (g : GrottoId) : Statement (.prgCgt g) := of_wellFormed _
theorem prgMov (g : GrottoId) : Statement (.prgMov g) := of_wellFormed _
theorem updRoot (g : GrottoId) : Statement (.updRoot g) := of_wellFormed _
theorem rootBlockComplete (g : GrottoId) : Statement (.rootBlockComplete g) := of_wellFormed _
theorem updCommit (g : GrottoId) : Statement (.updCommit g) := of_wellFormed _
theorem commitOutcome (g : GrottoId) : Statement (.commitOutcome g) := of_wellFormed _
theorem updDigest (g : GrottoId) : Statement (.updDigest g) := of_wellFormed _
theorem updConst (g : GrottoId) : Statement (.updConst g) := of_wellFormed _
theorem updInit (g : GrottoId) : Statement (.updInit g) := of_wellFormed _
theorem updEnd (g : GrottoId) : Statement (.updEnd g) := of_wellFormed _
theorem publicationReceipt (key : W32) (digest : Word) (gen : W32) : Statement (.publicationReceipt key digest gen) := of_wellFormed _
theorem stepResolveFlip (tr : TroupeId) : Statement (.stepResolveFlip tr) := of_wellFormed _
theorem stepResolveDiscard (tr : TroupeId) : Statement (.stepResolveDiscard tr) := of_wellFormed _
theorem snapshotPin (tr : TroupeId) : Statement (.snapshotPin tr) := of_wellFormed _
theorem snapshotRelease (tr : TroupeId) : Statement (.snapshotRelease tr) := of_wellFormed _
theorem rdShared (a : AgentId) (line : Nat) (txn : Nat) : Statement (.rdShared a line txn) := of_wellFormed _
theorem rdUnique (a : AgentId) (line : Nat) (txn : Nat) : Statement (.rdUnique a line txn) := of_wellFormed _
theorem upgrade (a : AgentId) (line : Nat) (txn : Nat) : Statement (.upgrade a line txn) := of_wellFormed _
theorem rdOnce (line : Nat) (txn : Nat) : Statement (.rdOnce line txn) := of_wellFormed _
theorem wrFull (line : Nat) (txn : Nat) : Statement (.wrFull line txn) := of_wellFormed _
theorem wrPart (line : Nat) (txn : Nat) : Statement (.wrPart line txn) := of_wellFormed _
theorem queuedRequestStart (line : Nat) : Statement (.queuedRequestStart line) := of_wellFormed _
theorem setQueueRequestStart (home : AgentId) (set : Nat) : Statement (.setQueueRequestStart home set) := of_wellFormed _
theorem snpShared (a : AgentId) (line : Nat) : Statement (.snpShared a line) := of_wellFormed _
theorem snpUnique (a : AgentId) (line : Nat) : Statement (.snpUnique a line) := of_wellFormed _
theorem snpInv (a : AgentId) (line : Nat) : Statement (.snpInv a line) := of_wellFormed _
theorem snpCur (a : AgentId) (line : Nat) : Statement (.snpCur a line) := of_wellFormed _
theorem rspI (a : AgentId) (line : Nat) : Statement (.rspI a line) := of_wellFormed _
theorem rspFwdS (a : AgentId) (line : Nat) : Statement (.rspFwdS a line) := of_wellFormed _
theorem rspFwdSWb (a : AgentId) (line : Nat) : Statement (.rspFwdSWb a line) := of_wellFormed _
theorem rspFwdI (a : AgentId) (line : Nat) : Statement (.rspFwdI a line) := of_wellFormed _
theorem rspIWb (a : AgentId) (line : Nat) : Statement (.rspIWb a line) := of_wellFormed _
theorem rspFwdEvict (a : AgentId) (line : Nat) : Statement (.rspFwdEvict a line) := of_wellFormed _
theorem rspIEvict (a : AgentId) (line : Nat) : Statement (.rspIEvict a line) := of_wellFormed _
theorem rspCur (a : AgentId) (line : Nat) : Statement (.rspCur a line) := of_wellFormed _
theorem cmp (a : AgentId) (line : Nat) : Statement (.cmp a line) := of_wellFormed _
theorem ack (a : AgentId) (line : Nat) : Statement (.ack a line) := of_wellFormed _
theorem wbAck (a : AgentId) (line : Nat) : Statement (.wbAck a line) := of_wellFormed _
theorem dataE (a : AgentId) (line : Nat) : Statement (.dataE a line) := of_wellFormed _
theorem dataS (a : AgentId) (line : Nat) : Statement (.dataS a line) := of_wellFormed _
theorem dataM (a : AgentId) (line : Nat) : Statement (.dataM a line) := of_wellFormed _
theorem dataHome (a : AgentId) (line : Nat) : Statement (.dataHome a line) := of_wellFormed _
theorem dataI (a : AgentId) (line : Nat) : Statement (.dataI a line) := of_wellFormed _
theorem wbDirty (a : AgentId) (line : Nat) : Statement (.wbDirty a line) := of_wellFormed _
theorem wbClean (a : AgentId) (line : Nat) : Statement (.wbClean a line) := of_wellFormed _
theorem cacheEviction (a : AgentId) (line : Nat) : Statement (.cacheEviction a line) := of_wellFormed _
theorem busyLimit (line : Nat) : Statement (.busyLimit line) := of_wellFormed _
theorem purgeStart (home : Fin 8) (v : Word) : Statement (.purgeStart home v) := of_wellFormed _
theorem purgeComplete (home : Fin 8) : Statement (.purgeComplete home) := of_wellFormed _
theorem windowWrite (h : HartId) (addr : Nat) (data : List Byte) : Statement (.windowWrite h addr data) := of_wellFormed _
theorem wcBufferDrain (h : HartId) (buffer : Fin 4) : Statement (.wcBufferDrain h buffer) := of_wellFormed _
theorem windowRead (h : HartId) (addr : Nat) (len : Nat) : Statement (.windowRead h addr len) := of_wellFormed _
theorem winFlushRead (h : HartId) : Statement (.winFlushRead h) := of_wellFormed _
theorem queueEnable (q : QueueId) (v : Word) : Statement (.queueEnable q v) := of_wellFormed _
theorem queueDisable (q : QueueId) (v : Word) : Statement (.queueDisable q v) := of_wellFormed _
theorem queueRestart (q : QueueId) (v : Word) : Statement (.queueRestart q v) := of_wellFormed _
theorem doorbellWrite (q : QueueId) (v : Word) : Statement (.doorbellWrite q v) := of_wellFormed _
theorem slotFetch (q : QueueId) (n : Nat) : Statement (.slotFetch q n) := of_wellFormed _
theorem slotReread (q : QueueId) (n : Nat) : Statement (.slotReread q n) := of_wellFormed _
theorem qNop (q : QueueId) : Statement (.qNop q) := of_wellFormed _
theorem qInlineWrite (q : QueueId) : Statement (.qInlineWrite q) := of_wellFormed _
theorem qSceneLoad (q : QueueId) : Statement (.qSceneLoad q) := of_wellFormed _
theorem qSceneStart (q : QueueId) : Statement (.qSceneStart q) := of_wellFormed _
theorem heldSceneStart (q : QueueId) : Statement (.heldSceneStart q) := of_wellFormed _
theorem qSignal (q : QueueId) : Statement (.qSignal q) := of_wellFormed _
theorem qDecomp (q : QueueId) : Statement (.qDecomp q) := of_wellFormed _
theorem qGather (q : QueueId) : Statement (.qGather q) := of_wellFormed _
theorem qScatter (q : QueueId) : Statement (.qScatter q) := of_wellFormed _
theorem qLayout (q : QueueId) : Statement (.qLayout q) := of_wellFormed _
theorem completionRecordWrite (q : QueueId) : Statement (.completionRecordWrite q) := of_wellFormed _
theorem msiWrite (q : QueueId) : Statement (.msiWrite q) := of_wellFormed _
theorem datDecomp (d : ChipId) : Statement (.datDecomp d) := of_wellFormed _
theorem datGather (d : ChipId) : Statement (.datGather d) := of_wellFormed _
theorem datScatter (d : ChipId) : Statement (.datScatter d) := of_wellFormed _
theorem datLayout (d : ChipId) : Statement (.datLayout d) := of_wellFormed _
theorem datEnd (e : Fin 12) : Statement (.datEnd e) := of_wellFormed _
theorem dataJobFinish (e : Fin 12) : Statement (.dataJobFinish e) := of_wellFormed _
theorem vcdOpen (q : QueueId) : Statement (.vcdOpen q) := of_wellFormed _
theorem vcdDecode (q : QueueId) : Statement (.vcdDecode q) := of_wellFormed _
theorem vcdEncode (q : QueueId) : Statement (.vcdEncode q) := of_wellFormed _
theorem vcdClose (q : QueueId) : Statement (.vcdClose q) := of_wellFormed _
theorem vcdDrain (q : QueueId) : Statement (.vcdDrain q) := of_wellFormed _
theorem codecJobFinish (d : ChipId) (pipe : Fin 2) : Statement (.codecJobFinish d pipe) := of_wellFormed _
theorem codecSuspend (d : ChipId) (pipe : Fin 2) : Statement (.codecSuspend d pipe) := of_wellFormed _
theorem vcdFbBaseWrite (d : ChipId) (f : Fin 4096) (v : Word) : Statement (.vcdFbBaseWrite d f v) := of_wellFormed _
theorem adapterWrite (port : Fin 4) (rid : BitVec 16) (pasid : Option (BitVec 20)) (addr : Nat) (data : List Byte) : Statement (.adapterWrite port rid pasid addr data) := of_wellFormed _
theorem adapterRead (port : Fin 4) (rid : BitVec 16) (pasid : Option (BitVec 20)) (addr : Nat) (len : Nat) : Statement (.adapterRead port rid pasid addr len) := of_wellFormed _
theorem peerRequest (port : Fin 4) (addr : Nat) (write : Bool) : Statement (.peerRequest port addr write) := of_wellFormed _
theorem placementDurable (r : RegionId) : Statement (.placementDurable r) := of_wellFormed _
theorem regionEnable (r : RegionId) (v : Word) : Statement (.regionEnable r v) := of_wellFormed _
theorem regionDisable (r : RegionId) (v : Word) : Statement (.regionDisable r v) := of_wellFormed _
theorem interruptFileWrite (addr : Nat) (v : W32) : Statement (.interruptFileWrite addr v) := of_wellFormed _
theorem evtRouteWrite (e : Fin 16) (v : Word) : Statement (.evtRouteWrite e v) := of_wellFormed _
theorem hartRelease (h : HartId) : Statement (.hartRelease h) := of_wellFormed _
theorem hartStop (h : HartId) : Statement (.hartStop h) := of_wellFormed _
theorem imgDiscardStaged : Statement .imgDiscardStaged := of_wellFormed _
theorem imgLoadFull : Statement .imgLoadFull := of_wellFormed _
theorem imgStagePartial : Statement .imgStagePartial := of_wellFormed _
theorem imgEpochChange : Statement .imgEpochChange := of_wellFormed _
theorem imageCheckComplete (readError : Bool) : Statement (.imageCheckComplete readError) := of_wellFormed _
theorem imageSwitch : Statement .imageSwitch := of_wellFormed _
theorem epochVoteOutcome (go : Bool) (frame : Nat) : Statement (.epochVoteOutcome go frame) := of_wellFormed _
theorem epochActivation : Statement .epochActivation := of_wellFormed _
theorem tagEntryWrite (e : Nat) (v : Word) : Statement (.tagEntryWrite e v) := of_wellFormed _
theorem boardEntryWrite (n : Fin 1024) (reg : Fin 2) (v : Word) : Statement (.boardEntryWrite n reg v) := of_wellFormed _
theorem shardTableWrite (g : GrottoId) (shard : Fin 4096) (reg : Fin 8) (v : Word) : Statement (.shardTableWrite g shard reg v) := of_wellFormed _
theorem gateMapWrite (t : TileId) (context : Fin 96) (v : Word) : Statement (.gateMapWrite t context v) := of_wellFormed _
theorem telemetryConfigWrite (reg : Fin 2) (v : Word) : Statement (.telemetryConfigWrite reg v) := of_wellFormed _
theorem clkSwitchRoot (d : DieId) (source : SourceId) (domain : BitVec 4) : Statement (.clkSwitchRoot d source domain) := of_wellFormed _
theorem clkSwitchBypass (d : DieId) (source : SourceId) (domain : BitVec 4) : Statement (.clkSwitchBypass d source domain) := of_wellFormed _
theorem clkSwitchEffect (d : DieId) (domain : Nat) : Statement (.clkSwitchEffect d domain) := of_wellFormed _
theorem rootLock (d : DieId) : Statement (.rootLock d) := of_wellFormed _
theorem stabilityCountExpiry (d : DieId) : Statement (.stabilityCountExpiry d) := of_wellFormed _
theorem refclkLoss (d : DieId) : Statement (.refclkLoss d) := of_wellFormed _
theorem lockLoss (d : DieId) : Statement (.lockLoss d) := of_wellFormed _
theorem powerGood : Statement .powerGood := of_wellFormed _
theorem pwrgdDeassert : Statement .pwrgdDeassert := of_wellFormed _
theorem pkgResetAssert : Statement .pkgResetAssert := of_wellFormed _
theorem pkgResetRelease : Statement .pkgResetRelease := of_wellFormed _
theorem packageReset : Statement .packageReset := of_wellFormed _
theorem watchdogExpiry : Statement .watchdogExpiry := of_wellFormed _
theorem bootReset : Statement .bootReset := of_wellFormed _
theorem bootCommit : Statement .bootCommit := of_wellFormed _
theorem bootClear : Statement .bootClear := of_wellFormed _
theorem bootUnlockRam : Statement .bootUnlockRam := of_wellFormed _
theorem bootStage (stage : BitVec 4) : Statement (.bootStage stage) := of_wellFormed _
theorem bootFail (reason : BitVec 8) : Statement (.bootFail reason) := of_wellFormed _
theorem bootDieRelease (mask : BitVec 8) : Statement (.bootDieRelease mask) := of_wellFormed _
theorem bootFlashRead : Statement .bootFlashRead := of_wellFormed _
theorem bootFlashProgram : Statement .bootFlashProgram := of_wellFormed _
theorem bootFlashErase : Statement .bootFlashErase := of_wellFormed _
theorem flashOpComplete (ok : Bool) : Statement (.flashOpComplete ok) := of_wellFormed _
theorem bundleVerify (offset : Nat) (types : List Nat) : Statement (.bundleVerify offset types) := of_wellFormed _
theorem secSvnAdvWrite (v : Word) : Statement (.secSvnAdvWrite v) := of_wellFormed _
theorem quoteStart : Statement .quoteStart := of_wellFormed _
theorem quoteComplete : Statement .quoteComplete := of_wellFormed _
theorem mregExtend (v : Word) : Statement (.mregExtend v) := of_wellFormed _
theorem fatalCopy (d : DieId) : Statement (.fatalCopy d) := of_wellFormed _
theorem errFatalClrWrite (v : Word) : Statement (.errFatalClrWrite v) := of_wellFormed _
theorem fenceRequest (u : UnitId) : Statement (.fenceRequest u) := of_wellFormed _
theorem returnRequest (u : UnitId) : Statement (.returnRequest u) := of_wellFormed _
theorem registerWrite (source : SourceId) (addr : Nat) (size : Nat) (v : Word) (others : List OtherWrite) : Statement (.registerWrite source addr size v others) := of_wellFormed _
theorem registerRead (source : SourceId) (addr : Nat) (size : Nat) : Statement (.registerRead source addr size) := of_wellFormed _
theorem hartMemoryAccess (h : HartId) (kind : HartAccess) (addr : Nat) (data : List Byte) : Statement (.hartMemoryAccess h kind addr data) := of_wellFormed _
theorem linkTrained (d : DieId) (l : LinkId) (modules : BitVec 6) : Statement (.linkTrained d l modules) := of_wellFormed _
theorem downstreamPortContainment (port : Fin 4) (event : RootPortEvent) : Statement (.downstreamPortContainment port event) := of_wellFormed _

end Sys2Proof.Laws.LineInRange
end

