-- ==== Sys2Proof/Tests/Slice0.lean ====
section
/-! SUPPORT. The model's own tests: ill-formed commands that WellFormed refuses, small checks against the spec's worked
examples and tables, and for each statement a state and operands that meet its hypotheses (test_meets_…). -/

namespace Sys2Proof.Tests

set_option Elab.async false

open Sys2Proof Sys2Proof.Machine

/-! ### States -/

/-- Powered, out of reset, every die released. -/
def up : State := { boot := { powerGood := true, released := true, dieMask := 255 } }

/-- Troupe 0 holds every unit, channel and barrier counter. -/
def img0 : Image := { troupes := [{ troupe := 0, tiles := 2 ^ 48 - 1, engines := 2 ^ 28 - 1, tokenCount := 16384, barrierCount := 4096 }] }

/-- Its scene runs. -/
def busy : State := { up with img := { inForce := some img0 }, troupes := [(0, { state := 1 })] }

/-- The image in force with more records. -/
def imaged (f : Image → Image) (s : State) : State := { s with img := { s.img with inForce := some (f img0) } }

/-- n bytes of a number from an address. -/
def bytesAt (a n v : Nat) : Tbl Byte := (leBytes n v).zipIdx.map fun p => (a + p.2, p.1)

/-- A tile that is about to issue a word. -/
def issuing (w : Nat) : Tile := { state := 1, imem := bytesAt 0 16 w }

/-- Tile 0 is about to issue a word. -/
def atWord (w : Nat) : State := { busy with tiles := [(0, issuing w)] }

/-- A command in a unit's queue. -/
def cmdOf (w : Nat) : Cmd := { word := BitVec.ofNat 128 w, addr := 0, seq := 7, issue := 100, idx := [0, 0, 0, 0] }

/-- A tile whose scene runs, that no access has broken a rule on. -/
theorem test_meets_unbroken : (atWord 0).unbroken 0 0 ∧ busy.inOrder 0 [5, 5, 9] := by
  refine ⟨⟨by decide +kernel, ?_⟩, ?_, by decide⟩
  · intro b hb
    cases hb
  · intro p hp
    cases hp

/-- A tile with one unit. -/
def tileUnit (u : Nat) (q : TUnit) : Tile := { state := 1, cycle := 400, units := [(u, q)] }

/-! ### Ill-formed commands -/

theorem test_refuses_line : WellFormed (.rdShared 0 (2 ^ 41) 0) = false ∧ WellFormed (.ack 0 (2 ^ 41)) = false := by decide
theorem test_refuses_txn : WellFormed (.wrPart 0 256) = false := by decide
theorem test_refuses_barrier : WellFormed (.barrierArrival none 4096 { unit := 0, count := 1 }) = false ∧ WellFormed (.barrierRelease 4096) = false := by decide
theorem test_refuses_unit : WellFormed (.barrierArrival none 0 { unit := 76, count := 1 }) = false ∧ WellFormed (.voteCast none 0 76 true) = false ∧
    WellFormed (.reductionOperand none 0 76 none none) = false := by decide
theorem test_refuses_frame : WellFormed (.frameStart [⟨21, 0, 0⟩] [] [] [] []) = false ∧
    WellFormed (.frameStart [] [⟨9, none⟩] [] [] []) = false ∧ WellFormed (.frameStart [] [] [⟨8, 0, 0⟩] [] []) = false ∧
    WellFormed (.frameStart [] [] [] [⟨9, 0, 0⟩] []) = false ∧ WellFormed (.frameStart [] [] [] [⟨0, 8, 0⟩] []) = false := by decide
theorem test_refuses_notice : WellFormed (.membershipNotice true 256 0 0 0 none) = false ∧
    WellFormed (.membershipNotice true 0 16 0 0 none) = false ∧ WellFormed (.membershipNotice true 0 0 8 0 none) = false ∧
    WellFormed (.membershipNotice true 0 0 0 8 none) = false := by decide
theorem test_refuses_slot : WellFormed (.memorySlot 0 64 0 {}) = false ∧ WellFormed (.memorySlot 0 0 4096 {}) = false := by decide
theorem test_refuses_temperature : WellFormed (.timetableFrameStart [⟨16, none⟩]) = false := by decide
theorem test_refuses_flit : WellFormed (.slotFlitReceived 0 []) = false ∧ WellFormed (.openerReceived 0 []) = false := by decide
theorem test_refuses_span : WellFormed (.windowWrite 0 (2 ^ 48) [0]) = false ∧ WellFormed (.windowRead 0 (2 ^ 48) 1) = false ∧
    WellFormed (.adapterWrite 0 0 none (2 ^ 48) [0]) = false ∧ WellFormed (.adapterRead 0 0 none (2 ^ 48) 1) = false ∧
    WellFormed (.hartMemoryAccess 0 .load (2 ^ 48) [0]) = false := by decide
theorem test_refuses_address : WellFormed (.peerRequest 0 (2 ^ 48) true) = false ∧ WellFormed (.interruptFileWrite 2 0) = false ∧
    WellFormed (.carriedRegisterWrite (2 ^ 48) 0 []) = false := by decide
theorem test_refuses_tag : WellFormed (.tagEntryWrite 0 0) = false ∧ WellFormed (.tagEntryWrite 4096 0) = false := by decide
theorem test_refuses_domain : WellFormed (.clkSwitchEffect 0 8) = false := by decide
theorem test_refuses_size : WellFormed (.registerWrite 0 0 3 0 []) = false ∧ WellFormed (.registerRead 0 0 16) = false := by decide
theorem test_refuses_others : WellFormed (.registerWrite 1 0 8 0 [⟨1, 0⟩]) = false ∧
    WellFormed (.registerWrite 1 0 8 0 [⟨4, 0⟩]) = false ∧ WellFormed (.registerWrite 1 0 8 0 [⟨0, 0⟩, ⟨0, 1⟩]) = false := by decide
theorem test_accepts : WellFormed (.registerWrite 1 0x800_0010_0000 8 0 [⟨0, 5⟩]) = true ∧ WellFormed (.rdShared 0 (2 ^ 41 - 1) 255) = true := by
  decide

/-- No row of the table has bits. -/
theorem test_no_word (n w : Nat) : decodeTableWord n w = none := rfl

/-! ### Worked examples of the spec -/

/-- 01, "one linkage batch, located". -/
theorem test_places :
    placeOf 0x054_0020_0000 = .fast 7 0x20_0000 ∧ placeOf 0xC54_0020_0000 = .winFast 7 0x20_0000 ∧
    placeOf 0x400_1D48_0000 = .pad 29 9 0 ∧ placeOf 0xCC0_1D48_0000 = .winPad 29 9 0 ∧
    placeOf 0x800_3150_0000 = .regs 3 0x150_0000 ∧ placeOf 0x500_1000_0000 = .red 2 0 ∧
    placeOf 0x180_0000_0000 = .slow 1 0 ∧ unitDie 29 = 3 := by decide

/-! ### Witnesses: the machine -/

theorem test_meets_front : (∃ rest, ({ up with pending := [.markLoss, .bootReset] } : State).pending = .markLoss :: rest) ∧
    up.pending = [] ∧ up.live = true ∧ State.reset.pending = [] ∧ State.reset.live = false :=
  ⟨⟨[.bootReset], rfl⟩, by decide⟩

theorem test_meets_stopped : let s : State := { up with boot := { up.boot with stopped := true } }
    s.boot.stopped = true ∧ s.boot.powerGood = true ∧ s.boot.released = true ∧ Instr.markLoss ≠ .pwrgdDeassert ∧
    Instr.markLoss ≠ .pkgResetAssert := by decide

theorem test_meets_memory : MemoryOk up ∧ ∃ t, step up = .next t := ⟨(by decide : Memory.wf up.mem = true), _, rfl⟩

theorem test_meets_memory_listed : MemoryOk { up with mem := [(5, 1), (9, 255)], pending := [.markLoss] } :=
  (by decide : Memory.wf [(5, 1), (9, 255)] = true)

/-! ### Witnesses: issue -/

/-- A word of an opcode with fields at positions. -/
def word (op : Nat) (fs : List (Nat × Nat)) : Nat := op + (fs.map fun f => f.2 * 2 ^ f.1).sum

/-- Descriptor i: one row of a format. -/
def desc (i base fmt rowBytes : Nat) : Tbl Byte :=
  bytesAt (0x4_0000 + 64 * i) 64 (base + fmt * 2 ^ 48 + 0x80 * 2 ^ 56 + rowBytes * 2 ^ 64 + 2 ^ 96 + 2 ^ 128)

/-- Descriptors: 128 FP32, 128 INT32, 128 bits, 512 FP32, 4 FP32, 32 bytes, 8 BF16. -/
def descs : Tbl Byte :=
  desc 0 0x400_0000_0000 0x01 512 ++ desc 1 0x400_0008_0000 0x0A 512 ++ desc 2 0x400_0010_0000 0x0B 16 ++
  desc 3 0x400_0018_0000 0x01 2048 ++ desc 4 0x400_0020_0000 0x01 16 ++ desc 5 0x400_0028_0000 0x00 32 ++
  desc 6 0x400_0030_0000 0x02 16

/-- Tile 0 is about to issue a word, with the descriptors, an accumulator bank written and a key slot derived. -/
def atWordD (w : Nat) : State :=
  { busy with tiles := [(0, { issuing w with
      imem := bytesAt 0 16 w ++ descs, accKind := [(0, 1)], vec := { keys := [(1, { derived := true })] } })] }

theorem test_meets_control :
    (let s := atWord (word 0x00 []); (s.tile 0).vec.chain = [] ∧ s.issues 0 0x00 = true ∧ reservedClear (s.tile 0).word [] = true) ∧
    (∀ n ∈ [1, 2 ^ 32 - 1], let s := atWord (word 0x01 [(8, n)])
      s.issues 0 0x01 = true ∧ reservedClear (s.tile 0).word [(8, 32)] = true ∧ fld (s.tile 0).word 8 32 ≠ 0) ∧
    (let s := atWord (word 0x02 [(8, 2), (40, 1), (56, 3)]); s.issues 0 0x02 = true ∧ loopOk (s.tile 0) (s.tile 0).word = true) ∧
    (∀ p ∈ [7, 9], let s := atWord (word 0x03 [(8, 2 ^ 32 - 1), (40, p)])
      s.issues 0 0x03 = true ∧ reservedClear (s.tile 0).word [(8, 32), (40, 4)] = true ∧ fld (s.tile 0).word 40 4 = p) ∧
    (let s := atWord (word 0x04 [(8, 1)]); s.issues 0 0x04 = true ∧ reservedClear (s.tile 0).word [(8, 32)] = true) ∧
    (let s := atWord (word 0x05 []); s.issues 0 0x05 = true ∧ reservedClear (s.tile 0).word [] = true ∧ (s.tile 0).loops = []) := by
  decide +kernel

theorem test_meets_units :
    (let s := atWordD (word 0x10 [(16, 1), (32, 16383), (64, 1)]); let w := (s.tile 0).word
      s.issues 0 0x10 = true ∧ (s.tile 0).full 5 = false ∧ reservedClear w [(8, 8), (16, 2), (32, 16), (64, 32)] = true ∧
      bitOf w 13 = false ∧ fld w 16 2 ≤ 1 ∧ channelOk (fld w 16 2) (fld w 32 16) = true ∧ fld w 64 32 ≠ 0) ∧
    (let s := atWordD (word 0x20 [(48, 1)]); s.issues 0 0x20 = true ∧ (s.tile 0).full 6 = false ∧
      reservedClear (s.tile 0).word [(48, 16)] = true) ∧
    (∀ op ∈ [0x30, 0x31, 0x32], let s := atWordD (word op [(8, 1), (16, 0), (32, 0)]); let x := s.tile 0
      s.issues 0 op = true ∧ x.full (2 + fld x.word 8 1) = false ∧ mvOk op x x.word = true) ∧
    (let s := atWordD (word 0x41 [(16, 0)]); s.issues 0 0x41 = true ∧ (s.tile 0).full 0 = false ∧ drainOk (s.tile 0) (s.tile 0).word = true) ∧
    (∀ n ∈ [1, 256], let s := atWordD (word 0x60 [(64, n)]); let w := (s.tile 0).word
      s.issues 0 0x60 = true ∧ (s.tile 0).full 4 = false ∧ reservedClear w [(64, 9), (96, 32)] = true ∧ fld w 64 9 = n) ∧
    (let s := atWordD (word 0x62 []); s.issues 0 0x62 = true ∧ (s.tile 0).full 4 = false ∧ reservedClear (s.tile 0).word [] = true) ∧
    (let s := atWordD (word 0x70 [(8, 255)]); s.issues 0 0x70 = true ∧ (s.tile 0).full 7 = false ∧
      reservedClear (s.tile 0).word [(8, 8), (32, 32)] = true) ∧
    (let s := atWordD (word 0x71 [(64, 5)]); s.issues 0 0x71 = true ∧ (s.tile 0).full 7 = false ∧
      reservedClear (s.tile 0).word [(32, 32), (64, 64)] = true) ∧
    (let s := atWordD (word 0x72 [(8, 255), (16, 255)]); let w := (s.tile 0).word
      s.issues 0 0x72 = true ∧ (s.tile 0).full 7 = false ∧ reservedClear w [(8, 8), (16, 8)] = true ∧ fld w 8 8 ≤ fld w 16 8) := by
  decide +kernel

theorem test_meets_accumulate :
    (let s := atWordD (word 0x40 [(9, 1), (16, 6), (32, 6), (96, 1)]); s.issues 0 0x40 = true ∧ (s.tile 0).full 0 = false ∧
      accOk (s.tile 0) (s.tile 0).word = true) ∧
    (let s := atWordD (word 0x61 [(16, 95), (32, 6)]); let x := s.tile 0; let w := x.word
      s.issues 0 0x61 = true ∧ x.full 4 = false ∧ reservedClear w [(16, 7), (32, 12)] = true ∧ fld w 16 7 ≤ 95 ∧
      (descAt x.imem (fld w 32 12)).ok = true ∧ westFormat (descAt x.imem (fld w 32 12)).format = true ∧ x.gate.format = none) := by
  decide +kernel

/-- A VX word of operands a, b, c and result d over rows. -/
def vxWord (op f a b c d rows : Nat) : Nat := word op [(8, f), (16, a), (32, b), (48, c), (64, d), (104, rows)]

/-- Selector values: none, and hand-off register 0. -/
def no : Nat := 0x3FFF
def hand : Nat := 0x1000

/-- Tile 0 is about to issue a VX word, with some descriptors and a key slot derived. -/
def atVx (ds : Tbl Byte) (w : Nat) : State :=
  { busy with tiles := [(0, { issuing w with imem := bytesAt 0 16 w ++ ds, vec := { keys := [(1, { derived := true })] } })] }

/-- Whether tile 0 can issue VX words of an opcode into their chain, each with its function. -/
def vxIssues (ds : Tbl Byte) (op : Nat) (ws : List (Nat × Nat)) : Bool :=
  ws.all fun p =>
    let s := atVx ds p.2
    let x := s.tile 0
    s.issues 0 op && fld x.word 8 8 == p.1 && !x.full 1 && decide (x.vec.chain.length < 8) && vxOk x x.word

/-- 128 FP32 elements as descriptor 0. -/
def lane0 : Tbl Byte := desc 0 0x400_0000_0000 0x01 512

theorem test_meets_vx_binary : vxIssues lane0 0x50 ((List.range 5).map fun f => (f, vxWord 0x50 f 0 0 no 0 1)) = true := by decide +kernel
theorem test_meets_vx_fused : vxIssues lane0 0x51 ((List.range 3).map fun f => (f, vxWord 0x51 f 0 0 0 0 1)) = true := by decide +kernel
theorem test_meets_vx_unary : vxIssues lane0 0x52 ((List.range 4).map fun f => (f, vxWord 0x52 f 0 no no hand 1)) = true := by decide +kernel
theorem test_meets_vx_compare : vxIssues lane0 0x53 ((List.range 4).map fun f => (f, vxWord 0x53 f 0 0 no 0 1)) = true := by decide +kernel
theorem test_meets_vx_select : vxIssues lane0 0x54 [(0, vxWord 0x54 0 0 0 0 0 1)] = true := by decide +kernel
theorem test_meets_vx_special : vxIssues lane0 0x55 ((List.range 6).map fun f => (f, vxWord 0x55 f 0 no no 0 1)) = true := by decide +kernel
theorem test_meets_vx_rows : vxIssues (desc 1 0x400_0018_0000 0x01 2048 ++ desc 2 0x400_0020_0000 0x01 16) 0x56
    ((List.range 4).map fun f => (f, vxWord 0x56 f 1 no no 2 4)) = true := by decide +kernel
theorem test_meets_vx_columns : vxIssues (lane0 ++ desc 1 0x400_0018_0000 0x01 2048) 0x56
    ((List.range 3).map fun f => (4 + f, vxWord 0x56 (4 + f) 1 no no 0 4)) = true := by decide +kernel
theorem test_meets_vx_pack : vxIssues (lane0 ++ desc 2 0x400_0010_0000 0x0B 16) 0x57
    ((List.range 2).map fun f => (f, vxWord 0x57 f 0 no no 0 1 + 2 * 2 ^ 80 + 2 ^ 92)) = true := by decide +kernel
theorem test_meets_vx_key : vxIssues (desc 5 0x400_0028_0000 0x00 32) 0x58
    [(0x81, vxWord 0x58 0x81 5 no no 1 1), (0x82, vxWord 0x58 0x82 5 no no 0 1), (0x85, vxWord 0x58 0x85 5 no no 7 1)] = true := by
  decide +kernel
theorem test_meets_vx_random : vxIssues lane0 0x58
    [(0x11, vxWord 0x58 0x11 0 0 no 0 1), (0x21, vxWord 0x58 0x21 no no no 0 1), (0x31, vxWord 0x58 0x31 no no no 0 1)] = true := by
  decide +kernel
theorem test_meets_vx_integer : vxIssues (lane0 ++ desc 1 0x400_0008_0000 0x0A 512) 0x59
    (((List.range 4).map fun f => (f, vxWord 0x59 f 1 1 no 1 1)) ++ [(4, vxWord 0x59 4 1 no no 0 1), (5, vxWord 0x59 5 0 no no 1 1)]) = true := by
  decide +kernel

theorem test_meets_blocking :
    (∀ p ∈ [(0, 255), (1, 16383)], let s := atWordD (word 0x11 [(16, p.1), (32, p.2), (64, 1)]); let x := s.tile 0; let w := x.word
      s.issues 0 0x11 = true ∧ x.vec.chain = [] ∧ reservedClear w [(16, 2), (32, 16), (64, 32), (96, 32)] = true ∧
      channelOk (fld w 16 2) (fld w 32 16) = true ∧ fld w 64 32 ≠ 0 ∧
      (fld w 16 2 = 0 ∨ waitFault s 0 (1 + fld w 16 2) (fld w 32 16) = none)) ∧
    (let s := { atWordD (word 0x11 [(16, 2), (32, 4095), (64, 1)]) with plc := { regions := [(4095, { valid := true, troupes := 1 })] } };
      s.issues 0 0x11 = true ∧ waitFault s 0 3 4095 = none) ∧
    (let s := atWordD (word 0x21 [(48, 1)]); s.issues 0 0x21 = true ∧ (s.tile 0).full 6 = false ∧
      reservedClear (s.tile 0).word [(48, 16), (96, 32)] = true) ∧
    (let s := atWordD (word 0x22 [(8, 4), (16, 5), (32, 5), (48, 1)]); let x := s.tile 0; let w := x.word
      s.issues 0 0x22 = true ∧ x.full 6 = false ∧ reservedClear w [(8, 4), (16, 12), (32, 12), (48, 16), (96, 32)] = true ∧
      fld w 8 4 ≤ 4 ∧ (descAt x.imem (fld w 16 12)).ok = true ∧ (descAt x.imem (fld w 32 12)).ok = true) ∧
    (let s := atWordD (word 0x23 [(12, 1), (16, 5), (32, 5), (48, 1)]); let x := s.tile 0; let w := x.word
      s.issues 0 0x23 = true ∧ x.full 6 = false ∧ reservedClear w [(12, 1), (13, 1), (16, 12), (32, 12), (48, 16), (96, 32)] = true ∧
      (descAt x.imem (fld w 16 12)).ok = true ∧ (descAt x.imem (fld w 32 12)).ok = true) := by decide +kernel

/-- An open chain of one link, and a loop. -/
def chained (w : Nat) : State :=
  { busy with tiles := [(0, { issuing w with vec := { chain := [cmdOf 0] }, loops := [⟨0, 2, 0, 16, 64⟩] })] }

theorem test_meets_malformed :
    busy.image.unitTroupe 0 = some 0 ∧ (busy.troupe 0).state = 1 ∧ ((atWord 0x06).tile 0).raised = [] ∧
    ((atWord 0x06).issues 0 0x06 = true ∧ opcodeInForce (opcodeOf ((atWord 0x06).tile 0).word) = false) ∧
    ((chained 0).issues 0 0 = true ∧ ((chained 0).tile 0).vec.chain ≠ []) ∧ (chained 1).issues 0 1 = true ∧
    (let s := atWord (word 0x02 []); s.issues 0 0x02 = true ∧ loopOk (s.tile 0) (s.tile 0).word = false) ∧
    ((chained 5).issues 0 5 = true ∧ ((chained 5).tile 0).loops ≠ []) ∧
    (let s := atWord 0x30; s.issues 0 0x30 = true ∧ (s.tile 0).full 2 = false ∧ mvOk 0x30 (s.tile 0) (s.tile 0).word = false) ∧
    (let s := atWord 0x40; s.issues 0 0x40 = true ∧ (s.tile 0).full 0 = false ∧ accOk (s.tile 0) (s.tile 0).word = false) ∧
    (let s := atWord 0x50; s.issues 0 0x50 = true ∧ fld (s.tile 0).word 8 8 = 0 ∧ (s.tile 0).full 1 = false ∧
      vxOk (s.tile 0) (s.tile 0).word = false) := by decide +kernel

theorem test_meets_full :
    (∀ p ∈ [(0x10, 5), (0x20, 6), (0x21, 6), (0x22, 6), (0x23, 6), (0x30, 2), (0x31, 2), (0x32, 2), (0x40, 0), (0x41, 0), (0x60, 4),
        (0x61, 4), (0x62, 4), (0x70, 7), (0x71, 7), (0x72, 7)],
      let s : State := { busy with tiles := [(0, { issuing p.1 with units := [(p.2, { queue := List.replicate 8 (cmdOf 0) })] })] }
      s.issues 0 p.1 = true ∧ (s.tile 0).full p.2 = true) ∧
    (let s : State := { busy with tiles := [(0, { issuing 0 with held := some 5 })] };
      s.live = true ∧ (s.tile 0).held = some 5 ∧ (s.tile 0).state = tsIssue ∧ ((s.tile 0).unit 5).queue.length < 8) := by decide +kernel

theorem test_meets_start :
    (∀ u ∈ [0, 2, 3, 4, 5, 6, 7], let x := tileUnit u { queue := [cmdOf 0x41] }
      x.works = true ∧ u ≠ 1 ∧ (x.unit u).queue = cmdOf 0x41 :: [] ∧ (x.headStart u).all x.settled = true ∧ startReady x u (cmdOf 0x41) = true ∧ arrayBlocked x (cmdOf 0x41) = false ∧ gateBlocked x (cmdOf 0x41) = false) ∧
    arrayBlocked (tileUnit 0 {}) (cmdOf (word 0x40 [(13, 1)])) = true ∧
    gateBlocked { tileUnit 4 {} with gate := { fired := some {} } } (cmdOf 0x62) = true := by decide +kernel

theorem test_meets_logger : ∀ w ∈ [word 0x70 [(8, 255)], word 0x71 [], word 0x72 [(8, 0), (16, 255)]],
    let x := tileUnit 7 { queue := [cmdOf w] }
    x.settled ((x.unit 7).startOf (cmdOf w) + 4) = true ∧ x.caughtUp ((x.unit 7).startOf (cmdOf w) + 4) = true ∧
    x.works = true ∧ (x.unit 7).queue = cmdOf w :: [] ∧ (x.unit 5).running = [] ∧ (x.logWr + 1) % 1024 ≠ x.logRd ∧
    (let y := { x with logWr := 1023 }; (y.logWr + 1) % 1024 = y.logRd) := by decide +kernel

/-! ### Witnesses: units -/

/-- The banks of tiles 0 and 1 bound to troupe 0 with every port; memory 7's channel 0 serves port 0 of tile 0 in slot 3. -/
def timetabled : State :=
  let banks := fun (t : Nat) => (List.range 32).map fun b => (⟨t, b, 0, 0xFFFF⟩ : BindRec)
  let mem : List TimetableRec := [⟨7, 0, 4, [0, 0, 0, owPort 0 0]⟩]
  let links : List TimetableRec := [⟨3, 1, 1, [3 * 2 ^ 28 + 5]⟩, ⟨1, 2, 1, [3 * 2 ^ 28 + 5]⟩]
  let flows : List FlowRec := [⟨5, 0, 8, 8, 0, 0, 0, 0, 0, 0⟩, ⟨6, 2, 8, 8, 0x500_0000_0000, 4, 0, 2, 0, 1⟩]
  imaged (fun i => { i with bind := banks 0 ++ banks 1, memtt := mem, linktt := links, flow := flows }) busy

/-- A descriptor's 64 bytes with more fields. -/
def descX (i base fmt rowBytes rows pitch more : Nat) : Tbl Byte :=
  bytesAt (0x4_0000 + 64 * i) 64 (base + fmt * 2 ^ 48 + 0x80 * 2 ^ 56 + rowBytes * 2 ^ 64 + rows * 2 ^ 96 + 2 ^ 128 +
    pitch * 2 ^ 160 + more * 2 ^ 448)

/-- One running command of a mover, with one line; cycle 140 is that of slot 3 of memory 7's second frame. -/
def moving (m op addr stage done : Nat) (ds : Tbl Byte) : Tile :=
  let line : MvLine := { idx := 0, addr := addr, req := 100, stage := stage, slotAt := 150, data := List.replicate 128 1 }
  let r : Run := { cmd := cmdOf (word op [(9, 1), (16, 1), (32, 2), (48, 255)]), start := 100, busyTo := 100, done := done, lines := [line] }
  { tileUnit (2 + m) { running := [r] } with imem := ds, startCmp := 32652 }

def tileIs (x : Tile) : State := { timetabled with tiles := [(0, x)] }

/-- 128 bytes as BIT, from memory 7 to the scratchpad, and back. -/
def loadDescs : Tbl Byte := descX 1 0x054_0000_0000 0x00 128 1 0 0 ++ descX 2 0x400_0000_0000 0x00 128 1 0 (2 ^ 14 + 3)
def storeDescs : Tbl Byte := descX 1 0x400_0000_0000 0x00 128 1 0 0 ++ descX 2 0x054_0000_0000 0x00 128 1 0 0
def redDescs : Tbl Byte := descX 1 0x400_0000_0000 0x00 128 1 0 0 ++ descX 2 0x500_0000_0000 0x00 128 1 0 ((2 ^ 31 + 6) * 2 ^ 32)
def copyDescs : Tbl Byte := descX 1 0x400_0000_0000 0x00 128 1 0 0 ++ descX 2 0x400_0100_0000 0x00 128 1 0 (2 * 2 ^ 14 + 9)

theorem test_meets_slot : let s := tileIs (moving 0 0x30 0x054_0000_0000 0 100 loadDescs)
    unownedLine s.image 0 0 ((s.tile 0).unit 2) = none ∧ (pickLine s 0 0 3 140).isSome = true ∧ (s.tile 0).settled 140 = true ∧
    (unownedLine img0 0 0 ((s.tile 0).unit 2)).isSome = true := by
  decide +kernel

theorem test_meets_landing :
    (∀ e ∈ [(0x30, 0x054_0000_0000, loadDescs, 250), (0x30, 0x054_0000_0000, loadDescs, 310), (0x31, 0x054_0000_0000, storeDescs, 350)],
      let s := tileIs (moving 0 e.1 e.2.1 1 100 e.2.2.1)
      (landing 0 0 e.2.2.2 ((s.tile 0).unit 2)).isSome = true) ∧
    (let s := tileIs (moving 0 0x31 0x500_0000_0000 0 100 redDescs);
      let x := s.tile 0
      (landing 0 0 140 (x.unit 2)).isSome = true ∧ (memOf 0x054_0000_0000).isSome = true ∧
      (x.unit 2).running.all (fun r => redFlowOf (convParOf s.image 0 0 x r.cmd r.start).dst == some 6) = true ∧ x.settled 140 = true) ∧
    (let s : State := { timetabled with tiles := [(0, moving 0 0x32 0x400_0100_0000 0 100 copyDescs), (1, { windows := [(0, some 7)] })] };
      (landing 0 0 112 ((s.tile 0).unit 2)).isSome = true ∧ banksOf 0x400_0100_0000 128 = [0] ∧ (asyncFault s 1 0 7).isNone = true) ∧
    (let s := tileIs (moving 0 0x30 0x054_0000_0000 1 100 loadDescs);
      s.image.bound 0 0 4 = true ∧ (s.tile 0).windowAt 0 100 = false ∧ (s.tile 0).uses = []) := by decide +kernel

theorem test_meets_finish :
    ∀ c ∈ [102, 104], ∀ e ∈ [(0x30, loadDescs), (0x31, storeDescs), (0x32, copyDescs)],
      let x := moving 1 e.1 0x054_0000_0000 2 100 e.2
      (x.unit 3).running.all (fun r => r.lines.all (fun l => l.stage == 2) && decide (r.done + 2 ≤ c) && decide (c ≤ r.done + 4)) = true ∧
      (x.unit 3).running.length = 1 ∧ (x.unit 3).running.all (fun r => !r.cut && { r with cut := true }.cut) = true ∧ x.state ≠ tsAbort ∧ { x with state := tsAbort }.state = tsAbort ∧ (x.unit 5).running = [] ∧
      tget 0 x.tokens 3 + 1 < 2 ^ 32 ∧ tget 0 { x with tokens := [(3, 2 ^ 32 - 2)] }.tokens 3 + 1 < 2 ^ 32 := by decide +kernel

/-- Tile 0's arrays are about to start a product of 4 BF16 steps, into the bank that init 1 starts. -/
def productTile : Tile :=
  let n : Tbl Byte := descX 1 0x400_0000_0000 0x02 128 4 128 0
  let w : Tbl Byte := descX 2 0x400_0008_0000 0x02 128 64 128 0
  { tileUnit 0 { queue := [cmdOf (word 0x40 [(9, 1), (14, 1), (16, 1), (32, 2), (96, 4)])] } with imem := n ++ w }

theorem test_meets_accumulates :
    let s := tileIs productTile
    let x := s.tile 0
    let c := cmdOf (word 0x40 [(9, 1), (14, 1), (16, 1), (32, 2), (96, 4)])
    let a := accOf c.word.toNat
    let nd := descAt x.imem a.north
    let wf := a.westFmt x nd.format
    let n := groupSize nd.format wf
    let start := accStart x a c
    let g := groupsOf a.kCount n
    let reads := feedUses nd c.idx (!a.northT) 0 1 c.seq start a.kStart n g ++ (if a.gate then [] else
      (List.range 4).flatMap fun i => feedUses (descAt x.imem a.west) c.idx a.westT (i * 0x8_0000) 0 c.seq start a.kStart n g)
    x.works = true ∧ opcodeOf c.word.toNat = 0x40 ∧ arrayBlocked x c = false ∧ n = 4 ∧ kGroupBad a nd.format wf n = false ∧
    x.settled start = true ∧ accAddrOk 0 x a c.idx = true ∧ (useBanks 0 start (reads.map fun u => (u, c.addr)) s).2 = true := by decide +kernel

/-- A running command of a unit. -/
def runs (u w : Nat) : Tile :=
  let ws : List Write := [⟨0x400_0000_0000, [1, 2], 226⟩, ⟨0x400_0000_0001, [3, 4], 227⟩]
  tileUnit u { running := [{ cmd := cmdOf w, start := 100, busyTo := 227, done := 227, writes := ws }] }

theorem test_meets_completes :
    (∀ w ∈ [word 0x40 [], word 0x40 [(14, 1)]], ((runs 0 w).runOf 0 0x40).isSome = true ∧ (runs 0 w).settled 227 = true ∧ ((runs 0 w).unit 5).running = []) ∧
    (∀ w ∈ [word 0x41 [], word 0x41 [(13, 1)]], ((runs 0 w).runOf 0 0x41).isSome = true ∧ (runs 0 w).settled 227 = true ∧ ((runs 0 w).unit 5).running = []) ∧
    ({ runs 0 (word 0x41 [(13, 1)]) with gate := { fired := some {} } } : Tile).gate.fired.isSome = true := by decide +kernel
/-- Tile 0's vector engine is about to start a chain of two additions, the first into H0. -/
def chainTile : Tile :=
  let a := cmdOf (vxWord 0x50 0 0 3 no hand 1)
  let b := { cmdOf (vxWord 0x50 0 hand 3 no 0 1) with seq := 8, issue := 101 }
  { tileUnit 1 { queue := [a, b] } with imem := lane0 ++ desc 3 0x400_0008_0000 0x01 512 }

theorem test_meets_chain_start :
    let s := tileIs chainTile
    let x := s.tile 0
    let cs := (firstChain (x.unit 1).queue).getD []
    let last := cs.getLast?.getD (cmdOf 0)
    let v := vxOf last.word.toNat
    let m := cs.length
    let start := chainStart x cs last
    x.works = true ∧ m = 2 ∧ v.isKey = false ∧
    (cs.all fun c => (vxOf c.word.toNat).descs.all fun i => (descAt x.imem i).allRows c.idx false (fun a n => inPad 0 a n)) = true ∧
    (useBanks 0 start (chainUses x cs last start) (s.modTile 0 fun x => x.modUnit 1 fun q => { q.started m start with
      freeAt := start + m * v.rows })).2 = true ∧ x.settled start = true := by decide +kernel

theorem test_meets_chain_finish :
    let c := cmdOf (vxWord 0x50 0 0 0 no 0 1)
    let x : Tile := { tileUnit 1 { running := [{ cmd := c, start := 100, busyTo := 100, done := 110, links := [(c, {})] }] } with imem := lane0 }
    (firstDone (x.unit 1).running).isSome = true ∧ x.settled 110 = true ∧ (x.unit 5).running = [] ∧ (vxOf c.word.toNat).d = .stream 0 ∧
    (descAt x.imem 0).format = fmFp32 := by decide +kernel

theorem test_meets_lanes :
    (vxOf (vxWord 0x59 5 0 no no 0 1)).op = 0x59 ∧ (vxOf (vxWord 0x59 5 0 no no 0 1)).func = 5 ∧ isNan32 0x7FC0_0000 = true ∧
    nonFin32 (inf32 true) = true ∧ inf32 false ≠ inf32 true ∧ isNan32 0x8000_0000 = false ∧ (0x8000_0000 : W32).msb = true ∧
    canon32 0x3F80_0000 = 0x3F80_0000 ∧ isNan32 0x3F80_0000 = false := by decide +kernel

theorem test_meets_rounds :
    let f : GateFill := { context := 3, rows := [0x400_0000_0000], desc := 0, perRow := 4, units := 4, endsAt := 120, seq := 7 }
    let g := fun (threshold deadline : Nat) => ({ fills := [f], openRound := { armed := true, threshold := threshold, deadline := deadline } } : Gate)
    (g 2 121).openRound.deadline ≠ 0 ∧ f.endsAt + 1 ≤ (g 2 121).openRound.deadline ∧
    (({ g 2 0 with fills := [] } : Gate).countFill f [[1]]).met = false ∧ (({ g 1 0 with fills := [] } : Gate).countFill f [[1]]).met = true ∧
    { tileUnit 4 {} with gate := g 2 121 }.settled 121 = true ∧ (g 1 120).openRound.armed = true ∧
    (∀ k ∈ (g 1 120).fills, (g 1 120).openRound.deadline < k.endsAt + 1) ∧ (tileUnit 4 {}).unit 5 = {} := by decide +kernel

theorem test_meets_gate_map :
    let free := fun (s : State) => decide ((s.fence 0).fenced = true ∨ (s.tile 0).state = tsNone ∨ (s.tile 0).state = tsEnded)
    let fits := fun (g : Gate) (v : Nat) => let e := gateSlotOf v
      decide (e.enabled = false ∨ (1 ≤ e.rows ∧ e.base + e.rows ≤ 256 ∧
        ∀ p ∈ g.map, p.1 ≠ 95 → p.2.enabled = true → slotsMeet e p.2 = false))
    free up = true ∧ free { up with fences := [(0, { fenced := true })] } = true ∧ free (tileIs (issuing 0)) = false ∧
    fits {} 0 = true ∧ (gateSlotOf (255 + 2 ^ 16 + 2 ^ 31)).enabled = (gateSlotOf (2 ^ 31)).enabled := by decide +kernel

/-- A unit of the scene waits with a limit of one frame, from span time 0. -/
def waiting (u kind chan k : Nat) (x : Tile) (str : StrState) : State :=
  let w : WaitRec := { kind := kind, chan := chan, k := k, limit := 1, since := 0, cycle := 100 }
  { busy with tiles := [(0, x)], waits := [(u, some w)], str := str }

/-- Tile 0 waits in cycle 100. -/
def waitTile : Tile := { state := tsWait, cycle := 100, tokenLog := [(255, [(3, 100, 102)])] }

/-- The unit's barrier release has been sent. -/
def releasedStr (u : Nat) (v : Option Word) : StrState :=
  { waits := [(u, { kind := 2, obj := 9, dst := 0x400_0000_0000, released := true, result := v })] }

/-- Whether the wait of a unit is due in a cycle. -/
def dueIn (s : State) (u cycle : Nat) : Bool :=
  match s.wait u with
  | some w => releaseDue s u cycle w
  | none => false

theorem test_meets_release :
    (∀ c ∈ [100, 102], dueIn (waiting 0 1 255 3 waitTile {}) 0 c = true) ∧
    dueIn { waiting 0 2 16383 5 waitTile {} with tokens := [(16383, { count := 5, waiter := some 0 })] } 0 100 = true ∧
    dueIn { waiting 0 3 4095 5 waitTile {} with plc := { regions := [(4095, { valid := true, arrivals := 5, waiter := some 0 })] } } 0 100 = true ∧
    dueIn (waiting 0 4 9 0 waitTile (releasedStr 0 (some 5))) 0 200 = true ∧
    (∀ u ∈ [48, 51, 72, 75], dueIn { waiting u 2 16383 5 waitTile {} with tokens := [(16383, { count := 5, waiter := some u })] } u 0 = true) ∧
    (banksOf 0x400_0000_0000 8 = [0] ∧ timetabled.image.bound 0 0 5 = true) := by decide +kernel

theorem test_meets_limits :
    let late := fun (s : State) => { s with time := { s.time with span := 4000 } };
    (let s := late (waiting 0 2 5 1 waitTile {})
     s.image.unitTroupe 0 = some 0 ∧ (s.troupe 0).state = 1 ∧ s.time.span ≥ 0 + 4000 * 1 ∧
     (∀ w ∈ s.wait 0, w.raised = false ∧ stillBlocked s 0 w = true) ∧ (s.wait 0).isSome = true) ∧
    (let c := cmdOf (word 0x40 [(13, 1)])
     let x : Tile := { tileUnit 0 { queue := [c] } with gate := { holdSince := some 0 } }
     let s : State := late { busy with tiles := [(0, x)], troupes := [(0, { state := 1, capLimit := 1 })] }
     (s.wait 0).isNone = true ∧ holdExpired s 0 = some c) ∧
    (let h : HeldArrival := { unit := 0, since := 0, limit := 1 }
     dueArrival (late { busy with str := { barriers := [(9, { held := [h] })] } }) 0 = some (1, 9, h) ∧
     dueArrival (late { busy with str := { reds := [(9, { held := [h] })] } }) 0 = some (2, 9, h) ∧
     dueArrival (late { busy with str := { votes := [(9, { held := [h] })] } }) 0 = some (3, 9, h)) := by decide +kernel

/-! ### Witnesses: scenes -/

/-- Troupe 0 has tile 0, one token channel and one barrier. -/
def small (p : Troupe) (x : Tile) : State :=
  let i : Image := { troupes := [{ troupe := 0, tiles := 1, tokenCount := 1, barrierCount := 1 }] }
  { up with img := { inForce := some i }, troupes := [(0, p)], tiles := [(0, x)] }

theorem test_meets_scene :
    (let s := small { state := 1, starting := [0] } {}
     s.image.unitTroupe 0 = some 0 ∧ 0 ∈ (s.troupe 0).starting) ∧
    (let s := small { state := 1 } { state := tsEnding }
     (s.tile 0).state = tsEnding ∧ (s.tile 0).quiet = true ∧ s.image.unitTroupe 0 = some 0) ∧
    (let s := small { state := 1, arrived := [0] } {}
     (s.troupe 0).auditing = false ∧ (s.troupe 0).starting = [] ∧ (∀ u ∈ arriving s.image 0, u ∈ (s.troupe 0).arrived) ∧
     arriving s.image 0 = [0] ∧ auditTroupe s 0 = [] ∧ s.image.tiles 0 = [0] ∧ ((s.tile 0).logWr + 1) % 1024 ≠ (s.tile 0).logRd) ∧
    (let s := { small { state := 1, arrived := [0] } {} with tokens := [(0, { count := 1 })] };
     (auditTroupe s 0).map Mismatch.die = [1]) ∧
    (let s := small { state := 1, auditing := true, owner := some (3, 9) } {}
     (s.troupe 0).auditing = true ∧ s.boot.resetDue.isNone = true ∧ s.image.units 0 = [0] ∧
     ({ s with fences := [(0, { pending := 1 })] } : State).fence 0 = { pending := 1 }) := by decide +kernel

theorem test_meets_abort :
    (let s := small { state := 2 } {}
     (s.troupe 0).state = 2 ∧ 0 ∈ s.image.units 0 ∧ 0 ∉ (s.troupe 0).noticed) ∧
    (let s := small { state := 2, noticed := [0] } {}
     (s.image.troupeRec 0).isSome = true ∧ (∀ u ∈ s.image.units 0, u ∈ (s.troupe 0).noticed ∧ unitIdle s u = true) ∧
     (s.image.flowsOf 0).isEmpty = true) ∧
    (let s := { small { state := 2, abortAt := 5 } {} with time := { span := 200005 } };
     (s.troupe 0).abortAt + 200000 ≤ s.time.span) := by decide +kernel

theorem test_meets_fences :
    unitQuiet up 0 = true ∧ unitQuiet (small { state := 1 } {}) 0 = false ∧ unitQuiet (small { state := 3 } {}) 0 = true ∧
    (let s := { small { state := 1 } {} with fences := [(0, { fenced := true, cause := 2 }), (72, { fenced := true, cause := 3 })] };
     (s.fence 0).fenced = true ∧ (s.fence 0).cause = 2 ∧ (s.fence 72).cause = 3 ∧ fencePersists s 72 = true) := by decide +kernel

/-! ### Witnesses: Strings -/

/-- Every object 9 has tile 0 as its member, port 7 below it and a port above it, or none; port 7 hears. -/
def routed (above : Nat) (f : StrState → StrState) : State :=
  let i : Image := { img0 with route := [⟨0, 9, 1, 0, above, 128⟩, ⟨1, 9, 1, 0, above, 128⟩, ⟨2, 9, 1, 0, above, 128⟩, ⟨3, 9, 1, 0, above, 128⟩] }
  { busy with img := { inForce := some i }, str := f {}, fab := { ports := [(7, { stringsUp := true })] } }

theorem test_meets_tokens :
    (let s := routed 0xFF fun x => { x with msgs := [{ kind := 0, obj := 9, value := 2 }, { kind := 1, obj := 9 }, { kind := 0, obj := 9, unit := 1, value := 3 }] };
     let mine := mergeable s 0 9
     prefixLen 2 (mine.map fun m => m.value.toNat) = some 1 ∧ prefixLen 5 (mine.map fun m => m.value.toNat) = some 2 ∧
     isRoot s.image 0 9 = true ∧ (s.token 9).count + 5 < 2 ^ 32 ∧ portHears s 7 = true ∧ 7 ∈ s.image.downs 0 9 ∧
     s.image.tokenTroupe 9 = some 0 ∧ 2 ^ 32 ≤ (({ s with tokens := [(9, { count := 2 ^ 32 - 1 })] } : State).token 9).count + 1) ∧
    isRoot (routed 3 id).image 0 9 = false := by decide +kernel

theorem test_meets_barriers :
    (let s := routed 0xFF fun x => { x with msgs := [{ kind := 1, obj := 9 }], barriers := [(9, { ports := [7] })] };
     (mergeable s 1 9).length = 1 ∧ 0 ∉ (s.barrier 9).arrived ∧ (s.barrier 9).forwarded = false) ∧
    (let s := routed 0xFF fun x => { x with barriers := [(9, { arrived := [0] })] };
     0 ∈ (s.barrier 9).arrived ∧ portHears s 7 = true ∧ 7 ∈ s.image.downs 1 9 ∧ 7 ∉ (s.barrier 9).ports) ∧
    (let s := routed 0xFF fun x => { x with barriers := [(9, { arrived := [0], ports := [7] })], waits := [(0, { kind := 1, obj := 9 })] };
     isRoot s.image 1 9 = true ∧ barrierFull s 9 = true ∧ s.pubs = [] ∧ (s.strMsg 1 9 0).isNone = true ∧
     tget { kind := 0, obj := 0 } s.str.waits 0 = { kind := 1, obj := 9 }) ∧
    (let s := routed 3 fun x => { x with barriers := [(9, { arrived := [0], ports := [7], forwarded := true })] };
     isRoot s.image 1 9 = false ∧ (s.barrier 9).forwarded = true) := by decide +kernel

theorem test_meets_reductions :
    (∀ op ∈ [0, 4], let s := routed 0xFF fun x => { x with msgs := [{ kind := 2, obj := 9, op := op, value := 5 }] };
     (∀ m ∈ s.strMsg 2 9 0, m.op = op ∧ m.value = 5) ∧ (s.strMsg 2 9 0).isSome = true ∧ thas (s.redObj 9).operands 0 = false ∧
     (s.redObj 9).forwarded = false ∧ portHears s 7 = true ∧ 7 ∈ s.image.downs 2 9 ∧ thas (s.redObj 9).ports 7 = false) ∧
    (let s := routed 0xFF fun x => { x with reds := [(9, { operands := [(0, 1, 5)], ports := [(7, 1, some 6)] })], waits := [(0, { kind := 2, obj := 9 })] };
     isRoot s.image 2 9 = true ∧ redFull s 9 = true ∧ (s.redObj 9).value = some 7 ∧ (s.strMsg 2 9 0).isNone = true) ∧
    (let s := routed 3 fun x => { x with reds := [(9, { forwarded := true })] };
     isRoot s.image 2 9 = false ∧ (s.redObj 9).forwarded = true) := by decide +kernel

theorem test_meets_votes :
    (∀ v ∈ [0, 1], let s := routed 0xFF fun x => { x with msgs := [{ kind := 3, obj := 9, value := BitVec.ofNat 64 v }] };
     (s.strMsg 3 9 0).isSome = true ∧ thas (s.voteObj 9).votes 0 = false ∧ (s.voteObj 9).forwarded = false ∧
     portHears s 7 = true ∧ 7 ∈ s.image.downs 3 9 ∧ thas (s.voteObj 9).ports 7 = false) ∧
    (∀ g ∈ [true, false], let s := routed 0xFF fun x => { x with votes := [(9, { votes := [(0, g)], ports := [(7, true)] })], waits := [(0, { kind := 3, obj := 9 })] };
     isRoot s.image 3 9 = true ∧ voteFull s 9 = true ∧ (s.strMsg 3 9 0).isNone = true ∧
     (tget {} ({ s with tag := { tags := [(1, { valid := true, vote := 9 })] } } : State).tag.tags 1).valid = true) ∧
    (let s := routed 3 fun x => { x with votes := [(9, { forwarded := true })] };
     isRoot s.image 3 9 = false ∧ (s.voteObj 9).forwarded = true) := by decide +kernel
/-! ### Witnesses: frames, memories, links and ports -/

/-- A member of a span whose time parent lies beyond port 3. -/
def child (f : State → State) : State :=
  let i : Image := { img0 with clock := [{ timeParent := 3 }] }
  f { busy with img := { inForce := some i }, fab := { ports := [(3, { stringsUp := true, delay := 100 })] } }

theorem test_meets_frames :
    (let s := child id
     markPort s = some 3 ∧ portHears s 3 = true) ∧
    (let s := child fun s => { s with str := { sinceMark := 3, inSpan := true } };
     (markPort s).isSome = true ∧ 3 ≤ s.str.sinceMark ∧ s.str.inSpan = true) ∧
    (let s := child fun s => { s with clk := { dies := [(0, { marks := true })] } }; (s.clkDie 0).marks = true) ∧
    (let s := child fun s => { s with img := { inForce := some { img0 with clock := [{ timeParent := 3, spanClass := 1 }] } }, clk := { dies := [(8, { marks := true, phases := List.replicate 16 0 })] } };
     markPort s = some 3 ∧ s.image.clockRec.spanClass = 1 ∧ (s.clkDie 8).marks = true ∧ (s.clkDie 8).phases = 0 :: List.replicate 15 0) ∧
    ({ up with img := { op := .voting } } : State).img.op = .voting ∧
    (let s := routed 7 id
     0 ∈ troupesThrough s.image 7 ∧ (s.troupe 0).state = 1) ∧
    (let s := { up with boot := { up.boot with dieMask := 0x90 } };
     s.live = true ∧ s.dieUp 5 = true ∧ s.dieUp 8 = true ∧
     (⟨.rootStore 3, false⟩ : SramError) ∈ [⟨.rootStore 0, false⟩, ⟨.rootStore 3, false⟩] ∧
     (⟨.table 8, false⟩ : SramError) ∈ [⟨.table 8, false⟩]) ∧
    (∀ v ∈ [0, 15 * 2 ^ 48, 16 * 2 ^ 48], (v / 2 ^ 48 = 0 ∨ v / 2 ^ 48 = 15 ∨ 16 ≤ v / 2 ^ 48)) := by decide +kernel

/-- R556: an uncorrectable error in Grotto 3's root store refuses the commit vote, one in a directory owes a reset. -/
theorem test_frame_sram :
    (let s := { up with boot := { up.boot with dieMask := 0x90 } };
     match exec (.frameStart [] [] [] [] [⟨.rootStore 3, false⟩, ⟨.cacheTag 0, false⟩]) s with
     | .next r => (r.grot 3).refuse && r.boot.resetDue.isSome
     | _ => false) = true := by decide +kernel

/-- Memory 15's channel 0 serves class COH in slot 0, nothing in slot 1, refresh in slot 3199; a partial write waits. -/
def slotted (q : MemReq) : State :=
  let r : TimetableRec := ⟨15, 0, 3200, [0x2000_0000, 0] ++ List.replicate 3197 0x4000_0000 ++ [0x4000_0000]⟩
  { imaged (fun i => { i with memtt := [r] }) busy with mems := [(15, { reqs := [q] })] }

theorem test_meets_slots :
    (∀ b ∈ [(true, false), (false, false), (false, true)],
      let q : MemReq := { owner := 0x2000_0000, die := 8, line := 0x280_0000_0000 / 128, write := true, who := .dataHome,
                          data := List.replicate 128 7, mask := List.replicate 127 true ++ [b.1], readDone := b.2 }
      let s := slotted q
      0 < 2 ^ chanBits 15 ∧ 3199 < memSlots 15 ∧ ownerWord s 15 0 0 = 0x2000_0000 ∧ ownerWord s 15 0 1 = 0 ∧
      ownerWord s 15 0 3199 = 0x4000_0000 ∧ tget 0 (s.memCtl 15).nextSlot 0 ≤ 0 ∧ s.beginsNow (memSlotAt 15 0) = true ∧
      s.beginsNow (memSlotAt 15 1) = true ∧ ({ s with time := { span := 65500 } } : State).beginsNow (memSlotAt 15 3199) = true ∧
      carriesRequests 0x2000_0000 = true ∧ slotTaker s 15 0 0x2000_0000 (memSlotAt 15 0) = some q ∧
      effEcc s 0x280_0000_0000 {} = .clean ∧ effEcc s 0x280_0000_0000 { symbols := 2 } = .uncorrectable ∧
      q.mask.length = 128 ∧ q.data.length = 128 ∧ q.mask.all id = b.1) ∧
    ownerWord up 0 63 4095 = 0x4000_0000 ∧
    (let s := { up with time := { span := 65536 } }; s.time.span / 65536 ≠ s.time.ttFrames) ∧
    (∀ v ∈ [1280, 1281, 1360, 1361, 1440, 1472, 1520, 1521, 1600, 1601], readingOf [⟨3, some v⟩, ⟨4, none⟩] 3 = some v) ∧
    readingOf [⟨3, some 1280⟩, ⟨4, none⟩] 4 = none := by decide +kernel

/-- Link 1 of die 3, to die 1, or link 2 of die 0, in a state it has left at span time 0; links tell of troupe 0. -/
def linked (n span : Nat) : State :=
  { timetabled with links := [(linkKey 3 1, { state := n }), (linkKey 0 2, { state := n })], time := { span := span } }

theorem test_meets_links :
    linkPeer 3 1 = some 1 ∧ linkPeer 0 2 = some 3 ∧ linkModules 3 1 = 6 ∧ linkModules 0 3 = 4 ∧
    (∀ n ∈ [0, 1, 2, 3], ((linked n 0).link 3 1).state = n ∧ ((linked n 0).link 0 2).state = n) ∧
    (linked 0 0).dieUp 3 = true ∧ (linked 0 0).dieUp 1 = true ∧ linkTo 1 3 = some 2 ∧
    (63 % 64 = 63 ∧ 31 % 64 ≠ 63) ∧ (linked 3 7_999_999).time.span < ((linked 3 7_999_999).link 3 1).leftAt + 8_000_000 ∧
    ((linked 3 8_000_000).link 3 1).leftAt + 8_000_000 ≤ (linked 3 8_000_000).time.span ∧
    0 ∈ troupesOnLink (linked 3 0).image 3 1 ∧ ((linked 3 0).troupe 0).state = 1 ∧ troupesOnLink (linked 3 0).image 0 3 = [] ∧
    ((linked 4 0).link 0 (3 - 1)).state = 4 ∧ (linked 4 0).err.fatalCopied = false := by decide +kernel

/-- Port 7, with ports 6 and 7 of die 4. -/
def ported (x : Port) (f : State → State) : State := f { busy with fab := { ports := [(7, x)] } }

/-- A flit of bytes and of a trailer, with its check. -/
def flitOf (t : Nat) : List Byte :=
  let body := List.replicate 384 (5 : Byte) ++ leBytes 12 t
  body ++ leBytes 4 (crc32 body)

set_option maxRecDepth 100000 in
theorem test_meets_flits :
    (∀ n ∈ [0, 4095], let x := (ported { state := 3, rxNext := n, rxSync := true } id).port 7
      x.state = 3 ∧ x.rxPlace ≤ 1002 ∧ x.rxSync = true ∧ flitOk (flitOf n) = true ∧ trailer (flitOf n) 0 12 = x.rxNext ∧ x.rxNext < 4096 ∧ x.rxHeld = []) ∧
    (∀ n ∈ [1, 2047], 0 < (trailer (flitOf n) 0 12 + 4096 - 0) % 4096 ∧ (trailer (flitOf n) 0 12 + 4096 - 0) % 4096 < 2048) ∧
    flitOk (List.replicate 400 0) = false ∧ (∀ k ∈ [0, 1, 2], let s := ported { state := 3, toReplay := [(5, 0), (6, 4000)], txKept := [(5, [])] } fun s => { s with time := { span := replayAt (3 + k) } }
      s.live = true ∧ s.frame = 1 ∧ (s.port 7).txReplay ≤ 3 + k ∧ s.beginsNow (replayAt (3 + k)) = true ∧
      (s.port 7).toReplay.find? (fun n => decide (n.2 + 20 ≤ replayAt (3 + k))) = some (5, 0)) ∧
    idleFlit (flitOf 5) = false ∧ idleFlit (flitOf (2 ^ 50)) = false := by decide +kernel

set_option maxRecDepth 100000 in
theorem test_meets_opener :
    let o := let body := List.replicate 358 (1 : Byte); body ++ leBytes 4 (crc32 body)
    o.length = 362 ∧ crc32 (o.take 358) = fieldAt o 358 4 ∧ (∀ n ∈ [1, 2, 6], ((ported { state := n } id).port 7).state ≠ 0) := by
  decide +kernel

theorem test_meets_ports :
    (∀ n ∈ [0, 1, 4, 5], ((ported { state := n } id).port 7).state = n) ∧
    (∀ i ∈ [true, false], let s := ported { identified := i } id
      identityOk s 7 = false ∧ (s.port 7).identified = i) ∧
    ((ported { state := 2 } id).port 7).state = 2 ∧ (((ported { state := 3, rxFails := [(5, 3)] } id).port 7).rxFails.any fun f => decide (3 ≤ f.2)) = true ∧
    portUsed up 7 = true ∧ portUsed busy 7 = false ∧
    (let s := ported { state := 4, stringsUp := true } fun s => { s with time := { span := 8_000_000 } };
     (s.port 7).leftAt + 8_000_000 ≤ s.time.span ∧ (s.port 7).stringsUp = true) ∧
    (let s := ported {} fun s => { imaged (fun i => { i with flow := [⟨6, 0, 8, 7, 0, 1, 1, 1, 0, 0⟩] }) s with fab := s.fab };
     0 ∈ troupesOnPort s.image 7 ∧ (s.troupe 0).state = 1 ∧ (s.port (2 * (7 / 2) + (1 - 7 % 2))).state ≠ 3) := by decide +kernel

/-- Flow 5 forwards from port 7 to port 0, flow 6 is delivered from port 7 to memory 0, flow 7 reduces from port 7, flow 8
sends from memory 0 to port 0. -/
def flowing (ports : Tbl Port) (e : FabEngine) : State :=
  let flows : List FlowRec := [⟨5, 0, 7, 0, 0, 0, 4, 1, 0, 0⟩, ⟨6, 1, 7, 8, 0x024_0000_0000, 4, 4, 1, 0, 0⟩,
    ⟨7, 2, 7, 8, 0x500_1800_0000, 4, 4, 2, 0, 1⟩, ⟨8, 0, 8, 0, 0, 4, 4, 1, 0, 0⟩]
  let slots : List TimetableRec := [⟨0, 1, 3000, [owFlow 8, owFlow 5]⟩]
  let mems : List TimetableRec := [⟨9, 0, 4, [owPort 75 1]⟩, ⟨3, 0, 4, [owPort 75 1]⟩, ⟨0, 0, 4, [owPort 72 0]⟩]
  let links : List TimetableRec := [⟨4, 2, 1, [owFlow 6]⟩]
  { imaged (fun i => { i with flow := flows, fabtt := slots, memtt := mems, linktt := links }) busy with
    fab := { ports := ports, engines := [(0, e)], flows := [(5, { credits := 1 }), (8, { credits := 1 })] } }

theorem test_meets_arrivals :
    (∀ f ∈ [5, 6, 7, 9], let s := flowing [(7, { arrived := [(f, List.replicate 128 1)] })] {}
      (s.port 7).arrived.length = 1 ∧ (∀ r ∈ s.image.flowRec f, r.inPort = 7 ∧ r.flow = f ∧ (s.troupe r.troupe).state ≠ 2)) ∧
    (let s := flowing [] {}
     ((s.image.flowRec 9).filter fun f => f.inPort == 7).isNone = true ∧ ownsFabSlot s.image 0 5 = true ∧
     (s.flowCtx 6).skip = 0 ∧ fabReach s.image 3 1 6 0x024_0000_0000 true = true ∧ (boardOf s 6).isNone = true ∧
     fabReach s.image 3 1 7 0x500_1800_0000 true = true) ∧
    (∀ c ∈ [0, 1], let s := { flowing [(0, { state := 3 }), (7, { forward := [⟨5, [], 0, false⟩] })] {} with
        fab.flows := [(5, { credits := c })], time := { span := 4000 } };
     fabOwner s.image 0 1 / 2 ^ 28 = 3 ∧ fabOwner s.image 0 1 % 2 ^ 18 = 5 ∧ (s.port 0).state = 3 ∧
     slotDue s 0 1 = true ∧ slotDue s 0 0 = true ∧
     ((s.port 7).forward.find? fun l => l.flow == 5).all (fun l => decide (l.since + 80 ≤ portSlotAt (s.frame * 3000 + 1))) = true ∧
     ((s.port 7).forward.find? fun l => l.flow == 5).isSome = true ∧ (s.flowCtx 5).credits = c) := by decide +kernel

/-- A ring's first entry. -/
def entry (op : Nat) (fs : List (Nat × Nat)) : Tbl Byte := bytesAt 0 32 (word op fs)

theorem test_meets_fabric :
    (let s := flowing [(0, { state := 3 })] { state := 1, ring := entry 1 [(16, 0xFFFF), (64, 8), (128, 2)] }
     let x := s.fabEng 0
     x.repeats = [] ∧ fieldAt x.cur 0 1 = 1 ∧ (fabEntryFault s 0 x.cur).isNone = true ∧ fieldAt x.cur 2 2 = 0xFFFF ∧
     x.sent < fieldAt x.cur 0x10 4 ∧ 0 < (s.flowCtx 8).credits ∧
     (s.image.flowRec 8).all (fun f => slotOfFlow s 0 f && fabReach s.image 0 0 8 (f.lineAt 0) false) = true ∧ x.asked = false ∧
     (let r := flowing [(0, { state := 3 })] { x with asked := true, fetched := [(8, 0, [])] };
      (r.image.flowRec 8).all (fun f => (readyLine r 0 0 f).isSome && slotOfFlow r 0 f) = true) ∧
     (s.image.flowRec 8).isSome = true) ∧
    (let s := flowing [] { state := 1, ring := entry 2 [(64, 6), (128, 2)], recvs := List.replicate 63 ⟨6, 1, 0xFFFF⟩ }
     fieldAt (s.fabEng 0).cur 0 1 = 2 ∧ (s.fabEng 0).recvs.length < 64 ∧ (fabEntryFault s 0 (s.fabEng 0).cur).isNone = true) ∧
    (∀ c ∈ [5, 0xFFFF], let x : FabEngine := { state := 1, ring := entry 1 [(64, 8), (128, 2), (160, c)], sent := 2 }
     0 < x.sent ∧ x.sent = fieldAt x.cur 0x10 4 ∧ fieldAt x.cur 0x14 2 = c) ∧
    (let s := flowing [] { state := 1, ring := entry 3 [], lastSend := [(8, (0, 2))], recvs := [⟨6, 0, 0xFFFF⟩] }
     fieldAt (s.fabEng 0).cur 0 1 = 3 ∧ s.image.unitTroupe 72 = some 0 ∧ thas (s.fabEng (0 / 2)).lastSend 8 = true ∧
     (s.fabEng 0).recvs[0]? = some ⟨6, 0, 0xFFFF⟩ ∧ 0 ≤ (s.flowCtx 6).accepted) ∧
    (let s := { flowing [] {} with tag := { board := [(1023, { valid := true, flow := 6, digest := 9, key := 4 })] },
                                   fab := { flows := [(6, { copies := [9, 8] })] } };
     (s.boardEntry 1023).valid = true ∧ (s.flowCtx 6).copies = [9, 8] ∧ (s.boardEntry 1023).digest = 9) := by decide +kernel

/-- Reduction engine 3 at an entry, with a contribution to a line of flow 7. -/
def reducing (fs : RedEngine → RedEngine) (s : State → State) : State :=
  s { flowing [] {} with reds := [(3, fs { state := 1, inputs := [⟨7, 0x500_1800_0000, 1, List.replicate 128 0, 0, 0⟩] })], time := { span := 40 } }

/-- The image binds region 0 of die 3's reduction buffers to port 9, and objects 9 have unit 51 as a member. -/
def redBound (s : State) : State :=
  imaged (fun i => { i with
    bind := [⟨0xF3, 0, 0, 0x200⟩], flow := s.image.flow
    route := [⟨2, 9, 0, 8, 0xFF, 0⟩, ⟨3, 9, 0, 8, 0xFF, 0⟩] }) s

theorem test_meets_reduction_engine :
    (∀ k ∈ [0, 1], let s := reducing (fun x => { x with lines := [(0x500_1800_0000 / 128, ⟨k, List.replicate 32 0⟩)] }) redBound
      let x := s.redEng 3
      x.inputs[0]?.all (fun c => decide (c.since + 40 ≤ s.time.span)) = true ∧ x.inputs[0]?.isSome = true ∧ s.noticed 51 = false ∧ s.image.bound 0xF3 ((0x500_1800_0000 - redBase 3) / 0x80_0000) 9 = true ∧
      ((s.image.flowRec 7).map FlowRec.contributors).getD 1 = 2 ∧ (tget {} x.lines (0x500_1800_0000 / 128)).next = k ∧
      (tget {} x.lines (0x500_1800_0000 / 128)).sum.length = 32 ∧ x.reorder.length < 32768) ∧
    (let s := reducing (fun x => { x with ring := entry 0x21 [(16, 0xFFFF), (64, 0x500_1FFF_FF80), (128, 1)] }) redBound
     let e := (s.redEng 3).cur
     fieldAt e 0 1 = 0x21 ∧ fieldAt e 2 2 = 0xFFFF ∧ fieldAt e 8 8 % 128 = 0 ∧ inRed 3 (fieldAt e 8 8) (128 * fieldAt e 0x10 4) = true) ∧
    (∀ c ∈ [true, false], let s := reducing (fun x => { x with ring := entry 0x22 [(16, 0xFFFF), (160, 9), (192, 9)], contributed := c }) redBound
     let e := (s.redEng 3).cur
     fieldAt e 0 1 = 0x22 ∧ (s.redEng 3).contributed = c ∧ (objectFault s 51 2 (fieldAt e 0x14 2)).isNone = true ∧
     (objectFault s 51 3 (fieldAt e 0x18 1)).isNone = true ∧ nonFin32 0x7F80_0000 = true ∧
     leF32 (s.redEng 3).norm (s.troupe ((s.image.unitTroupe 51).getD 0xFF)).capCeil = true) ∧
    (let s := reducing (fun x => { x with ring := entry 0x2F [], inputs := [] }) redBound
     fieldAt (s.redEng 3).cur 0 1 = 0x2F ∧ s.image.unitTroupe 51 = some 0) := by decide +kernel
/-! ### Witnesses: Grottos -/

/-- Grotto 3 runs at an entry; objects 9 have its processor as a member. -/
def grotto (ring : Tbl Byte) (f : Grotto → Grotto) : State :=
  let s : State := { busy with grots := [(3, f { state := 1, ring := ring })] }
  imaged (fun i => { i with route := [⟨2, 9, 0, 2 ^ 19, 0xFF, 0⟩, ⟨3, 9, 0, 2 ^ 19, 0xFF, 0⟩, ⟨1, 9, 0, 2 ^ 19, 0xFF, 0⟩] }) s

/-- An image in which Grotto 3's two units own slots on every channel of its tier. -/
def slotImage : Image := { img0 with memtt := (List.range 32).map fun n => ⟨15, n, 2, [owPort 67 0, owPort 67 1, owPort 67 2, owPort 71 0, owPort 71 1]⟩ }

/-- Shard 4095: two generations of 512 bytes in Grotto 3's tier. -/
def shard4095 (f : Shard → Shard) : Tbl Shard :=
  [(4095, f { base0 := 0x280_0000_0000, base1 := 0x280_0000_0200, bytes := 512, valid := true })]

theorem test_meets_skipping : ∀ op ∈ [0x31, 0x32, 0x33, 0x35, 0x36, 0x37],
    let x := (grotto (entry op []) fun x => { x with skipping := true }).grot 3
    x.state = 1 ∧ x.begun = false ∧ x.skipping = true ∧ x.op = op := by decide +kernel

theorem test_meets_norm :
    (let s := grotto (entry 0x31 [(8, 9)]) id
     (s.grot 3).op = 0x31 ∧ (objectFault s 67 3 (fieldAt (s.grot 3).cur 1 1)).isNone = true) ∧
    (∀ v ∈ [0, 1], let s := { grotto (entry 0x31 [(8, 9)]) (fun x => { x with state := 2, begun := true }) with
        str := { waits := [(67, { kind := 3, obj := 9, released := true, result := some (BitVec.ofNat 64 v) })] },
        troupes := [(0, { state := 1, commitScene := true, stepState := 1 })] };
     (s.grot 3).state = 2 ∧ (s.grot 3).op = 0x31 ∧ voteResult s 67 = some (v == 1) ∧ updTroupe s 3 = 0 ∧ (s.troupe 0).stepState = 1) := by
  decide +kernel

theorem test_meets_const :
    (let x := (grotto (entry 0x36 [(8, 28), (16, 4)]) id).grot 3
     x.op = 0x36 ∧ fieldAt x.cur 2 1 ≠ 0 ∧ fieldAt x.cur 1 1 + fieldAt x.cur 2 1 ≤ 32 ∧ fieldAt x.cur 3 1 = 0 ∧ fieldAt x.cur 2 1 ≤ 4) ∧
    (let x := (grotto (entry 0x36 [(16, 32), (24, 1), (64, 0x280_0000_0000)]) fun x => { x with capStep := 5 }).grot 3
     x.op = 0x36 ∧ fieldAt x.cur 1 1 + fieldAt x.cur 2 1 ≤ 32 ∧ fieldAt x.cur 3 1 = 1 ∧ fieldAt x.cur 8 8 % 128 = 0 ∧
     inTier (fieldAt x.cur 8 8 + (x.capStep.toNat % 2 ^ 48) * 128) 128 = true ∧ noSlot slotImage 67 0 (0x280_0000_0000 + 5 * 128) 128 = none ∧
     noSlot slotImage 67 3 (0x280_0000_0000 + 5 * 128) 128 = some (0x280_0000_0000 + 5 * 128)) := by decide +kernel

theorem test_meets_init :
    (let s := grotto (entry 0x37 [(16, 4095), (64, 128), (128, 384)]) fun x => { x with shards := shard4095 id }
     let e := (s.grot 3).cur
     (s.grot 3).op = 0x37 ∧ fieldAt e 1 1 = 0 ∧ fieldAt e 4 2 = 0 ∧ fieldAt e 2 2 = 4095 ∧ (s.shard 3 4095).valid = true ∧
     (s.shard 3 4095).initialised = false ∧ fieldAt e 8 8 % 128 = 0 ∧ fieldAt e 0x10 8 % 128 = 0 ∧
     fieldAt e 8 8 + fieldAt e 0x10 8 ≤ (s.shard 3 4095).bytes ∧
     ((s.shard 3 4095).region false + 128) + 384 ≤ (s.shard 3 4095).region true + 128 ∧
     noSlot slotImage 67 1 ((s.shard 3 4095).region false + 128) 384 = none ∧ noSlot slotImage 67 1 ((s.shard 3 4095).region true + 128) 384 = none) ∧
    (let s := grotto (entry 0x37 [(8, 1), (16, 4095), (32, 64), (128, 16384)]) fun x => { x with shards := shard4095 fun y => { y with bytes := 16384 } }
     let e := (s.grot 3).cur
     fieldAt e 1 1 = 1 ∧ fieldAt e 4 2 = 64 ∧ fieldAt e 0x10 8 % (4 * 64 * 64) = 0 ∧ fieldAt e 0x10 8 ≤ (s.shard 3 4095).bytes) ∧
    laterInit (entry 0x37 [] ++ bytesAt 32 32 0x3F) 4095 4096 1 = false := by decide +kernel

theorem test_meets_digest :
    (let s := grotto (entry 0x35 [(16, 4095), (32, 0xFFFF)]) fun x => { x with shards := shard4095 id }
     let e := (s.grot 3).cur
     let a := (s.shard 3 4095).region false
     (s.grot 3).op = 0x35 ∧ fieldAt e 1 1 = 0 ∧ (s.shard 3 4095).valid = true ∧ a % 128 = 0 ∧ placeOf a = .slow 3 0 ∧ inTier a 512 = true ∧ noSlot slotImage 67 2 a 512 = none) ∧
    (let e := (grotto (entry 0x35 [(8, 1), (128, 0x280_0000_0080), (192, 128)]) id |>.grot 3).cur
     fieldAt e 1 1 = 1 ∧ placeOf (fieldAt e 0x10 8) = .slow 3 128 ∧ inTier (fieldAt e 0x10 8) (fieldAt e 0x18 8) = true) ∧
    (let s := grotto (entry 0x3F []) id
     (s.grot 3).op = 0x3F ∧ (s.grot 3).rootQueue = [] ∧ s.image.unitTroupe 67 = some 0) := by decide +kernel

/-- Program 63: one instruction on streams 0 and 1 and constant 31 into output 5, and the UPDATE entry that runs it on
shard 4095. -/
def program (op a b c : Nat) : Tbl Byte :=
  bytesAt (0x400 * 63) 3 (1 + 3 * 2 ^ 8 + 32 * 2 ^ 16) ++
  bytesAt (0x400 * 63 + 0x40) 4 (op * 2 ^ 26 + 29 * 2 ^ 21 + a * 2 ^ 16 + b * 2 ^ 11 + c * 2 ^ 6 + 31) ++
  bytesAt (0x400 * 63 + 0x140) 16 (1 * 2 ^ 8) ++ bytesAt (0x400 * 63 + 0x150) 16 (2 * 2 ^ 8 + 128 * 2 ^ 64) ++
  bytesAt (0x400 * 63 + 0x1C0 + 80) 16 (1 + 0xFF * 2 ^ 16)

def updEntry (w s : Nat) : Tbl Byte := entry 0x32 [(8, 63), (16, 4095), (32, w), (48, s), (96, 2)]

/-- Grotto 3 in an UPDATE whose lines have slots. -/
def updating (op a b c : Nat) (f : Grotto → Grotto) : State :=
  let s := grotto (updEntry 0xFFFF 0xFFFF) fun x => f { x with prog := program op a b c, shards := shard4095 id }
  { s with img := { s.img with inForce := some { s.image with
      memtt := (List.range 12).map fun n => ⟨15, n, 2, [owPort 67 0, owPort 67 1]⟩ } } }

theorem test_meets_update :
    (let s := updating 1 16 17 31 id
     let (u, sh, p) := (s.grot 3).update
     (s.grot 3).op = 0x32 ∧ u.waitCh = 0xFFFF ∧ sh.valid = true ∧ u.program = 63 ∧ 0 < u.elements ∧ programOk p sh u.flags = true ∧
     (∀ i ∈ List.range 8, usedIn p i = true → inOk sh u (inDesc p i) = true) ∧
     (∀ j ∈ List.range 6, usedOut p j = true → outOk sh u (outDesc p j) = true) ∧ (groupUnowned s.image 3 p sh u 0).isNone = true) ∧
    (let x := (updating 1 16 17 31 fun x => { x with begun := true, groupSt := { fetched := [0x280_0000_0000 / 128, 0x280_0000_0080 / 128] } }).grot 3
     x.updating = true ∧ x.missing = [] ∧ x.groupSt.resumed = false ∧ x.groupSt.group < x.update.1.groups ∧ x.remote = []) ∧
    (∀ c ∈ [5, 0xFFFF], let x := (grotto (updEntry 0xFFFF c) fun x => { x with begun := true, groupSt := { group := 1 } }).grot 3
     x.updating = true ∧ x.update.1.groups ≤ x.groupSt.group ∧ x.update.1.signal = c) := by decide +kernel

theorem test_meets_instructions : ∀ e ∈ [(1, 16, 17, 31), (2, 16, 17, 31), (3, 16, 30, 31), (4, 16, 17, 30), (5, 16, 17, 30), (6, 16, 17, 30),
      (7, 16, 17, 31), (8, 16, 31, 31), (9, 16, 17, 31), (10, 16, 17, 31), (11, 16, 31, 31), (12, 16, 31, 31), (13, 16, 17, 30),
      (14, 16, 17, 31), (15, 16, 31, 31)],
    let x := (updating e.1 e.2.1 e.2.2.1 e.2.2.2 fun x => { x with begun := true, groupSt := { fetched := [0x280_0000_0000 / 128, 0x280_0000_0080 / 128] } }).grot 3
    x.at_ e.1 = true ∧ (progInstr x.update.2.2 0).d < 30 := by decide +kernel

/-- A ROOT entry of one 64 × 64 block, from one generation of shard 4095 into the other. -/
def rootEntry : Tbl Byte := entry 0x33 [(8, 1), (16, 4095), (32, 4095), (48, 64), (64, 1), (80, 63), (224, 16384)]

theorem test_meets_root :
    let s := grotto rootEntry fun x => { x with shards := shard4095 fun y => { y with base1 := 0x280_0001_0000, bytes := 16512 } }
    let x := s.grot 3
    let j := rootJob x.cur
    x.op = 0x33 ∧ x.rootQueue.length < 16 ∧ s.image.unitTroupe 71 = s.image.unitTroupe 67 ∧ s.image.unitTroupe 71 ≠ none ∧
    rootNoSlot { s with img := { s.img with inForce := some slotImage } } 3 j = none ∧
    j.ok = true ∧ j.inside (x.shard j.src) (x.shard j.root) = true ∧ j.resOff % 128 = 0 ∧ j.b % 64 = 0 ∧ j.next + 1 = j.blocks ∧
    { j with blocks := 4096 }.next + 1 ≠ { j with blocks := 4096 }.blocks := by decide +kernel

theorem test_meets_commit :
    (let s := grotto (entry 0x34 [(8, 9), (16, 9)]) fun x => { x with normGo := true }
     let e := (s.grot 3).cur
     (s.grot 3).op = 0x34 ∧ (s.grot 3).rootQueue = [] ∧ (objectFault s 67 3 (fieldAt e 1 1)).isNone = true ∧
     (objectFault s 67 1 (fieldAt e 2 2)).isNone = true) ∧
    (∀ v ∈ [0, 1], let s := { grotto (entry 0x34 [(8, 9), (16, 9)]) (fun x => { x with state := 2, shards := shard4095 fun y => { y with dirty := true } }) with
        str := { waits := [(67, { kind := 3, obj := 9, released := true, result := some (BitVec.ofNat 64 v) })] } };
     (s.grot 3).state = 2 ∧ (s.grot 3).op = 0x34 ∧ voteResult s 67 = some (v == 1) ∧ (s.shard 3 4095).dirty = true ∧ (s.shard 3 0).dirty = false) ∧
    (let s := { grotto [] (fun x => { x with unknown := true }) with troupes := [(0, { state := 2, stepState := 6 })] };
     (s.troupe 0).stepState = 6 ∧ 3 ∈ unknownGrottos s 0 ∧ 2 ∉ unknownGrottos s 0 ∧ (s.troupe 15).stepState ≠ 6) := by decide +kernel
/-! ### Witnesses: coherence -/

/-- Line 2^38 − 1 of the fast tier's last memory, whose home is 3, or of a slow tier. -/
def lastFast : Nat := 0x090_0000_0000 / 128 - 1
def lastSlow : Nat := 0x300_0000_0000 / 128 - 1

/-- A message about a line from an agent, and homes and caches. -/
def coherent (msgs : List CohMsg) (h : Home) (c : Tbl (Tbl CLine)) : State :=
  { up with coh := { msgs := msgs, homes := [(3, h), (7, h)], caches := c } }

def entries (line : Nat) (d : Option DirState) : Home :=
  { dir := match d with
      | some e => [(line, ⟨e, 0⟩)]
      | none => [] }

/-- A transaction of a request of agent 5. -/
def txn5 (op : Nat) (f : Txn → Txn) : Txn := f { req := { op := op, req := 5, txn := 255 }, awaiting := [11], give := some 0x33, final := some (.EM 5) }

theorem test_meets_homes :
    homeOf lastFast = some 3 ∧ homeOf lastSlow = some 7 ∧
    (∀ line ∈ [lastFast, lastSlow], ∀ e ∈ [(1, 11), (2, 11), (3, 11), (4, 12), (5, 12), (6, 12)], ∀ d ∈ [none, some (DirState.S (2 ^ 11)), some (.S 1), some (.EM 5)],
      let s := coherent [{ op := e.1, line := line, txn := 255, req := e.2, src := e.2, data := List.replicate 128 1, mask := List.replicate 128 true }] (entries line d) []
      let x := s.home ((homeOf line).getD 0)
      (cohFind s fun m => msgFrom e.1 line e.2 m && m.txn == 255).isSome = true ∧ x.busy line = false ∧ x.lineQ = [] ∧ x.setQ = [] ∧
      s.badLine (128 * line) = false ∧ x.entry line = d ∧ (x.ways ((homeOf line).getD 0) line).length < 16) ∧
    (let x : Home := { entries lastFast none with txns := [(lastFast, txn5 1 id)] }
     x.busy lastFast = true ∧ x.snpsOut 11 < 64) ∧
    (let x : Home := { txns := (List.range 64).map fun k => (k, txn5 1 id), snpQ := [{ op := 0x13, line := 0, dst := 4 }] }
     64 ≤ x.snpsOut 11 ∧ x.snpsOut 4 = 0 ∧ x.busy lastFast = false ∧ (x.snpQ.find? fun q => q.dst == 4).isSome = true) := by decide +kernel

/-- 64 requests of a cache on their way leave it no credit of the home. -/
theorem test_meets_no_credit :
    let s := coherent ((List.range 64).map fun k => { op := 1, line := 0, txn := k, req := 11, dst := 19, src := 11 }) {} []
    hasReqCredit s 11 3 = false ∧ hasReqCredit s 10 3 = true ∧ (txnsOut s 12 3).length < 62 ∧ s.coh.ioWait = [] := by decide +kernel

theorem test_meets_queued :
    (let x : Home := { entries lastFast (some (.EM 5)) with lineQ := [(lastFast, { op := 1, req := 11, txn := 255 })] }
     homeOf lastFast = some 3 ∧ x.busy lastFast = false ∧ x.setQ = [] ∧ (x.lineQ.find? fun p => p.1 == lastFast).isSome = true ∧
     (x.entry lastFast).isSome = true) ∧
    (let others := (List.range 16).map fun k => (2 ^ 16 * (k + 1) + (k + 1), (⟨.EM 5, 0⟩ : DirEntry))
     let x : Home := { dir := others, txns := others.map (fun p => (p.1, txn5 1 id)), lineQ := [(0, { op := 1, req := 11, txn := 255 })] }
     homeOf 0 = some 0 ∧ x.busy 0 = false ∧ x.canStart 0 0 1 = false) ∧
    (let x : Home := { setQ := [(lastFast, { op := 1, req := 11, txn := 255 })] }
     16 ≤ 19 ∧ (x.setQ.find? fun p => Machine.setOf 3 p.1 == Machine.setOf 3 lastFast).isSome = true ∧ x.busy lastFast = false ∧ (x.ways 3 lastFast).length < 16) := by
  decide +kernel

theorem test_meets_caches :
    (∀ st ∈ [CState.I, .S, .SM, .E, .M, .WBP], ∀ op ∈ [0x11, 0x12, 0x13, 0x14],
      let s := coherent [{ op := op, line := lastFast, req := 5, dst := 11, src := 19 }] {} [(11, [(lastFast, { st := st })])]
      (s.cline 11 lastFast).st = st ∧ (cohFind s (msgTo op lastFast 11)).isSome = true) ∧
    (∀ e ∈ [(0x31, CState.IS), (0x32, .IS), (0x33, .IM), (0x29, .SM), (0x2B, .WBP)], ∀ k ∈ [none, some (0, [1]), some (127, [1])],
      let s := coherent [{ op := e.1, line := lastFast, req := 11, dst := 11, src := 19 }] {} [(11, [(lastFast, { st := e.2, store := k })])]
      (s.cline 11 lastFast).st = e.2 ∧ (s.cline 11 lastFast).store = k ∧ (cohFind s (msgTo e.1 lastFast 11)).isSome = true ∧
      ∀ q ∈ s.coh.edge, q.done = true ∨ 8 + q.die ≠ 11) ∧
    (let q : EdgeAsk := { die := 3, who := .data 3, kind := .read, addr := 128 * lastFast }
     let s := coherent [{ op := 0x31, line := lastFast, req := 11, dst := 11, src := 19 }] {} [(11, [(lastFast, { st := .IS })])]
     let s := { s with coh := { s.coh with edge := [q], ioSent := [(3, 0, 9)] } };
     s.coh.edge = [q] ∧ q.done = false ∧ 8 + q.die = 11 ∧ q.data = [] ∧ (s.cline 11 lastFast).store = none ∧ ioKey s lastFast 0 = some 9 ∧
     (cohFind s (msgTo 0x31 lastFast 11)).isSome = true) ∧
    (∀ op ∈ [0x29, 0x35], (cohFind (coherent [{ op := op, line := lastFast, req := 12, dst := 12, src := 19 }] {} []) (msgTo op lastFast 12)).isSome = true) ∧
    (∀ st ∈ [CState.E, .M], let s := coherent [] {} [(11, [(lastFast, { st := st })])]
      hasWbCredit s 11 lastFast = true ∧ (s.cline 11 lastFast).st = st) := by decide +kernel

/-- Harts 0 and 95 run; the slice of the last fast line holds it in a state. -/
def harted (st : CState) : State :=
  let s := coherent [] {} [(sliceOf lastFast, [(lastFast, { st := st, data := List.replicate 128 1 })])]
  { s with host := { run0 := 1, run1 := 2 ^ 31 }, boot := { s.boot with bootRam := false } }

theorem test_meets_harts :
    (∀ st ∈ [CState.I, .S, .E, .M], let s := harted st
      let addr := 128 * lastFast + 120
      bitOf s.host.run0.toNat 0 = true ∧ bitOf s.host.run1.toNat (95 - 64) = true ∧ inTier addr 1 = true ∧ s.boot.bootRam = false ∧
      homeOf (addr / 128) = some 3 ∧ s.dieUp 4 = true ∧ addr % 128 + 8 ≤ 128 ∧ (s.cline (sliceOf lastFast) (addr / 128)).st = st ∧
      (s.cline (sliceOf lastFast) (addr / 128)).poison = false ∧ hasReqCredit s (sliceOf lastFast) 3 = true ∧
      (tget [] s.coh.caches (sliceOf lastFast)).length < cacheLines (sliceOf lastFast)) ∧
    placeOf 0x090_0000_0000 = .unmapped := by decide +kernel

theorem test_meets_responses :
    (∀ op ∈ [0x21, 0x22, 0x23, 0x24, 0x25, 0x26, 0x27, 0x28], ∀ w ∈ [[11], [11, 4]],
      let h : Home := { entries lastFast (some (.EM 11)) with txns := [(lastFast, txn5 2 fun t => { t with awaiting := w })] }
      let s := coherent [{ op := op, line := lastFast, req := 5, dst := 19, src := 11 }] h []
      (cohFind s (msgFrom op lastFast 11)).isSome = true ∧
      ((s.home 3).txns.find? fun p => p.1 == lastFast) = some (lastFast, txn5 2 fun t => { t with awaiting := w }) ∧
      s.badLine (128 * lastFast) = false) ∧
    (let t := txn5 2 id
     t.effectDue = true ∧ t.waitWay = false ∧ t.awaiting = [11] ∧ t.dataDue = [] ∧ t.acked = false ∧ t.backInv = false ∧ t.req.op ≤ 3 ∧
     t.dataGot = [] ∧ t.give = some 0x33) ∧
    (cohFind (coherent [{ op := 0x34, line := lastFast, src := 11, data := List.replicate 128 1 }] {} []) (msgFrom 0x34 lastFast 11)).isSome = true := by
  decide +kernel

theorem test_meets_endings :
    (let h : Home := { entries lastFast (some (.EM 5)) with txns := [(lastFast, txn5 2 fun t => { t with effectDue := false, awaiting := [] })] }
     let s := coherent [{ op := 0x2A, line := lastFast, dst := 19, src := 5 }] h []
     (cohFind s (msgFrom 0x2A lastFast 5)).isSome = true ∧ (s.home 3).txns.length = 1 ∧ (s.home 3).heldWbs.isEmpty = true ∧ (s.home 3).purgeLeft = [] ∧
     s.coh.ioWait = []) ∧
    (∀ op ∈ [0x41, 0x42], ∀ o ∈ [5, 11],
      let s := coherent [{ op := op, line := lastFast, src := 11, data := List.replicate 128 1 }] (entries lastFast (some (.EM o))) []
      (cohFind s (msgFrom op lastFast 11)).isSome = true ∧ (s.home 3).busy lastFast = false ∧ (s.home 3).entry lastFast = some (.EM o)) ∧
    (let s := { coherent [] { txns := [(lastFast, txn5 2 id)] } [] with time := { span := 8_000_000 } };
     (s.home 3).txns.all (fun p => decide (p.2.since + 8_000_000 ≤ s.time.span) && !p.2.awaiting.isEmpty) = true) ∧
    (let v := 2 ^ 62 + 1
     let h : Home := { entries lastFast (some (.EM 5)) with purgeBase := lastFast }
     bitOf v 62 = true ∧ bitsOf v 0 32 = 1 ∧ homeHolds 3 h.purgeBase 1 = true ∧ h.busy h.purgeBase = false ∧ h.purgeBusy = false ∧
     h.dir.map Prod.fst = [h.purgeBase] ∧ h.entry h.purgeBase = some (.EM 5) ∧ homeHolds 7 h.purgeBase 1 = false ∧
     h.snpsOut 5 < 64 ∧ { h with purgeBusy := true, purgeSig := true }.purgeLeft = [] ∧ 5 + walkCycles 3 ≤ 43_696 ∧ 5 + walkCycles 4 ≤ 21_851) := by decide +kernel
/-! ### Witnesses: window and queues -/

/-- Hart 95's buffer 3 holds bytes of a line, or of none, and memory and tile 47 as they stand. -/
def windowed (line : Nat) (mask : List Bool) (used : Bool) : State :=
  let b : WcBuf := { line := line, data := List.replicate 128 0, mask := mask, used := used }
  let i : Image := { img0 with bind := [⟨47, 31, 0, 0x100⟩] }
  { busy with wins := [(95, { bufs := [(3, b)] })], img := { inForce := some i }, tiles := [(47, { windows := [(31, some 8)] })] }

theorem test_meets_window :
    windowDie 0xC00_0000_0000 = some 1 ∧ windowDie 0xC89_7FFF_FFFF = some 4 ∧ windowDie 0xCC0_2FF8_0000 = some 4 ∧
    placeOf 0xCC0_2FF8_0000 = .winPad 47 31 0 ∧ { up with boot := { up.boot with dieMask := 7 } }.dieUp 4 = false ∧
    (let s := windowed (0xC00_0000_0000 / 128) (List.replicate 128 false) true
     let w := s.hartWin 95
     s.dieUp 1 = true ∧ (w.bufs.find? fun p => p.2.used && p.2.line == 0xC00_0000_0000 / 128).isSome = true ∧
     w.bufs.all (fun p => !(p.2.put 0 [1, 2]).mask.all id && !(p.2.put 120 [1]).mask.all id) = true ∧
     placeOf (128 * (0xC00_0000_0000 / 128)) = .winFast 0 0) ∧
    (let s := windowed (0xCC0_2FF8_0000 / 128) (List.replicate 128 true) true
     s.image.bound 47 31 8 = true ∧ tget none (s.tile 47).windows 31 = some 8 ∧ placeOf (128 * (0xCC0_2FF8_0000 / 128)) = .winPad 47 31 0) ∧
    (let s := windowed 0 [] false
     usedBuffers (s.hartWin 95) = [] ∧ (s.hartWin 94).bufs = [] ∧ windowDurable s 95 (fun _ => true) = true ∧
     s.badLine (behind 0xC00_0000_0000) = false ∧ (windowBankFault s 47 30).isSome = true ∧ placeOf 0xCC0_2FF0_0000 = .winPad 47 30 0) := by
  decide +kernel

/-- The 256 bytes of a slot with no payload, with its check. -/
def slotBytes (seq op arg0 arg1 : Nat) : List Byte :=
  let head := leBytes 6 (op + seq * 2 ^ 32)
  let tail := leBytes 8 5 ++ leBytes 8 arg0 ++ leBytes 8 arg1
  head ++ leBytes 2 (crc16 (head ++ [0, 0] ++ tail)) ++ tail ++ List.replicate 224 0

/-- Queue 63, with memory that begins with some bytes. -/
def queued (x : Queue) (bs : List Byte) : State := { busy with queues := [(63, x)], mem := memWrites [] 0 bs }

theorem test_meets_queues :
    (let v := 2 ^ 63 + 11 * 2 ^ 48
     bitOf v 63 = true ∧ ((queued {} []).queue 63).enable = false) ∧
    (let x := (queued { enable := true, size := 11, troupes := 1, state := 3 } []).queue 63
     let v := 11 * 2 ^ 48 + 1
     bitOf v 63 = false ∧ x.enable = true ∧ bitsOf v 48 4 = x.size ∧ bitOf v 61 = x.view ∧ bitsOf v 0 16 = x.troupes ∧ x.state = 3 ∧
     bitOf (v + 2 ^ 63 + 2 ^ 62) 62 = true ∧ x.base + 256 * x.slots ≤ 0x090_0000_0000) ∧
    (let x : Queue := { enable := true, doorbell := 5, head := 5 }
     x.slots = 16 ∧ (∀ d ∈ [6, 21], 0 < (d + 2 ^ 32 - 5) % 2 ^ 32 ∧ (d + 2 ^ 32 - 5) % 2 ^ 32 ≤ x.slots) ∧
     (5 + 2 ^ 32 - 5) % 2 ^ 32 = 0 ∧ x.slots < (22 + 2 ^ 32 - 5) % 2 ^ 32 ∧ 2 ^ 31 ≤ (4 + 2 ^ 32 - 5) % 2 ^ 32) := by decide +kernel

set_option maxRecDepth 100000 in
theorem test_meets_slot_reads :
    ∀ e ∈ [(1, 0, true), (1, 0, false), (2, 6, true), (2, 6, false), (2, 7, false)],
      let s := queued { enable := true, view := true, state := e.1, tries := e.2.1, doorbell := 1 } (if e.2.2 then slotBytes 0 1 0 0 else [1])
      let x := s.queue 63
      x.fetched.isNone = true ∧ x.head ≠ x.doorbell ∧ x.base + 256 * x.slots ≤ 0x090_0000_0000 ∧ s.badLine (x.slotAddr x.head) = false ∧
      s.badLine (x.slotAddr x.head + 128) = false ∧ slotPasses x.head (s.bytes (x.slotAddr x.head) 256) = e.2.2 ∧ x.state = e.1 ∧ x.tries = e.2.1 ∧
      x.rereadAt = none := by
  decide +kernel

theorem test_meets_rereads : ∀ v ∈ [true, false],
    let s := queued { enable := true, view := v, state := 2, tries := 7, doorbell := 1, rereadAt := some 4000 } []
    let x := s.queue 63
    x.rereadAt = some 4000 ∧ s.time.span < 4000 ∧ ({ s with time := { span := 4000 } } : State).time.span = 4000 ∧ x.reading = [] ∧
    x.fetched.isNone = true ∧ x.head ≠ x.doorbell ∧ x.base + 256 * x.slots ≤ 0x090_0000_0000 ∧ s.asks (fun w => w == .slot 63) = false := by
  decide +kernel

theorem test_meets_completions :
    let x : Queue := { records := [⟨1, 0, 1, 5, 0, true, 0⟩], cplWr := 15, msisReady := 1, msiAddr := 0x800_0084_0000, msiEiid := 2047 }
    x.records.length = 1 ∧ x.ringFull = false ∧ inTier (x.cplBase + 32 * (x.cplWr % x.ringSize)) 32 = true ∧ 0 < x.msisReady ∧
    1 ≤ x.msiEiid ∧ x.msiEiid ≤ 2047 ∧ { x with cplWr := 16 }.ringFull = true := by decide +kernel

/-- Queue 63 holds a fetched command. -/
def fetched (c : Slot) (bs : List Byte) : State := queued { enable := true, state := 1, troupes := 1, fetched := some c } bs

theorem test_meets_commands :
    (let s := fetched { opcode := 1 } []
     let x := s.queue 63
     x.enable = true ∧ x.state ≠ 3 ∧ x.ringFull = false ∧ x.fetched = some { opcode := 1 } ∧ x.started.isEmpty = true ∧
     ({ opcode := 1 } : Slot).headerOk 0 0 = true ∧ opcodeKnown 0 = false ∧ opcodeKnown 6 = false ∧ opcodeKnown 0x14 = false) ∧
    (let c : Slot := { opcode := 2, payloadLen := 1, arg0 := 0x08F_FFFF_FFFE, payload := [9] }
     c.headerOk 1 224 = true ∧ inTier c.arg0 c.payloadLen = true ∧ c.payload.length = c.payloadLen ∧ c.arg0 % 128 + c.payloadLen < 128 ∧
     inTier 0x090_0000_0000 1 = false) ∧
    (let s := fetched { opcode := 5, arg0 := 16383, arg1 := 2 ^ 32 - 1 } []
     s.image.tokenTroupe 16383 = some 0 ∧ mayName s 63 0 = true ∧ up.image.tokenTroupe 0 = none) ∧
    (∀ op ∈ [3, 4], ({ opcode := op } : Slot).headerOk 0 0 = true) := by decide +kernel

/-- A scene image of one segment: 16 bytes into tile 47's descriptor table. -/
def sceneBytes : List Byte :=
  leBytes 8 (0x5343_454E + 1 * 2 ^ 32 + 1 * 2 ^ 48) ++ List.replicate 56 0 ++
  leBytes 8 (47 + 1 * 2 ^ 8) ++ leBytes 8 0x80 ++ leBytes 16 16 ++ List.replicate 32 0 ++ List.replicate 16 7

/-- Every domain of every die runs on the root. -/
def rooted (s : State) : State := { s with clk := { dies := (List.range 9).map fun d => (d, { onRoot := List.range 8 }) } }

theorem test_meets_scenes :
    (let s := queued {} sceneBytes
     (sceneImage s 0 0).isSome = true ∧ (sceneImage s 0 0).all (fun gs => gs == [⟨47, 1, 0, 0x80, 16⟩]) = true ∧
     (sceneImage s 128 0).isNone = true ∧ quiescentTroupe s 0 = false ∧ (s.fence 47).fenced = false ∧ 0 % 128 = 0 ∧ inTier 0 64 = true) ∧
    (let c : Slot := { opcode := 4, payloadLen := 2, arg0 := 9 * 2 ^ 32, payload := [0, 0] }
     let held := { small { state := 1 } {} with queues := [(63, { enable := true, state := 1, troupes := 1, fetched := some c })] };
     let s := rooted { held with troupes := [] }
     sceneStatus s 63 c = 0 ∧ sceneHeld held 0 (isCommitScene held (sceneEntries held 0 c)) = true ∧
     sceneHeld s 0 (isCommitScene s (sceneEntries s 0 c)) = false ∧ (∀ u ∈ s.image.units 0, (s.fence u).fenced = false) ∧
     ∃ u ∈ s.image.units 0, ({ s with fences := [(0, { fenced := true })] }.fence u).fenced = true) := by decide +kernel

/-- A data job's descriptor: gather of 32 rows of 4 bytes, or layout of 32 elements of 4 bytes. -/
def gatherJob : List Byte := leBytes 16 (2 + 0xFFFF * 2 ^ 32 + 0xFFFF * 2 ^ 48) ++ leBytes 8 0x180_0000_0000 ++ leBytes 8 0x180_0000_0100 ++
  leBytes 8 0 ++ leBytes 8 0x180_0000_0200 ++ leBytes 8 (32 + 4 * 2 ^ 32) ++ leBytes 8 (2 + 4 * 2 ^ 32)
def layoutJob : List Byte := leBytes 16 (4 + 2 * 2 ^ 16 + 0xFFFF * 2 ^ 32 + 0xFFFF * 2 ^ 48) ++ leBytes 8 0x180_0000_0000 ++ leBytes 8 0x180_0000_0100 ++
  leBytes 8 0 ++ leBytes 8 (1 + 32 * 2 ^ 32) ++ leBytes 8 (128 + 128 * 2 ^ 32) ++ leBytes 8 1
def decompJob : List Byte := leBytes 16 (1 + 0xFFFF * 2 ^ 32 + 0xFFFF * 2 ^ 48) ++ leBytes 8 0x180_0000_0000 ++ leBytes 8 0x180_0000_0100 ++
  leBytes 8 0 ++ leBytes 8 5 ++ leBytes 8 128 ++ leBytes 8 0

/-- Data engine e scheduled on a job, its lines in slots, or free with one in its list. -/
def datTile (e : Nat) (desc : List Byte) (sched : Bool) : State :=
  let x : DatEngine := { state := if sched then 1 else 0, ring := (desc.zipIdx.map fun p => (p.2, p.1)), queue := [{ desc := desc, queue := 63, number := 4 }] }
  let slots : List TimetableRec := (List.range 8).map fun n => ⟨13, n, 2, [owPort (52 + e) 0, owPort (52 + e) 1]⟩
  let i : Image := { troupes := if sched then img0.troupes else [], memtt := slots }
  { up with img := { inForce := some i }, dats := [(e, x)], queues := [(63, { started := [{ number := 4, opcode := 0x11, seq := 1, flags := 0, tag := 5 }] })] }

theorem test_meets_data : ∀ e ∈ [(11, decompJob, 1), (7, gatherJob, 2), (4, leBytes 1 3 ++ gatherJob.drop 1, 3), (3, layoutJob, 4)],
    (let s := datTile e.1 e.2.1 true
     let j := (s.dat e.1).cur
     datScheduled s e.1 = true ∧ j.op = e.2.2 ∧ j.fieldsOk = true ∧ j.waitCh = 0xFFFF ∧ j.addressOk s.image (s.image.unitTroupe (52 + e.1)) = true ∧
     (e.2.2 ≠ 3 → j.aligned = true) ∧ j.pitchOk = true ∧ (j.touched s.bytes ++ j.written s.bytes).all (fun a => (padBreach s a).isNone) = true ∧
     (j.touched s.bytes).all (fun a => (noSlotLine s.image (52 + e.1) 0 a).isNone) = true ∧ (j.written s.bytes).all (fun a => (noSlotLine s.image (52 + e.1) 1 a).isNone) = true) ∧
    (let s := datTile e.1 e.2.1 false
     datScheduled s e.1 = false ∧ (s.dat e.1).queue = [{ desc := e.2.1, queue := 63, number := 4 }] ∧ (datDesc e.2.1).op = e.2.2 ∧ (datDesc e.2.1).status = 0 ∧
     (s.dat e.1).asked = false ∧ s.edgeOpen (.data e.1) = false ∧ s.edgeBad (.data e.1) = false ∧ (s.dat e.1).tabled = false ∧ ((s.queue 63).started.find? fun c => c.number == 4).isSome = true) := by
  decide +kernel

/-- A scheduled SCATTER of one row of 128 bytes. -/
def scatterJob : List Byte := leBytes 16 (3 + 0xFFFF * 2 ^ 32 + 0xFFFF * 2 ^ 48) ++ leBytes 8 0x180_0000_0000 ++ leBytes 8 0x180_0000_0080 ++
  leBytes 8 0 ++ leBytes 8 0x180_0000_0100 ++ leBytes 8 (1 + 128 * 2 ^ 32) ++ leBytes 8 (2 + 128 * 2 ^ 32)

theorem test_meets_data_ends :
    (let s := datTile 4 scatterJob true
     let j := (s.dat 4).cur
     j.op = 3 ∧ j.fieldsOk = true ∧ j.aligned = true ∧ j.addressOk s.image (some 0) = true ∧
     (j.touched s.bytes).all (fun a => (noSlotLine s.image 56 0 a).isNone) = true ∧ (j.written s.bytes).all (fun a => (noSlotLine s.image 56 1 a).isNone) = true) ∧
    (∀ e ∈ [0, 11], let s := datTile e [0x0F] true
      (s.dat e).cur.op = 0x0F ∧ s.image.unitTroupe (52 + e) = some 0) ∧
    (let c : Slot := { opcode := 0x11, payloadLen := 64, arg0 := 3, payload := gatherJob }
     datStatus up c = 0 ∧ datStatus up { c with arg1 := 1 } ≠ 0 ∧
     datStatus up { c with opcode := 0x13, payload := layoutJob } = 0 ∧ datStatus up { c with opcode := 0x10, payload := decompJob } = 0 ∧
     datStatus up { c with opcode := 0x12, payload := scatterJob } = 0) := by decide +kernel

/-- A stream's parameters: pictures of 16 × 16 of a decode or an encode, in frame buffers 4094 and 4095. -/
def streamBytes (encodes cls : Nat) : List Byte :=
  leBytes 8 (1 + encodes * 2 ^ 8 + 1 * 2 ^ 16 + 183 * 2 ^ 24 + cls * 2 ^ 32 + 8 * 2 ^ 40 + 1 * 2 ^ 48) ++
  leBytes 8 (16 + 16 * 2 ^ 16 + 4094 * 2 ^ 32 + 2 * 2 ^ 48) ++ leBytes 8 0 ++ leBytes 8 (1 * 2 ^ 24 + 1 * 2 ^ 32 + 4 * 2 ^ 48) ++ List.replicate 96 0

def decodeJob : List Byte := leBytes 8 0 ++ leBytes 8 (1 * 2 ^ 32) ++ List.replicate 48 0

/-- Stream 511 of codec 0, decode job 4 of class 3 and encode job 5. -/
def codecs (f : Codec → Codec) : State :=
  let x : Codec := { streams := [(511, { state := 1, params := streamBytes 0 3 })], running := [(0, some 7), (1, some 7)] }
  { up with codecs := [(0, f x)] }

theorem test_meets_codec :
    (let c : Slot := { opcode := 0x18, payloadLen := 128, arg0 := 511 * 2 ^ 16, payload := streamBytes 0 3 }
     openStatus up c = 0 ∧ openStatus up { c with payload := streamBytes 1 0 } = 0 ∧ openStatus (codecs id) c ≠ 0 ∧ vcdDie c = 0 ∧ vcdStream c = 511) ∧
    (let c : Slot := { opcode := 0x19, payloadLen := 64, arg0 := 511 * 2 ^ 16, payload := decodeJob }
     let s := codecs id
     jobStatus s c 0 = 0 ∧ jobStatus s c 2 = 0 ∧ jobStatus s c 1 ≠ 0 ∧
     jobStatus (codecs fun x => { x with streams := [(511, { state := 1, params := streamBytes 1 0 })] }) { c with payload := List.replicate 64 0 } 1 = 0 ∧
     ((s.codec 0).running? 0).isSome = true ∧ ((s.codec 0).running? 1).isSome = true ∧ (s.codec 0).jobs.length < 1024 ∧
     vcdArgsOk { c with payloadLen := 0 } 0 = true ∧ ((s.codec 0).stream 511).state = 1) ∧
    (let j : CodecJob := { stream := 511, kind := 0, desc := [], queue := 63, number := 4, order := 7, early := some 0 }
     let k : CodecJob := { stream := 0, kind := 0, desc := [], queue := 63, number := 5, order := 8 }
     let x := (codecs fun x => { x with jobs := [j, k] }).codec 0
     x.running? 0 = some 7 ∧ (x.jobs.find? fun j => j.order == 7) = some j ∧ x.classOf j = 3 ∧ x.classOf k = 0 ∧ k.pipe = 0 ∧ x.eligible k = true ∧
     (x.buf 4095).owned = false) := by decide +kernel
/-! ### Witnesses: tables, clocks, adapters and boot -/

/-- Tag entry e, with an image in which vote object 9 belongs to a running troupe. -/
def tagged (e : Nat) (x : TagEntry) : State := { routed 0xFF id with tag := { tags := [(e, x)] } }

theorem test_meets_tags : ∀ e ∈ [1, 4095],
    (let s := tagged e { valid := true, vote := 9, parts := 3 }
     (s.image.route.any fun r => r.kind == 3 && r.id == (s.tagEntry e).vote &&
       (maskUnits r.tiles r.engines).any fun u => (s.image.unitTroupe u).any fun tr => (s.troupe tr).state == 1) = true) ∧
    (let s := tagged e { valid := true, vote := 8, parts := 3 }
     (s.image.route.all fun r => r.kind != 3 || r.id != (s.tagEntry e).vote) = true ∧ (s.tagEntry e).valid = true ∧
     bitsOf (8 * 2 ^ 48 + 3 * 2 ^ 32) 48 8 = 8 ∧ bitsOf (8 * 2 ^ 48 + 3 * 2 ^ 32) 32 16 = 3 ∧ s.dieUp 1 = true ∧ s.dieUp 4 = true) ∧
    ((tagged e {}).tagEntry e).valid = false ∧ bitOf (2 ^ 63) 63 = true := by decide +kernel

theorem test_meets_fatal :
    let r : ErrRec := { cls := 1, severity := 2, die := 8 }
    let s : State := { up with err := { fatalFormed := [r] } }
    s.err.fatalCopied = false ∧ (s.err.fatalFormed.find? fun r => r.die == 8) = some r ∧ bitOf 1 0 = true ∧ bitOf 2 0 = false := by
  decide +kernel

/-- Die 4's clocks, and the scene on it or none. -/
def clocked (x : ClkDie) (f : State → State) : State := f { busy with clk := { dies := [(4, x), (0, x)] } }

theorem test_meets_clocks :
    ((clocked {} id).clkDie 4).locked = false ∧ judgesByCount (clocked { locked := true } id) 4 = true ∧ judgesByCount (clocked { locked := true } id) 0 = true ∧
    (let s := clocked { locked := true, since := 1200 } fun s => { s with time := { csr := 66_736 } }
     judgesByCount s 0 = true ∧ (s.clkDie 0).since + 65536 ≤ s.time.csr ∧ (clocked { since := 1200 } id).time.csr < 1200 + 65536) ∧
    (∀ n ∈ [0, 1, 3, 4, 5, 7], n ∈ domainsOf 4) ∧ 15 ∉ domainsOf 4 ∧
    (let s := clocked { stable := true, onRoot := [0, 7], switching := [(1, true, 2), (5, false, 0)] } id
     0 ∈ (s.clkDie 4).onRoot ∧ 1 ∉ (s.clkDie 4).onRoot ∧ (s.clkDie 4).stable = true ∧ 7 ∉ [0, 1, 3, 4, 6] ∧ (s.troupe 0).state = 1 ∧
     (∃ u ∈ s.image.units 0, unitDie u = 4) ∧ ((s.clkDie 4).switching.find? fun p => p.1 == 1 && decide (p.2.2 ≤ 2)) = some (1, true, 2) ∧ s.time.csr < 2 ∧
     ((s.clkDie 4).switching.find? fun p => p.1 == 5 && decide (p.2.2 ≤ s.time.csr)) = some (5, false, 0)) ∧
    ((clocked { onRoot := [0] } fun s => { s with troupes := [] }).troupe 0).state = 0 := by decide +kernel

/-- Region 1023, of 4096 bytes at the end of the fast tier. -/
def regioned (f : Region → Region) : State :=
  { busy with plc := { regions := [(1023, f { base := 0x08F_FFFF_F000, length := 4096, unit := 8, rd := true, wr := true, view := true, troupes := 1 })] } }

theorem test_meets_regions :
    (let s := regioned id
     let v := 2 ^ 63 + 0x08F_FFFF_F000
     (s.region 1023).valid = false ∧ bitOf v 63 = true ∧ regionOk s 1023 ((s.region 1023).withBase v) = true ∧
     regionOk s 1023 ((s.region 1023).withBase (2 ^ 63 + 0x090_0000_0000)) = false) ∧
    (let s := regioned fun x => { x with valid := true }
     let v := 7 * 2 ^ 60 - 2 ^ 62 + 2 ^ 62 + 0x08F_FFFF_F000
     (s.region 1023).valid = true ∧ bitOf v 63 = false ∧ (s.region 1023).withBase v = s.region 1023) ∧
    (∀ a ∈ [0, 2 ^ 32 - 1], let s := regioned fun x => { x with inflight := [⟨0, 9, [], 0⟩], arrivals := a, residue := 7 }
     (s.region 1023).inflight = [⟨0, 9, [], 0⟩] ∧ (s.region 1023).unit ≠ 0 ∧ bitOf (s.region 1023).troupes 0 = true ∧ (s.troupe 0).state = 1 ∧
     (a = 0 → a + (7 + 9) / 8 < 2 ^ 32) ∧ (a ≠ 0 → 2 ^ 32 ≤ a + (7 + 9) / 8)) ∧
    (let s := regioned fun x => { x with valid := true, pasidEn := true, pasid := 5, ridMask := 0xFFFF, rid := 9 }
     let a := 0x08F_FFFF_FFF8
     interruptPage a = false ∧ (peerPort a).isNone = true ∧ s.boot.lantern = false ∧ regionAt s a = some 1023 ∧
     (placeRefusal (s.region 1023) 9 (some 5) a 8 true).isNone = true ∧ (placeRefusal (s.region 1023) 9 (some 5) a 8 false).isNone = true ∧
     (List.range 8).all (fun i => !s.badLine (a + i)) = true ∧ placeRefusal (s.region 1023) 9 (some 5) a 9 false = some 4 ∧
     placeRefusal (s.region 1023) 9 none a 8 false = some 3 ∧ placeRefusal (s.region 1023) 8 (some 5) a 8 false = some 2 ∧
     (regionAt s 0x08F_FFFF_EFFF).isNone = true ∧ (regionAt s 0x090_0000_0000).isNone = true) := by decide +kernel

theorem test_meets_host :
    (1 ≤ (2047 : W32).toNat ∧ (2047 : W32).toNat ≤ 2047) ∧
    hartRuns up 95 = false ∧ hartRuns up 0 = true ∧ hartRuns { up with host := { run1 := 2 ^ 31 } } 95 = true ∧ up.boot.lantern = false ∧
    { up with boot := { up.boot with lantern := true } }.boot.lantern = true := by decide +kernel

theorem test_meets_peer : (peerPort 0xD00_1000_0000 = some 0 ∧ peerPort 0xD3F_FFFF_FFFF = some 3 ∧ (peerPort 0xD30_0FFF_FFFF).isNone = true) ∧ bitOf ({ up with plc := { peer := 1 } } : State).plc.peer 0 = true := by
  decide +kernel

/-- The image block in a state of its operations. -/
def imaging (op : ImageOp) (f : ImageState → ImageState) : State := rooted { busy with img := f { op := op, inForce := some img0 } }

theorem test_meets_images :
    (∀ op ∈ [ImageOp.checkingFull, .checkingPartial, .voting], (imaging op id).img.op ≠ .idle) ∧ up.img.op = .idle ∧
    (checkImage (imaging .checkingFull id) 0 1 true).isSome = true ∧ (checkImage (imaging .checkingPartial id) 0 2 false).isSome = true ∧
    (let s := imaging .switching fun x => { x with next := some img0 }
     s.img.next = some img0 ∧ bypassHold s = false ∧ freeJobRuns s img0 = false) ∧
    (∀ g ∈ [true, false], (imaging .voting fun x => { x with votedGo := g }).img.votedGo = g) := by
  decide +kernel

/-- Flash with one failed attempt. -/
def failedFlash : Tbl Byte := (attemptBytes 1 0 1 0 0 0xF8).zipIdx.map fun p => (p.2, p.1)

set_option maxRecDepth 100000 in
theorem test_meets_attempts :
    attempts [] = [] ∧ (attemptAt failedFlash 0).map Attempt.state = some 0xF8 ∧ erasedSlot failedFlash = some 1 := by
  decide +kernel

theorem test_meets_power :
    State.reset.boot.powerGood = false ∧ up.boot.powerGood = true ∧ up.boot.released = true ∧
    ({ up with boot := { powerGood := true } } : State).boot.released = false ∧
    (let s : State := { up with boot := { up.boot with resetDue := some .fatal, wdogArmed := true } }
     s.live = true ∧ s.boot.resetDue = some .fatal ∧ s.err.fatalCopied = false ∧ s.boot.wdogArmed = true ∧ s.time.csr < s.boot.wdogFrom + 100000 * s.boot.wdogMs ∧
     s.boot.wdogFrom + 100000 * s.boot.wdogMs ≤ 400_000_000 ∧
     ({ s with err := { fatalCopied := true } } : State).err.fatalCopied = true) ∧
    up.boot.resetDue.isNone = true ∧ up.boot.done = false ∧ up.boot.lantern = false ∧ ({ up with boot := { up.boot with done := true } } : State).boot.done = true ∧
    (∀ d ∈ List.range 8, bitOf ({ up with boot := { up.boot with dieMask := 0x0F } } : State).boot.dieMask d = true → bitOf 0x8F d = true) := by decide +kernel

theorem test_meets_flash :
    (∀ op ∈ [1, 2, 3], let s : State := { up with boot := { up.boot with flashBusy := true, flashOp := op, flashAddr := 0x1_0000 } }
     s.boot.flashBusy = true ∧ s.boot.flashOp = op ∧ 0x1_0000 ≤ s.boot.flashAddr) ∧ up.boot.flashBusy = false ∧ up.boot.flashAddr < 0x1_0000 ∧
    (bundleCheck up 0 [1, 2] = 1 ∧ up.sec.quoteBusy = false ∧ inTier up.sec.quoteAddr 8052 = true ∧ up.sec.quoteAddr % 128 = 0 ∧
     homeOf (up.sec.quoteAddr / 128) = some 0 ∧ up.dieUp 1 = true ∧ inTier (0x090_0000_0000 - 8051) 8052 = false) ∧
    (bitOf (16 + 8) 4 = true ∧ bitsOf (16 + 8) 0 4 = 8 ∧ bitsOf (16 + 7) 0 4 = 7 ∧ bitOf 15 4 = false) := by decide +kernel

theorem test_meets_registers :
    placeOf 0x800_5000_0008 = .regs 5 8 ∧ interruptPage 0x800_5000_0008 = false ∧ ({ up with boot := { up.boot with dieMask := 0xF } } : State).dieUp 5 = false ∧
    up.dieUp 5 = true ∧ (0x800_5000_0008 + 4) % 8 ≠ 0 ∧ (registerAt 8 0xFFF_FFF8 up).isNone = true ∧ (registerAt 0 0x70_7E00 up).isSome = true ∧
    (RegField.ro 0 8 5).acc ≠ .w1c := by decide +kernel

/-- Shard i of Grotto 3 and board entry n, and the units' troupe at work or not. -/
def tabled (i n : Nat) (sh : Shard) (b : BoardEntry) (st : Nat) : State :=
  let flows : List FlowRec := [⟨6, 1, 7, 8, 0, 4, 4, 1, 0, 0⟩]
  { imaged (fun i => { i with flow := flows }) busy with
    grots := [(3, { shards := [(i, sh)] })], tag := { board := [(n, b)] }, troupes := [(0, { state := st })] }

theorem test_meets_tables :
    (let s := tabled 4095 1023 { valid := true, gen := 5 } { valid := true, key := 4, flow := 7 } 2
     s.image.unitTroupe 67 = some 0 ∧ (s.troupe 0).state = 2 ∧ (s.shard 3 4095).valid = true ∧ (s.shard 3 4095).gen = 5 ∧
     (s.image.flowRec 6).isSome = true ∧ (s.image.flowRec (s.boardEntry 1023).flow).isNone = true ∧ (s.boardEntry 1023).valid = true ∧
     (s.boardEntry 1023).key = 4 ∧ (s.shard 3 0).valid = false ∧ (s.boardEntry 0).valid = false) ∧
    ((tabled 4095 1023 {} {} 0).troupe 0).state = 0 := by decide +kernel
/-! ### Witnesses: requests in memory slots, and what a command asks -/

/-- No image stands: channel 0 of memory 0 takes slot 0 for a request of line 0, or of another line of it. -/
def requesting (q : MemReq) (f : State → State) : State := f { up with mems := [(0, { reqs := [q] })] }

/-- The premises of a request that takes the slot. -/
def taken (s : State) (q : MemReq) : Bool :=
  let w := ownerWord s 0 0 0
  s.live && decide (0 < 2 ^ chanBits 0) && decide (0 < memSlots 0) && decide (tget 0 (s.memCtl 0).nextSlot 0 ≤ s.time.ttFrames * memSlots 0) &&
    s.beginsNow (memSlotAt 0 (s.time.ttFrames * memSlots 0)) && carriesRequests w &&
    slotTaker s 0 0 w (memSlotAt 0 (s.time.ttFrames * memSlots 0)) == some q

theorem test_meets_home_slots :
    (∀ e ∈ [(1, false, [], false, 0x31), (5, true, [], false, 0x29), (6, true, List.replicate 128 true, true, 0x29)],
      let q : MemReq := { owner := 0x2000_0000, die := 1, line := 0, write := e.2.1, who := .home, mask := e.2.2.1, readDone := e.2.2.2.1 }
      let t : Txn := { req := { op := e.1, req := 11, txn := 255, data := List.replicate 128 3, mask := e.2.2.1 }, memWait := true,
                       give := some e.2.2.2.2, final := some (.EM 11) }
      let s := requesting q fun s => { s with coh := { homes := [(0, { txns := [(0, t)] })] } }
      taken s q = true ∧ homeOf q.line = some 0 ∧ q.poison = false ∧ q.data = [] ∧
      ((s.home 0).txns.find? fun p => p.1 == q.line && p.2.memWait) = some (0, t) ∧ t.acked = false ∧ effEcc s 0 {} = .clean ∧
      effEcc s 0 { symbols := 1 } = .corrected) ∧
    (let q : MemReq := { owner := 0x2000_0000, die := 1, line := 0, write := true, who := .writeBack 11 0, data := List.replicate 128 3 }
     taken (requesting q id) q = true) ∧
    (let t := txn5 2 fun t => { t with awaiting := [11] }
     t.memWait = false ∧ t.req.op ≤ 3 ∧ t.give = some 0x33 ∧ (0x33 : Nat) ≠ 0x29 ∧ writesWait up lastFast 1 = false) ∧
    (∀ st ∈ [CState.I, .S], (tget [] (harted st).coh.caches (sliceOf lastFast)).length < cacheLines (sliceOf lastFast)) := by
  decide +kernel

theorem test_meets_read_slots :
    (let q : MemReq := { owner := 0x2000_0001, die := 0, line := 0, write := false, who := .windowRead 95 0xC00_0000_0000 8 }
     let s := requesting q id
     taken s q = true ∧ q.line = behind 0xC00_0000_0000 / 128 ∧ effEcc s (128 * q.line) {} ≠ .miscorrected) ∧
    (let q : MemReq := { owner := 0x2000_0003, die := 0, line := 0, write := false, who := .placementRead 1023 0 8 }
     let s := requesting q id
     taken s q = true ∧ effEcc s (128 * q.line) { symbols := 2 } ≠ .miscorrected ∧
     (s.modMem 0 fun c => { c with reqs := c.reqs.erase q }).asks (fun u => u == .placementRead 1023 0 8) = false) ∧
    (∀ d ∈ [1, 4], windowCarried busy d = true) ∧ busy.asks (fun u => u == .windowRead 95 0xC00_0000_0000 8) = false ∧
    busy.asks (fun u => u == .slot 63) = false ∧ 0 < 8 ∧ inTier 0x08F_FFFF_FFF8 8 = true := by decide +kernel

theorem test_meets_asking :
    (∀ g ∈ [0, 3], busy.asks (fun w => w == .update g) = false ∧ busy.asks (fun w => w == .root g) = false) ∧
    (∀ a ∈ [true, false], let x := (grotto (entry 0x36 [(16, 32), (24, 1), (64, 0x280_0000_0000)]) fun x => { x with capStep := 5, asked := a, rootAsked := a }).grot 3
     x.op = 0x36 ∧ fieldAt x.cur 3 1 = 1 ∧ x.asked = a ∧ x.rootAsked = a) ∧
    (∀ e ∈ [0, 11], ∀ a ∈ [true, false], let s := { datTile e [0x0F] true with dats := [(e, { state := 1, asked := a, told := a, result := some (0, 0, 0) })] };
     s.asks (fun w => w == .dataEngine e) = false ∧ (s.dat e).asked = a ∧ (s.dat e).told = a ∧ (s.dat e).result = some (0, 0, 0) ∧
     ((datTile e [0x0F] true).dat e).result = none) ∧
    (∀ st ∈ [none, some (0, 0)],
      let j : CodecJob := { stream := 511, kind := 0, desc := [], queue := 63, number := 4, order := 7, early := some 0, result := st }
      let s := codecs fun x => { x with jobs := [j] }
      (∀ k ∈ [j, { j with ready := true }], s.edgeOpen (k.user 0) = false) ∧ ((s.codec 0).jobs.find? fun j => j.order == 7) = some j ∧ j.result = st) := by decide +kernel

theorem test_meets_marks :
    (let s := imaging .switching fun x => { x with next := some img0 }
     s.atMark = true ∧ (List.range 48).all (fun t => (img0.unitTroupe t).isSome) = true) ∧
    (let s := imaging .activating fun x => { x with staged := some img0, frame := 0 }
     s.img.frame = s.frame ∧ s.atMark = true ∧ (imaging .activating fun x => { x with frame := 1 }).img.frame ≠ s.frame) ∧
    (let i := { img0 with header := { epoch := 1, affected := 2 } }
     let s := imaging .idle fun x => { x with staged := some i }
     s.img.staged = some i ∧ i.header.epoch = s.img.changes + 1 ∧
     (List.range 16).all (fun tr => !bitOf i.header.affected tr || quiescentTroupe s tr) = true) ∧
    (let s := { imaging .idle id with str := { inSpan := true } }; s.img.op = .idle ∧ spanMember s = true) ∧
    (∀ b ∈ [33, 34], bitOf (2 ^ b) b = true) := by decide +kernel

/-- Data engine 3, free, with one job and one access at its die's edge cache. -/
def edged (q : EdgeAsk) (f : DatEngine → DatEngine) : State :=
  let s := datTile 3 layoutJob false
  { s with coh := { edge := [q] }, dats := [(3, f { state := 1, asked := true, queue := [{ desc := layoutJob, queue := 63, number := 4 }] })] }

theorem test_meets_edges :
    (let q : EdgeAsk := { die := 3, who := .data 3, kind := .read, addr := 0 }
     (edged q id).edgeOpen (.data 3) = true ∧ (edged { q with done := true } id).edgeOpen (.data 3) = false ∧
     (edged { q with done := true, poison := true } id).edgeOpen (.data 3) = false ∧
     (edged { q with done := true, poison := true } id).edgeBad (.data 3) = true ∧ (edged q id).edgeBad (.data 3) = false ∧
     (edged { q with who := .codec 0 7 } id).edgeOpen (.codec 0 7) = true ∧ (edged { q with who := .codec 0 7, poison := true } id).edgeBad (.codec 0 7) = true) ∧
    (let x : DatEngine := { queue := [{ desc := layoutJob.take 32 ++ leBytes 8 0x180_0000_0208 ++ layoutJob.drop 40, queue := 63, number := 4, refused := true }] }
     (x.queue.head?.filter DatJob.refused).isSome = true ∧ x.queue.all (fun f => (datDesc f.desc).status == 0x180_0000_0208 && !f.told) = true ∧
     0x180_0000_0208 % 8 = 0 ∧ (({ queue := [{ desc := layoutJob, queue := 63, number := 4 }] } : DatEngine).queue.head?.filter DatJob.refused).isNone = true) ∧
    pSave (streamBytes 0 3) % 128 = 0 := by decide +kernel

/-- A LAYOUT of one row, free: its source is asked for, comes, and its destination is put in the line that the cache then holds. -/
theorem test_free_layout :
    let line := 0x180_0000_0000 / 128
    let get := fun (r : Host.Outcome State Fault Refusal) => match r with | .next s => s | _ => up
    let s := { edged { die := 0, who := .save 0 0, kind := .read, addr := 0, done := true } (fun x => { x with asked := false }) with
      coh := { caches := [(11, [(line, { st := .E, data := List.replicate 128 7 }), (line + 2, { st := .E, data := List.replicate 128 1 })])] } }
    let t := get (exec (.datLayout 3) (get (exec (.datLayout 3) s)))
    (t.dat 3).result = some (0, 0, 128) ∧ (t.cline 11 (line + 2)).st = .M ∧ (t.cline 11 (line + 2)).data = List.replicate 128 7 ∧
    t.edgeOpen (.data 3) = false ∧ t.mem = s.mem := by decide +kernel

/-- Marks whose phase moves by 24 or 25 sixty-fourths of a root cycle over 16 frames lie inside and outside 2 ppm; a switch waits
for its edge. -/
theorem test_clock_measures :
    phaseGood 24 = true ∧ phaseGood 25 = false ∧ phaseGood (-24) = true ∧ phaseError 24 = 125 ∧
    (let x : ClkDie := { marks := true, phases := List.replicate 16 0, good := 255, markCount := 16 }
     ((x.measure 1 0 24).good = 256 ∧ (x.measure 1 0 24).stable = true) ∧ (x.measure 1 0 25).good = 0) ∧
    switchEdge 4 false = 6 ∧ switchEdge 5 false = 8 ∧ switchEdge 4 true = 6 ∧ switchEdge 5 true = 6 := by decide +kernel

/-- "hello" five times with spaces between, as another program compressed it: DEFLATE, Zstandard, and the same cut short; a window
above 8 MiB is unsupported. -/
theorem test_decompress :
    let h : List Nat := [0x68, 0x65, 0x6C, 0x6C, 0x6F]
    let text : List Byte := (h ++ [0x20] ++ h ++ [0x20] ++ h ++ [0x20] ++ h ++ [0x20] ++ h).map (BitVec.ofNat 8)
    let deflated : List Byte := leBytes 11 0x024EC0C857C9C9CD48CB
    let frame : List Byte := leBytes 21 0x114BA90001206F6C6C656830000065_1D20FD2FB528
    decompress 1 deflated = (text, 0) ∧ (decompress 1 (deflated.take 9)).2 = 0x11 ∧ decompress 0 frame = (text, 0) ∧
    (decompress 0 (frame.take 20)).2 = 0x11 ∧ decompress 0 (leBytes 8 0x184D2A51 ++ frame) = (text, 0) ∧
    decompress 0 (leBytes 6 0x7100FD2FB528) = ([], 0x14) ∧ decompress 2 deflated = ([], 0x11) := by decide +kernel

/-! ### The spec's worked examples: numbers -/

/-- A finite FP32 value of one lane. -/
def f32 (w : Nat) : Machine.Num × Bool := numOf fmFp32 w

/-- The cell step of R161 on eight E4M3 products 0x1C × 0x20 (spec/06, "Worked example: one step"). -/
def eightProducts : List (Machine.Num × Machine.Num) := List.replicate 8 ((numOf fmE4m3 0x1C).1, (numOf fmE4m3 0x20).1)

theorem test_cell_step :
    (cellStep 0x4980_0000 eightProducts 0).val = 0x4980_0000 ∧ (cellStep 0 eightProducts 0).val = 0x3DC0_0000 ∧
    (fAdd 0x4980_0000 0x3DC0_0000).val = 0x4980_0001 := by decide +kernel

/-- spec/07, "Worked example: one stored block": 1,000.0, 3.3, 0.004, 0.0009 and -0.25, then zeros. -/
theorem test_mxfp8_block :
    let b := mxBlock fmMx4m3 ([f32 0x447A_0000, f32 0x4053_3333, f32 0x3B83_126F, f32 0x3A6B_EDFA, f32 0xBE80_0000] ++ List.replicate 27 (f32 0))
    b.1 = 0x80 ∧ (b.2.take 6).map Cv.code = [0x7E, 0x3D, 0x01, 0x00, 0xA0, 0x00] ∧ (b.2.filter Cv.sat).length = 1 ∧ (b.2.filter Cv.fl).length = 1 := by
  decide +kernel

/-- The same example's gradient element, to nearest-even and with the stochastic word 0x9C41. -/
theorem test_bf16_gradient :
    (narrow fmBf16 0 false 0 (f32 0x3F80_8000) 0x3F80_8000).code = 0x3F80 ∧
    (narrow fmBf16 0 true 0x9C41 (f32 0x3F80_8000) 0x3F80_8000).code = 0x3F81 := by decide +kernel

/-- spec/08, "Worked example: bias, ReLU and drop-out": lane 7 of row 2. -/
theorem test_bias_relu : (fAdd 0x3F40_0000 0xBE80_0000).val = 0x3F00_0000 ∧ fMax (fAdd 0x3F40_0000 0xBE80_0000).val 0 = 0x3F00_0000 := by
  decide +kernel

/-- spec/01, "Worked example: one linkage batch, located". -/
theorem test_places_of_example :
    placeOf 0x054_0020_0000 = .fast 7 0x20_0000 ∧ placeOf 0xC54_0020_0000 = .winFast 7 0x20_0000 ∧ placeOf 0x800_3030_0000 = .regs 3 0x30_0000 ∧
    placeOf 0x400_1D48_0000 = .pad 29 9 0 ∧ placeOf 0xCC0_1D48_0000 = .winPad 29 9 0 ∧ placeOf 0x800_3150_0000 = .regs 3 0x150_0000 ∧
    placeOf 0x500_1000_0000 = .red 2 0 ∧ placeOf 0x180_0000_0000 = .slow 1 0 ∧ placeOf 0xD20_0000_0000 = .pcie 2 0 ∧ placeOf 0xE00_0000_0000 = .unmapped := by
  decide +kernel

end Sys2Proof.Tests
end

section
/-! SUPPORT. What a step does on an empty and on a non-empty queue. -/

namespace Sys2Proof.Machine

open Sys2Proof

variable (s : State)

theorem step_of_pending_cons (c : Instr) (rest : List Instr) (h : s.pending = c :: rest) :
    step s = exec c { s with pending := rest } := by
  simp only [step, h]

theorem step_of_pending_nil (h : s.pending = []) : step s = .next (idle s) := by
  simp only [step, h]

theorem idle_of_live (h : s.live = true) : idle s = { s with time := { s.time with
    csr := s.time.csr + 1
    span := min (s.time.span + 40) (s.time.span / 4000 * 4000 + 3999) } } := by
  simp [idle, h]

theorem idle_of_not_live (h : s.live = false) : idle s = s := by simp [idle, h]

/-- Settles O1: the front command runs on the rest of the queue, and an empty queue is one period of the reference. -/
theorem stepRunsTheFrontCommand : Obligations.StepRunsTheFrontCommand := by
  unfold Obligations.StepRunsTheFrontCommand
  refine ⟨fun c rest s h => step_of_pending_cons s c rest h, fun s h => ⟨fun hl => ?_, fun hl => ?_⟩⟩
  · rw [step_of_pending_nil s h, idle_of_live s hl]
  · rw [step_of_pending_nil s h, idle_of_not_live s hl]

end Sys2Proof.Machine
end

section
/-! SUPPORT. Register accesses, the shard table and the fetch board: one equation for each case of an access. -/

namespace Sys2Proof.Machine

open Sys2Proof

/-! ### What an access that breaks a rule leaves behind (R35) -/

/-- r is s with die's ERR_REGACC holding the access, unless it already held one, and with another reply. -/
def RegAccNoted (s : State) (die source kind addr : Nat) (r : State) : Prop :=
  (∀ d, d ≠ die → r.dieErr d = s.dieErr d) ∧
  r = { s with err := { s.err with dies := r.err.dies }, out := r.out } ∧
  ((s.dieErr die).regValid = false → ((r.dieErr die).regValid = true ∧ (r.dieErr die).regKind = kind ∧
    (r.dieErr die).regSource = source ∧ (r.dieErr die).regAddr = addr / 8 * 8))

variable (s : State)

theorem dieErr_recordRegAcc_free (die source kind addr : Nat) (h : (s.dieErr die).regValid = false) :
    (recordRegAcc die source kind addr s).dieErr die =
      { s.dieErr die with regValid := true, regSource := source, regKind := kind, regAddr := addr / 8 * 8 } := by
  simp [recordRegAcc, h]

theorem dieErr_recordRegAcc_ne (die source kind addr d : Nat) (h : d ≠ die) :
    (recordRegAcc die source kind addr s).dieErr d = s.dieErr d :=
  State.dieErr_modDieErr_ne s die _ d h

theorem regAccNoted_recordRegAcc (die source kind addr : Nat) :
    RegAccNoted s die source kind addr (recordRegAcc die source kind addr s) := by
  refine ⟨fun d h => dieErr_recordRegAcc_ne s die source kind addr d h, rfl, fun h => ?_⟩
  simp [dieErr_recordRegAcc_free s die source kind addr h]

/-- A reply changes nothing of the record. -/
theorem RegAccNoted.reply {s r : State} {die source kind addr : Nat} (h : RegAccNoted s die source kind addr r) (p : Reply) :
    RegAccNoted s die source kind addr (r.reply p) := by
  obtain ⟨hne, heq, hfree⟩ := h
  exact ⟨hne, by rw [heq]; rfl, hfree⟩

/-! ### Reads and writes of the register region (R11, R33, R423) -/

theorem registerSized_iff (addr size : Nat) : registerSized addr size = true ↔ size = 8 ∧ addr % 8 = 0 := by
  simp [registerSized]

section
variable {s} {addr die off : Nat} (hp : placeOf addr = .regs die off)
include hp

/-- A hart's access to a die in reset (R423). -/
theorem readRegister_inReset (size : Nat) (h0 : die ≠ 0) (hd : s.dieUp die = false) :
    readRegister 0 addr size s = s.reply { accessFault := true } := by
  simp [readRegister, hp, h0, hd]

theorem writeRegister_inReset (size : Nat) (v : Word) (h0 : die ≠ 0) (hd : s.dieUp die = false) :
    writeRegister 0 addr size v [] s = s.reply { accessFault := true } := by
  simp [writeRegister, hp, h0, hd]

section
variable (source : Nat) {size : Nat} (hup : ¬ (die ≠ 0 ∧ s.dieUp die = false)) (hi : interruptPage addr = false)
include hup hi

theorem readRegister_missized (hs : registerSized addr size = false) :
    readRegister source addr size s = (recordRegAcc die source 1 addr s).reply {} := by
  simp only [readRegister, hp, if_neg hup, hi, hs]; rfl

theorem readRegister_unmapped (hs : registerSized addr size = true) (hr : registerAt die off s = none) :
    readRegister source addr size s = (recordRegAcc die source 0 addr s).reply {} := by
  simp only [readRegister, hp, if_neg hup, hi, hs, hr]; rfl

theorem readRegister_mapped {g : Reg} (hs : registerSized addr size = true) (hr : registerAt die off s = some g) :
    readRegister source addr size s = (g.clear s).reply { value := BitVec.ofNat 64 g.read } := by
  simp only [readRegister, hp, if_neg hup, hi, hs, hr]; rfl

/-- A write that meets no other is recorded and does nothing else (R33). -/
theorem writeRegister_missized (v : Word) (hs : registerSized addr size = false) :
    writeRegister source addr size v [] s = recordRegAcc die source 1 addr s := by
  simp [writeRegister, otherWrites, hp, if_neg hup, hi, hs]

theorem writeRegister_unmapped (v : Word) (hs : registerSized addr size = true) (hr : registerAt die off s = none) :
    writeRegister source addr size v [] s = recordRegAcc die source 0 addr s := by
  simp [writeRegister, otherWrites, addWrite, regWrites, hp, if_neg hup, hi, hs, hr]
end
end

/-- R267: of two writes a field that is not RW1C takes the one of higher rank, else the first. -/
theorem RegField.merged_pair (f : RegField) (a b : Nat × Nat) (h : f.acc ≠ .w1c) : f.merged [a, b] =
    if f.rank (bitsOf a.2 f.lo f.n) < f.rank (bitsOf b.2 f.lo f.n) then bitsOf b.2 f.lo f.n else bitsOf a.2 f.lo f.n := by
  simp only [RegField.merged, if_neg h, RegField.winner, List.tail_cons, List.headD_cons, List.foldl_cons, List.foldl_nil]
  split <;> rfl

/-! ### The shard table (R323) -/

theorem grottoBusy_iff (g : Nat) : grottoBusy s g = true ↔
    ∃ tr, s.image.unitTroupe (64 + g) = some tr ∧ ((s.troupe tr).state = 1 ∨ (s.troupe tr).state = 2) := by
  simp [grottoBusy, updUnit, Option.any_eq_true]

theorem writeShard_busy (g i reg : Nat) (v : Word) (h : grottoBusy s g = true) :
    writeShard g i reg v s = s.modGrot g fun x => { x with reject := true } := by
  simp [writeShard, h]

theorem writeShard_refused (g i reg : Nat) (v : Word) (h : (s.shard g i).write reg v.toNat = none) :
    writeShard g i reg v s = s.modGrot g fun x => { x with reject := true } := by
  simp [writeShard, h]

theorem writeShard_taken (g i reg : Nat) (v : Word) (y : Shard) (hb : ¬ grottoBusy s g = true)
    (h : (s.shard g i).write reg v.toNat = some y) : writeShard g i reg v s = s.modShard g i fun _ => y := by
  simp [writeShard, hb, h]

section
variable (x : Shard) (w : Nat)

theorem Shard.write_generation_refused
    (h : (x.valid = true ∧ w % 2 ^ 32 ≠ x.gen) ∨ bitOf w 33 ≠ x.dirty ∨ bitOf w 34 ≠ x.initialised) : x.write 5 w = none :=
  if_pos h

theorem Shard.write_generation_taken (hv : x.valid = true → w % 2 ^ 32 = x.gen) (hd : bitOf w 33 = x.dirty)
    (hi : bitOf w 34 = x.initialised) :
    x.write 5 w = some (if bitOf w 32 = true ∧ x.valid = false then
        { x with gen := w % 2 ^ 32, valid := true, dirty := false, initialised := false, digestA := 0, digestI := 0, headDigest := 0 }
      else { x with gen := w % 2 ^ 32, valid := bitOf w 32 }) := by
  have hn : ¬ ((x.valid = true ∧ w % 2 ^ 32 ≠ x.gen) ∨ bitOf w 33 ≠ x.dirty ∨ bitOf w 34 ≠ x.initialised) := by
    rintro (⟨ht, hg⟩ | h | h)
    exacts [hg (hv ht), h hd, h hi]
  refine (if_neg hn).trans ?_
  cases bitOf w 32 <;> cases x.valid <;> rfl

theorem Shard.write_reserved (reg : Nat) (h : 6 ≤ reg) : x.write reg w = none := by
  obtain ⟨n, rfl⟩ := Nat.exists_eq_add_of_le' h
  rfl
end

/-! ### The fetch board (R364) -/

section
variable (n : Nat) (v : Word)

/-- An entry as a write of BRD_KEY (register 0) or BRD_FLOW (register 1) would leave it. -/
def BoardEntry.written (x : BoardEntry) (reg w : Nat) : BoardEntry :=
  if reg = 0 then { x with valid := bitOf w 63, key := bitsOf w 0 32 }
  else { x with tag := bitsOf w 52 12, flow := bitsOf w 32 18, lines := bitsOf w 0 32 }

/-- While a scene of the flow's troupe runs or aborts, no register of the entry takes a write. -/
theorem writeBoard_busy (reg : Nat) {f : FlowRec} (hf : s.image.flowRec (s.boardEntry n).flow = some f)
    (h : (s.troupe f.troupe).state = 1 ∨ (s.troupe f.troupe).state = 2) : writeBoard n reg v s = rejectTag s := by
  simp [writeBoard, hf, troupeBusy, h]

section
variable (hf : s.image.flowRec (s.boardEntry n).flow = none)
include hf

/-- A valid entry refuses a write that would change more than its valid bit. -/
theorem writeBoard_refused (reg : Nat) (hv : (s.boardEntry n).valid = true)
    (hy : { (s.boardEntry n).written reg v.toNat with valid := (s.boardEntry n).valid } ≠ s.boardEntry n) :
    writeBoard n reg v s = rejectTag s := by
  have hc : ((s.boardEntry n).valid &&
      decide ({ (s.boardEntry n).written reg v.toNat with valid := (s.boardEntry n).valid } ≠ s.boardEntry n)) = true := by
    rw [decide_eq_true hy, hv]; rfl
  simp only [writeBoard, hf]
  exact if_pos hc

/-- Any other write is taken, and a write that validates the entry clears its count of matches. -/
theorem writeBoard_taken (reg : Nat) (hy : (s.boardEntry n).valid = true →
      { (s.boardEntry n).written reg v.toNat with valid := (s.boardEntry n).valid } = s.boardEntry n) :
    writeBoard n reg v s = s.modBoard n fun _ =>
      if ((s.boardEntry n).written reg v.toNat).valid && !(s.boardEntry n).valid then
        { (s.boardEntry n).written reg v.toNat with matched := 0 } else (s.boardEntry n).written reg v.toNat := by
  have hc : ¬ ((s.boardEntry n).valid &&
      decide ({ (s.boardEntry n).written reg v.toNat with valid := (s.boardEntry n).valid } ≠ s.boardEntry n)) = true := by
    rw [Bool.and_eq_true, decide_eq_true_iff]
    exact fun ⟨hv, hne⟩ => hne (hy hv)
  simp only [writeBoard, hf]
  exact if_neg hc
end
end

/-! ### The four parts of the rule -/

/-- A read is the register's value and a write that breaks a rule is recorded; Strings' writes are those of source 2. -/
theorem registerAccess_rules (source : SourceId) (addr size : Nat) (die off : Nat) (v : Word) (hl : s.live = true)
    (hp : placeOf addr = .regs die off) (hi : interruptPage addr = false) (hup : die = 0 ∨ s.dieUp die = true) :
    (size ≠ 8 ∨ addr % 8 ≠ 0 →
      (∃ r, exec (.registerRead source addr size) s = .next r ∧ RegAccNoted s die source.val 1 addr r ∧ r.out.value = 0) ∧
      ∃ r, exec (.registerWrite source addr size v []) s = .next r ∧ RegAccNoted s die source.val 1 addr r ∧ r.out = s.out) ∧
    (size = 8 → addr % 8 = 0 → registerAt die off s = none →
      (∃ r, exec (.registerRead source addr size) s = .next r ∧ RegAccNoted s die source.val 0 addr r ∧ r.out.value = 0) ∧
      ∃ r, exec (.registerWrite source addr size v []) s = .next r ∧ RegAccNoted s die source.val 0 addr r ∧ r.out = s.out) ∧
    (size = 8 → addr % 8 = 0 → ∀ g, registerAt die off s = some g →
      exec (.registerRead source addr size) s = .next ((g.clear s).reply { value := BitVec.ofNat 64 g.read })) := by
  have hn : ¬ (die ≠ 0 ∧ s.dieUp die = false) := by rcases hup with h | h <;> simp [h]
  have hread : exec (.registerRead source addr size) s = .next (readRegister source addr size s) := event_due s _ hl
  have hwrite : exec (.registerWrite source addr size v []) s = .next (writeRegister source addr size v [] s) := event_due s _ hl
  have hnoted (kind : Nat) := regAccNoted_recordRegAcc s die source kind addr
  refine ⟨fun h => ?_, fun h8 ha hr => ?_, fun h8 ha g hr => ?_⟩
  · have hs : registerSized addr size = false := by
      rw [← Bool.not_eq_true, registerSized_iff]; omega
    rw [hread, hwrite, readRegister_missized hp source hn hi hs, writeRegister_missized hp source hn hi v hs]
    exact ⟨⟨_, rfl, (hnoted 1).reply {}, rfl⟩, _, rfl, hnoted 1, rfl⟩
  · have hs := (registerSized_iff addr size).2 ⟨h8, ha⟩
    rw [hread, hwrite, readRegister_unmapped hp source hn hi hs hr, writeRegister_unmapped hp source hn hi v hs hr]
    exact ⟨⟨_, rfl, (hnoted 0).reply {}, rfl⟩, _, rfl, hnoted 0, rfl⟩
  · rw [hread, readRegister_mapped hp source hn hi ((registerSized_iff addr size).2 ⟨h8, ha⟩) hr]

/-- Settles O60: each access by its case, a pair of writes by rank, and the two tables by the case of their write. -/
theorem registerAccessesFollowTheirRules : Obligations.RegisterAccessesFollowTheirRules := by
  unfold Obligations.RegisterAccessesFollowTheirRules
  refine ⟨fun source addr size die off v s => ?_, fun f a b h _ => f.merged_pair a b h, fun g i reg v s => ?_, fun n v s => ?_⟩
  · intro noted hl hp hi
    refine ⟨fun h0 hd hs => ?_, registerAccess_rules s source addr size die off v hl hp hi, fun others => rfl⟩
    have hr := readRegister_inReset hp size h0 hd
    have hw := writeRegister_inReset hp size v h0 hd
    rw [← hs] at hr hw
    exact ⟨(event_due s _ hl).trans (congrArg _ hr), (event_due s _ hl).trans (congrArg _ hw)⟩
  · intro x w running takes rejects hl
    have hexec : exec (.shardTableWrite g i reg v) s = .next (writeShard g i reg v s) := event_due s _ hl
    have refuse (h : x.write reg w = none) : rejects := hexec.trans (congrArg _ (writeShard_refused s g i reg v h))
    refine ⟨fun h => hexec.trans (congrArg _ (writeShard_busy s g i reg v ((grottoBusy_iff s g).2 h))), fun hb => ?_⟩
    have take (y : Shard) (h : x.write reg w = some y) : takes y :=
      hexec.trans (congrArg _ (writeShard_taken s g i reg v y (fun h => hb ((grottoBusy_iff s g).1 h)) h))
    refine ⟨fun hr => take _ (by rw [hr]; rfl), fun hr => take _ (by rw [hr]; rfl), fun hr => take _ (by rw [hr]; rfl),
      fun hr => take _ (by rw [hr]; rfl), fun hr => take _ (by rw [hr]; rfl), fun hr hv hg => refuse ?_, fun hr h => refuse ?_,
      fun hr hd hi hv hg => take _ ?_, fun hr hd hi hv hb => take _ ?_, fun hr hd hi hv hb => take _ ?_,
      fun hr => refuse (x.write_reserved w reg hr)⟩ <;> rw [hr]
    · exact x.write_generation_refused w (.inl ⟨hv, hg⟩)
    · exact x.write_generation_refused w (.inr h)
    · rw [x.write_generation_taken w (fun _ => hg) hd hi]; simpa [hv] using hg
    · rw [x.write_generation_taken w (by simp [hv]) hd hi]; simp [hv, hb]
    · rw [x.write_generation_taken w (by simp [hv]) hd hi]; simp [hv, hb]
  · intro x w y rejects hl
    have hexec (k : Fin 2) : exec (.boardEntryWrite n k v) s = .next (writeBoard n k v s) := event_due s _ hl
    have refuse (k : Fin 2) (h : writeBoard n k v s = rejectTag s) : rejects k := (hexec k).trans (congrArg _ h)
    refine ⟨fun ⟨f, hf, h⟩ => ⟨refuse 0 (writeBoard_busy s n v 0 hf h), refuse 1 (writeBoard_busy s n v 1 hf h)⟩, fun hf => ?_⟩
    have take (k : Fin 2) (z : BoardEntry) (hy : x.valid = true → { x.written k w with valid := x.valid } = x)
        (hz : (if (x.written k w).valid && !x.valid then { x.written k w with matched := 0 } else x.written k w) = z) :
        exec (.boardEntryWrite n k v) s = .next (s.modBoard n fun _ => z) :=
      (hexec k).trans (congrArg _ (hz ▸ writeBoard_taken s n v hf k hy))
    refine ⟨fun hv hk => refuse 0 (writeBoard_refused s n v hf 0 hv fun h => hk (congrArg BoardEntry.key h)),
      fun hv hy => refuse 1 (writeBoard_refused s n v hf 1 hv hy), fun hv hb => take 0 _ (by simp [hv]) ?_,
      fun hv => take 1 _ (by simp [hv]) ?_, fun hv hk => take 0 _ (fun _ => ?_) ?_⟩
    · simp [BoardEntry.written, hv, hb]
    · simp [BoardEntry.written, hv, y]
    · simp [BoardEntry.written, hk]
    · simp [BoardEntry.written, hv, hk]

end Sys2Proof.Machine
end

section
/-! SUPPORT. Folds over a list of events and over the clock dies, and what a record does by its severity. -/

namespace Sys2Proof.Machine

open Sys2Proof

/-! ### Folds -/

/-- A fold that meets x, which brings P about under I, ends in P, where every step keeps both. -/
theorem foldl_reaches {σ α : Type} {f : σ → α → σ} {I P : σ → Prop} (hI : ∀ s a, I s → I (f s a))
    (hP : ∀ s a, P s → P (f s a)) {x : α} (hx : ∀ s, I s → P (f s x)) {l : List α} (h : x ∈ l) {s : σ} (hs : I s) :
    P (l.foldl f s) := by
  induction l generalizing s with
  | nil => cases h
  | cons a l ih =>
    rcases List.mem_cons.1 h with rfl | h
    · exact List.foldlRecOn l f (hx s hs) fun b hb a _ => hP b a hb
    · exact ih h (hI s a hs)

variable (s : State)

/-- Updates of the first n clock dies, each by its own function of the time, touch nothing but the clocks. -/
theorem foldl_modClk_frame (f : TimeState → Nat → ClkDie → ClkDie) (l : List Nat) :
    ∃ c, l.foldl (fun s d => s.modClk d (f s.time d)) s = { s with clk := c } :=
  List.foldlRecOn (motive := fun r : State => ∃ c, r = { s with clk := c }) l _ ⟨s.clk, rfl⟩ fun _ ⟨_, e⟩ _ _ => e ▸ ⟨_, rfl⟩

theorem clkDie_foldl_modClk (f : TimeState → Nat → ClkDie → ClkDie) (n j : Nat) :
    ((List.range n).foldl (fun s d => s.modClk d (f s.time d)) s).clkDie j =
      if j < n then f s.time j (s.clkDie j) else s.clkDie j := by
  induction n with
  | zero => rfl
  | succ n ih =>
    rw [List.range_succ, List.foldl_append]
    obtain ⟨c, e⟩ := foldl_modClk_frame s f (List.range n)
    rw [e] at ih ⊢
    simp only [List.foldl_cons, List.foldl_nil]
    rcases Nat.lt_trichotomy j n with h | rfl | h
    · rw [State.clkDie_modClk_ne _ _ _ _ h.ne, ih, if_pos h, if_pos (by omega)]
    · rw [State.clkDie_modClk_same, ih, if_neg (lt_irrefl j), if_pos (by omega)]
    · rw [State.clkDie_modClk_ne _ _ _ _ h.ne', ih, if_neg (by omega), if_neg (by omega)]

/-! ### A record and its severity (R553) -/

/-- A record stands in the ERR blocks and may reach the interrupt files; then its severity acts. -/
theorem formRecord_acts (d : Nat) (r : ErrRec) : ∃ t : State, (∃ e h, t = { s with err := e, host := h }) ∧
    formRecord d r s = if r.severity = sevDeferred then (if r.troupe = 0xFF then t else beginAbort r.troupe t)
      else if r.severity = sevFatal then oweReset .fatal t else t := by
  unfold formRecord
  extract_lets r' written full s1 s2
  have hs2 : ∃ h, s2 = { s1 with host := h } := by
    by_cases c : written && decide (r.severity ≤ 1)
    · obtain ⟨h, e⟩ := evtSend_frame s1 r.severity
      exact ⟨h, (if_pos c).trans e⟩
    · exact ⟨s1.host, if_neg c⟩
  obtain ⟨h, e⟩ := hs2
  clear_value s2
  subst e
  by_cases hd : r.severity = sevDeferred
  · refine ⟨{ s1 with host := h }, ⟨s1.err, h, rfl⟩, ?_⟩
    rw [if_pos hd, if_pos hd]
  by_cases hf : r.severity = sevFatal
  · refine ⟨{ s1 with err := { s1.err with fatalFormed := s1.err.fatalFormed ++ [full] }, host := h }, ⟨_, h, rfl⟩, ?_⟩
    rw [if_neg hd, if_pos hf, if_neg hd, if_pos hf]
  · refine ⟨{ s1 with host := h }, ⟨s1.err, h, rfl⟩, ?_⟩
    rw [if_neg hd, if_neg hf, if_neg hd, if_neg hf]

theorem formRecord_owes (d : Nat) (r : ErrRec) (h : r.severity = sevFatal) : (formRecord d r s).boot.resetDue.isSome = true := by
  obtain ⟨t, -, e⟩ := formRecord_acts s d r
  rw [e, if_neg (by rw [h]; decide), if_pos h]
  exact oweReset_owes t .fatal

end Sys2Proof.Machine
end

section
/-! SUPPORT. What FRAME_START does: the turn of the frame, and what its samples and errors keep. -/

namespace Sys2Proof.Machine

open Sys2Proof

variable (s : State)

/-! ### What the samples of a frame keep -/

/-- From s to r time, tiles, the fabric, the image, tokens, waits and the set of running dies stand; a reset that is owed
stays owed, and an update processor that refuses goes on refusing. -/
structure SampleKeeps (s r : State) : Prop where
  time : r.time = s.time
  tiles : r.tiles = s.tiles
  fab : r.fab = s.fab
  img : r.img = s.img
  tokens : r.tokens = s.tokens
  waits : r.waits = s.waits
  dieMask : r.boot.dieMask = s.boot.dieMask
  owed : s.boot.resetDue.isSome = true → r.boot.resetDue.isSome = true
  refused : ∀ g, (s.grot g).refuse = true → (r.grot g).refuse = true

namespace SampleKeeps

theorem refl : SampleKeeps s s := ⟨rfl, rfl, rfl, rfl, rfl, rfl, rfl, id, fun _ => id⟩

theorem trans {s r t : State} (h : SampleKeeps s r) (k : SampleKeeps r t) : SampleKeeps s t where
  time := k.time.trans h.time
  tiles := k.tiles.trans h.tiles
  fab := k.fab.trans h.fab
  img := k.img.trans h.img
  tokens := k.tokens.trans h.tokens
  waits := k.waits.trans h.waits
  dieMask := k.dieMask.trans h.dieMask
  owed := k.owed ∘ h.owed
  refused g := k.refused g ∘ h.refused g

theorem dieUp {s r : State} (h : SampleKeeps s r) (d : Nat) : r.dieUp d = s.dieUp d := by
  simp only [State.dieUp, h.dieMask]

theorem foldl {α : Type} {f : State → α → State} (h : ∀ s a, SampleKeeps s (f s a)) (l : List α) : SampleKeeps s (l.foldl f s) :=
  List.foldlRecOn l f (refl s) fun _ hb a _ => hb.trans (h _ a)

/-- What samples write: free values, records, router messages, aborts, caches, clocks, telemetry and readings. -/
theorem of_samples {f : Nat} {e : ErrState} {h : HostState} {t : Tbl Troupe} {c : CohState} {k : ClkState} {x : Telemetry}
    {y : ElecState} :
    SampleKeeps s { s with fresh := f, err := e, host := h, troupes := t, coh := c, clk := k, tel := x, elec := y } :=
  ⟨rfl, rfl, rfl, rfl, rfl, rfl, rfl, id, fun _ => id⟩

theorem beginAbort (tr : Nat) : SampleKeeps s (Machine.beginAbort tr s) := by
  obtain ⟨t, h, e⟩ := beginAbort_frame s tr
  rw [e]
  exact of_samples s

theorem oweReset (k : ResetKind) : SampleKeeps s (Machine.oweReset k s) := by
  unfold Machine.oweReset
  split
  · exact refl s
  · exact ⟨rfl, rfl, rfl, rfl, rfl, rfl, rfl, fun _ => rfl, fun _ => id⟩

theorem formRecord (d : Nat) (r : ErrRec) : SampleKeeps s (Machine.formRecord d r s) := by
  obtain ⟨t, ⟨e, h, rfl⟩, acts⟩ := formRecord_acts s d r
  have hk : SampleKeeps s { s with err := e, host := h } := of_samples s
  rw [acts]
  split
  · split
    · exact hk
    · exact hk.trans (beginAbort _ _)
  · split
    · exact hk.trans (oweReset _ _)
    · exact hk

theorem refuseCommit (g : Nat) : SampleKeeps s (Machine.refuseCommit g s) := by
  refine ⟨rfl, rfl, rfl, rfl, rfl, rfl, rfl, id, fun j h => ?_⟩
  by_cases hj : j = g
  · subst hj; simp [Machine.refuseCommit]
  · rwa [Machine.refuseCommit, State.grot_modGrot_ne _ _ _ _ hj]

theorem sramSpoils (p : SramPlace) : SampleKeeps s (Machine.sramSpoils p s) := by
  unfold Machine.sramSpoils
  split
  · split
    · exact refl s
    · exact of_samples s
  · exact refuseCommit s _
  · exact refl s

theorem sramError (x : SramError) : SampleKeeps s (Machine.sramError x s) := by
  unfold Machine.sramError
  extract_lets p base tr
  split
  · exact formRecord s _ _
  · exact (sramSpoils s _).trans (formRecord _ _ _)

theorem sramErrors (l : List SramError) : SampleKeeps s (Machine.sramErrors l s) :=
  foldl s sramError _

/-- A die's logic reading changes its own sample and forms at most two records. -/
theorem sampleLogic (l : List LogicSample) (d : Nat) : SampleKeeps s (Machine.sampleLogic l d s) := by
  unfold Machine.sampleLogic
  extract_lets r t was hot elec s1 record s2
  have hrecord (code severity : Nat) (s : State) : SampleKeeps s (record code severity s) :=
    (of_samples s).trans (formRecord _ _ _)
  have h1 : SampleKeeps s s1 := of_samples s
  have h2 : SampleKeeps s s2 := by
    unfold s2
    split
    · exact h1.trans (hrecord _ _ _)
    · split
      · exact h1.trans (hrecord _ _ _)
      · exact h1
  split
  · exact h2.trans (hrecord _ _ _)
  · exact h2

theorem sampleRail (x : RailSample) : SampleKeeps s (Machine.sampleRail x s) := by
  unfold Machine.sampleRail
  split
  · exact refl s
  · extract_lets elec s1 old mark
    clear_value old
    cases old with
    | some n => exact of_samples s
    | none =>
      dsimp only
      split
      · exact (of_samples s).trans (formRecord _ _ _)
      · exact of_samples s

theorem tripRail (x : RailSample) : SampleKeeps s (Machine.tripRail x s) := by
  unfold Machine.tripRail
  split
  · exact formRecord s _ _
  · exact refl s

theorem telWrite (x : TelRec) : SampleKeeps s (Machine.telWrite x s) := by
  unfold Machine.telWrite
  dsimp only
  split
  · exact of_samples s
  · split
    · obtain ⟨c, e⟩ := ioWrite_frame { s with tel := _ } clsCoh _ _
      rw [e]
      exact of_samples s
    · exact of_samples s

theorem telFrame : SampleKeeps s (Machine.telFrame s) := by
  unfold Machine.telFrame
  split
  · exact refl s
  · exact foldl s (fun s x => telWrite s x) _

end SampleKeeps

/-! ### Errors of on-die SRAM (R556) -/

/-- An uncorrectable error in tags or tables is fatal. -/
theorem sramError_owes (x : SramError) (hc : x.corrected = false) (hk : sramKind x.place = 4 ∨ sramKind x.place = 5) :
    (sramError x s).boot.resetDue.isSome = true := by
  simp only [sramError, hc, Bool.false_eq_true, if_false]
  exact formRecord_owes _ _ _ (if_pos hk)

theorem sramError_refuses (g : GrottoId) : ((sramError ⟨.rootStore g, false⟩ s).grot g).refuse = true := by
  simp only [sramError, Bool.false_eq_true, if_false]
  refine (SampleKeeps.formRecord _ _ _).refused g ?_
  simp [sramSpoils, refuseCommit]

/-- What one error of a running die brings about, and errors keep, holds after the errors of the frame. -/
theorem sramErrors_reaches {P : State → Prop} (hP : ∀ s r, SampleKeeps s r → P s → P r) {x : SramError} (hx : ∀ s, P (sramError x s))
    {l : List SramError} (h : x ∈ l) (hup : sramDie x.place = 0 ∨ s.dieUp (sramDie x.place) = true) : P (sramErrors l s) := by
  refine foldl_reaches (I := fun _ => True) (fun _ _ => id) (fun s a => hP s _ (.sramError s a)) (fun s _ => hx s) ?_ trivial
  rw [List.mem_insertionSort, List.mem_filter]
  exact ⟨h, by simpa using hup⟩

/-! ### The opening of a frame (R8, R132, R259, R286) -/

theorem missMark_frame : ∃ x, missMark s = { s with str := x } := by
  unfold missMark
  split
  · exact ⟨s.str, rfl⟩
  · split <;> exact ⟨_, rfl⟩

/-- The turn of a frame moves the time to the next frame, closes every tile's frame, returns every flow's completed lines,
and changes besides these only links, ports and Strings. -/
theorem turnFrame_frame (ended : Nat) (fec : List FecSample) (links : List LinkSample) :
    ∃ l x f, (∀ p ∈ f.flows, p.2.completed = 0) ∧ turnFrame ended fec links s =
      { s with time := (openFrame s).time, tiles := s.tiles.map fun p => (p.1, p.2.closeFrame ended), links := l, str := x, fab := f } := by
  unfold turnFrame
  extract_lets s1 s2 s3 s4
  have h1 : ∃ x, s1 = { s with str := x } :=
    List.foldlRecOn (motive := fun r : State => ∃ x, r = { s with str := x }) _ _ ⟨s.str, rfl⟩ fun _ ⟨_, e⟩ _ _ => e ▸ ⟨_, rfl⟩
  have h2 : ∃ x, s2 = { openFrame s with str := x } := by
    obtain ⟨x, e⟩ := h1
    obtain ⟨y, f⟩ := missMark_frame (openFrame s1)
    exact ⟨y, f.trans (by rw [e]; rfl)⟩
  have h3 : ∃ x f, s3 = { openFrame s with str := x, fab := f } := by
    obtain ⟨x, e⟩ := h2
    exact List.foldlRecOn (motive := fun r : State => ∃ x f, r = { openFrame s with str := x, fab := f }) fec _ ⟨x, s.fab, e⟩
      fun _ ⟨_, _, e⟩ _ _ => e ▸ ⟨_, _, rfl⟩
  have h4 : ∃ l x f, s4 = { openFrame s with links := l, str := x, fab := f } := by
    obtain ⟨x, f, e⟩ := h3
    exact List.foldlRecOn (motive := fun r : State => ∃ l x f, r = { openFrame s with links := l, str := x, fab := f }) links _
      ⟨s.links, x, f, e⟩ fun _ ⟨_, _, _, e⟩ _ _ => e ▸ ⟨_, _, _, rfl⟩
  obtain ⟨l, x, f, e⟩ := h4
  rw [e]
  refine ⟨_, x, _, ?_, rfl⟩
  intro p hp
  obtain ⟨q, -, rfl⟩ := List.mem_map.1 hp
  rfl

/-- FRAME_START is the turn of the frame, then the errors of the SRAM, each stage keeping what samples keep. -/
theorem exec_frameStart (rails : List RailSample) (logic : List LogicSample) (fec : List FecSample) (links : List LinkSample)
    (sram : List SramError) (h : s.live = true) : ∃ t r, exec (.frameStart rails logic fec links sram) s = .next r ∧
      SampleKeeps (turnFrame s.frame fec links s) t ∧ SampleKeeps (sramErrors sram t) r := by
  refine ⟨(List.range 9).foldl (fun s d => s.modClk d fun x => x.relax) (turnFrame s.frame fec links s), _,
    (show execFrameStart rails logic fec links sram s = _ from event_due s _ h), ?_, ?_⟩
  · exact .foldl _ (fun s d => .of_samples s) _
  · have hlogic (s : State) (l : List Nat) := SampleKeeps.foldl s (fun s d => SampleKeeps.sampleLogic s logic d) l
    have halert (s : State) : SampleKeeps s (settleAlert s) := .of_samples s
    have hrails (s : State) := (SampleKeeps.foldl s .sampleRail rails).trans (.foldl _ .tripRail rails)
    exact (((hlogic _ _).trans (halert _)).trans (hrails _)).trans (.telFrame _)

end Sys2Proof.Machine
end

section
/-! SUPPORT. What a frame mark does to the time, to the count of marks and to each die's judgement. -/

namespace Sys2Proof.Machine

open Sys2Proof

variable (s : State)

/-! ### Trim references and marks (R510, R518, R523) -/

section
variable (x : ClkDie) (k now spanClass first : Nat) (m : Bool) (phase : Int)

@[simp] theorem ClkDie.refer_marks : (x.refer m now).marks = m := by
  unfold ClkDie.refer
  split
  · assumption
  · rfl

theorem ClkDie.refer_self : x.refer x.marks now = x := if_pos rfl

@[simp] theorem ClkDie.trim_marks : (x.trim k first).marks = x.marks := by unfold ClkDie.trim; split <;> rfl

@[simp] theorem ClkDie.trim_good : (x.trim k first).good = x.good := by unfold ClkDie.trim; split <;> rfl

@[simp] theorem ClkDie.trim_stable : (x.trim k first).stable = x.stable := by unfold ClkDie.trim; split <;> rfl

@[simp] theorem ClkDie.measure_marks : (x.measure spanClass now phase).marks = x.marks := by
  unfold ClkDie.measure
  split
  · rfl
  · dsimp only
    split
    · split <;> rfl
    · rfl

/-- Under comparison the 17th mark and every later one is judged against the mark 16 before it. -/
theorem ClkDie.measure_compared {q : Int} {qs : List Int} (hm : x.marks = true) (hc : spanClass ≠ 0) (hq : x.phases = q :: qs)
    (hl : qs.length = 15) :
    (x.measure spanClass now phase).good = (if phaseGood (phase - q) then satAdd 16 x.good 1 else 0) ∧
    ((x.measure spanClass now phase).stable = true ↔
      x.stable = true ∨ 256 ≤ if phaseGood (phase - q) then satAdd 16 x.good 1 else 0) := by
  simp [ClkDie.measure, hm, hc, hq, hl]

end

theorem setReference_frame (m : Bool) : ∃ c, setReference m s = { s with clk := c } :=
  foldl_modClk_frame s (fun t _ x => x.refer m t.csr) _

theorem clkDie_setReference (m : Bool) {d : Nat} (h : d < 9) :
    (setReference m s).clkDie d = (s.clkDie d).refer m s.time.csr :=
  (clkDie_foldl_modClk s (fun t _ x => x.refer m t.csr) 9 d).trans (if_pos h)

theorem joinSpan_frame : ∃ b, joinSpan s = { s with str := { s.str with inSpan := b } } := by
  unfold joinSpan
  split
  · exact ⟨_, rfl⟩
  · exact ⟨s.str.inSpan, rfl⟩

theorem clkDie_joinSpan (d : Nat) : (joinSpan s).clkDie d = s.clkDie d := by
  obtain ⟨b, e⟩ := joinSpan_frame s
  rw [e]
  rfl

/-- What a mark does to the time and to the count of marks (R260, R261). -/
def takeMark (p : Nat) (carried : Word) (s : State) : State :=
  let new := if s.str.gotMark then 0 else 1
  { s with
    time := { s.time with span := (carried.toNat + (s.port p).delay) % 2 ^ 64 }
    str := { s.str with sinceMark := 0, gotMark := true, marksRun := s.str.marksRun + new
                        marksOk := decide (3 ≤ s.str.marksRun + new), joinRun := s.str.joinRun + new } }

/-- The third mark in a row makes the marks the reference. -/
def referMarks (s : State) : State := if 3 ≤ s.str.marksRun then setReference true s else s

/-- A die that follows the marks measures one and trims itself. -/
def followMark (spanClass k new : Nat) (phases : List Int) (t : TimeState) (d : Nat) (x : ClkDie) : ClkDie :=
  if x.marks then (x.measure spanClass t.csr (phases.getD d 0)).trim (k + d) new else x

/-- Every die measures the mark, with free steps of its trim. -/
def measureMarks (new : Nat) (phases : List Int) (s : State) : State :=
  (List.range 9).foldl (fun s' d => s'.modClk d (followMark s.image.clockRec.spanClass s.fresh new phases s'.time d))
    { s with fresh := s.fresh + 9 }

theorem exec_frameMarkReceipt (p : PortId) (carried : Word) (phases : List Int) (hl : s.live = true)
    (hm : markPort s = some p.val) (hp : portHears s p = true) : exec (.frameMarkReceipt p carried phases) s =
      .next (joinSpan (measureMarks (if s.str.gotMark then 0 else 1) phases (referMarks (takeMark p carried s)))) := by
  have hdue : (markPort s == some p.val && portHears s p) = true := by simp [hm, hp]
  show execFrameMarkReceipt p carried phases s = _
  exact event_of_due s _ _ hl hdue

theorem hopDelay_of_markPort {p : Nat} (h : markPort s = some p) : hopDelay s = (s.port p).delay := by
  simp only [hopDelay, h]

theorem referMarks_frame : ∃ c, referMarks s = { s with clk := c } := by
  unfold referMarks
  split
  · exact setReference_frame s true
  · exact ⟨s.clk, rfl⟩

theorem referMarks_marks (h : 3 ≤ s.str.marksRun) {d : Nat} (hd : d < 9) : ((referMarks s).clkDie d).marks = true := by
  rw [referMarks, if_pos h, clkDie_setReference s true hd, ClkDie.refer_marks]

/-- A die that follows the marks already goes on as it did. -/
theorem clkDie_referMarks_of_marks {d : Nat} (hd : d < 9) (h : (s.clkDie d).marks = true) :
    (referMarks s).clkDie d = s.clkDie d := by
  unfold referMarks
  split
  · rw [clkDie_setReference s true hd, ← h, ClkDie.refer_self]
  · rfl

section
variable (new : Nat) (phases : List Int)

theorem markFollowed_frame : ∃ f c b, joinSpan (measureMarks new phases (referMarks s)) =
    { s with fresh := f, clk := c, str := { s.str with inSpan := b } } := by
  obtain ⟨c, hr⟩ := referMarks_frame s
  obtain ⟨c', hm⟩ : ∃ c', measureMarks new phases (referMarks s) = { s with fresh := s.fresh + 9, clk := c' } := by
    rw [hr]
    exact foldl_modClk_frame { s with fresh := s.fresh + 9, clk := c } _ _
  obtain ⟨b, hj⟩ := joinSpan_frame (measureMarks new phases (referMarks s))
  exact ⟨s.fresh + 9, c', b, hj.trans (by rw [hm])⟩

theorem clkDie_measureMarks {d : Nat} (hd : d < 9) : (measureMarks new phases s).clkDie d =
    followMark s.image.clockRec.spanClass s.fresh new phases s.time d (s.clkDie d) :=
  (clkDie_foldl_modClk { s with fresh := s.fresh + 9 } (followMark s.image.clockRec.spanClass s.fresh new phases) 9 d).trans
    (if_pos hd)

theorem clkDie_markFollowed {d : Nat} (hd : d < 9) : (joinSpan (measureMarks new phases (referMarks s))).clkDie d =
    followMark s.image.clockRec.spanClass s.fresh new phases s.time d ((referMarks s).clkDie d) := by
  obtain ⟨c, hr⟩ := referMarks_frame s
  have himg : (referMarks s).image = s.image := by rw [hr]; rfl
  have hfresh : (referMarks s).fresh = s.fresh := by rw [hr]
  have htime : (referMarks s).time = s.time := by rw [hr]
  rw [clkDie_joinSpan, clkDie_measureMarks _ _ _ hd, himg, hfresh, htime]

end

theorem followMark_of_marks (spanClass k new : Nat) (phases : List Int) (t : TimeState) (d : Nat) {x : ClkDie} (h : x.marks = true) :
    followMark spanClass k new phases t d x = (x.measure spanClass t.csr (phases.getD d 0)).trim (k + d) new := if_pos h

theorem followMark_marks (spanClass k new : Nat) (phases : List Int) (t : TimeState) (d : Nat) (x : ClkDie) :
    (followMark spanClass k new phases t d x).marks = x.marks := by
  unfold followMark
  split
  · simp
  · rfl

end Sys2Proof.Machine
end

section
/-! SUPPORT. What leaving the span and a membership notice do. -/

namespace Sys2Proof.Machine

open Sys2Proof

variable (s : State)

/-! ### Router messages, notices and the span (R262, R263, R523) -/

section
variable (e : Nat)

theorem evtSend_eq : evtSend e s = { s with host := (evtSend e s).host } := by obtain ⟨h, k⟩ := evtSend_frame s e; rw [k]

@[simp] theorem evtSend_str : (evtSend e s).str = s.str := by obtain ⟨h, k⟩ := evtSend_frame s e; rw [k]

@[simp] theorem evtSend_img : (evtSend e s).img = s.img := by obtain ⟨h, k⟩ := evtSend_frame s e; rw [k]

@[simp] theorem evtSend_mem : (evtSend e s).mem = s.mem := by obtain ⟨h, k⟩ := evtSend_frame s e; rw [k]

@[simp] theorem evtSend_troupes : (evtSend e s).troupes = s.troupes := by obtain ⟨h, k⟩ := evtSend_frame s e; rw [k]

end

theorem noteMember_frame (join : Bool) (span x y z : Nat) : ∃ str h, str.inSpan = s.str.inSpan ∧
    noteMember join span x y z s = { s with str := str, host := h } := by
  refine ⟨_, _, ?_, evtSend_eq _ 5⟩
  rfl

theorem noteMember_str (join : Bool) (span x y z : Nat) : (noteMember join span x y z s).str = { s.str with
    changes := (s.str.changes + 1) % 2 ^ 32
    members := if join then min (s.str.members + 1) 1024 else max (s.str.members - 1) 1
    lastKind := if join then 2 else 1
    lastSpan := span % 2 ^ 8, lastX := x % 16, lastY := y % 8, lastZ := z % 8 } := evtSend_str _ 5

theorem failEpoch_frame : ∃ i h, i.inForce = s.img.inForce ∧ failEpoch s = { s with img := i, host := h } := by
  unfold failEpoch
  split
  · refine ⟨_, _, ?_, evtSend_eq _ 7⟩
    rfl
  · exact ⟨s.img, s.host, rfl, rfl⟩

theorem failEpoch_pending (h : s.img.op = .voting ∨ s.img.op = .activating) :
    (failEpoch s).img.op = .idle ∧ (failEpoch s).img.code = 0x13 := by
  rw [failEpoch, if_pos h, evtSend_img]
  exact ⟨rfl, rfl⟩

theorem unknownStep_frame (tr : Nat) : ∃ t h, unknownStep tr s = { s with troupes := t, host := h } := by
  unfold unknownStep
  split
  · exact ⟨s.troupes, s.host, rfl⟩
  · exact ⟨_, _, evtSend_eq _ 2⟩

theorem unknownAll_frame : ∃ g t h, unknownAll s = { s with grots := g, troupes := t, host := h } := by
  refine List.foldlRecOn (motive := fun r : State => ∃ g t h, r = { s with grots := g, troupes := t, host := h }) _ _
    ⟨s.grots, s.troupes, s.host, rfl⟩ ?_
  rintro r ⟨g, t, h, rfl⟩ i -
  split
  · split
    · next tr _ =>
      obtain ⟨t', h', e⟩ := unknownStep_frame
        (State.modGrot { s with grots := g, troupes := t, host := h } i fun x => { x with unknown := true }) tr
      exact ⟨_, t', h', e⟩
    · exact ⟨g, t, h, rfl⟩
  · exact ⟨g, t, h, rfl⟩

/-- A package that leaves the span is in none, whether it was a member or not. -/
theorem leaveSpan_frame : ∃ str i g t h, str.inSpan = false ∧
    leaveSpan s = { s with str := str, img := i, grots := g, troupes := t, host := h } := by
  unfold leaveSpan
  extract_lets was c str s1 s2
  split
  · obtain ⟨x, h, hx, e⟩ : ∃ x h, x.inSpan = false ∧ s2 = { s with str := x, host := h } :=
      noteMember_frame s1 _ _ _ _ _
    obtain ⟨i, h', -, e'⟩ := failEpoch_frame { s2 with str := { s2.str with members := 1 } }
    obtain ⟨g, t, h'', e''⟩ := unknownAll_frame (failEpoch { s2 with str := { s2.str with members := 1 } })
    refine ⟨{ x with members := 1 }, i, g, t, h'', hx, ?_⟩
    rw [e'', e', e]
  · exact ⟨_, s.img, s.grots, s.troupes, s.host, rfl, rfl⟩

theorem pumpVote_frame (o : Nat) : ∃ x, pumpVote o s = { s with str := x } := by
  unfold pumpVote
  split
  · exact ⟨_, rfl⟩
  · exact ⟨s.str, rfl⟩

theorem departVotes_frame (p : Nat) : ∃ x, departVotes p s = { s with str := x } := by
  refine List.foldlRecOn (motive := fun r : State => ∃ x, r = { s with str := x }) _ _ ⟨_, rfl⟩ ?_
  rintro r ⟨x, rfl⟩ i -
  exact pumpVote_frame { s with str := x } i.id

theorem beginAbort_state (tr i : Nat) : ((beginAbort tr s).troupe i).state =
    if i = tr ∧ (s.troupe i).state = 1 then 2 else (s.troupe i).state := by
  unfold beginAbort
  by_cases h1 : (s.troupe tr).state = 1
  · rw [if_pos h1, State.troupe, evtSend_troupes]
    by_cases hi : i = tr
    · subst hi
      rw [if_pos ⟨rfl, h1⟩]
      simp
    · rw [if_neg fun h => hi h.1]
      exact congrArg Troupe.state (State.troupe_modTroupe_ne s tr _ i hi)
  · rw [if_neg h1, if_neg]
    rintro ⟨rfl, h⟩
    exact h1 h

theorem linkAbort_state (code p tr info1 i : Nat) : ((linkAbort code p tr info1 s).troupe i).state =
    if tr ≠ 0xFF ∧ i = tr ∧ (s.troupe i).state = 1 then 2 else (s.troupe i).state := by
  unfold linkAbort
  obtain ⟨t, ⟨e, k, rfl⟩, acts⟩ := formRecord_acts s (1 + p / 2)
    { cls := 5, severity := sevDeferred, code, troupe := tr, sceneId := (s.troupe tr).sceneId, info0 := p, info1 }
  rw [acts, if_pos rfl]
  by_cases h : tr = 0xFF
  · rw [if_pos h, if_neg fun k => k.1 h]
    rfl
  · rw [if_neg h]
    simp only [ne_eq, h, not_false_iff, true_and]
    exact beginAbort_state { s with err := e, host := k } tr i

/-- Where a lost package's objects are a troupe's, its scene aborts. -/
theorem foldl_linkAbort_aborts (code p : Nat) (info : Nat) {tr : Nat} {l : List Nat} (hmem : tr ∈ l) (htr : tr ≠ 0xFF)
    (hrun : (s.troupe tr).state = 1) : ((l.foldl (fun s i => linkAbort code p i info s) s).troupe tr).state = 2 := by
  refine foldl_reaches (I := fun s : State => (s.troupe tr).state = 1 ∨ (s.troupe tr).state = 2)
    (P := fun s : State => (s.troupe tr).state = 2) (fun s i h => ?_) (fun s i h => ?_) (fun s h => ?_) hmem (.inl hrun)
  · rw [linkAbort_state]
    split
    · exact .inr rfl
    · exact h
  · rw [linkAbort_state]
    split
    · rfl
    · exact h
  · rw [linkAbort_state]
    rcases h with h | h <;> simp [h, htr]

end Sys2Proof.Machine
end

section
/-! SUPPORT. The frames, marks, notices and telemetry writes of O35. -/

namespace Sys2Proof.Machine

open Sys2Proof

variable (s : State)

/-- CTL_TEL_CTL takes an interval of 1 to 15 frames as 16 (R271). -/
theorem writeTelCtl_interval (v : Word) : (writeTelCtl v s).tel.interval =
    if 1 ≤ v.toNat / 2 ^ 48 ∧ v.toNat / 2 ^ 48 ≤ 15 then 16 else v.toNat / 2 ^ 48 := by
  have hi : bitsOf v.toNat 48 16 = v.toNat / 2 ^ 48 := Nat.mod_eq_of_lt (Nat.div_lt_of_lt_mul v.isLt)
  simp only [writeTelCtl, hi]

/-- FRAME_MARK_RECEIPT leaves the state of the taken mark but for clocks, free values and the joining of the span, and every
die follows the mark. -/
theorem exec_frameMarkReceipt_followed (p : PortId) (carried : Word) (phases : List Int) (hl : s.live = true)
    (hm : markPort s = some p.val) (hp : portHears s p = true) : ∃ r k new, exec (.frameMarkReceipt p carried phases) s = .next r ∧
      (∃ f c b, r = { takeMark p carried s with fresh := f, clk := c, str := { (takeMark p carried s).str with inSpan := b } }) ∧
      ∀ d, d < 9 → r.clkDie d = followMark s.image.clockRec.spanClass k new phases (takeMark p carried s).time d
        ((referMarks (takeMark p carried s)).clkDie d) :=
  ⟨_, _, _, exec_frameMarkReceipt s p carried phases hl hm hp, markFollowed_frame _ _ _,
    fun _ hd => clkDie_markFollowed (takeMark p carried s) _ phases hd⟩

/-- A die that follows the marks, with 16 of them kept, judges the new one by comparison. -/
theorem followMark_compared {x : ClkDie} {q : Int} {qs : List Int} (spanClass k new : Nat) (phases : List Int) (t : TimeState) (d : Nat)
    (hm : x.marks = true) (hc : spanClass = 1) (hq : x.phases = q :: qs) (hl : qs.length = 15) :
    let good := if -3072 ≤ (phases.getD d 0 - q) * 125 ∧ (phases.getD d 0 - q) * 125 ≤ 3072 then min (x.good + 1) 0xFFFF else 0
    (followMark spanClass k new phases t d x).good = good ∧
      ((followMark spanClass k new phases t d x).stable = true ↔ x.stable = true ∨ 256 ≤ good) := by
  intro good
  have hgood : good = if phaseGood (phases.getD d 0 - q) then satAdd 16 x.good 1 else 0 := by
    simp only [good, phaseGood, Bool.and_eq_true, decide_eq_true_eq]
    rfl
  rw [followMark_of_marks _ _ _ _ _ _ hm, ClkDie.trim_good, ClkDie.trim_stable, hgood]
  exact ClkDie.measure_compared _ _ _ _ hm (by rw [hc]; decide) hq hl

/-- MARK_LOSS takes the package out of its span and every die back to REFCLK. -/
theorem exec_markLoss (hl : s.live = true) (hm : (markPort s).isSome = true) (h3 : 3 ≤ s.str.sinceMark)
    (hin : s.str.inSpan = true ∨ (s.clkDie 0).marks = true) : ∃ r, exec .markLoss s = .next r ∧ r.str.inSpan = false ∧
      (∀ d, d < 9 → (r.clkDie d).marks = false) ∧ r.mem = s.mem := by
  have hdue : ((markPort s).isSome && decide (3 ≤ s.str.sinceMark) && (s.str.inSpan || (s.clkDie 0).marks)) = true := by
    simp [hm, h3, hin]
  obtain ⟨c, hr⟩ := setReference_frame s false
  obtain ⟨x, i, g, t, h, hx, hleave⟩ := leaveSpan_frame (setReference false s)
  refine ⟨_, (show execMarkLoss s = _ from event_of_due s _ _ hl hdue), by rw [hleave]; exact hx, fun d hd => ?_, ?_⟩
  · rw [hleave]
    exact (congrArg ClkDie.marks (clkDie_setReference s false hd)).trans (ClkDie.refer_marks _ _ _)
  · rw [hleave, hr]

/-- A departure through a port aborts each running troupe with an object routed through it. -/
theorem exec_membershipNotice_departure (span x y z : Nat) (p : PortId) {tr : Nat} (hl : s.live = true)
    (hmem : tr ∈ troupesThrough s.image p) (htr : tr < 16) (hrun : (s.troupe tr).state = 1) :
    ∃ r, exec (.membershipNotice false span x y z (some p)) s = .next r ∧ (r.troupe tr).state = 2 := by
  obtain ⟨i, h, hforce, hfail⟩ := failEpoch_frame (noteMember false span x y z s)
  obtain ⟨str, hdepart⟩ := departVotes_frame (failEpoch (noteMember false span x y z s)) p
  have himg : (failEpoch (noteMember false span x y z s)).image = s.image := by
    rw [hfail, State.image, hforce, noteMember, evtSend_img]
    rfl
  have htroupes : (departVotes p (failEpoch (noteMember false span x y z s))).troupes = s.troupes := by
    rw [hdepart, hfail]
    exact evtSend_troupes _ 5
  refine ⟨_, (show execMembershipNotice false span x y z (some p) s = _ from event_due s _ hl), ?_⟩
  refine foldl_linkAbort_aborts _ 6 p _ (himg.symm ▸ hmem) (by omega) ?_
  rw [State.troupe, htroupes]
  exact hrun

/-- Settles O35: each event by its frame, with the fold over errors, dies or troupes that carries its claim. -/
theorem framesOpenOnTimeAndKeepTheirSamples : Obligations.FramesOpenOnTimeAndKeepTheirSamples := by
  unfold Obligations.FramesOpenOnTimeAndKeepTheirSamples
  refine ⟨fun rails logic fec links sram s hl => ?_, fun p carried phases s hl hm hp => ?_, fun s hl hm h3 hin => ?_,
    fun join span x y z s hl => ?_, fun join span x y z p s tr hl hj htr ht hrun => ?_, fun v s hl => ⟨?_, ?_⟩⟩
  · obtain ⟨t, r, hexec, hturn, hrest⟩ := exec_frameStart s rails logic fec links sram hl
    obtain ⟨l, x, f, hflows, hframe⟩ := turnFrame_frame s s.frame fec links
    have hall := hturn.trans ((SampleKeeps.sramErrors t sram).trans hrest)
    rw [hframe] at hturn hall
    have hup (d : Nat) : t.dieUp d = s.dieUp d := hturn.dieUp d
    refine ⟨r, hexec, by rw [hall.time]; rfl, by rw [hall.time]; rfl, fun p hp => ?_, by rw [hall.fab]; exact hflows,
      hall.img, hall.tokens, hall.waits, fun d hd hdie => ?_, fun g hg hdie => ?_⟩
    · rw [hall.tiles]
      exact List.mem_map_of_mem hp
    · refine hrest.owed ?_
      have owes (x : SramPlace) (hx : ⟨x, false⟩ ∈ sram) (hk : sramKind x = 4 ∨ sramKind x = 5) (hs : sramDie x = d.val) :
          (sramErrors sram t).boot.resetDue.isSome = true :=
        sramErrors_reaches (P := fun s => s.boot.resetDue.isSome = true) t (fun _ _ k => k.owed)
          (fun s => sramError_owes s ⟨x, false⟩ rfl hk) hx (by rw [hs, hup]; exact hdie)
      rcases hd with hd | hd
      · exact owes _ hd (.inl rfl) rfl
      · exact owes _ hd (.inr rfl) rfl
    · exact hrest.refused g (sramErrors_reaches (P := fun s => (s.grot g).refuse = true) t (fun _ _ k => k.refused g)
        (fun s => sramError_refuses s g) hg (.inr ((hup _).trans hdie)))
  · have hrun : (takeMark p carried s).str.marksRun = if s.str.gotMark = true then s.str.marksRun else s.str.marksRun + 1 := by
      cases h : s.str.gotMark <;> simp [takeMark, h]
    obtain ⟨r, k, new, hexec, ⟨f, c, b, hframe⟩, hdie⟩ := exec_frameMarkReceipt_followed s p carried phases hl hm hp
    have hruns : r.str.marksRun = (takeMark p carried s).str.marksRun := by rw [hframe]
    refine ⟨r, hexec, by rw [hframe]; rfl, by rw [hframe]; rfl, by rw [hframe]; rfl, by rw [hframe]; rfl, ?_, hruns.trans hrun,
      by rw [hframe]; rfl, fun d h3 hd => ?_, fun d q qs hd hmarks hcls hq hlen => ?_, by rw [hframe]; rfl, by rw [hframe]; rfl,
      by rw [hframe]; rfl⟩
    · rw [hframe]
      exact hopDelay_of_markPort _ hm
    · rw [hdie d hd, followMark_marks]
      exact referMarks_marks _ (hruns ▸ h3) hd
    · rw [hdie d hd, clkDie_referMarks_of_marks (takeMark p carried s) hd hmarks]
      exact followMark_compared _ k new phases _ d hmarks hcls hq hlen
  · exact exec_markLoss s hl hm h3 hin
  · obtain ⟨i, h, -, hfail⟩ := failEpoch_frame (noteMember join span x y z s)
    have hstr := (congrArg State.str hfail).trans (noteMember_str s join span x y z)
    have himg : (noteMember join span x y z s).img = s.img := evtSend_img _ 5
    refine ⟨_, (show execMembershipNotice join span x y z none s = _ from event_due s _ hl), congrArg StrState.changes hstr,
      congrArg StrState.lastKind hstr, congrArg StrState.lastSpan hstr, congrArg StrState.lastX hstr,
      congrArg StrState.lastY hstr, congrArg StrState.lastZ hstr, ?_, ?_, fun hop => failEpoch_pending _ (himg ▸ hop)⟩
    · rw [hfail]
      exact evtSend_mem _ 5
    · rw [hfail]
      exact evtSend_troupes _ 5
  · exact hj ▸ exec_membershipNotice_departure s span x y z p hl htr ht hrun
  · exact event_due s _ hl
  · refine ⟨_, (show execTelemetryConfigWrite 1 v s = _ from event_due s _ hl), rfl, rfl, rfl, rfl, ?_, fun h => ?_, fun h => ?_⟩
    · simp [writeTelCtl, bitsOf]
    · exact (writeTelCtl_interval s v).trans (by rw [h]; rfl)
    · exact (writeTelCtl_interval s v).trans (if_neg (by omega))

end Sys2Proof.Machine
end

section

/-! SUPPORT. What every step keeps: the queue that the step was given, and the canonical form of memory (log entry 9). Most
functions of the model write memory through memWrites, memMasked, store, storeLine or freeFill, or not at all, so that a
proof that one keeps both is a term with the shape of its definition. -/

namespace Sys2Proof.Machine

-- Many short proofs: one after the other, as a thread for each would exhaust the memory that Lean is given.
set_option Elab.async false

open Sys2Proof

/-! ### Combinators: one for each way in which a definition goes on from a state -/

namespace Keeps

variable {s r : State}

/-- An update of other fields; both facts hold by rfl where the update is written out. -/
theorem upd (h : Keeps s r) {q : State} (p : q.pending = r.pending := by rfl) (m : q.mem = r.mem := by rfl) :
    Keeps s q :=
  h.trans (.of_eq p m)

theorem ite {c : Prop} [Decidable c] {a b : State} (ha : Keeps s a) (hb : Keeps s b) :
    Keeps s (if c then a else b) := by
  split
  · exact ha
  · exact hb

theorem fold {α : Type} {l : List α} {f : State → α → State} (h : Keeps s r)
    (hf : ∀ {q} a, Keeps s q → Keeps s (f q a)) :
    Keeps s (l.foldl f r) := by
  induction l generalizing r with
  | nil => exact h
  | cons a l ih => exact ih (hf a h)

theorem elim {α : Type} {o : Option α} {f : α → State → State} (h : Keeps s r) (hf : ∀ a, Keeps s (f a r)) :
    Keeps s (o.elim id f r) := by
  cases o with
  | none => exact h
  | some a => exact hf a

end Keeps

/-- Whatever the next state that an outcome gives, it keeps what s has. -/
def KeepsNext (s : State) (o : Host.Outcome State Fault Refusal) : Prop := ∀ r, o = .next r → Keeps s r

namespace KeepsNext

variable {s : State}

theorem next {r : State} (h : Keeps s r) : KeepsNext s (.next r) := by
  rintro _ ⟨⟩
  exact h

/-- An event, ordinary or raw: its state where it is due, and s where not. -/
theorem event {c : Prop} [Decidable c] {a : State} (ha : Keeps s s → Keeps s a) :
    KeepsNext s (.next (if c then a else s)) :=
  next (.ite (ha (.refl s)) (.refl s))

/-- An event about the object that it finds. -/
theorem eventOf {α : Type} {c : Prop} [Decidable c] {x : Option α} {f : α → State}
    (hf : ∀ a, Keeps s s → Keeps s (f a)) :
    KeepsNext s (.next (if c then (match x with
      | some a => f a
      | none => s) else s)) := by
  cases x with
  | none => exact next (.ite (.refl s) (.refl s))
  | some a => exact next (.ite (hf a (.refl s)) (.refl s))

end KeepsNext

variable {s r : State}

/-! ### The parts of the state, records of errors, and signals -/

theorem Keeps.modTile {t : Nat} {f : Tile → Tile} (h : Keeps s r) : Keeps s (r.modTile t f) := .upd h

theorem Keeps.modTroupe {t : Nat} {f : Troupe → Troupe} (h : Keeps s r) : Keeps s (r.modTroupe t f) := .upd h

theorem Keeps.modGrot {g : Nat} {f : Grotto → Grotto} (h : Keeps s r) : Keeps s (r.modGrot g f) := .upd h

theorem Keeps.modHome {n : Nat} {f : Home → Home} (h : Keeps s r) : Keeps s (r.modHome n f) := .upd h

theorem Keeps.modQueue {q : Nat} {f : Queue → Queue} (h : Keeps s r) : Keeps s (r.modQueue q f) := .upd h

theorem Keeps.modMem {m : Nat} {f : MemCtl → MemCtl} (h : Keeps s r) : Keeps s (r.modMem m f) := .upd h

theorem Keeps.modPort {p : Nat} {f : Port → Port} (h : Keeps s r) : Keeps s (r.modPort p f) := .upd h

theorem Keeps.modFlow {k : Nat} {f : FlowCtx → FlowCtx} (h : Keeps s r) : Keeps s (r.modFlow k f) := .upd h

theorem Keeps.modFab {d : Nat} {f : FabEngine → FabEngine} (h : Keeps s r) : Keeps s (r.modFab d f) := .upd h

theorem Keeps.modHart {x : Nat} {f : Hart → Hart} (h : Keeps s r) : Keeps s (r.modHart x f) := .upd h

theorem Keeps.modCodec {d : Nat} {f : Codec → Codec} (h : Keeps s r) : Keeps s (r.modCodec d f) := .upd h

theorem Keeps.evtSend {e : Nat} (h : Keeps s r) : Keeps s (Machine.evtSend e r) := .ite (.upd h) h

theorem Keeps.beginAbort {tr : Nat} (h : Keeps s r) : Keeps s (Machine.beginAbort tr r) :=
  .ite (.evtSend (.upd h)) h

theorem Keeps.oweReset {k : ResetKind} (h : Keeps s r) : Keeps s (Machine.oweReset k r) := by
  unfold Machine.oweReset
  split
  · exact h
  · exact .upd h

theorem Keeps.formRecord {die : Nat} {x : ErrRec} (h : Keeps s r) : Keeps s (Machine.formRecord die x r) := by
  unfold Machine.formRecord
  extract_lets x' written full s1 s2
  have h2 : Keeps s s2 := .ite (.evtSend (.upd h)) (.upd h)
  exact .ite (.ite h2 (.beginAbort h2)) (.ite (.oweReset (.upd h2)) h2)

theorem Keeps.contractFaultAt {at_ die tr unit code addr info0 : Nat} (h : Keeps s r) :
    Keeps s (Machine.contractFaultAt at_ die tr unit code addr info0 r) := .formRecord (.upd h)

theorem Keeps.unitFault {u code addr info0 : Nat} (h : Keeps s r) :
    Keeps s (Machine.unitFault u code addr info0 r) := by
  unfold Machine.unitFault
  split
  · exact .contractFaultAt h
  · exact h

theorem Keeps.tileFaultAt {t cycle seq addr code info0 : Nat} (h : Keeps s r) :
    Keeps s (Machine.tileFaultAt t cycle seq addr code info0 r) := by
  refine .ite h ?_
  dsimp only
  split
  · exact .contractFaultAt (.upd h)
  · exact .upd h

theorem Keeps.signalDevice {unit ch k sent addr : Nat} (h : Keeps s r) :
    Keeps s (Machine.signalDevice unit ch k sent addr r) := by
  refine .ite (.upd h) ?_
  split
  · exact .contractFaultAt h
  · exact h

theorem Keeps.signalTile {t ch k lo hi addr seq : Nat} (h : Keeps s r) :
    Keeps s (Machine.signalTile t ch k lo hi addr seq r) :=
  .ite (.upd h) (.tileFaultAt h)

theorem Keeps.completeQ {q n status detail : Nat} (h : Keeps s r) :
    Keeps s (Machine.completeQ q n status detail r) := by
  unfold Machine.completeQ
  split
  · exact .upd h
  · exact h

theorem Keeps.completeOwner {o : Option (Nat × Nat)} {status detail : Nat} (h : Keeps s r) :
    Keeps s (Machine.completeOwner o status detail r) := by
  unfold Machine.completeOwner
  split
  · exact .completeQ h
  · exact h

/-! ### Breaches, banks and the issue of words -/

theorem Keeps.raiseBreaches {t : Nat} {bs : List Breach} (h : Keeps s r) : Keeps s (Machine.raiseBreaches t bs r) :=
  .fold h (fun _ h => .tileFaultAt h)

theorem Keeps.raiseDues {t : Nat} {bs : List Breach} (h : Keeps s r) : Keeps s (Machine.raiseDues t bs r) :=
  .raiseBreaches (.upd h)

theorem Keeps.judge {t lo hi : Nat} (h : Keeps s r) : Keeps s (Machine.judge t lo hi r) :=
  .ite h (.raiseDues (.raiseBreaches h))

theorem Keeps.useBanks {t start : Nat} {us : List (BankUse × Nat)} (h : Keeps s r) :
    Keeps s (Machine.useBanks t start us r).1 := by
  unfold Machine.useBanks
  dsimp only
  split
  · exact .raiseBreaches (.upd h)
  · exact .raiseBreaches h

theorem Keeps.duty {t kind a b seq addr : Nat} (h : Keeps s r) : Keeps s (Machine.duty t kind a b seq addr r) :=
  .ite h (.raiseDues (.upd h))

theorem Keeps.encodingFault {t : Nat} (h : Keeps s r) : Keeps s (Machine.encodingFault t r) := .upd (.tileFaultAt h)

theorem KeepsNext.issueWord {t : Nat} {sel : Nat → Bool} {unit : Option Nat} {wellFormed : Tile → Nat → Bool}
    {act : Nat → State → State} (hact : ∀ {r} w, Keeps s r → Keeps s (act w r)) :
    KeepsNext s (Machine.issueWord t sel unit wellFormed act s) := by
  refine .event fun h => ?_
  cases unit with
  | some u => exact .ite (.upd h) (.ite (.encodingFault h) (.judge (hact _ h)))
  | none => exact .ite (.encodingFault h) (.judge (hact _ h))

/-! ### Signals of a tile, its pad and its gate -/

theorem Keeps.sendTk {t : Nat} {y : Run} (h : Keeps s r) : Keeps s (Machine.sendTk t y r) :=
  .ite (.signalTile h) (.upd h)

theorem Keeps.pumpSignals {t : Nat} (h : Keeps s r) : Keeps s (Machine.pumpSignals t r) :=
  .fold h (fun _ h => .ite (.sendTk (.upd h)) h)

theorem Keeps.finished {t u seq cycle : Nat} (h : Keeps s r) : Keeps s (Machine.finished t u seq cycle r) :=
  .pumpSignals (.upd h)

theorem Keeps.descSignal {t signal lo hi addr seq : Nat} (h : Keeps s r) :
    Keeps s (Machine.descSignal t signal lo hi addr seq r) :=
  .ite (.signalTile h) (.ite (.upd h) h)

theorem undoFrom_wf {past : List PadWrite} {c : Nat} {m : List Host.Cell} (h : Memory.wf m = true) :
    Memory.wf (undoFrom past c m) = true :=
  List.foldlRecOn (motive := fun m => Memory.wf m = true) _ _ h fun m hm w _ => memWrites_wf m w.addr w.old hm

/-- The bytes stand before what later cycles have written, which is written again on top of them. -/
theorem Keeps.padStore {t c a : Nat} {bs : List Byte} (h : Keeps s r) : Keeps s (Machine.padStore t c a bs r) :=
  h.trans ⟨rfl, fun hm => List.foldlRecOn (motive := fun p : List PadWrite × List Host.Cell => Memory.wf p.2 = true) _ _
    (undoFrom_wf hm) fun p hp w _ => memWrites_wf p.2 w.addr w.new hp⟩

theorem Keeps.padWrites {t : Nat} {ws : List Write} (h : Keeps s r) : Keeps s (Machine.padWrites t ws r) :=
  .fold h (fun _ h => .padStore h)

theorem Keeps.fireRound {t c : Nat} (h : Keeps s r) : Keeps s (Machine.fireRound t c r) :=
  .ite (.upd h) (.fold (.upd h) (fun _ h => .useBanks h))

theorem Keeps.startFill {t : Nat} {c : Cmd} {start : Nat} (h : Keeps s r) :
    Keeps s (Machine.startFill t c start r) :=
  .ite (.tileFaultAt h) (.ite (.useBanks h) (.upd (.useBanks h)))

theorem Keeps.startArm {t : Nat} {c : Cmd} {start : Nat} (h : Keeps s r) : Keeps s (Machine.startArm t c start r) :=
  .ite (.fireRound (.upd h)) (.upd h)

theorem Keeps.startGate {t : Nat} {c : Cmd} {start : Nat} {joined : Bool} (h : Keeps s r) :
    Keeps s (Machine.startGate t c start joined r) :=
  .ite (.startFill h) (.ite (.finished (.startArm h)) (.finished (.ite h (.fireRound h))))

theorem KeepsNext.execFillCounted {t : TileId} : KeepsNext s (Machine.execFillCounted t s) := by
  refine .event fun h => ?_
  dsimp only
  split
  · exact .finished (.ite (.fireRound (.upd h)) (.upd h))
  · exact h

theorem Keeps.signalContexts {t last addr seq : Nat} {g : Gate} {y : GateRound} (h : Keeps s r) :
    Keeps s (Machine.signalContexts t last addr seq g y r) := .fold h (fun _ h => .ite (.signalTile h) h)

theorem Keeps.releaseRound {t last addr seq : Nat} (h : Keeps s r) :
    Keeps s (Machine.releaseRound t last addr seq r) := by
  unfold Machine.releaseRound
  dsimp only
  split
  · exact h
  · exact .signalContexts (.upd h)

/-! ### The multiply array -/

theorem Keeps.startAcc {t : Nat} {c : Cmd} (h : Keeps s r) : Keeps s (Machine.startAcc t c r) :=
  .ite (.upd h) (.ite (.raiseBreaches (.upd h)) (.ite (.upd (.useBanks h)) (.duty (.upd (.useBanks h)))))

theorem Keeps.startDrain {t : Nat} {c : Cmd} (h : Keeps s r) : Keeps s (Machine.startDrain t c r) := by
  unfold Machine.startDrain
  extract_lets
  split
  · exact .tileFaultAt (.modTile h)
  split
  next s1 ok hp =>
  have h1 : Keeps s (s1, ok).1 := hp ▸ .useBanks (.raiseDues (.modTile h))
  exact .ite h1 (.modTile h1)

theorem Keeps.startArray {t : Nat} {c : Cmd} (h : Keeps s r) : Keeps s (Machine.startArray t c r) :=
  .ite (.startAcc h) (.startDrain h)

theorem KeepsNext.execAccumulatorsComplete {t : TileId} : KeepsNext s (Machine.execAccumulatorsComplete t s) :=
  .eventOf (fun _ h => .finished (.ite (.upd h) (.upd h)))

theorem KeepsNext.execDrainEnd {t : TileId} : KeepsNext s (Machine.execDrainEnd t s) :=
  .eventOf (fun _ h => .finished (.ite (.releaseRound (.padWrites (.upd h))) (.padWrites (.upd h))))

/-! ### Homes and caches -/

theorem Keeps.askLine {q : MemReq} (h : Keeps s r) : Keeps s (Machine.askLine q r) := by
  unfold Machine.askLine
  split
  · exact .upd h
  · exact h

theorem Keeps.askRange {owner die a n : Nat} {write : Bool} {who : MemUser} (h : Keeps s r) :
    Keeps s (Machine.askRange owner die a n write who r) :=
  .fold h (fun _ h => .askLine h)

theorem Keeps.cancelWriteBack {a : Nat} (h : Keeps s r) : Keeps s (Machine.cancelWriteBack a r) := by
  unfold Machine.cancelWriteBack
  split
  · exact h
  · exact .ite (.upd h) h

theorem Keeps.homeWrite {line : Nat} {data : List Byte} {poison : Bool} (h : Keeps s r) :
    Keeps s (Machine.homeWrite line data poison r) :=
  .ite (.upd (.trans h (.storeLine ..))) (.trans h (.storeLine ..))

theorem Keeps.homeMerge {line : Nat} {data : List Byte} {mask : List Bool} (h : Keeps s r) :
    Keeps s (Machine.homeMerge line data mask r) :=
  .cancelWriteBack (h.trans ⟨rfl, memMasked_wf r.mem _ data mask⟩)

theorem Keeps.askHome {cls line : Nat} {write : Bool} {who : MemUser} {data : List Byte} {mask : List Bool} {poison : Bool}
    (h : Keeps s r) : Keeps s (Machine.askHome cls line write who data mask poison r) := .askLine h

theorem Keeps.writeEffect {line : Nat} {y : HomeReq} (h : Keeps s r) : Keeps s (Machine.writeEffect line y r) :=
  .ite (.homeWrite h) (.ite (.homeMerge h) h)

theorem Keeps.ioPump (h : Keeps s r) : Keeps s (Machine.ioPump r) := .fold h (fun _ h => .ite (.upd h) h)

theorem Keeps.sendSnoop {x : Nat} {m : CohMsg} (h : Keeps s r) : Keeps s (Machine.sendSnoop x m r) :=
  .ite (.upd h) (.upd h)

theorem Keeps.releaseSnoop {x a : Nat} (h : Keeps s r) : Keeps s (Machine.releaseSnoop x a r) := by
  unfold Machine.releaseSnoop
  split
  · exact .upd h
  · exact h

theorem Keeps.sendSnoops {x line op : Nat} {y : HomeReq} {targets : List Nat} (h : Keeps s r) :
    Keeps s (Machine.sendSnoops x line op y targets r) := .fold h (fun _ h => .sendSnoop h)

theorem Keeps.absorbWb {x line agent : Nat} {data : Option (List Byte × Bool)} (h : Keeps s r) :
    Keeps s (Machine.absorbWb x line agent data r) := by
  unfold Machine.absorbWb
  split
  · exact .askLine h
  · exact .upd h

theorem Keeps.applyWb {x line : Nat} {w : HeldWb} (h : Keeps s r) : Keeps s (Machine.applyWb x line w r) :=
  .ite (.absorbWb (.upd h)) (.formRecord (.upd h))

theorem Keeps.giveEffect {x line : Nat} {t : Txn} {dropped : Bool} (h : Keeps s r) :
    Keeps s (Machine.giveEffect x line t dropped r) := by
  unfold Machine.giveEffect
  extract_lets s1 reply sent s2
  have h1 : Keeps s s1 := .ite h (.writeEffect h)
  have h2 : Keeps s s2 := by
    dsimp only [s2]
    split
    · exact h1
    · exact .ite (.upd h1) (.upd h1)
  exact .modHome h2

theorem Keeps.startBackInv {x line : Nat} {forLine : Option Nat} (h : Keeps s r) :
    Keeps s (Machine.startBackInv x line forLine r) :=
  .sendSnoops (.upd h)

theorem Keeps.applyAnnounced {x line : Nat} {q : HomeReq} {w : HeldWb} (h : Keeps s r) :
    Keeps s (Machine.applyAnnounced x line q w r) := .absorbWb h

theorem Keeps.advanceTxn {x line fuel : Nat} (h : Keeps s r) : Keeps s (Machine.advanceTxn x line fuel r) := by
  induction fuel generalizing line r with
  | zero => exact h
  | succ fuel ih =>
    unfold Machine.advanceTxn
    split
    · exact h
    split
    · split
      · exact h
      · split
        · exact .askLine (.upd h)
        · exact ih (.giveEffect h)
    split
    · extract_lets mine s1 s2 s3 s4
      have h3 : Keeps s s3 := .fold (.fold (.upd h) fun _ h => .applyAnnounced h) fun _ h => .applyWb h
      have h4 : Keeps s s4 := .ite (.ioPump h3) h3
      split
      · exact ih (.upd h4)
      · exact .ite (.ite (ih (.startBackInv h4)) (.upd h4)) h4
    · exact h

theorem Keeps.homeServed {line : Nat} {dropped : Bool} (h : Keeps s r) :
    Keeps s (Machine.homeServed line dropped r) := by
  unfold Machine.homeServed
  split
  · exact h
  · split
    · exact .advanceTxn (.giveEffect h)
    · exact h

theorem Keeps.backWritten {line agent : Nat} (h : Keeps s r) : Keeps s (Machine.backWritten line agent r) := by
  unfold Machine.backWritten
  split
  · exact .upd h
  · exact h

theorem Keeps.beginTxn {x line : Nat} {y : HomeReq} (h : Keeps s r) : Keeps s (Machine.beginTxn x line y r) :=
  .ite
    (by
      split
      · exact .advanceTxn (.startBackInv (.upd h))
      · exact .advanceTxn (.upd h))
    (.advanceTxn (.sendSnoops (.upd h)))

theorem Keeps.homeRequest {x line : Nat} {y : HomeReq} (h : Keeps s r) : Keeps s (Machine.homeRequest x line y r) :=
  .ite (.upd h) (.ite (.upd h) (.beginTxn h))

theorem KeepsNext.requestRow {op a line txn : Nat} : KeepsNext s (Machine.requestRow op a line txn s) := by
  unfold Machine.requestRow
  split
  · exact .next (.refl s)
  · exact .eventOf (fun _ h => .homeRequest (.upd h))

theorem KeepsNext.execQueuedRequestStart {line : Nat} : KeepsNext s (Machine.execQueuedRequestStart line s) := by
  unfold Machine.execQueuedRequestStart
  split
  · exact .next (.refl s)
  · exact .eventOf (fun _ h => .ite (.beginTxn (.upd h)) (.upd h))

theorem Keeps.leaveSlice {a line : Nat} (h : Keeps s r) : Keeps s (Machine.leaveSlice a line r) := .ite h (.upd h)

theorem Keeps.cohSend {m : CohMsg} (h : Keeps s r) : Keeps s (Machine.cohSend m r) := .upd h

theorem KeepsNext.snoopRow {op a line : Nat} : KeepsNext s (Machine.snoopRow op a line s) := by
  refine .eventOf fun m h => ?_
  beta_reduce
  extract_lets c x s1 s2 base s3 s4
  have h2 : Keeps s s2 := .ite (.leaveSlice (.upd h)) (.upd h)
  have h4 : Keeps s s4 := by
    dsimp only [s4]
    split
    · exact .cohSend (.cohSend h2)
    · exact .cohSend h2
  exact .ite (.cohSend h4) h4

theorem KeepsNext.responseRow {op a line : Nat} : KeepsNext s (Machine.responseRow op a line s) := by
  unfold Machine.responseRow
  split
  · exact .next (.refl s)
  · refine .eventOf fun _ h => ?_
    dsimp only
    split
    · exact .upd h
    · exact .advanceTxn (.releaseSnoop (.upd h))

theorem KeepsNext.execDataHome {a : AgentId} {line : Nat} : KeepsNext s (Machine.execDataHome a line s) := by
  unfold Machine.execDataHome
  split
  · exact .next (.refl s)
  · exact .eventOf fun _ h => .advanceTxn (.modHome (.askHome (.upd h)))

theorem KeepsNext.execAck {a : AgentId} {line : Nat} : KeepsNext s (Machine.execAck a line s) := by
  unfold Machine.execAck
  split
  · exact .next (.refl s)
  · exact .eventOf (fun _ h => .advanceTxn (.upd h))

theorem Keeps.evictLine {a line : Nat} (h : Keeps s r) : Keeps s (Machine.evictLine a line r) :=
  .leaveSlice (.upd h)

theorem Keeps.cacheRequest {cls a line op : Nat} {c : CLine} (h : Keeps s r) :
    Keeps s (Machine.cacheRequest cls a line op c r) := by
  unfold Machine.cacheRequest
  split
  · exact h
  · exact .ite (.upd h) h

theorem Keeps.edgeFetch {cls a : Nat} {own : Bool} {line : Nat} (h : Keeps s r) :
    Keeps s (Machine.edgeFetch cls a own r line) := by
  unfold Machine.edgeFetch
  dsimp only
  split
  · exact .cacheRequest h
  · exact .ite (.cacheRequest h) h
  · exact h

theorem Keeps.edgeAdd {a : Nat} {q : EdgeAsk} (h : Keeps s r) : Keeps s (Machine.edgeAdd a q r) :=
  .ite (.upd h) (.upd h)

theorem Keeps.edgeOut {a : Nat} {q : EdgeAsk} (h : Keeps s r) : Keeps s (Machine.edgeOut a q r).2 := by
  unfold Machine.edgeOut
  dsimp only
  split
  · exact .ite (.evictLine h) h
  · exact .ite (.evictLine h) h
  · exact .upd h
  · exact h
  · exact h

theorem Keeps.edgeStep {a : Nat} {q : EdgeAsk} (h : Keeps s r) : Keeps s (Machine.edgeStep a q r).2 := by
  have hask {own : Bool} : Keeps s (q.lines.foldl (Machine.edgeFetch q.who.cls a own) r) :=
    .fold h fun _ h => .edgeFetch h
  unfold Machine.edgeStep
  extract_lets line ask ready
  split
  · split
    · exact h
    · exact hask
  · split
    · exact .upd h
    · exact hask
  · split
    · exact hask
    · split
      · exact h
      · exact .edgeAdd h
  · split
    · exact .edgeOut h
    · split
      · exact .edgeOut (.upd h)
      · exact hask

theorem Keeps.edgeGo {a : Nat} {l : List EdgeAsk} {held : List Nat} (h : Keeps s r) :
    Keeps s (Machine.edgeGo a l held r).2 := by
  induction l generalizing held r with
  | nil => exact h
  | cons q l ih =>
    unfold Machine.edgeGo
    split
    · exact ih h
    · exact ih (.edgeStep h)

theorem Keeps.edgeTurn {a : Nat} (h : Keeps s r) : Keeps s (Machine.edgeTurn a r) := .ite h (.upd (.edgeGo h))

theorem Keeps.askEdgeReads {d : Nat} {who : EdgeUser} {rs : List (Nat × Nat)} (h : Keeps s r) :
    Keeps s (Machine.askEdgeReads d who rs r) :=
  .edgeTurn (.upd h)

theorem Keeps.askEdgePuts {d : Nat} {who : EdgeUser} {ps : List (EdgeKind × Nat × List Byte)} (h : Keeps s r) :
    Keeps s (Machine.askEdgePuts d who ps r) := .edgeTurn (.upd h)

theorem KeepsNext.dataRow {op a line : Nat} {wait st : CState} :
    KeepsNext s (Machine.dataRow op a line wait st s) :=
  .eventOf (fun _ h => .edgeTurn (.upd h))

theorem Keeps.ioRequest {cls op line : Nat} {data : List Byte} {mask : List Bool} (h : Keeps s r) :
    Keeps s (Machine.ioRequest cls op line data mask r).2 := .ioPump (.upd h)

theorem Keeps.ioWriteLine {cls a : Nat} {bs : List Byte} (h : Keeps s r) :
    Keeps s (Machine.ioWriteLine cls a bs r).2 := by
  unfold Machine.ioWriteLine
  split
  · exact .ioRequest h
  · exact .ioRequest h

theorem Keeps.ioWrites {cls fuel a : Nat} {bs : List Byte} (h : Keeps s r) :
    Keeps s (Machine.ioWrites cls fuel a bs r).2 := by
  induction fuel generalizing a bs r with
  | zero => exact h
  | succ fuel ih =>
    unfold Machine.ioWrites
    split
    · exact h
    · exact ih (.ioWriteLine h)

theorem Keeps.ioDone {k : Nat} (h : Keeps s r) : Keeps s (Machine.ioDone k r) :=
  .fold (.upd h) (fun _ h => .completeQ h)

theorem Keeps.acknowledge {a line : Nat} {m : CohMsg} (h : Keeps s r) : Keeps s (Machine.acknowledge a line m r) :=
  .upd h

theorem KeepsNext.execCmp {a : AgentId} {line : Nat} : KeepsNext s (Machine.execCmp a line s) := by
  unfold Machine.execCmp
  split
  · exact .eventOf fun _ h => .acknowledge (.elim (.upd h) fun _ => .ioDone (.upd h))
  · exact .eventOf fun _ h => .edgeTurn (.upd h)

theorem Keeps.finishRead {y : PlcRead} (h : Keeps s r) : Keeps s (Machine.finishRead y r) :=
  .ite h (.ite (.upd h) (.upd h))

theorem Keeps.ioReceive {m : CohMsg} {k : Nat} (h : Keeps s r) : Keeps s (Machine.ioReceive m k r) :=
  .fold (.upd h) (fun _ h => .finishRead h)

theorem KeepsNext.execDataI {a : AgentId} {line : Nat} : KeepsNext s (Machine.execDataI a line s) :=
  .eventOf (fun _ h => .elim (.upd h) (fun _ => .ioReceive h))

theorem KeepsNext.execCacheEviction {a : AgentId} {line : Nat} : KeepsNext s (Machine.execCacheEviction a line s) :=
  .event (fun h => .ite (.leaveSlice (.upd h)) (.evictLine h))

theorem KeepsNext.wbRow {op a line : Nat} : KeepsNext s (Machine.wbRow op a line s) := by
  unfold Machine.wbRow
  split
  · exact .next (.refl s)
  · refine .eventOf fun _ h => ?_
    dsimp only
    split
    · exact .applyWb (.upd h)
    · exact .advanceTxn (.upd h)

/-! ### Accesses of the harts -/

theorem Keeps.hartStore {a line off : Nat} {bs : List Byte} (h : Keeps s r) :
    Keeps s (Machine.hartStore a line off bs r) := by
  unfold Machine.hartStore
  dsimp only
  split
  · exact .upd h
  · exact .upd h
  · exact .cacheRequest h
  · exact .cacheRequest h
  · exact h

theorem Keeps.hartLoad {a line off n : Nat} (h : Keeps s r) : Keeps s (Machine.hartLoad a line off n r) := by
  unfold Machine.hartLoad
  dsimp only
  split
  · exact .ite (.upd h) (.upd h)
  · exact .ite (.upd h) (.upd h)
  · exact .ite (.upd h) (.upd h)
  · exact .ite (.upd h) (.upd h)
  · exact .cacheRequest h
  · exact h

theorem Keeps.hartAmo {a line off : Nat} {bs : List Byte} (h : Keeps s r) :
    Keeps s (Machine.hartAmo a line off bs r) := by
  unfold Machine.hartAmo
  dsimp only
  split
  · exact .ite (.upd h) (.hartStore (.upd h))
  · exact .ite (.upd h) (.hartStore (.upd h))
  · exact .cacheRequest h
  · exact .cacheRequest h
  · exact h

theorem Keeps.useCaches {x a : Nat} {fetch : Bool} {addr n : Nat} (h : Keeps s r) :
    Keeps s (Machine.useCaches x a fetch addr n r) :=
  .ite (.upd h) h

theorem Keeps.hartWrite {x a line off n : Nat} {act : State → State} (h : Keeps s r)
    (hact : ∀ {q}, Keeps s q → Keeps s (act q)) : Keeps s (Machine.hartWrite x a line off n act r) :=
  .ite (.upd (hact (.useCaches h))) (hact h)

theorem Keeps.hartLoadReserved {x a line off n : Nat} (h : Keeps s r) :
    Keeps s (Machine.hartLoadReserved x a line off n r) :=
  .ite (.upd (.hartLoad (.useCaches h))) (.hartLoad (.useCaches h))

theorem Keeps.hartStoreConditional {x a line off : Nat} {bs : List Byte} (h : Keeps s r) :
    Keeps s (Machine.hartStoreConditional x a line off bs r) := by
  have hw : Keeps s (Machine.hartWrite x a line off bs.length (Machine.hartStore a line off bs) (r.reply { value := 0 })) :=
    .hartWrite (.upd h) fun h => .hartStore h
  exact .ite (.upd h) (.ite (.upd hw) (.ite (.cacheRequest h) h))

theorem Keeps.hartCbo {a line : Nat} {clean : Bool} (h : Keeps s r) : Keeps s (Machine.hartCbo a line clean r) := by
  unfold Machine.hartCbo
  split
  · exact .ite (.evictLine h) h
  · exact .ite h (.evictLine h)
  · exact .ite h (.leaveSlice (.upd h))
  · exact h

theorem Keeps.bootRamAccess {kind : HartAccess} {addr : Nat} {data : List Byte} (h : Keeps s r) :
    Keeps s (Machine.bootRamAccess kind addr data r) := by
  cases kind with
  | load | loadReserved | fetch => exact .upd h
  | amo | storeConditional => exact .upd (h.trans (.store ..))
  | store | cboZero => exact h.trans (.store ..)
  | cboClean | cboFlush | cboInval | prefetch => exact h

theorem KeepsNext.execHartMemoryAccess {x : HartId} {kind : HartAccess} {addr : Nat} {data : List Byte} :
    KeepsNext s (Machine.execHartMemoryAccess x kind addr data s) := by
  refine .event fun h => ?_
  dsimp only
  split
  iterate 2
    · refine .ite (.bootRamAccess h) (.ite (.ite h (.upd h)) (.ite ?_ h))
      cases kind with
      | load | fetch => exact .hartLoad (.useCaches h)
      | store | cboZero => exact .hartWrite h fun h => .hartStore h
      | amo => exact .hartWrite h fun h => .hartAmo h
      | loadReserved => exact .hartLoadReserved h
      | storeConditional => exact .hartStoreConditional h
      | cboClean | cboFlush | cboInval => exact .hartCbo h
      | prefetch => exact .ite (.cacheRequest h) h
  iterate 3
    · exact .ite (.upd h) h
  · exact .ite h (.ite (.upd h) h)
  · exact .ite h (.upd h)

theorem KeepsNext.execBusyLimit {line : Nat} : KeepsNext s (Machine.execBusyLimit line s) := by
  unfold Machine.execBusyLimit
  split
  · exact .next (.refl s)
  · exact .eventOf (fun _ h => .formRecord (.upd h))

theorem Keeps.startPurge {x : Nat} {v : Word} (h : Keeps s r) : Keeps s (Machine.startPurge x v r) :=
  .ite (.upd h) (.ite (.upd h) (.fold (.upd h) (fun _ h => .ite h (.advanceTxn (.startBackInv h)))))

/-! ### Control words, waits, strings and the log of a tile -/

theorem KeepsNext.execCtNop {t : TileId} : KeepsNext s (Machine.execCtNop t s) :=
  .event fun h => .ite (.encodingFault h) (.judge (.upd h))

theorem Keeps.setWaiter {kind ch : Nat} {w : Option Nat} (h : Keeps s r) :
    Keeps s (Machine.setWaiter kind ch w r) :=
  .ite (.upd h) (.ite (.upd h) h)

theorem KeepsNext.execTkWait {t : TileId} : KeepsNext s (Machine.execTkWait t s) := by
  refine .issueWord fun _ h => ?_
  dsimp only
  split
  · exact .tileFaultAt (.upd h)
  · exact .setWaiter (.upd h)

theorem Keeps.startStrings {t : Nat} {c : Cmd} {start : Nat} (h : Keeps s r) :
    Keeps s (Machine.startStrings t c start r) := by
  unfold Machine.startStrings
  extract_lets w x op kind obj msg
  split
  · exact .tileFaultAt h
  refine .ite (.upd h) (.ite (.upd h) ?_)
  split
  · split
    next s1 ok hp =>
    have h1 : Keeps s (s1, ok).1 := by
      rw [← hp]
      split
      · exact .useBanks h
      · exact h
    exact .ite h1 (.upd h1)
  · exact .tileFaultAt h

theorem Keeps.startLogger {t : Nat} {c : Cmd} {start : Nat} (h : Keeps s r) :
    Keeps s (Machine.startLogger t c start r) :=
  .ite (.upd h) (.ite (.upd h) (.upd h))

theorem Keeps.startToken {t : Nat} {c : Cmd} {start : Nat} (h : Keeps s r) :
    Keeps s (Machine.startToken t c start r) :=
  .ite (.tileFaultAt h) (.pumpSignals (.upd h))

theorem KeepsNext.execTileSceneEnd {t : TileId} : KeepsNext s (Machine.execTileSceneEnd t s) := by
  refine .event fun h => ?_
  dsimp only
  split
  · exact .upd h
  · exact .upd h

/-! ### Barriers, reductions and votes -/

theorem Keeps.pumpBarrier {b : Nat} (h : Keeps s r) : Keeps s (Machine.pumpBarrier b r) := .ite (.upd h) h

theorem Keeps.pumpRed {o : Nat} (h : Keeps s r) : Keeps s (Machine.pumpRed o r) := .ite (.upd h) h

theorem Keeps.pumpVote {o : Nat} (h : Keeps s r) : Keeps s (Machine.pumpVote o r) := .ite (.upd h) h

theorem Keeps.countMerged {d n : Nat} (h : Keeps s r) : Keeps s (Machine.countMerged d n r) := .ite h (.upd h)

theorem Keeps.tokenAt {unit ch k sent addr : Nat} (h : Keeps s r) :
    Keeps s (Machine.tokenAt unit ch k sent addr r) :=
  .ite (.signalDevice h) h

theorem KeepsNext.execTokenSignalMessage {port : Option PortId} {ch : Fin 16384} {k : W32} :
    KeepsNext s (Machine.execTokenSignalMessage port ch k s) := by
  unfold Machine.execTokenSignalMessage
  split
  · exact .eventOf fun _ h => .tokenAt (.countMerged (.fold h fun _ h => .upd h))
  · exact .event fun h => .tokenAt h

theorem KeepsNext.execBarrierArrival {port : Option PortId} {obj : Nat} {a : Arrivals} :
    KeepsNext s (Machine.execBarrierArrival port obj a s) := by
  unfold Machine.execBarrierArrival
  split
  · exact .event (fun h => .fold (.countMerged (.fold h (fun _ h => .upd h))) (fun _ h => .pumpBarrier (.upd h)))
  · exact .event (fun h => .pumpBarrier (.upd h))

theorem KeepsNext.execReductionOperand {port : Option PortId} {obj : Fin 1024} {unit : Nat}
    {redOp : Option (Fin 5)} {value : Option Word} :
    KeepsNext s (Machine.execReductionOperand port obj unit redOp value s) := by
  unfold Machine.execReductionOperand
  split
  · exact .eventOf (fun _ h => .pumpRed (.upd h))
  · exact .event (fun h => .pumpRed (.upd h))

theorem Keeps.declineStep {tr reason : Nat} (h : Keeps s r) : Keeps s (Machine.declineStep tr reason r) :=
  .evtSend (.upd h)

theorem Keeps.commitStep {tr : Nat} (h : Keeps s r) : Keeps s (Machine.commitStep tr r) :=
  .ite (.evtSend (.evtSend (.upd h))) (.evtSend (.upd h))

theorem Keeps.stepOutcome {tr : Nat} {go : Bool} (h : Keeps s r) : Keeps s (Machine.stepOutcome tr go r) :=
  .ite (.ite (.commitStep h) (.declineStep h)) h

theorem Keeps.unknownStep {tr : Nat} (h : Keeps s r) : Keeps s (Machine.unknownStep tr r) :=
  .ite h (.evtSend (.upd h))

theorem KeepsNext.execVoteCast {port : Option PortId} {obj : Fin 256} {unit : Nat} {go : Bool} :
    KeepsNext s (Machine.execVoteCast port obj unit go s) := by
  unfold Machine.execVoteCast
  split
  · exact .eventOf (fun _ h => .pumpVote (.upd h))
  · exact .event (fun h => .pumpVote (.upd h))

theorem Keeps.noteCause {obj cause : Nat} (h : Keeps s r) : Keeps s (Machine.noteCause obj cause r) := by
  refine .fold h fun _ h => ?_
  split
  · exact .upd h
  · exact h

theorem Keeps.declineAborted {obj : Nat} (h : Keeps s r) : Keeps s (Machine.declineAborted obj r) :=
  .fold h (fun _ h => .ite (.stepOutcome h) h)

theorem KeepsNext.execVoteOutcome {obj : Fin 256} {fromRoot : Bool} :
    KeepsNext s (Machine.execVoteOutcome obj fromRoot s) := by
  refine .event fun h => ?_
  beta_reduce
  extract_lets lost go s1
  have h1 : Keeps s s1 := .ite (.upd h) (.declineAborted (.noteCause h))
  exact .pumpVote (.upd h1)

theorem Keeps.abortVotes {u : Nat} (h : Keeps s r) : Keeps s (Machine.abortVotes u r) :=
  .fold h (fun _ h => .ite h (.pumpVote (.upd h)))

theorem Keeps.departVotes {p : Nat} (h : Keeps s r) : Keeps s (Machine.departVotes p r) :=
  .fold (.upd h) (fun _ h => .pumpVote h)

theorem Keeps.failEpoch (h : Keeps s r) : Keeps s (Machine.failEpoch r) := .ite (.evtSend (.upd h)) h

theorem Keeps.noteMember {join : Bool} {span x y z : Nat} (h : Keeps s r) :
    Keeps s (Machine.noteMember join span x y z r) :=
  .evtSend (.upd h)

theorem KeepsNext.execMembershipNotice {join : Bool} {span x y z : Nat} {viaPort : Option PortId} :
    KeepsNext s (Machine.execMembershipNotice join span x y z viaPort s) := by
  refine .event fun h => ?_
  beta_reduce
  extract_lets s1
  have h1 : Keeps s s1 := .failEpoch (.noteMember h)
  split
  · exact .ite (.upd h1) (.fold (.departVotes h1) fun _ h => .formRecord h)
  · exact h1

/-! ### The rings of the engines, and the reduction engine -/

theorem Keeps.setEngState {u n : Nat} (h : Keeps s r) : Keeps s (Machine.setEngState u n r) :=
  .ite (.upd h) (.ite (.upd h) (.ite (.upd h) (.ite (.upd h) h)))

theorem Keeps.engineFault {u code entry info0 : Nat} (h : Keeps s r) :
    Keeps s (Machine.engineFault u code entry info0 r) :=
  .unitFault (.setEngState h)

theorem Keeps.engineWait {u ch k limit entry : Nat} (h : Keeps s r) :
    Keeps s (Machine.engineWait u ch k limit entry r) := by
  unfold Machine.engineWait
  split
  · exact .engineFault h
  · exact .setWaiter (.upd (.setEngState h))

theorem Keeps.engineStrWait {u kind obj limit entry : Nat} (h : Keeps s r) :
    Keeps s (Machine.engineStrWait u kind obj limit entry r) :=
  .upd (.setEngState h)

theorem Keeps.engineSignal {u ch : Nat} (h : Keeps s r) : Keeps s (Machine.engineSignal u ch r) := .ite h (.upd h)

theorem Keeps.engineArrive {u : Nat} (h : Keeps s r) : Keeps s (Machine.engineArrive u r) := by
  unfold Machine.engineArrive
  dsimp only
  split
  · exact .upd (.setEngState h)
  · exact .setEngState h

theorem Keeps.redEntry {d : Nat} {act : List Byte → State → State} (h : Keeps s r)
    (hact : ∀ {q} e, Keeps s q → Keeps s (act e q)) : Keeps s (Machine.redEntry d act r) :=
  .ite (hact _ h) (.engineWait h)

theorem Keeps.runNorm {d : Nat} {e : List Byte} (h : Keeps s r) : Keeps s (Machine.runNorm d e r) :=
  .ite (.ite (.engineFault h) (.upd h)) (.engineFault h)

theorem KeepsNext.execRedNorm {d : ChipId} : KeepsNext s (Machine.execRedNorm d s) :=
  .event (fun h => .ite (.engineFault h) (.redEntry h (fun _ h => .runNorm h)))

theorem Keeps.contributeNorm {d : Nat} {e : List Byte} (h : Keeps s r) :
    Keeps s (Machine.contributeNorm d e r) := by
  unfold Machine.contributeNorm
  dsimp only
  split
  · exact .engineFault h
  · exact .engineStrWait (.upd h)

theorem KeepsNext.execRedNormVote {d : ChipId} : KeepsNext s (Machine.execRedNormVote d s) :=
  .event (fun h => .ite (.upd h) (.redEntry h (fun _ h => .contributeNorm h)))

theorem Keeps.addContribution {d total : Nat} {c : Contribution} (h : Keeps s r) :
    Keeps s (Machine.addContribution d total c r) :=
  .ite (.trans (.upd h) (.store ..)) (.upd h)

theorem Keeps.drainReorder {d total addr fuel : Nat} (h : Keeps s r) :
    Keeps s (Machine.drainReorder d total addr fuel r) := by
  induction fuel generalizing r with
  | zero => exact h
  | succ fuel ih =>
    unfold Machine.drainReorder
    dsimp only
    split
    · exact ih (.addContribution (.upd h))
    · exact h

theorem Keeps.contributionFault {d code : Nat} {c : Contribution} (h : Keeps s r) :
    Keeps s (Machine.contributionFault d code c r) :=
  .ite h (.unitFault (.upd h))

theorem KeepsNext.execReductionContribution {d : ChipId} {i : Nat} :
    KeepsNext s (Machine.execReductionContribution d i s) := by
  refine .eventOf fun _ h => ?_
  beta_reduce
  extract_lets s1 flow? total s2
  have h2 : Keeps s s2 := .ite (.upd h) (.upd h)
  exact .ite h2 (.ite (.contributionFault h2)
    (.ite (.drainReorder (.addContribution h2)) (.ite (.upd h2) (.contributionFault h2))))

/-! ### The movers -/

theorem KeepsNext.issueMv {t op m : Nat} : KeepsNext s (Machine.issueMv t op m s) := .issueWord (fun _ h => .upd h)

theorem Keeps.startMover {t m : Nat} {c : Cmd} {start : Nat} (h : Keeps s r) :
    Keeps s (Machine.startMover t m c start r) := by
  unfold Machine.startMover
  extract_lets x op p n drop
  split
  · exact .raiseBreaches (.upd h)
  · have hb {us : List (BankUse × Nat)} : Keeps s (if op = 0x30 then (r, true) else Machine.useBanks t start us r).1 := by
      split
      · exact h
      · exact .useBanks h
    exact .ite (.upd hb) (.upd (.upd hb))

theorem Keeps.takeLinkSlot {near far at_ slot : Nat} (h : Keeps s r) :
    Keeps s (Machine.takeLinkSlot near far at_ slot r) := by
  unfold Machine.takeLinkSlot
  split
  · exact .upd h
  · exact h

theorem KeepsNext.execMoverLineSlot {t : TileId} {mover : Fin 2} {slot cycle : Nat} {ecc : Ecc} :
    KeepsNext s (Machine.execMoverLineSlot t mover slot cycle ecc s) := by
  unfold Machine.execMoverLineSlot
  extract_lets
  split
  · exact .event fun h => .tileFaultAt (.upd h)
  · exact .eventOf fun _ h => .modTile (.ite (h.trans (.eccRead ..)) (.ite (.takeLinkSlot h) h))

theorem Keeps.bankFault {t peer seq addr code info0 : Nat} (h : Keeps s r) :
    Keeps s (Machine.bankFault t peer seq addr code info0 r) :=
  .ite h (.unitFault (.upd h))

theorem Keeps.putLine {op : Nat} {p : ConvPar} {l : MvLine} (h : Keeps s r) : Keeps s (Machine.putLine op p l r) :=
  .fold h (fun _ h => .trans h (.store ..))

theorem Keeps.landPeer {t : Nat} {y : Run} {p : ConvPar} {l : MvLine} (h : Keeps s r) :
    Keeps s (Machine.landPeer t y p l r) := by
  unfold Machine.landPeer
  dsimp only
  split
  · exact .putLine h
  · exact .fold h (fun _ h => .bankFault h)

theorem Keeps.landLoad {t m cycle : Nat} {x : Run} {p : ConvPar} {line : Nat} (h : Keeps s r) :
    Keeps s (Machine.landLoad t m cycle x p line r) :=
  .ite (.fold (.useBanks h) fun _ h => .padStore h) (.useBanks h)

theorem KeepsNext.execMoverLineLands {t : TileId} {mover : Fin 2} {line cycle : Nat} :
    KeepsNext s (Machine.execMoverLineLands t mover line cycle s) := by
  refine .eventOf fun _ h => .ite (.tileFaultAt (.upd h)) (.ite (.landLoad (.upd h)) (.ite (.landPeer (.upd h)) ?_))
  split
  · exact .upd h
  · exact .ite ((Keeps.upd h).trans (.storeLine ..)) (.putLine (.upd h))

theorem Keeps.tagPart {tag : Nat} (h : Keeps s r) : Keeps s (Machine.tagPart tag r) := .ite h (.upd h)

theorem KeepsNext.execMoverFinish {t : TileId} {mover : Fin 2} {cycle : Nat} :
    KeepsNext s (Machine.execMoverFinish t mover cycle s) := by
  refine .eventOf fun _ h => ?_
  beta_reduce
  extract_lets x w op p s1 s2 s3 s4
  have h2 : Keeps s s2 := .ite (.upd h) (.upd h)
  have h3 : Keeps s s3 := .ite (.tagPart h2) h2
  exact .ite (.upd h) (.finished (.ite h3 (.descSignal h3)))

/-! ### Ports and the fabric -/

theorem Keeps.writeTag {e : Nat} {v : Word} (h : Keeps s r) : Keeps s (Machine.writeTag e v r) :=
  .ite (.upd h) (.upd h)

theorem Keeps.writeBoard {n reg : Nat} {v : Word} (h : Keeps s r) : Keeps s (Machine.writeBoard n reg v r) :=
  .ite (.upd h) (.upd h)

theorem KeepsNext.execFetchCheck {n : Fin 1024} : KeepsNext s (Machine.execFetchCheck n s) := by
  refine .eventOf fun _ h => .ite (.tagPart (.upd h)) (.ite (.upd h) ?_)
  split
  · exact .formRecord (.upd h)
  · exact .upd h

theorem KeepsNext.execRepeatRequest {flow : Fin 262144} : KeepsNext s (Machine.execRepeatRequest flow s) :=
  .eventOf (fun _ h => .ite (.ite (.upd h) h) (.ite (.upd h) h))

theorem Keeps.losePort {p code state : Nat} (h : Keeps s r) : Keeps s (Machine.losePort p code state r) := by
  unfold Machine.losePort
  extract_lets s1 s2
  have h2 : Keeps s s2 := by
    dsimp only [s2]
    split
    · exact .formRecord (.upd h)
    · exact .fold (.upd h) fun _ h => .formRecord h
  exact .ite (.upd h2) h2

theorem Keeps.judgePort {p : Nat} (h : Keeps s r) : Keeps s (Machine.judgePort p r) :=
  .ite h (.ite (.losePort h) (.ite (.upd h) (.ite (.upd h) h)))

theorem KeepsNext.execOpenerReceived {p : PortId} {opener : List Byte} :
    KeepsNext s (Machine.execOpenerReceived p opener s) := .event (fun h => .ite (.upd h) (.judgePort (.upd h)))

theorem Keeps.unknownAll (h : Keeps s r) : Keeps s (Machine.unknownAll r) := by
  refine .fold h fun _ h => .ite ?_ h
  split
  · exact .unknownStep (.upd h)
  · exact h

theorem Keeps.leaveSpan (h : Keeps s r) : Keeps s (Machine.leaveSpan r) := by
  unfold Machine.leaveSpan
  extract_lets was c _ s1 s2
  have h2 : Keeps s s2 := .noteMember (.upd h)
  exact .ite (.unknownAll (.failEpoch (.upd h2))) (.upd h)

theorem Keeps.passSlot {p slot : Nat} {line : Option (Nat × List Byte)} (h : Keeps s r) :
    Keeps s (Machine.passSlot p slot line r) := .upd h

theorem Keeps.launch {p slot flow : Nat} {data : List Byte} (h : Keeps s r) :
    Keeps s (Machine.launch p slot flow data r) := .passSlot (.upd h)

theorem Keeps.holdForCredit {p : Nat} {waited : Bool} (h : Keeps s r) :
    Keeps s (Machine.holdForCredit p waited r) := .upd h

theorem KeepsNext.execForwardLaunch {p : PortId} {slot : Nat} :
    KeepsNext s (Machine.execForwardLaunch p slot s) := by
  refine .event fun h => ?_
  dsimp only
  split
  · exact .passSlot h
  · split
    · exact .passSlot h
    · exact .ite (.passSlot h) (.ite (.holdForCredit (.passSlot (.modPort h))) (.modFlow (.launch (.modPort h))))

theorem Keeps.deliverLine {d : Nat} {x : FlowRec} {data : List Byte} (h : Keeps s r) :
    Keeps s (Machine.deliverLine d x data r) := by
  unfold Machine.deliverLine
  extract_lets y a s1 s2
  have h2 : Keeps s s2 := by
    dsimp only [s2]
    split
    · exact .upd h
    · exact .upd (.upd h)
  exact .ite (.upd h) (.ite (.unitFault (.upd h)) (.ite (.askLine (h2.trans (.storeLine ..))) (.upd (h2.trans (.store ..)))))

theorem Keeps.bufferLine {p : Nat} {y : FlowRec} {data : List Byte} (h : Keeps s r) :
    Keeps s (Machine.bufferLine p y data r) :=
  .ite (.upd h) (.unitFault h)

theorem Keeps.reduceLine {d : Nat} {y : FlowRec} {data : List Byte} (h : Keeps s r) :
    Keeps s (Machine.reduceLine d y data r) :=
  .ite (.unitFault h) (.upd h)

theorem KeepsNext.execFabricLineArrival {p : PortId} : KeepsNext s (Machine.execFabricLineArrival p s) := by
  refine .eventOf fun l h => ?_
  beta_reduce
  extract_lets s1 d
  have h1 : Keeps s s1 := .upd h
  split
  · exact .formRecord h1
  · exact .ite h1 (.ite (.bufferLine (.upd h1)) (.ite (.deliverLine h1) (.ite (.reduceLine h1) (.bufferLine (.deliverLine h1)))))

theorem Keeps.askSend {d : Nat} {y : FlowRec} {first count : Nat} (h : Keeps s r) :
    Keeps s (Machine.askSend d y first count r) := by
  unfold Machine.askSend
  dsimp only
  split
  · exact .engineFault h
  · exact .fold (.upd h) (fun _ h => .ite (.askLine h) h)

theorem Keeps.sendLine {d slot i : Nat} {x : FlowRec} {count : State → State} (h : Keeps s r)
    (hcount : ∀ {q}, Keeps s q → Keeps s (count q)) : Keeps s (Machine.sendLine d slot i x count r) := by
  unfold Machine.sendLine
  split
  · exact .passSlot h
  · exact .ite (.modFab (.holdForCredit (.passSlot h))) (hcount (.modFab (.launch (.modFlow h))))

theorem Keeps.repeatLine {d slot : Nat} {rep : Nat × Nat} {y : FlowRec} (h : Keeps s r) :
    Keeps s (Machine.repeatLine d slot rep y r) :=
  .ite (.askSend h) (.sendLine h (fun h => .upd h))

theorem KeepsNext.execFabSend {d : ChipId} {slot : Nat} : KeepsNext s (Machine.execFabSend d slot s) := by
  refine .event fun h => .ite ?_ (.ite h (.ite (.engineFault h) ?_))
  · split
    · split
      · exact .ite (.repeatLine h) h
      · exact h
    · exact h
  · split
    · exact .engineFault h
    refine .ite (.engineWait h) ?_
    split
    · exact .ite (.askSend (.upd h)) (.ite (.sendLine h fun h => .upd h) h)
    · exact h

theorem KeepsNext.execFabRecv {d : ChipId} : KeepsNext s (Machine.execFabRecv d s) := by
  refine .event fun h => ?_
  dsimp only
  split
  · exact .engineFault h
  · exact .upd h

/-! ### Vector chains -/

theorem KeepsNext.issueVx {t op : Nat} {sel : Nat → Bool} : KeepsNext s (Machine.issueVx t op sel s) :=
  .issueWord (fun _ h => .upd h)

theorem Keeps.startChain {t : Nat} {cs : List Cmd} {last : Cmd} (h : Keeps s r) :
    Keeps s (Machine.startChain t cs last r) := by
  unfold Machine.startChain
  extract_lets x v m start drop inPadAll
  split
  · exact .raiseBreaches (.modTile h)
  · exact .ite (.modTile (.useBanks (.modTile h))) (.duty (.modTile (.useBanks (.modTile h))))

theorem KeepsNext.execChainStart {t : TileId} : KeepsNext s (Machine.execChainStart t s) := by
  refine .eventOf fun _ h => ?_
  dsimp only
  split
  · exact .startChain h
  · exact h

theorem Keeps.writeOut {t : Nat} {f : FormatRec} {d : Desc} {idx : List Nat} {p : State × Counts} {o : VxOut} (h : Keeps s p.1) :
    Keeps s (Machine.writeOut t f d idx p o).1 := .padStore h

theorem KeepsNext.execChainFinish {t : TileId} : KeepsNext s (Machine.execChainFinish t s) := by
  refine .eventOf fun x h => ?_
  beta_reduce
  extract_lets v s1 out s2
  have h2 : Keeps s s2 := .ite (.upd h) (.upd (.upd h))
  have h3 : Keeps s (match v.d with
      | .stream i => out.out.foldl (Machine.writeOut t (s2.image.formatOf t 4) (descAt (s2.tile t).imem i) x.cmd.idx) (s2, {})
      | _ => (s2, {})).1 := by
    split
    · exact List.foldlRecOn (motive := fun p : State × Counts => Keeps s p.1) _ _ h2 fun _ hp _ _ => .writeOut hp
    · exact h2
  exact .fold (.fold h3 fun _ h => .ite (.upd h) h) fun _ h => .finished h

/-! ### The Grotto -/

theorem Keeps.storeSpan {a : Nat} {bs : List Byte} (h : Keeps s r) : Keeps s (Machine.storeSpan a bs r) :=
  .fold (.trans h (.store ..)) (fun _ h => .trans h (.storeLine ..))

theorem Keeps.writeGen {g unit : Nat} {who : MemUser} {i off : Nat} {bs : List Byte} {dirty : Bool} {completes : Nat → Bool}
    (h : Keeps s r) : Keeps s (Machine.writeGen g unit who i off bs dirty completes r) :=
  .modGrot (.fold (.askRange (.storeSpan h)) fun _ h => .upd h)

theorem Keeps.grottoRead {g unit a : Nat} {e : Ecc} (h : Keeps s r) : Keeps s (Machine.grottoRead g unit a e r) :=
  .ite (.upd (.trans h (.eccRead ..))) (.trans h (.eccRead ..))

theorem Keeps.grottoFault {g code info0 : Nat} (h : Keeps s r) : Keeps s (Machine.grottoFault g code info0 r) :=
  .engineFault (.upd h)

theorem Keeps.afterReads {g port a n : Nat} {act : State → State} (h : Keeps s r)
    (hact : ∀ {q}, Keeps s q → Keeps s (act q)) : Keeps s (Machine.afterReads g port a n act r) :=
  .ite (hact h) (.askRange (.upd h))

theorem Keeps.unlessSkipping {g : Nat} {f : State → State} (h : Keeps s r)
    (hf : ∀ {q}, Keeps s q → Keeps s (f q)) : Keeps s (Machine.unlessSkipping g f r) :=
  .ite (.upd h) (hf h)

theorem KeepsNext.execUpdNormWait {g : GrottoId} : KeepsNext s (Machine.execUpdNormWait g s) := by
  refine .event fun h => .ite (.grottoFault h) (.unlessSkipping h fun h => ?_)
  split
  · exact .grottoFault h
  · exact .engineStrWait (.upd h)

theorem KeepsNext.execNormOutcome {g : GrottoId} : KeepsNext s (Machine.execNormOutcome g s) :=
  .eventOf (fun _ h => .ite (.upd h) (.stepOutcome (.upd h)))

theorem Keeps.nextEntry {g : Nat} (h : Keeps s r) : Keeps s (Machine.nextEntry g r) := .upd h

theorem Keeps.runConst {g : Nat} (h : Keeps s r) : Keeps s (Machine.runConst g r) :=
  .ite (.grottoFault h) (.ite (.grottoFault h) (.ite (.grottoFault h) (.ite (.afterReads h fun h => .upd h) (.upd h))))

theorem Keeps.runInit {g : Nat} (h : Keeps s r) : Keeps s (Machine.runInit g r) := by
  refine .ite (.nextEntry (.ite (.upd h) h)) (.ite (.grottoFault h) (.ite (.grottoFault h) (.ite (.grottoFault h) ?_)))
  split
  · exact .grottoFault h
  · exact .modGrot (.writeGen (.askRange (.storeSpan h)))

theorem Keeps.beginGroup {g q : Nat} (h : Keeps s r) : Keeps s (Machine.beginGroup g q r) := by
  unfold Machine.beginGroup
  dsimp only
  split
  · exact .grottoFault h
  · exact .upd h

theorem Keeps.startUpdate {g : Nat} (h : Keeps s r) : Keeps s (Machine.startUpdate g r) :=
  .ite (.grottoFault h) (.ite (.grottoFault h) (.ite (.beginGroup (.upd h)) (.grottoFault h)))

theorem KeepsNext.execUpdUpdate {g : GrottoId} : KeepsNext s (Machine.execUpdUpdate g s) :=
  .event (fun h => .unlessSkipping h (fun h => .ite (.engineWait h) (.startUpdate h)))

theorem Keeps.grottoFetch {g m ch : Nat} {e : Ecc} (h : Keeps s r) : Keeps s (Machine.grottoFetch g m ch e r) := by
  unfold Machine.grottoFetch
  dsimp only
  split
  · exact h
  · exact .grottoRead (.upd h)

theorem KeepsNext.execProgramGroupResume {g : GrottoId} : KeepsNext s (Machine.execProgramGroupResume g s) := by
  refine .event fun h => ?_
  dsimp only
  split
  · exact .grottoFault h
  · exact .upd h

theorem Keeps.writeOutput {g j : Nat} (h : Keeps s r) : Keeps s (Machine.writeOutput g j r) :=
  .ite (.modGrot (.modGrot (.writeGen h))) (.modGrot (.writeGen h))

theorem Keeps.finishGroup {g : Nat} (h : Keeps s r) : Keeps s (Machine.finishGroup g r) :=
  .beginGroup (.fold h (fun _ h => .writeOutput h))

theorem Keeps.issueInstr {g : Nat} (h : Keeps s r) : Keeps s (Machine.issueInstr g r) :=
  .ite (.finishGroup (.upd h)) (.upd h)

theorem KeepsNext.execPrg {op g : Nat} : KeepsNext s (Machine.execPrg op g s) := .event (fun h => .issueInstr h)

theorem KeepsNext.execUpdRoot {g : GrottoId} : KeepsNext s (Machine.execUpdRoot g s) :=
  .event fun h => .unlessSkipping h fun h => .ite (.grottoFault h) (.ite (.grottoFault h) (.ite (.grottoFault h) (.upd h)))

theorem KeepsNext.execRootBlockComplete {g : GrottoId} : KeepsNext s (Machine.execRootBlockComplete g s) := by
  refine .eventOf fun _ h => ?_
  dsimp only
  split
  · exact .unitFault h
  · exact .ite (.askRange (.upd h)) (.modGrot (.ite (.modGrot (.writeGen (.writeGen h))) (.writeGen (.writeGen h))))

theorem Keeps.runDigest {g : Nat} (h : Keeps s r) : Keeps s (Machine.runDigest g r) := by
  refine .ite (.grottoFault h) (.ite (.grottoFault h) (.ite (.grottoFault h) (.ite (.grottoFault h) ?_)))
  split
  · exact .grottoFault h
  extract_lets record
  have hrecord {q : State} (h : Keeps s q) : Keeps s (record q) :=
    .engineSignal (.nextEntry (.ite (.formRecord (.upd (.upd h))) (.upd h)))
  exact .ite (.afterReads h hrecord) (hrecord h)

theorem KeepsNext.execUpdCommit {g : GrottoId} : KeepsNext s (Machine.execUpdCommit g s) := by
  refine .event fun h => ?_
  dsimp only
  split
  · exact .grottoFault h
  · exact .engineStrWait (.upd h)

theorem Keeps.discardShards {g : Nat} (h : Keeps s r) : Keeps s (Machine.discardShards g r) :=
  .modGrot (.fold h fun _ h => h.trans (.freeFill ..))

theorem KeepsNext.execCommitOutcome {g : GrottoId} : KeepsNext s (Machine.execCommitOutcome g s) := by
  refine .eventOf fun go h => ?_
  beta_reduce
  extract_lets barrier s1 s2 s3
  have h1 : Keeps s s1 := .stepOutcome (.upd h)
  have h2 : Keeps s s2 := .ite (.upd h1) (.discardShards h1)
  exact .ite (.upd h2) (.upd h2)

theorem Keeps.abortGrotto {g : Nat} (h : Keeps s r) : Keeps s (Machine.abortGrotto g r) :=
  .ite (.upd h) (.discardShards (.upd h))

theorem Keeps.abortStep {tr : Nat} (h : Keeps s r) : Keeps s (Machine.abortStep tr r) := by
  unfold Machine.abortStep
  extract_lets t mine s1
  have h1 : Keeps s s1 := .ite h (.upd h)
  exact .ite (.ite (.unknownStep h1) h1) h

theorem Keeps.resolveFlip {tr : Nat} (h : Keeps s r) : Keeps s (Machine.resolveFlip tr r) := by
  unfold Machine.resolveFlip
  extract_lets gs objs s1 s2
  have h2 : Keeps s s2 := .fold (.fold h fun _ h => .upd h) fun _ h => .upd h
  exact .ite (.upd h2) (.commitStep h2)

theorem Keeps.resolveDiscard {tr : Nat} (h : Keeps s r) : Keeps s (Machine.resolveDiscard tr r) := by
  unfold Machine.resolveDiscard
  extract_lets settle
  have hs {q : State} (h : Keeps s q) : Keeps s (settle q) := .ite (.upd h) (.declineStep h)
  exact hs (.fold h fun _ h => .discardShards (.upd h))

theorem Keeps.writeShard {g shard reg : Nat} {v : Word} (h : Keeps s r) :
    Keeps s (Machine.writeShard g shard reg v r) := by
  unfold Machine.writeShard
  split
  · exact .upd h
  · exact .upd h

theorem Keeps.writePub {g shard : Nat} {v : Word} (h : Keeps s r) : Keeps s (Machine.writePub g shard v r) :=
  .ite (.upd h) (.upd h)

/-! ### Fences, aborts and the safe point -/

theorem Keeps.undefineTile {t : Nat} (h : Keeps s r) : Keeps s (Machine.undefineTile t r) :=
  .upd (.trans h (.freeFill ..))

theorem Keeps.returnUnit {u : Nat} (h : Keeps s r) : Keeps s (Machine.returnUnit u r) :=
  .ite (.upd h) (.ite (.undefineTile (.upd h)) (.upd h))

theorem Keeps.settleFence {u : Nat} (h : Keeps s r) : Keeps s (Machine.settleFence u r) := by
  unfold Machine.settleFence
  split
  · exact .upd h
  · exact .returnUnit h
  · exact h

theorem Keeps.requestFence {u : Nat} (h : Keeps s r) : Keeps s (Machine.requestFence u r) := .ite (.upd h) (.upd h)

theorem Keeps.requestReturn {u : Nat} (h : Keeps s r) : Keeps s (Machine.requestReturn u r) :=
  .ite h (.ite (.returnUnit h) (.upd h))

theorem Keeps.abandonWait {u : Nat} (h : Keeps s r) : Keeps s (Machine.abandonWait u r) := by
  unfold Machine.abandonWait
  extract_lets s1 keep s2
  have h1 : Keeps s s1 := by
    dsimp only [s1]
    split
    · exact .setWaiter h
    · exact h
  exact .ite (.upd h1) (.upd h1)

theorem Keeps.abortUnit {tr u : Nat} (h : Keeps s r) : Keeps s (Machine.abortUnit tr u r) := by
  unfold Machine.abortUnit
  extract_lets s1 s2
  have h2 : Keeps s s2 := .abandonWait (.ite (.abortStep h) h)
  exact .ite (.judge (.upd h2)) (.ite (.upd h2) (.ite (.upd h2) (.ite (.abortGrotto h2) (.ite h2 (.upd h2)))))

theorem Keeps.resetCounts {tr : Nat} (h : Keeps s r) : Keeps s (Machine.resetCounts tr r) := by
  unfold Machine.resetCounts
  dsimp only
  split
  · exact h
  · exact .fold (.fold (.fold (.fold (.fold h fun _ h => .upd h) fun _ h => .upd h) fun _ h => .upd h) fun _ h => .upd h)
      fun _ h => .upd h

theorem Keeps.undefineBound {tr : Nat} (h : Keeps s r) : Keeps s (Machine.undefineBound tr r) :=
  .fold h (fun _ h => .ite (.trans h (.freeFill ..)) (.trans h (.freeFill ..)))

theorem Keeps.settleFences {tr : Nat} (h : Keeps s r) : Keeps s (Machine.settleFences tr r) :=
  .fold h (fun _ h => .settleFence h)

theorem KeepsNext.execSafePoint {tr : TroupeId} : KeepsNext s (Machine.execSafePoint tr s) := by
  refine .event fun h => ?_
  beta_reduce
  extract_lets s1 s2 s3 s4
  have h1 : Keeps s s1 := .fold (.resetCounts (.upd h)) fun _ h => .upd h
  have h2 : Keeps s s2 := .undefineBound (.fold h1 fun _ h => .upd h)
  have h3 : Keeps s s3 := .fold h2 fun _ h => h.trans (.freeFill ..)
  exact .completeOwner (.settleFences (.modTroupe h3))

theorem Keeps.auditRecords {tr : Nat} {ms : List Mismatch} (h : Keeps s r) :
    Keeps s (Machine.auditRecords tr ms r) :=
  .fold h (fun _ h => .fold h (fun _ h => .formRecord h))

theorem KeepsNext.execSceneBoundary {tr : TroupeId} : KeepsNext s (Machine.execSceneBoundary tr s) :=
  .event fun h => .auditRecords (.modTroupe (.fold h fun _ h => .upd h))

/-! ### Windows and host queues -/

theorem Keeps.windowPad {x a : Nat} {data : List Byte} {mask : List Bool} (h : Keeps s r) :
    Keeps s (Machine.windowPad x a data mask r) := by
  unfold Machine.windowPad
  split
  · split
    · exact .formRecord (.upd h)
    · exact h.trans ⟨rfl, memMasked_wf r.mem _ data mask⟩
  · exact h

theorem Keeps.drainBuffer {x b : Nat} (h : Keeps s r) : Keeps s (Machine.drainBuffer x b r) := by
  refine .ite h ?_
  split
  · exact .askLine (.upd h)
  · exact .windowPad (.upd h)

theorem Keeps.gather {x addr : Nat} {data : List Byte} (h : Keeps s r) :
    Keeps s (Machine.gather x addr data r) := by
  unfold Machine.gather
  extract_lets line off fill s1
  have hfill {b : Nat} {q : State} (h : Keeps s q) : Keeps s (fill b q) := .ite (.drainBuffer (.upd h)) (.upd h)
  have h1 : Keeps s s1 := by
    refine .ite h ?_
    split
    · exact .ite (.drainBuffer h) h
    · exact h
  split
  · exact hfill h
  split
  · exact h1
  · exact hfill (.upd h1)

theorem Keeps.flushTo {x : Nat} {p : Nat → Bool} (h : Keeps s r) : Keeps s (Machine.flushTo x p r) :=
  .fold h (fun _ h => .drainBuffer h)

theorem Keeps.readWindow {x addr len : Nat} (h : Keeps s r) : Keeps s (Machine.readWindow x addr len r) := by
  unfold Machine.readWindow
  split
  · split
    · exact .upd (.formRecord h)
    · exact .upd h
  · exact .ite h (.askLine h)

theorem KeepsNext.execWindowRead {x : HartId} {addr len : Nat} :
    KeepsNext s (Machine.execWindowRead x addr len s) :=
  .eventOf (fun _ h => .ite (.upd h) (.ite (.readWindow (.flushTo h)) (.flushTo h)))

theorem KeepsNext.execWinFlushRead {x : HartId} : KeepsNext s (Machine.execWinFlushRead x s) :=
  .event (fun h => .ite (.upd (.flushTo h)) (.flushTo h))

theorem Keeps.kickQueue {q : Nat} (h : Keeps s r) : Keeps s (Machine.kickQueue q r) :=
  .ite (.ite (.upd h) (.ite (.ite h (.askRange h)) (.upd (.ioRequest (.ioRequest h))))) h

theorem Keeps.writeQueCfg {q source : Nat} {v : Word} (h : Keeps s r) :
    Keeps s (Machine.writeQueCfg q source v r) :=
  .ite (.upd h) (.ite (.upd h) (.ite (.upd h) (.ite (.kickQueue (.upd h)) (.upd h))))

theorem Keeps.ringDoorbell {q : Nat} {v : Word} (h : Keeps s r) : Keeps s (Machine.ringDoorbell q v r) :=
  .ite h (.ite (.kickQueue (.upd h)) (.ite (.upd h) (.formRecord (.upd h))))

theorem Keeps.slotRead {q : Nat} (h : Keeps s r) : Keeps s (Machine.slotRead q r).2 := by
  unfold Machine.slotRead
  dsimp only
  split
  · exact h
  · exact .upd h

theorem Keeps.judgeSlot {q : Nat} {again : Bool} (h : Keeps s r) : Keeps s (Machine.judgeSlot q again r) := by
  unfold Machine.judgeSlot
  extract_lets b s1 x
  have h1 : Keeps s s1 := .slotRead h
  clear_value s1
  exact .ite (.upd h1) (.ite (.kickQueue (.upd h1)) (.ite (.formRecord (.upd h1)) (.upd h1)))

theorem KeepsNext.execSlotReread {q : QueueId} {n : Nat} : KeepsNext s (Machine.execSlotReread q n s) :=
  .event (fun h => .ite (.kickQueue (.upd h)) (.judgeSlot h))

theorem Keeps.startCmd {q : Nat} {c : Slot} (h : Keeps s r) : Keeps s (Machine.startCmd q c r).2 :=
  .kickQueue (.upd h)

theorem Keeps.oneShot {q : Nat} {c : Slot} {status detail : Nat} {act : State → State} (h : Keeps s r)
    (hact : ∀ {q}, Keeps s q → Keeps s (act q)) : Keeps s (Machine.oneShot q c status detail act r) :=
  .completeQ (.ite (hact (.startCmd h)) (.startCmd h))

theorem KeepsNext.execQInlineWrite {q : QueueId} : KeepsNext s (Machine.execQInlineWrite q s) :=
  .eventOf (fun _ h => .ite (.oneShot h (fun h => h)) (.ite (.oneShot h (fun h => h)) (.upd (.ioWrites (.startCmd h)))))

theorem Keeps.loadSegment {a : Nat} {g : Segment} (h : Keeps s r) : Keeps s (Machine.loadSegment a g r) :=
  .ite (.upd h) (.ite (.upd h) (.ite (.upd h) (.ite (.upd h) (.upd h))))

theorem KeepsNext.execQSceneLoad {q : QueueId} : KeepsNext s (Machine.execQSceneLoad q s) :=
  .eventOf (fun _ h => .ite
    (.oneShot h (fun h => h))
    (.ite
      (.oneShot h (fun h => h))
      (.ite
        (.oneShot h (fun h => h))
        (by
          split
          · exact .oneShot h (fun h => h)
          · exact .oneShot h (fun h => .fold h (fun _ h => .loadSegment h))))))

theorem Keeps.startEngine {tr u entry : Nat} (h : Keeps s r) : Keeps s (Machine.startEngine tr u entry r) :=
  .ite h (.ite (.upd h) (.ite (.upd h) (.ite (.upd h) (.upd h))))

theorem Keeps.beginScene {tr sid : Nat} {es : Tbl Nat} {owner : Nat × Nat} (h : Keeps s r) :
    Keeps s (Machine.beginScene tr sid es owner r) :=
  .fold (.fold (.upd (.ite h (.stepOutcome h))) (fun _ h => .startEngine h)) (fun _ h => .upd h)

theorem Keeps.takeScene {q : Nat} {c : Slot} (h : Keeps s r) : Keeps s (Machine.takeScene q c r) :=
  .ite (.oneShot h (fun h => h)) (.beginScene (.startCmd h))

theorem Keeps.sceneStart {q : Nat} {c : Slot} (h : Keeps s r) : Keeps s (Machine.sceneStart q c r) :=
  .ite (.oneShot h (fun h => h)) (.ite (.upd h) (.takeScene h))

theorem Keeps.ioWrite {cls a : Nat} {bs : List Byte} (h : Keeps s r) : Keeps s (Machine.ioWrite cls a bs r).2 := by
  unfold Machine.ioWrite
  exact .ioWrites h

theorem KeepsNext.execCompletionRecordWrite {q : QueueId} :
    KeepsNext s (Machine.execCompletionRecordWrite q s) := by
  refine .eventOf fun x h => ?_
  beta_reduce
  extract_lets a s1 w
  have h1 : Keeps s s1 := .modQueue h
  have hw : Keeps s w.2 := .ioWrite h1
  clear_value w s1
  exact .ite (.ite (.modQueue hw) hw) h1

/-! ### Interrupts, clocks, frame marks and resets -/

theorem Keeps.interruptWrite {addr v : Nat} (h : Keeps s r) : Keeps s (Machine.interruptWrite addr v r) :=
  .ite (.upd h) h

theorem Keeps.setReference {marks : Bool} (h : Keeps s r) : Keeps s (Machine.setReference marks r) :=
  .fold h (fun _ h => .upd h)

theorem Keeps.writeSwitch {d source k : Nat} {root : Bool} (h : Keeps s r) :
    Keeps s (Machine.writeSwitch d source k root r) := by
  refine .ite h ?_
  split
  · exact .upd h
  · exact .upd h

theorem Keeps.joinSpan (h : Keeps s r) : Keeps s (Machine.joinSpan r) := .ite (.upd h) h

theorem KeepsNext.execFrameMarkReceipt {p : PortId} {carried : Word} {phases : List Int} :
    KeepsNext s (Machine.execFrameMarkReceipt p carried phases s) := by
  refine .event fun h => ?_
  beta_reduce
  extract_lets new run _ _ s1 s2 cls k
  have h2 : Keeps s s2 := .ite (.setReference (.upd h)) (.upd h)
  exact .joinSpan (.fold (.upd h2) fun _ h => .upd h)

theorem Keeps.loseRanges {rs : List (Nat × Nat)} (h : Keeps s r) : Keeps s (Machine.loseRanges rs r) :=
  .fold h (fun _ h => .trans h (.freeFill ..))

theorem Keeps.packageStop {d cause : Nat} (h : Keeps s r) : Keeps s (Machine.packageStop d cause r) :=
  .ite (.upd (.loseRanges h)) (.upd (.loseRanges h))

theorem Keeps.settleWrite {w : Nat × List Byte × List Bool} (h : Keeps s r) : Keeps s (Machine.settleWrite w r) :=
  .ite (h.trans ⟨rfl, memMasked_wf r.mem _ w.2.1 w.2.2⟩) (.upd h)

theorem Keeps.dropWrite {w : Nat × List Byte × List Bool} (h : Keeps s r) : Keeps s (Machine.dropWrite w r) :=
  .ite (.trans h (.freeFill ..)) h

theorem Keeps.resetCommon {d : Nat} (h : Keeps s r) : Keeps s (Machine.resetCommon d r) := .upd h

theorem Keeps.resetDie {d : Nat} (h : Keeps s r) : Keeps s (Machine.resetDie d r) :=
  .ite (.loseRanges (.resetCommon h)) (.upd h)

theorem Keeps.discardWindow (h : Keeps s r) : Keeps s (Machine.discardWindow r) :=
  .fold (.upd h) (fun _ h => .ite (.upd h) h)

theorem Keeps.loseDevice (h : Keeps s r) : Keeps s (Machine.loseDevice r) :=
  .upd (.fold
    (.fold (.fold (.discardWindow h) (fun _ h => .dropWrite h)) (fun _ h => .dropWrite h))
    (fun _ h => .resetDie h))

theorem Keeps.resetAll {k : ResetKind} {released : Bool} (h : Keeps s r) :
    Keeps s (Machine.resetAll k released r) :=
  .upd (.loseRanges (.ite (.loseRanges h) (.fold h (fun _ h => .settleWrite h))))

/-! ### The boot ROM and the boot service -/

theorem Keeps.measureBundle {o : Nat} (h : Keeps s r) : Keeps s (Machine.measureBundle o r) :=
  .ite (.upd h) (.upd h)

theorem Keeps.verifyBundle {o : Nat} {types : List Nat} (h : Keeps s r) :
    Keeps s (Machine.verifyBundle o types r).2 :=
  .ite (.measureBundle h) h

theorem Keeps.measureDirectories (h : Keeps s r) : Keeps s (Machine.measureDirectories r) :=
  .verifyBundle (.verifyBundle h)

theorem Keeps.copyBundle {o : Nat} (h : Keeps s r) : Keeps s (Machine.copyBundle o r) := by
  unfold Machine.copyBundle
  dsimp only
  split
  · exact h.trans (.store ..)
  · exact h

theorem Keeps.romFails {slot reason stage : Nat} (h : Keeps s r) : Keeps s (Machine.romFails slot reason stage r) :=
  .oweReset (.upd h)

theorem Keeps.applyConfig {o : Nat} (h : Keeps s r) : Keeps s (Machine.applyConfig o r) := .upd h

theorem Keeps.lockKeys (h : Keeps s r) : Keeps s (Machine.lockKeys r) := .upd h

theorem Keeps.withBoot {b : BootState} (h : Keeps s r) : Keeps s { r with boot := b } := .upd h

theorem Keeps.romStages {slot set : Nat} (h : Keeps s r) : Keeps s (Machine.romStages slot set r) := by
  unfold Machine.romStages
  extract_lets fw cfg _ s1 a q b s2
  have ha : Keeps s a.2 := .verifyBundle (.upd h)
  have hq : Keeps s q.2 := .verifyBundle (.copyBundle ha)
  have h2 : Keeps s s2 := .lockKeys (.applyConfig hq)
  clear_value a q s2
  split
  · exact .romFails ha
  split
  · exact .romFails hq
  · exact .withBoot (.modHart h2)

theorem Keeps.romAttempt {k loss : Nat} (h : Keeps s r) : Keeps s (Machine.romAttempt k loss r) := by
  unfold Machine.romAttempt
  extract_lets set seq s1 s2 slot _ s3 s4 _
  have h4 : Keeps s s4 := .measureDirectories (.upd h)
  clear_value set s4
  split
  · exact .romFails h4
  · exact .romStages (.upd h4)

theorem Keeps.romLantern (h : Keeps s r) : Keeps s (Machine.romLantern r) := by
  unfold Machine.romLantern
  extract_lets _ s1 s2 start s3
  have h2 : Keeps s s2 := .measureDirectories (.upd h)
  have hstart {n : Nat} {q : State} (h : Keeps s q) : Keeps s (start n q) := .withBoot (.modHart (.copyBundle h))
  have h3 : Keeps s s3 := by
    unfold s3
    clear_value s2 start
    split
    · exact h2
    · exact .ite (hstart (.verifyBundle h2)) (.ite (.ite (hstart (.verifyBundle (.verifyBundle h2)))
        (.verifyBundle (.verifyBundle h2))) (.verifyBundle h2))
  exact .lockKeys h3

theorem Keeps.closeOpenAttempt {lost : Bool} (h : Keeps s r) : Keeps s (Machine.closeOpenAttempt lost r) := by
  unfold Machine.closeOpenAttempt
  split
  · exact h
  refine .ite h ?_
  split
  · exact .upd h
  · exact .upd h

theorem Keeps.extendMreg {i : Nat} {d : BitVec 256} (h : Keeps s r) : Keeps s (Machine.extendMreg i d r) := .upd h

theorem Keeps.romBoot (h : Keeps s r) : Keeps s (Machine.romBoot r) := by
  unfold Machine.romBoot
  extract_lets lost loss cause _ s1 k failed _ _ s2 s3
  have h1 : Keeps s s1 := .closeOpenAttempt (.upd h)
  clear_value s1
  have h3 : Keeps s s3 := .extendMreg (.upd h1)
  clear_value s3
  split
  · exact .romLantern h3
  · exact .romAttempt h3

theorem Keeps.bootCommit (h : Keeps s r) : Keeps s (Machine.bootCommit r) := by
  unfold Machine.bootCommit
  extract_lets s1
  have h1 : Keeps s s1 := by
    dsimp only [s1]
    split
    · exact .upd h
    · exact h
  clear_value s1
  split
  · exact h
  · exact .upd h1

theorem Keeps.bootStage {n : Nat} (h : Keeps s r) : Keeps s (Machine.bootStage n r) := .ite (.upd h) h

theorem Keeps.bootFail {n : Nat} (h : Keeps s r) : Keeps s (Machine.bootFail n r) :=
  .ite h (.ite (.upd h) (.oweReset (.upd h)))

theorem Keeps.trainLinks {d : Nat} (h : Keeps s r) : Keeps s (Machine.trainLinks d r) := by
  refine .fold h fun _ h => ?_
  split
  · exact .ite (.upd h) h
  · exact h

theorem Keeps.releaseDies {mask : Nat} (h : Keeps s r) : Keeps s (Machine.releaseDies mask r) :=
  .fold (.upd (.fold h (fun _ h => .resetDie h))) (fun _ h => .trainLinks h)

theorem Keeps.flashCommand {op : Nat} (h : Keeps s r) : Keeps s (Machine.flashCommand op r) :=
  .ite h (.ite (.upd h) (.upd h))

theorem Keeps.writeSvnAdv {v : Nat} (h : Keeps s r) : Keeps s (Machine.writeSvnAdv v r) := .ite (.upd h) (.upd h)

theorem Keeps.startQuote (h : Keeps s r) : Keeps s (Machine.startQuote r) :=
  .ite h (.ite (.upd h) (.upd (.ioWrites (.ioWrites h))))

/-! ### The codec -/

theorem Keeps.takeJob {d pipe : Nat} (h : Keeps s r) : Keeps s (Machine.takeJob d pipe r) := by
  refine .ite h ?_
  split
  · exact h
  · exact .askEdgeReads (.upd h)

theorem Keeps.settleClose {d n : Nat} (h : Keeps s r) : Keeps s (Machine.settleClose d n r) := by
  unfold Machine.settleClose
  split
  · exact .ite (.completeQ (.upd h)) h
  · exact h

theorem Keeps.putOutputs {d : Nat} {j : CodecJob} {out : List (EdgeKind × Nat × List Byte)} (h : Keeps s r) :
    Keeps s (Machine.putOutputs d j out r) :=
  .askEdgePuts (.upd h)

theorem Keeps.settleMarks {d n : Nat} {bs : List Nat} (h : Keeps s r) : Keeps s (Machine.settleMarks d n bs r) :=
  .upd h

theorem Keeps.finishDecode {d : Nat} {j : CodecJob} (h : Keeps s r) : Keeps s (Machine.finishDecode d j r).2 := by
  unfold Machine.finishDecode
  extract_lets st p out pics slots puts s1 s2
  have h1 : Keeps s s1 := .putOutputs (.upd h)
  split
  · exact .upd h
  · exact .settleMarks (.upd h1)

theorem Keeps.finishEncode {d : Nat} {j : CodecJob} (h : Keeps s r) : Keeps s (Machine.finishEncode d j r).2 := by
  unfold Machine.finishEncode
  extract_lets
  split
  · exact .upd h
  · exact .settleMarks (.putOutputs (.upd h))

theorem Keeps.finishJob {d : Nat} {j : CodecJob} (h : Keeps s r) : Keeps s (Machine.finishJob d j r).2 := by
  unfold Machine.finishJob
  extract_lets
  split
  · exact .ite (.upd h) h
  · split
    · exact .finishEncode h
    · exact .finishDecode h

theorem KeepsNext.execCodecJobFinish {d : ChipId} {pipe : Fin 2} :
    KeepsNext s (Machine.execCodecJobFinish d pipe s) := by
  refine .eventOf fun _ h => .ite (.edgeTurn h) ?_
  split
  · exact .takeJob (.settleClose (.completeQ (.upd h)))
  · exact .ite (.upd h) (.upd (.finishJob h))

theorem Keeps.acceptJob {q kind : Nat} {c : Slot} (h : Keeps s r) : Keeps s (Machine.acceptJob q kind c r) :=
  .ite (.oneShot h (fun h => h)) (.takeJob (.upd (.startCmd h)))

theorem KeepsNext.execVcdClose {q : QueueId} : KeepsNext s (Machine.execVcdClose q s) :=
  .eventOf (fun _ h => .ite
    (.oneShot h (fun h => h))
    (.ite (.oneShot h (fun h => h)) (.settleClose (.fold (.upd (.startCmd h)) (fun _ h => .completeQ (.upd h))))))

theorem Keeps.writeFbBase {d f : Nat} {v : Word} (h : Keeps s r) : Keeps s (Machine.writeFbBase d f v r) :=
  .ite (.upd h) (.upd h)

/-! ### The data engine -/

theorem Keeps.putScheduled {p : Bool × Nat × List Byte} (h : Keeps s r) : Keeps s (Machine.putScheduled r p) :=
  .ite (.fold h (fun _ h => .trans h (.storeLine ..))) (.trans h (.store ..))

theorem Keeps.askDat {e : Nat} {write : Bool} {rs : List (Nat × Nat)} (h : Keeps s r) :
    Keeps s (Machine.askDat e write rs r) :=
  .fold h (fun _ h => .askRange h)

theorem Keeps.produceScheduled {e : Nat} {d : DatDesc} (h : Keeps s r) : Keeps s (Machine.produceScheduled e d r) :=
  .upd (.askDat (.fold h (fun _ h => .putScheduled h)))

theorem Keeps.startScheduled {e : Nat} {d : DatDesc} (h : Keeps s r) : Keeps s (Machine.startScheduled e d r) := by
  refine .ite (.engineFault h) ?_
  split
  · exact .unitFault (.setEngState h)
  split
  · exact .engineFault h
  · exact .askDat (.upd h)

theorem Keeps.modDat {e : Nat} {f : DatEngine → DatEngine} (h : Keeps s r) : Keeps s (r.modDat e f) := .upd h

theorem Keeps.produceFree {e : Nat} {d : DatDesc} (h : Keeps s r) : Keeps s (Machine.produceFree e d r) :=
  .modDat (.askEdgePuts (.upd h))

theorem Keeps.stepFree {e : Nat} {d : DatDesc} (h : Keeps s r) : Keeps s (Machine.stepFree e d r) :=
  .ite (.askEdgeReads (.upd h)) (.ite (.edgeTurn h) (.ite (.askEdgeReads (.upd h)) (.produceFree h)))

theorem KeepsNext.datRow {e op : Nat} : KeepsNext s (Machine.datRow e op s) :=
  .event (fun h => .ite
    (.stepFree h)
    (.ite (.produceScheduled h) (.ite (.engineFault h) (.ite (.engineWait h) (.startScheduled h)))))

theorem Keeps.writeStatus {e : Nat} {y : Nat × Nat × Nat} (h : Keeps s r) : Keeps s (Machine.writeStatus e y r) :=
  .upd (.ite (.askDat (.cancelWriteBack (.trans h (.store ..)))) (.askEdgePuts h))

theorem Keeps.completeDat {e : Nat} {x : Nat × Nat × Nat} (h : Keeps s r) :
    Keeps s (Machine.completeDat e x r) := by
  refine .ite (.engineSignal (.upd h)) ?_
  split
  · exact .completeQ (.upd h)
  · exact .upd h

theorem Keeps.finishRefused {e : Nat} {j : DatJob} (h : Keeps s r) : Keeps s (Machine.finishRefused e j r) :=
  .ite (.edgeTurn h) (.ite (.askEdgePuts (.upd h)) (.completeQ (.upd h)))

theorem KeepsNext.execDataJobFinish {e : Fin 12} : KeepsNext s (Machine.execDataJobFinish e s) := by
  unfold Machine.execDataJobFinish
  split
  · exact .event (fun h => .finishRefused h)
  · exact .eventOf (fun _ h => .ite (.edgeTurn h) (.ite (.completeDat h) (.writeStatus h)))

theorem Keeps.submitDat {q base : Nat} {c : Slot} (h : Keeps s r) : Keeps s (Machine.submitDat q base c r) :=
  .ite (.oneShot h (fun h => h)) (.upd (.startCmd h))

/-! ### Regions, placements and the adapter -/

theorem Keeps.writeRgnBase {y : Nat} {v : Word} (h : Keeps s r) : Keeps s (Machine.writeRgnBase y v r) :=
  .ite (.ite (.upd h) (.upd h)) (.ite (.ite (.upd h) (.upd h)) (.upd h))

theorem Keeps.writeRgn {y off : Nat} {v : Word} (h : Keeps s r) : Keeps s (Machine.writeRgn y off v r) :=
  .ite (.writeRgnBase h) (.ite (.ite (.upd h) h) (.ite (.ite (.upd h) (.upd h)) h))

theorem Keeps.routePeer {p d : Nat} {write : Bool} (h : Keeps s r) : Keeps s (Machine.routePeer p d write r) :=
  .ite (.upd h) (.upd h)

theorem Keeps.refusePlacement {port rid addr : Nat} {x : Option Nat} {reason : Nat} (h : Keeps s r) :
    Keeps s (Machine.refusePlacement port rid addr x reason r) := by
  unfold Machine.refusePlacement
  extract_lets s1
  have h1 : Keeps s s1 := by
    dsimp only [s1]
    split
    · exact .upd h
    · exact h
  exact .ite h1 (.formRecord (.evtSend (.upd h1)))

theorem Keeps.queueDirects {id fuel a : Nat} {bs : List Byte} (h : Keeps s r) :
    Keeps s (Machine.queueDirects id fuel a bs r).2 := by
  induction fuel generalizing a bs r with
  | zero => exact h
  | succ fuel ih =>
    unfold Machine.queueDirects
    split
    · exact h
    · exact ih (.askLine h)

theorem Keeps.placeWrite {y addr : Nat} {data : List Byte} (h : Keeps s r) :
    Keeps s (Machine.placeWrite y addr data r) :=
  .ite (.upd (.queueDirects h)) (.upd (.ioWrites h))

theorem Keeps.placeRead {x addr len : Nat} (h : Keeps s r) : Keeps s (Machine.placeRead x addr len r) :=
  .ite (.upd h) (.ite (.askRange h) (.upd
    (List.foldlRecOn (motive := fun w : List Nat × State => Keeps s w.2) _ _ h fun _ hw _ _ => .ioRequest hw)))

theorem KeepsNext.execAdapterWrite {port : Fin 4} {rid : BitVec 16} {pasid : Option (BitVec 20)} {addr : Nat} {data : List Byte} :
    KeepsNext s (Machine.execAdapterWrite port rid pasid addr data s) := by
  refine .event fun h => .ite (.ite (.interruptWrite (.upd h)) (.upd h)) ?_
  split
  · exact .routePeer (.upd h)
  extract_lets
  split
  · exact .placeWrite (.upd h)
  · exact .refusePlacement (.upd h)

theorem Keeps.reply {x : Reply} (h : Keeps s r) : Keeps s (r.reply x) := .upd h

theorem KeepsNext.execAdapterRead {port : Fin 4} {rid : BitVec 16} {pasid : Option (BitVec 20)} {addr len : Nat} :
    KeepsNext s (Machine.execAdapterRead port rid pasid addr len s) := by
  refine .event fun h => .ite (.upd h) ?_
  split
  · exact .routePeer (.upd h)
  extract_lets
  split
  · exact .placeRead (.upd h)
  · exact .reply (.refusePlacement (.upd h))

theorem Keeps.countBytes {y n : Nat} (h : Keeps s r) : Keeps s (Machine.countBytes y n r) :=
  .ite (.upd h) (.fold (.formRecord (.upd h)) (fun _ h => .beginAbort h))

/-! ### Slots of memory and the timetable frame -/

theorem Keeps.readInSlot {q : MemReq} {e : Ecc} (h : Keeps s r) : Keeps s (Machine.readInSlot q e r) := by
  unfold Machine.readInSlot
  split
  · exact .grottoRead h
  · exact .grottoRead h
  · exact .ite (.trans h (.eccRead ..)) (.trans h (.eccRead ..))

theorem Keeps.served {q : MemReq} {dropped : Bool} (h : Keeps s r) : Keeps s (Machine.served q dropped r) := by
  unfold Machine.served
  split
  · exact .upd h
  · exact .upd h
  · exact .ite h (.upd h)
  · exact .homeServed h
  · exact .backWritten h
  · exact .upd h
  · exact .upd h
  · exact h

theorem Keeps.serveRequest {m : Nat} {e : Ecc} {q : MemReq} (h : Keeps s r) :
    Keeps s (Machine.serveRequest m e q r) := by
  unfold Machine.serveRequest
  extract_lets a gone s1 _ bad s2 mark
  have hgone {x : State} (h : Keeps s x) : Keeps s (gone x) := .upd h
  have h1 : Keeps s s1 := .ite h (h.trans (.storeLine ..))
  have h2 : Keeps s s2 := h.trans (.eccRead ..)
  exact .ite (.served (hgone (.readInSlot h))) (.ite (.served (hgone (.ite (.upd h1) h1)))
    (.ite (.served (hgone (.ite h (.cancelWriteBack (h.trans (.store ..)))))) (.ite (.served (hgone h2)) (.modMem h2))))

theorem Keeps.scrubEntry {m ch : Nat} {e : Ecc} (h : Keeps s r) : Keeps s (Machine.scrubEntry m ch e r) := by
  unfold Machine.scrubEntry
  extract_lets advance s1 c a found s2 s3 s4
  have h1 : Keeps s s1 := .ite (.upd h) h
  have h2 : Keeps s s2 := h1.trans (.eccRead ..)
  have h3 : Keeps s s3 := .ite (.upd h1) (.ite (.modMem h2) h2)
  exact .ite (.upd (.upd h3)) (.upd h3)

theorem KeepsNext.execMemorySlot {m : MemoryId} {channel slot : Nat} {e : Ecc} :
    KeepsNext s (Machine.execMemorySlot m channel slot e s) := by
  refine .event fun h => .ite ?_ (.ite (.scrubEntry (.upd h)) (.upd h))
  split
  · exact .serveRequest (.upd h)
  · exact .ite (.grottoFetch (.upd h)) (.upd h)

theorem Keeps.thermalRecord {m code severity : Nat} {x : Option Int} (h : Keeps s r) :
    Keeps s (Machine.thermalRecord m code severity x r) := .formRecord (.upd h)

theorem Keeps.heatMemory {temps : List TempSample} {m : Nat} (h : Keeps s r) :
    Keeps s (Machine.heatMemory temps m r) := by
  unfold Machine.heatMemory
  extract_lets c x s1 d s2 s3 s4 s5 s6
  have h2 : Keeps s s2 := .ite (.evtSend (.upd h)) (.upd h)
  have h3 : Keeps s s3 := .ite (.evtSend h2) h2
  have h4 : Keeps s s4 := .ite (.thermalRecord h3) h3
  have h5 : Keeps s s5 := .ite (.thermalRecord h4) h4
  have h6 : Keeps s s6 := .ite (.thermalRecord h5) h5
  exact .ite (.thermalRecord h6) h6

theorem Keeps.settleAlert (h : Keeps s r) : Keeps s (Machine.settleAlert r) := .upd h

theorem KeepsNext.execTimetableFrameStart {temps : List TempSample} :
    KeepsNext s (Machine.execTimetableFrameStart temps s) :=
  .event fun h => .settleAlert (.fold (.upd h) fun _ h => .heatMemory h)

/-! ### The samples of a frame start -/

theorem Keeps.missMark (h : Keeps s r) : Keeps s (Machine.missMark r) := .ite h (.ite (.upd h) (.upd h))

theorem Keeps.sampleRail {x : RailSample} (h : Keeps s r) : Keeps s (Machine.sampleRail x r) := by
  unfold Machine.sampleRail
  dsimp only
  split
  · exact h
  split
  · exact .upd h
  · exact .ite (.formRecord (.upd h)) (.upd h)

theorem Keeps.sampleLogic {samples : List LogicSample} {d : Nat} (h : Keeps s r) :
    Keeps s (Machine.sampleLogic samples d r) := by
  unfold Machine.sampleLogic
  extract_lets x t was hot _ s1 record s2
  have hrecord {code severity : Nat} {q : State} (h : Keeps s q) : Keeps s (record code severity q) := .formRecord (.upd h)
  have h2 : Keeps s s2 := .ite (hrecord (.upd h)) (.ite (hrecord (.upd h)) (.upd h))
  exact .ite (hrecord h2) h2

theorem Keeps.sramSpoils {x : SramPlace} (h : Keeps s r) : Keeps s (Machine.sramSpoils x r) := by
  unfold Machine.sramSpoils
  split
  · exact .ite h (.upd h)
  · exact .upd h
  · exact h

theorem Keeps.sramError {x : SramError} (h : Keeps s r) : Keeps s (Machine.sramError x r) :=
  .ite (.formRecord h) (.formRecord (.sramSpoils h))

theorem Keeps.sramErrors {l : List SramError} (h : Keeps s r) : Keeps s (Machine.sramErrors l r) :=
  .fold h (fun _ h => .sramError h)

theorem Keeps.telWrite {x : TelRec} (h : Keeps s r) : Keeps s (Machine.telWrite x r) :=
  .ite (.upd h) (.ite (.ioWrites (.upd h)) (.upd h))

theorem Keeps.telFrame (h : Keeps s r) : Keeps s (Machine.telFrame r) := .ite h (.fold h (fun _ h => .telWrite h))

theorem KeepsNext.execTelemetryConfigWrite {reg : Fin 2} {v : Word} :
    KeepsNext s (Machine.execTelemetryConfigWrite reg v s) := by
  refine .event fun h => ?_
  split
  · exact .upd h
  · exact .upd h

theorem Keeps.turnFrame {ended : Nat} {fec : List FecSample} {links : List LinkSample} (h : Keeps s r) :
    Keeps s (Machine.turnFrame ended fec links r) := by
  unfold Machine.turnFrame
  extract_lets s1 s2 s3 s4
  have h1 : Keeps s s1 := .fold h fun _ h => .upd h
  have h4 : Keeps s s4 := .fold (.fold (.missMark (.upd h1)) fun _ h => .upd h) fun _ h => .upd h
  exact .upd h4

theorem KeepsNext.execFrameStart {rails : List RailSample} {logic : List LogicSample} {fec : List FecSample}
    {links : List LinkSample} {sram : List SramError} : KeepsNext s (Machine.execFrameStart rails logic fec links sram s) := by
  refine .event fun h => ?_
  beta_reduce
  extract_lets s1 s2 s3 s4
  have h2 : Keeps s s2 := .fold (.turnFrame h) fun _ h => .upd h
  have h4 : Keeps s s4 := .settleAlert (.fold (.sramErrors h2) fun _ h => .sampleLogic h)
  exact .telFrame (.fold (.fold h4 fun _ h => .sampleRail h) fun _ h => .ite (.formRecord h) h)

/-! ### Harts and links -/

theorem Keeps.setHart {x : Nat} {run : Bool} (h : Keeps s r) : Keeps s (Machine.setHart x run r) :=
  .ite (.ite (.upd h) (.upd h)) h

theorem Keeps.writeRun {base n w : Nat} (h : Keeps s r) : Keeps s (Machine.writeRun base n w r) :=
  .fold h (fun _ h => .setHart h)

theorem Keeps.modLinkEnds {d e : Nat} {f : Link → Link} (h : Keeps s r) :
    Keeps s (Machine.modLinkEnds d e f r) := by
  unfold Machine.modLinkEnds
  split
  · exact .upd h
  · exact h

theorem Keeps.retrainRecords {d l e : Nat} (h : Keeps s r) : Keeps s (Machine.retrainRecords d l e r) := by
  unfold Machine.retrainRecords
  split
  · exact .formRecord h
  · exact .fold h (fun _ h => .formRecord h)

theorem Keeps.countReplays {d e n : Nat} (h : Keeps s r) : Keeps s (Machine.countReplays d e n r) := by
  unfold Machine.countReplays
  split
  · exact .upd h
  · exact h

theorem KeepsNext.execLinkLossTimeout {d : DieId} {l : LinkId} : KeepsNext s (Machine.execLinkLossTimeout d l s) :=
  .eventOf (fun _ h => .ite (.modLinkEnds h) (.formRecord (.modLinkEnds h)))

theorem Keeps.hostLinkRecord {e : Nat} (h : Keeps s r) : Keeps s (Machine.hostLinkRecord e r) :=
  .ite (.upd h) (.upd h)

/-! ### Images and epochs -/

theorem Keeps.finishImage {f : ImgFault} (h : Keeps s r) : Keeps s (Machine.finishImage f r) :=
  .ite (.evtSend (.upd h)) (.upd h)

theorem Keeps.imgCommand {c : Nat} (h : Keeps s r) : Keeps s (Machine.imgCommand c r) :=
  .ite h (.ite (.upd h) (.ite h (.ite (.finishImage (.upd h)) (.ite (.upd h) (.ite (.upd h) (.upd h))))))

theorem Keeps.refuseImage {f : ImgFault} {x : ImageHeader} (h : Keeps s r) : Keeps s (Machine.refuseImage f x r) :=
  .finishImage (.ite (.formRecord h) h)

theorem Keeps.acceptImage {full : Bool} {i : Image} {digest : BitVec 256} (h : Keeps s r) :
    Keeps s (Machine.acceptImage full i digest r) :=
  .ite (.upd h) (.finishImage (.upd h))

theorem KeepsNext.execImageCheckComplete {readError : Bool} :
    KeepsNext s (Machine.execImageCheckComplete readError s) := by
  refine .event fun h => ?_
  dsimp only
  split
  · exact .refuseImage h
  · exact .acceptImage h

theorem Keeps.remapMemory {old : Option Image} {new : Image} {m : Nat} (h : Keeps s r) :
    Keeps s (Machine.remapMemory old new m r) :=
  .ite h (.trans h (.freeFill ..))

theorem Keeps.imageFence {t : Nat} (h : Keeps s r) : Keeps s (Machine.imageFence t r) := by
  unfold Machine.imageFence
  split
  · exact .upd h
  · exact .ite (.undefineTile (.upd h)) h

theorem Keeps.activatePort {p : Nat} (h : Keeps s r) : Keeps s (Machine.activatePort p r) :=
  .ite (.upd (.judgePort h)) (.judgePort h)

theorem Keeps.changeTrim {old : Option Image} {new : Image} (h : Keeps s r) :
    Keeps s (Machine.changeTrim old new r) := by
  unfold Machine.changeTrim
  split
  · exact h
  · exact .ite h (.fold (.upd h) (fun _ h => .upd h))

theorem Keeps.switchImage {i : Image} (h : Keeps s r) : Keeps s (Machine.switchImage i r) := by
  unfold Machine.switchImage
  extract_lets old s1 s2 _ _ _ _ s3 s4 s5 s6 s7
  have h2 : Keeps s s2 := .fold (.leaveSpan h) fun _ h => .remapMemory h
  have h4 : Keeps s s4 := .fold (.upd h2) fun _ h => .resetCounts h
  have h6 : Keeps s s6 := .fold (.fold h4 fun _ h => .imageFence h) fun _ h => .activatePort h
  have h7 : Keeps s s7 := .fold h6 fun _ h => .ite (.upd h) h
  exact .finishImage (.changeTrim h7)

theorem Keeps.activateEpoch {own : Image} (h : Keeps s r) : Keeps s (Machine.activateEpoch own r) := by
  unfold Machine.activateEpoch
  extract_lets _ s1 s2 s3
  have h2 : Keeps s s2 := .fold (.upd h) fun _ h => .upd h
  have h3 : Keeps s s3 := .fold h2 fun _ h => .activatePort h
  exact .finishImage h3

theorem KeepsNext.execEpochVoteOutcome {go : Bool} {frame : Nat} :
    KeepsNext s (Machine.execEpochVoteOutcome go frame s) :=
  .event (fun h => .ite (.upd h) (.ite (.upd h) (.finishImage h)))

/-! ### Registers whose write acts on more than their own fields -/

theorem Keeps.noteConflict {addr : Nat} {losers : Writes} {winner : Nat} (h : Keeps s r) :
    Keeps s (Machine.noteConflict addr losers winner r) := by
  unfold Machine.noteConflict
  split
  · exact h
  · exact .ite (.upd h) (.evtSend (.upd h))

theorem Keeps.writeBootCtl {w : Nat} (h : Keeps s r) : Keeps s (Machine.writeBootCtl w r) := by
  unfold Machine.writeBootCtl
  extract_lets s1 s2 _ s3 s4 s5 s6
  have h1 : Keeps s s1 := .ite (.bootCommit h) h
  have h2 : Keeps s s2 := .ite (.upd h1) h1
  have h3 : Keeps s s3 := .ite (.upd h2) h2
  have h6 : Keeps s s6 := .releaseDies (.bootFail (.bootStage h3))
  exact .ite (.oweReset h6) h6

theorem Keeps.writeQuoteCtl {w : Nat} (h : Keeps s r) : Keeps s (Machine.writeQuoteCtl w r) :=
  .ite (.startQuote (.upd h)) (.upd h)

theorem Keeps.writeQueBase {q off source w : Nat} (h : Keeps s r) :
    Keeps s (Machine.writeQueBase q off source w r) :=
  .ite (.ite h (.upd h)) (.upd h)

theorem Keeps.writeCplPtr {q source w : Nat} (h : Keeps s r) : Keeps s (Machine.writeCplPtr q source w r) :=
  .ite (.upd h) (.upd h)

theorem Keeps.noteWrite {die addr : Nat} {y : Reg} {w : Nat × Nat} (h : Keeps s r) :
    Keeps s (Machine.noteWrite die addr y w r) :=
  .ite (.upd h) (.ite (.upd h) h)

/-! ### Registers: what a write and a read of a register do to the state -/

/-- A write of a register and a read of it keep the queue and the form of memory. -/
structure Reg.Keeping (x : Reg) : Prop where
  put : ∀ {s r : State} (source w : Nat), Keeps s r → Keeps s (x.put source w r) := by exact fun _ _ h => h
  clear : ∀ {s r : State}, Keeps s r → Keeps s (x.clear r) := by exact fun h => h

/-- The register found at an offset, if any, keeps them. -/
def RegKeeping (o : Option Reg) : Prop := ∀ x ∈ o, x.Keeping

namespace RegKeeping

theorem none : RegKeeping none := nofun

theorem some {x : Reg} (hx : x.Keeping) : RegKeeping (some x) := by
  rintro _ ⟨⟩
  exact hx

theorem ite {c : Prop} [Decidable c] {a b : Option Reg} (ha : RegKeeping a) (hb : RegKeeping b) :
    RegKeeping (if c then a else b) := by
  split
  · exact ha
  · exact hb

theorem nil {o : Nat} : RegKeeping (regOf o []) := .none

theorem cons {o k : Nat} {x : Reg} {l : List (Nat × Reg)} (hx : x.Keeping) (hl : RegKeeping (regOf o l)) :
    RegKeeping (regOf o ((k, x) :: l)) := .ite (.some hx) hl

end RegKeeping

theorem Reg.Keeping.word {v : Nat} : (Reg.word v).Keeping := {}

theorem regLink_keeping {d l o : Nat} : RegKeeping (regLink d l o s) := by
  unfold regLink
  split
  · exact .none
  · exact .cons {} (.cons {} .nil)

theorem errWord_keeping {x : Option ErrRec} {o : Nat} : (errWord x o).Keeping := by
  unfold errWord
  extract_lets w
  split
  · exact {}
  split
  · exact {}
  · exact .word

theorem regErr_keeping {d o : Nat} : RegKeeping (regErr d o s) := by
  unfold regErr
  extract_lets x
  split
  · exact .some errWord_keeping
  split
  · exact regLink_keeping
  split
  · exact .some errWord_keeping
  refine .ite (.ite (.some { put := fun _ _ h => .ite (.upd h) h }) .none) ?_
  exact .cons { put := fun _ _ h => .upd h, clear := fun h => .upd h } (.cons { clear := fun h => .upd h }
    (.cons { put := fun _ _ h => .ite (.upd h) h } .nil))

theorem regClk_keeping {d o : Nat} : RegKeeping (regClk d o s) :=
  .ite (.ite (.some { put := fun _ _ h => .ite (.upd h) h }) .none)
    (.cons {} (.cons { put := fun _ _ h => .writeSwitch h } (.cons {}
      (.cons { put := fun _ _ h => .ite (.upd h) h, clear := fun h => .upd h }
        (.cons { clear := fun h => .ite (.upd h) h } .nil)))))

theorem regBoot_keeping {o : Nat} : RegKeeping (regBoot o s) := by
  unfold regBoot
  extract_lets b
  split
  · exact .some { put := fun _ _ h => .upd h }
  · exact .cons {} (.cons {} (.cons { put := fun _ _ h => .writeBootCtl h } (.cons { put := fun _ _ h => .upd h }
      (.cons { put := fun _ _ h => .flashCommand (.ite (.upd h) h) } .nil))))

theorem Keeps.writeMextCtl {v : Word} (h : Keeps s r) : Keeps s (Machine.writeMextCtl v r) := .ite (.upd h) h

theorem regSec_keeping {o : Nat} : RegKeeping (regSec o s) := by
  unfold regSec
  extract_lets x
  split
  · exact .some .word
  split
  · exact .some { put := fun _ _ h => .ite (.upd h) h }
  split
  · exact .some { put := fun _ _ h => .upd h }
  split
  · exact .some { put := fun _ _ h => .upd h }
  · exact .cons { put := fun _ _ h => .ite (.upd h) h } (.cons { put := fun _ _ h => .writeSvnAdv h }
      (.cons { put := fun _ _ h => .ite (.upd h) h } (.cons { put := fun _ _ h => .upd h }
        (.cons { put := fun _ _ h => .writeQuoteCtl h } (.cons { put := fun _ _ h => .writeMextCtl h } .nil)))))

theorem regQue_keeping {o : Nat} : RegKeeping (regQue o s) := by
  unfold regQue
  split
  · exact .none
  · exact .cons { put := fun _ _ h => .writeQueBase h } (.cons { put := fun _ _ h => .writeQueCfg h }
      (.cons { put := fun _ _ h => .ringDoorbell h } (.cons { clear := fun h => .upd h }
        (.cons { put := fun _ _ h => .writeQueBase h } (.cons { put := fun _ _ h => .writeCplPtr h }
          (.cons { put := fun _ _ h => .upd h } (.cons { put := fun _ _ h => .upd h } .nil)))))))

theorem regWin_keeping {o : Nat} : RegKeeping (regWin o s) := .cons { clear := fun h => .upd h } .nil

theorem regPci_keeping {o : Nat} : RegKeeping (regPci o s) :=
  .cons {} (.cons { put := fun _ _ h => .upd h } (.cons { clear := fun h => .upd h } .nil))

theorem regPlc_keeping {o : Nat} : RegKeeping (regPlc o s) := by
  unfold regPlc
  split
  · exact .cons { put := fun _ _ h => .writeRgn h } (.cons { put := fun _ _ h => .writeRgn h }
      (.cons { put := fun _ _ h => .writeRgn h } (.cons { put := fun _ _ h => .writeRgn h } (.cons {}
        (.cons { put := fun _ _ h => .writeRgn h, clear := fun h => .upd h } .nil)))))
  · exact .cons { put := fun _ _ h => .ite (.upd h) h } (.cons { put := fun _ _ h => .ite (.upd h) h } .nil)

theorem regImg_keeping {o : Nat} : RegKeeping (regImg o s) :=
  .cons { put := fun _ _ h => .upd h } (.cons { put := fun _ _ h => .imgCommand h } (.cons {}
    (.cons .word (.cons .word (.cons {} .nil)))))

theorem Reg.Keeping.ite {c : Prop} [Decidable c] {a b : Reg} (ha : a.Keeping) (hb : b.Keeping) :
    (if c then a else b).Keeping := by
  split
  · exact ha
  · exact hb

theorem regDecline_keeping {d : Decline} {k : Nat} : (regDecline d k).Keeping :=
  .ite .word (.ite {} (.ite .word {}))

theorem regTroupe_keeping {tr base k : Nat} : (regTroupe tr base k s).Keeping :=
  .ite { put := fun _ _ h => .upd h } (.ite { put := fun _ _ h => .ite h (.upd h) }
    (.ite (.ite { put := fun _ _ h => .upd h } { put := fun _ _ h => .upd h })
      (.ite { put := fun _ _ h => .upd h }
        (.ite { put := fun _ _ h => .ite (.ite (.resolveFlip h) (.ite (.resolveDiscard h) h)) h }
          (.ite regDecline_keeping (.ite { put := fun _ _ h => .upd h } { put := fun _ _ h => .upd h }))))))

theorem regFence_keeping {u : Nat} : (regFence u s).Keeping :=
  { put := fun _ _ h => .ite (.requestFence h) (.ite (.requestReturn h) h) }

theorem regRoute_keeping {e : Nat} : (regRoute e s).Keeping := { put := fun _ _ h => .upd h }

theorem regRun_keeping {l : List RegField} {base n : Nat} :
    Reg.Keeping { fields := l, put := fun _ w s => writeRun base n w s } := { put := fun _ _ h => .writeRun h }

theorem regCtlSingle_keeping {o : Nat} : RegKeeping (regCtlSingle o s) :=
  .cons {} (.cons { put := fun _ _ h => .ite (.upd h) h } (.cons .word (.cons { clear := fun h => .upd h }
    (.cons { put := fun _ _ h => .upd h } (.cons { put := fun _ _ h => .upd h }
      (.cons { put := fun _ _ h => .upd h, clear := fun h => .upd h } (.cons regRun_keeping
        (.cons regRun_keeping (.cons { put := fun _ _ h => .upd h } .nil)))))))))

theorem regCtl_keeping {o : Nat} : RegKeeping (regCtl o s) := by
  unfold regCtl
  split
  next x hx => exact .some (regImg_keeping x hx)
  split
  · exact .some regTroupe_keeping
  split
  · exact .some regFence_keeping
  split
  · exact .some regRoute_keeping
  · exact regCtlSingle_keeping

theorem regHost_keeping {off : Nat} : RegKeeping (regHost off s) := by
  unfold regHost
  extract_lets o
  split
  · exact regBoot_keeping
  · exact regSec_keeping
  · exact regQue_keeping
  · exact regWin_keeping
  · exact regPci_keeping
  · exact regPlc_keeping
  · exact regClk_keeping
  · exact regErr_keeping
  · exact regCtl_keeping
  · exact .none

theorem regCompletion_keeping {e : CEntry} {k : Nat} : (regCompletion e k).Keeping := .ite {} .word

theorem regKeySlot_keeping {x : KeySlot} {k : Nat} : RegKeeping (regKeySlot x k) :=
  .cons {} (.cons {} (.cons {} .nil))

theorem regGate_keeping {t o : Nat} : RegKeeping (regGate t o s) := by
  unfold regGate
  extract_lets g
  split
  · exact .some { put := fun _ _ h => .upd h }
  · exact .ite (.some { put := fun _ _ h => .ite (.upd h) h }) .none

theorem regTile_keeping {t o : Nat} : RegKeeping (regTile t o s) := by
  refine .ite (.some .word) ?_
  split
  · exact .some .word
  split
  · exact .some regCompletion_keeping
  split
  · exact .some {}
  split
  · exact regKeySlot_keeping
  · exact .ite regGate_keeping (.cons {} (.cons {} (.cons .word (.cons {} (.cons {} (.cons {}
      (.cons { put := fun _ _ h => .upd h, clear := fun h => .upd h } (.cons .word .nil))))))))

theorem regMem_keeping {m o : Nat} : RegKeeping (regMem m o s) :=
  .cons { clear := fun h => .upd h } (.cons { clear := fun h => .upd h }
    (.cons { put := fun _ _ h => .ite (.upd h) h } (.cons {} .nil)))

theorem regStr_keeping {c o : Nat} : RegKeeping (regStr c o s) :=
  .cons {} (.cons .word (.cons {} (.cons { put := fun _ _ h => .pumpVote (.upd h) } (.cons { clear := fun h => .upd h } .nil))))

theorem regFab_keeping {c o : Nat} : RegKeeping (regFab c o s) := by
  unfold regFab
  split
  · exact .cons { put := fun _ _ h => .writeBoard h } (.cons { put := fun _ _ h => .writeBoard h } (.cons .word (.cons {} .nil)))
  split
  · exact .cons {} (.cons { clear := fun h => .upd h } (.cons { clear := fun h => .upd h } .nil))
  · exact .cons { put := fun _ _ h => .upd h } (.cons {} .nil)

theorem regRed_keeping {o : Nat} : RegKeeping (regRed o s) := by
  unfold regRed
  split
  · exact .ite .none (.cons { put := fun _ _ h => .writeTag h } (.cons {} .nil))
  · exact .cons { put := fun _ _ h => .ite (.upd h) h } .nil

theorem regCoh_keeping {n o : Nat} : RegKeeping (regCoh n o s) :=
  .cons { put := fun _ _ h => .upd h } (.cons { put := fun _ _ h => .startPurge h }
    (.cons { clear := fun h => .upd h } (.cons { clear := fun h => .upd h } .nil)))

theorem regVcd_keeping {c o : Nat} : RegKeeping (regVcd c o s) := by
  unfold regVcd
  extract_lets x
  split
  · exact .cons { put := fun _ _ h => .writeFbBase h } (.cons { put := fun _ _ h => .upd h } .nil)
  split
  · exact .some {}
  · exact .cons {} (.cons { put := fun _ _ h => .ite (.upd h) h, clear := fun h => .upd h } .nil)

theorem regDat_keeping {c o : Nat} : RegKeeping (regDat c o s) := by
  unfold regDat
  split
  · exact .none
  · exact .cons {} (.cons { clear := fun h => .upd h } .nil)

theorem regChip_keeping {c off : Nat} : RegKeeping (regChip c off s) := by
  refine .ite regTile_keeping ?_
  split
  · exact regClk_keeping
  · exact regStr_keeping
  · exact regFab_keeping
  · split
    · exact regMem_keeping
    · exact .none
  · exact regCoh_keeping
  · exact regRed_keeping
  · exact regVcd_keeping
  · exact regDat_keeping
  · exact regErr_keeping
  · exact .none

theorem regShard_keeping {g n k : Nat} : RegKeeping (regShard g n k s) :=
  have hput {l : List RegField} : Reg.Keeping { fields := l, put := fun _ w s => writeShard g n (k / 8) (BitVec.ofNat 64 w) s } :=
    { put := fun _ _ h => .writeShard h }
  .cons hput (.cons hput (.cons hput (.cons hput (.cons hput (.cons hput (.cons hput (.cons hput .nil)))))))

theorem regGrt_keeping {g o : Nat} : RegKeeping (regGrt g o s) := by
  unfold regGrt
  split
  · exact regShard_keeping
  split
  · exact .cons { put := fun _ _ h => .writePub h } (.cons .word .nil)
  · exact .ite regClk_keeping (.ite regCoh_keeping .none)

theorem regUpd_keeping {g o : Nat} : RegKeeping (regUpd g o s) := by
  unfold regUpd
  extract_lets x
  split
  · exact .some .word
  split
  · exact .some .word
  · exact .cons { put := fun _ _ h => .ite (.upd h) h } (.cons {} .nil)

theorem regRoot_keeping {g o : Nat} : RegKeeping (regRoot g o s) := .cons {} .nil

theorem regDig_keeping {g o : Nat} : RegKeeping (regDig g o s) := by
  unfold regDig
  extract_lets x
  split
  · exact .some .word
  · exact .cons .word (.cons { put := fun _ _ h => .ite (.upd h) h } .nil)

theorem regGrotto_keeping {g off : Nat} : RegKeeping (regGrotto g off s) := by
  unfold regGrotto
  extract_lets o
  split
  · exact regGrt_keeping
  · exact regUpd_keeping
  · exact regRoot_keeping
  · exact regMem_keeping
  · exact regDig_keeping
  · exact regErr_keeping
  · exact .none

theorem registerAt_keeping {die off : Nat} : RegKeeping (registerAt die off s) :=
  .ite regHost_keeping (.ite regChip_keeping regGrotto_keeping)

theorem Keeps.regWrites {die off addr : Nat} {ws : Writes} (h : Keeps s r) :
    Keeps s (Machine.regWrites die off addr ws r) := by
  unfold Machine.regWrites
  split
  · exact .fold h fun _ h => .upd h
  next x hx => exact .noteConflict ((registerAt_keeping x hx).put _ _ (.fold h fun _ h => .noteWrite h))

theorem Keeps.writeRegister {source addr size : Nat} {v : Word} {others : List OtherWrite} (h : Keeps s r) :
    Keeps s (Machine.writeRegister source addr size v others r) := by
  unfold Machine.writeRegister
  split
  · exact .ite
      (.ite (.upd h) h)
      (.ite (.ite (.interruptWrite h) h) (.ite (.regWrites h) (.ite (.upd h) (.regWrites (.upd h)))))
  · exact h

theorem Keeps.readRegister {source addr size : Nat} (h : Keeps s r) :
    Keeps s (Machine.readRegister source addr size r) := by
  unfold Machine.readRegister
  split
  · refine .ite (.ite (.upd h) (.upd h)) (.ite (.upd h) (.ite (.upd h) ?_))
    split
    · exact .upd h
    next x hx => exact .upd ((registerAt_keeping x hx).clear h)
  · exact h

theorem KeepsNext.execRegisterRead {source : SourceId} {addr size : Nat} :
    KeepsNext s (Machine.execRegisterRead source addr size s) := .event fun h => .readRegister h

theorem Keeps.startUnit {t u : Nat} {c : Cmd} (h : Keeps s r) : Keeps s (Machine.startUnit t u c r) :=
  .ite
    (.upd h)
    (.ite
      (.startArray h)
      (.ite
        (.startMover h)
        (.ite
          (.startGate (.upd h))
          (.ite (.startToken (.upd h)) (.ite (.finished (.startStrings (.upd h))) (.finished (.startLogger (.upd h))))))))

theorem Keeps.subtractWait {u : Nat} {w : WaitRec} (h : Keeps s r) : Keeps s (Machine.subtractWait u w r) := by
  unfold Machine.subtractWait
  split
  · exact .upd h
  · exact .upd h
  · exact .upd h
  · exact h

theorem Keeps.deliverTile {t cycle : Nat} {w : StrWait} (h : Keeps s r) :
    Keeps s (Machine.deliverTile t cycle w r) := by
  refine .ite (.tileFaultAt h) ?_
  split
  · exact h
  · exact .ite (.padStore (.useBanks h)) (.useBanks h)

theorem Keeps.deliverRed {d : Nat} {w : StrWait} (h : Keeps s r) : Keeps s (Machine.deliverRed d w r) := by
  unfold Machine.deliverRed
  split
  · exact .upd h
  · exact .ite (.unitFault (.upd h)) h

theorem Keeps.resumeEngine {u : Nat} (h : Keeps s r) : Keeps s (Machine.resumeEngine u r) :=
  .ite (.upd h) (.ite (.upd h) (.ite (.upd h) (.ite (.upd h) h)))

theorem Keeps.setWait {u : Nat} {w : Option WaitRec} (h : Keeps s r) : Keeps s (r.setWait u w) := .upd h

theorem KeepsNext.execWaitRelease {u : UnitId} {cycle : Nat} : KeepsNext s (Machine.execWaitRelease u cycle s) := by
  refine .eventOf fun w h => ?_
  beta_reduce
  extract_lets s1 q lo s2 s3
  have h1 : Keeps s s1 := .setWait (.subtractWait h)
  have h2 : Keeps s s2 := .modTile h1
  have h3 : Keeps s s3 := .resumeEngine h1
  exact .ite (.judge (.ite (.deliverTile (.upd h2)) h2)) (.ite (.deliverRed (.upd h3)) h3)

theorem KeepsNext.execWaitLimitExpiry {u : UnitId} : KeepsNext s (Machine.execWaitLimitExpiry u s) := by
  unfold Machine.execWaitLimitExpiry
  split
  · exact .event (fun h => .unitFault (.upd h))
  · exact .eventOf (fun _ h => .tileFaultAt h)

theorem KeepsNext.execArrivalHoldLimit {u : UnitId} : KeepsNext s (Machine.execArrivalHoldLimit u s) := by
  refine .eventOf fun _ h => .unitFault ?_
  split
  iterate 3
    · exact .upd h

theorem exec_keeps (c : Instr) (s : State) : KeepsNext s (exec c s) := by
  unfold exec
  cases c with
  | ctNop => exact .execCtNop
  | ctIdle | ctLoop | ctOpen | ctClose | ctEnd | tkSignal | stArrive | stSync | stRed | stVote | mmAcc
    | mmDrain | gtArm | gtFill | gtFire | lgRec | lgMark | lgClr => exact .issueWord (fun _ h => .upd h)
  | tkWait => exact .execTkWait
  | waitRelease => exact .execWaitRelease
  | mvLd | mvSt | mvCp => exact .issueMv
  | vxAdd | vxSub | vxMul | vxMax | vxMin | vxFma | vxFms | vxFnma | vxMov | vxNeg | vxAbs | vxRelu | vxCgt
    | vxCge | vxCeq | vxCne | vxSel | vxExp2 | vxLog2 | vxRcp | vxRsqrt | vxTanh | vxErf | vxRsum | vxRmax
    | vxRmin | vxRssq | vxCsum | vxCmax | vxCmin | vxCmpr | vxExpd | vxKey | vxDrop | vxKeep | vxUnif
    | vxIadd | vxIsub | vxImax | vxImin | vxItof | vxFtoi => exact .issueVx
  | issueResume => exact .event fun h => .judge (.upd h)
  | commandStart => exact .eventOf (fun _ h => .startUnit h)
  | moverLineSlot => exact .execMoverLineSlot
  | moverLineLands => exact .execMoverLineLands
  | moverFinish => exact .execMoverFinish
  | accumulatorsComplete => exact .execAccumulatorsComplete
  | drainEnd => exact .execDrainEnd
  | chainStart => exact .execChainStart
  | chainFinish => exact .execChainFinish
  | fillCounted => exact .execFillCounted
  | gateDeadline => exact .event fun h => .fireRound h
  | waitLimitExpiry => exact .execWaitLimitExpiry
  | tileSceneStart | clkSwitchEffect | fatalCopy => exact .eventOf (fun _ h => .upd h)
  | tileSceneEnd => exact .execTileSceneEnd
  | sceneBoundary => exact .execSceneBoundary
  | auditComplete => exact .event fun h => .completeOwner (.settleFences (.upd h))
  | abortNotice => exact .event fun h => .upd (.abortVotes (.abortUnit h))
  | safePoint => exact .execSafePoint
  | safePointTimeout => exact .event fun h => .formRecord h
  | tokenSignalMessage => exact .execTokenSignalMessage
  | barrierArrival => exact .execBarrierArrival
  | barrierRelease => exact .event fun h => .pumpBarrier (.upd h)
  | arrivalHoldLimit => exact .execArrivalHoldLimit
  | reductionOperand => exact .execReductionOperand
  | reductionResult => exact .event fun h => .pumpRed (.upd h)
  | voteCast => exact .execVoteCast
  | voteOutcome => exact .execVoteOutcome
  | strVetoWrite => exact .event fun h => .pumpVote (.upd h)
  | frameStart => exact .execFrameStart
  | frameMarkReceipt => exact .execFrameMarkReceipt
  | markLoss => exact .event fun h => .leaveSpan (.setReference h)
  | membershipNotice => exact .execMembershipNotice
  | carriedRegisterWrite | registerWrite => exact .event fun h => .writeRegister h
  | timetableFrameStart => exact .execTimetableFrameStart
  | memorySlot => exact .execMemorySlot
  | linkRetrainStart => exact .eventOf (fun _ h => .modLinkEnds h)
  | linkUpAgain => exact .eventOf (fun _ h => .retrainRecords (.countReplays (.countReplays (.modLinkEnds h))))
  | linkLossTimeout => exact .execLinkLossTimeout
  | hostLinkLoss => exact .event fun h => .loseDevice (.hostLinkRecord h)
  | slotFlitReceived | replaySend | creditReturn | publicationReceipt | snapshotPin | snapshotRelease
    | evtRouteWrite | gateMapWrite | rootLock | bootClear | bootUnlockRam | flashOpComplete | quoteComplete
    | errFatalClrWrite | downstreamPortContainment => exact .event fun h => .upd h
  | openerReceived => exact .execOpenerReceived
  | portTrained => exact .event fun h => .judgePort (.upd h)
  | portRetrain => exact .event fun h => .losePort (.upd h)
  | portRetrainTimeout => exact .event fun h => .losePort h
  | stringsLaneLost => exact .event fun h => .leaveSpan (.losePort (.upd h))
  | fabricLineArrival => exact .execFabricLineArrival
  | forwardLaunch => exact .execForwardLaunch
  | reductionContribution => exact .execReductionContribution
  | fabSend => exact .execFabSend
  | fabSendComplete | updateComplete => exact .event fun h => .engineSignal (.upd h)
  | fabRecv => exact .execFabRecv
  | fabRecvComplete => exact .eventOf (fun _ h => .engineSignal (.upd h))
  | fabEnd | redEnd | updEnd => exact .event fun h => .ite (.engineArrive h) (.setEngState h)
  | fetchCheck => exact .execFetchCheck
  | repeatRequest => exact .execRepeatRequest
  | redNorm => exact .execRedNorm
  | redNormVote => exact .execRedNormVote
  | updNormWait => exact .execUpdNormWait
  | normOutcome => exact .execNormOutcome
  | updUpdate => exact .execUpdUpdate
  | programGroupResume => exact .execProgramGroupResume
  | prgAdd | prgSub | prgMul | prgFma | prgFms | prgFnma | prgDiv | prgSqrt | prgMax | prgMin | prgAbs
    | prgNeg | prgSel | prgCgt | prgMov => exact .execPrg
  | updRoot => exact .execUpdRoot
  | rootBlockComplete => exact .execRootBlockComplete
  | updCommit => exact .execUpdCommit
  | commitOutcome => exact .execCommitOutcome
  | updDigest => exact .event fun h => .unlessSkipping h (fun h => .runDigest h)
  | updConst => exact .event fun h => .unlessSkipping h (fun h => .runConst h)
  | updInit => exact .event fun h => .unlessSkipping h (fun h => .runInit h)
  | stepResolveFlip => exact .event fun h => .resolveFlip h
  | stepResolveDiscard => exact .event fun h => .resolveDiscard h
  | rdShared | rdUnique | upgrade | rdOnce | wrFull | wrPart => exact .requestRow
  | queuedRequestStart => exact .execQueuedRequestStart
  | setQueueRequestStart => exact .eventOf (fun _ h => .beginTxn (.upd h))
  | snpShared | snpUnique | snpInv | snpCur => exact .snoopRow
  | rspI | rspFwdS | rspFwdSWb | rspFwdI | rspIWb | rspFwdEvict | rspIEvict | rspCur => exact .responseRow
  | cmp => exact .execCmp
  | ack => exact .execAck
  | wbAck => exact .eventOf (fun _ h => .edgeTurn (.upd h))
  | dataE | dataS | dataM => exact .dataRow
  | dataHome => exact .execDataHome
  | dataI => exact .execDataI
  | wbDirty | wbClean => exact .wbRow
  | cacheEviction => exact .execCacheEviction
  | busyLimit => exact .execBusyLimit
  | purgeStart => exact .event fun h => .startPurge h
  | purgeComplete | stabilityCountExpiry => exact .event fun h => .ite (.upd h) (.upd h)
  | windowWrite => exact .eventOf (fun _ h => .ite (.gather h) (.upd h))
  | wcBufferDrain => exact .event fun h => .drainBuffer h
  | windowRead => exact .execWindowRead
  | winFlushRead => exact .execWinFlushRead
  | queueEnable | queueDisable | queueRestart => exact .event fun h => .writeQueCfg h
  | doorbellWrite => exact .event fun h => .ringDoorbell h
  | slotFetch => exact .event fun h => .judgeSlot h
  | slotReread => exact .execSlotReread
  | qNop => exact .eventOf (fun _ h => .oneShot h fun h => h)
  | qInlineWrite => exact .execQInlineWrite
  | qSceneLoad => exact .execQSceneLoad
  | qSceneStart | heldSceneStart => exact .eventOf (fun _ h => .sceneStart h)
  | qSignal | vcdOpen => exact .eventOf (fun _ h => .oneShot h fun h => .upd h)
  | qDecomp | qGather | qScatter | qLayout => exact .eventOf (fun _ h => .submitDat h)
  | completionRecordWrite => exact .execCompletionRecordWrite
  | msiWrite => exact .event fun h => .interruptWrite (.upd h)
  | datDecomp | datGather | datScatter | datLayout => exact .datRow
  | datEnd => exact .event fun h => .ite (.engineArrive h) (.engineFault h)
  | dataJobFinish => exact .execDataJobFinish
  | vcdDecode | vcdEncode | vcdDrain => exact .eventOf (fun _ h => .acceptJob h)
  | vcdClose => exact .execVcdClose
  | codecJobFinish => exact .execCodecJobFinish
  | codecSuspend => exact .eventOf (fun _ h => .takeJob (.modCodec (.askEdgePuts (.upd h))))
  | vcdFbBaseWrite => exact .event fun h => .writeFbBase h
  | adapterWrite => exact .execAdapterWrite
  | adapterRead => exact .execAdapterRead
  | peerRequest => exact .eventOf (fun _ h => .routePeer (.upd h))
  | placementDurable => exact .eventOf (fun _ h => .countBytes (.upd h))
  | regionEnable | regionDisable => exact .event fun h => .writeRgnBase h
  | interruptFileWrite => exact .event fun h => .interruptWrite h
  | hartRelease | hartStop => exact .event fun h => .setHart h
  | imgDiscardStaged | imgLoadFull | imgStagePartial | imgEpochChange => exact .event fun h => .imgCommand h
  | imageCheckComplete => exact .execImageCheckComplete
  | imageSwitch => exact .eventOf (fun _ h => .switchImage h)
  | epochVoteOutcome => exact .execEpochVoteOutcome
  | epochActivation => exact .eventOf (fun _ h => .activateEpoch h)
  | tagEntryWrite => exact .event fun h => .writeTag h
  | boardEntryWrite => exact .event fun h => .writeBoard h
  | shardTableWrite => exact .event fun h => .writeShard h
  | telemetryConfigWrite => exact .execTelemetryConfigWrite
  | clkSwitchRoot | clkSwitchBypass => exact .event fun h => .writeSwitch h
  | refclkLoss | lockLoss => exact .event fun h => .packageStop h
  | powerGood => exact .event fun h => .upd h
  | pwrgdDeassert => exact .event fun h => .withBoot (.resetAll h)
  | pkgResetAssert => exact .event fun h => .resetAll h
  | pkgResetRelease => exact .event fun h => .romBoot h
  | packageReset => exact .eventOf (fun _ h => .romBoot (.resetAll h))
  | watchdogExpiry => exact .event fun h => .oweReset (.upd h)
  | bootReset => exact .event fun h => .oweReset h
  | bootCommit => exact .event fun h => .bootCommit h
  | bootStage => exact .event fun h => .bootStage h
  | bootFail => exact .event fun h => .bootFail h
  | bootDieRelease => exact .event fun h => .releaseDies h
  | bootFlashRead | bootFlashProgram | bootFlashErase => exact .event fun h => .flashCommand h
  | bundleVerify => exact .event fun h => .reply (.verifyBundle h)
  | secSvnAdvWrite => exact .event fun h => .writeSvnAdv h
  | quoteStart => exact .event fun h => .startQuote h
  | mregExtend => exact .event fun h => .ite (.upd h) h
  | fenceRequest => exact .event fun h => .requestFence h
  | returnRequest => exact .event fun h => .requestReturn h
  | registerRead => exact .execRegisterRead
  | hartMemoryAccess => exact .execHartMemoryAccess
  | linkTrained => exact .eventOf (fun _ h => .ite h (.modLinkEnds h))

/-! ### O5 and O6 -/

theorem idle_keeps (s : State) : Keeps s (idle s) := .ite (.upd (.refl s)) (.refl s)

/-- Every step that answers a next state keeps memory canonical: the queue's rest matters to no command. -/
theorem step_keeps_wf {s r : State} (h : Memory.wf s.mem = true) (hr : step s = .next r) : Memory.wf r.mem = true := by
  cases hp : s.pending with
  | nil =>
    rw [step_of_pending_nil s hp] at hr
    cases hr
    exact (idle_keeps s).2 h
  | cons c rest =>
    rw [step_of_pending_cons s c rest hp] at hr
    exact (exec_keeps c _ r hr).2 h

/-- Settles O5. -/
theorem memoryIsCanonicalAtReset : Obligations.MemoryIsCanonicalAtReset := rfl

/-- Settles O6: by the case of each command of the queue's front. -/
theorem everyStepKeepsMemoryCanonical : Obligations.EveryStepKeepsMemoryCanonical :=
  fun _ _ => step_keeps_wf

end Sys2Proof.Machine
end

section

/-! SUPPORT. The die-to-die links (O37): both ends of a link, the records of a retrain, and the loss of the device dies. -/

namespace Sys2Proof.Machine

open Sys2Proof

variable (s : State)

/-! ### The ends of a link -/

/-- A link has two ends, and these are two entries of the table of links. -/
theorem linkTo_back : ∀ (d e : DieId) (l : LinkId), linkTo d e = some l.val →
    ∃ l' : LinkId, linkTo e d = some l'.val ∧ linkKey d l ≠ linkKey e l' := by decide

theorem linkPeer_spec {d : DieId} {l : LinkId} {e : Nat} (h : linkPeer d l = some e) :
    e < 9 ∧ linkTo d e = some l.val := by
  refine ⟨List.mem_range.1 (List.mem_of_find?_eq_some h), ?_⟩
  simpa using List.find?_some h

theorem linkPeer_back {d : DieId} {l : LinkId} {e : Nat} (h : linkPeer d l = some e) :
    ∃ l' : LinkId, linkTo e d = some l'.val ∧ linkKey d l ≠ linkKey e l' := by
  obtain ⟨he, hl⟩ := linkPeer_spec h
  exact linkTo_back d ⟨e, he⟩ l hl

theorem State.link_modLink_ne {d l d' l' : Nat} (f : Link → Link) (h : linkKey d' l' ≠ linkKey d l) :
    (s.modLink d l f).link d' l' = s.link d' l' := tget_tmod_ne _ _ _ _ _ h

section
variable {d e l l' : Nat} (hl : linkTo d e = some l) (hl' : linkTo e d = some l') (hne : linkKey d l ≠ linkKey e l')
  (f : Link → Link) (n : Nat)
include hl hl' hne

theorem link_modLinkEnds_near : (modLinkEnds d e f s).link d l = f (s.link d l) := by
  simp only [modLinkEnds, hl, hl', State.link_modLink_ne _ f hne, State.link_modLink_same]

theorem link_modLinkEnds_far : (modLinkEnds d e f s).link e l' = f (s.link e l') := by
  simp only [modLinkEnds, hl, hl', State.link_modLink_same, State.link_modLink_ne _ f hne.symm]

omit hl' hne in
theorem link_countReplays_near :
    (countReplays d e n s).link d l = { s.link d l with replays := satAdd 16 (s.link d l).replays n } := by
  simp only [countReplays, hl, State.link_modLink_same]

omit hl' in
theorem link_countReplays_far : (countReplays d e n s).link e l' = s.link e l' := by
  simp only [countReplays, hl, State.link_modLink_ne _ _ hne.symm]

end

theorem modLinkEnds_frame (d e : Nat) (f : Link → Link) : ∃ k, modLinkEnds d e f s = { s with links := k } := by
  unfold modLinkEnds
  split
  · exact ⟨_, rfl⟩
  · exact ⟨s.links, rfl⟩

theorem countReplays_frame (d e n : Nat) : ∃ k, countReplays d e n s = { s with links := k } := by
  unfold countReplays
  split
  · exact ⟨_, rfl⟩
  · exact ⟨s.links, rfl⟩

/-! ### The records of a retrain (R17) -/

/-- A deferred record of a troupe begins to abort that troupe's scene, and no other's. -/
theorem formRecord_deferred_state (d : Nat) (x : ErrRec) (h : x.severity = sevDeferred) (i : Nat) :
    ((formRecord d x s).troupe i).state =
      if x.troupe ≠ 0xFF ∧ i = x.troupe ∧ (s.troupe i).state = 1 then 2 else (s.troupe i).state := by
  obtain ⟨t, ⟨e, k, rfl⟩, acts⟩ := formRecord_acts s d x
  rw [acts, if_pos h]
  by_cases hx : x.troupe = 0xFF
  · rw [if_pos hx, if_neg fun k => k.1 hx]
    rfl
  · rw [if_neg hx]
    simp only [ne_eq, hx, not_false_iff, true_and]
    exact beginAbort_state { s with err := e, host := k } x.troupe i

theorem formRecord_corrected_troupes (d : Nat) (x : ErrRec) (h : x.severity = sevCorrected) :
    (formRecord d x s).troupes = s.troupes := by
  obtain ⟨t, ⟨e, k, rfl⟩, acts⟩ := formRecord_acts s d x
  rw [acts, if_neg (by rw [h]; decide), if_neg (by rw [h]; decide)]

theorem retrainRecords_frame (d l e : Nat) :
    ∃ x h t b, retrainRecords d l e s = { s with err := x, host := h, troupes := t, boot := b } := by
  unfold retrainRecords
  extract_lets r
  split
  · exact formRecord_frame s d r
  · refine List.foldlRecOn (motive := fun q : State => ∃ x h t b, q = { s with err := x, host := h, troupes := t, boot := b })
      _ _ ⟨s.err, s.host, s.troupes, s.boot, rfl⟩ ?_
    rintro _ ⟨x, h, t, b, rfl⟩ tr _
    exact formRecord_frame _ d _

@[simp] theorem retrainRecords_mem (d l e : Nat) : (retrainRecords d l e s).mem = s.mem := by
  obtain ⟨_, _, _, _, h⟩ := retrainRecords_frame s d l e
  rw [h]

@[simp] theorem retrainRecords_link (d l e i j : Nat) : (retrainRecords d l e s).link i j = s.link i j := by
  obtain ⟨_, _, _, _, h⟩ := retrainRecords_frame s d l e
  rw [h]
  rfl

theorem retrainRecords_troupes (d l e : Nat) (h : troupesOnLink s.image d e = []) :
    (retrainRecords d l e s).troupes = s.troupes := by
  unfold retrainRecords
  rw [h]
  exact formRecord_corrected_troupes s d _ rfl

theorem retrainRecords_aborts (d l e : Nat) {tr : Nat} (hmem : tr ∈ troupesOnLink s.image d e) (htr : tr ≠ 0xFF)
    (hrun : (s.troupe tr).state = 1) : ((retrainRecords d l e s).troupe tr).state = 2 := by
  unfold retrainRecords
  extract_lets r
  split
  · next h => simp [h] at hmem
  · refine foldl_reaches (I := fun s : State => (s.troupe tr).state = 1 ∨ (s.troupe tr).state = 2)
      (P := fun s : State => (s.troupe tr).state = 2) (fun s i h => ?_) (fun s i h => ?_) (fun s h => ?_) hmem (.inl hrun)
    · rw [formRecord_deferred_state _ _ _ rfl]
      split
      · exact .inr rfl
      · exact h
    · rw [formRecord_deferred_state _ _ _ rfl]
      split
      · rfl
      · exact h
    · rw [formRecord_deferred_state _ _ _ rfl]
      rcases h with h | h <;> simp [h, htr]

/-! ### The reset of the device dies (R423, R424, R440) -/

/-- What the reset of the device dies does not reach, and the tiles, which it only returns to their reset value. -/
structure DeviceKeeps (s r : State) : Prop where
  host : r.host = s.host
  time : r.time = s.time
  fatal : r.err.fatal = s.err.fatal
  tile : ∀ t, s.tile t = {} → r.tile t = {}

namespace DeviceKeeps

variable {s}

theorem refl : DeviceKeeps s s := ⟨rfl, rfl, rfl, fun _ => id⟩

theorem trans {r t : State} (h : DeviceKeeps s r) (k : DeviceKeeps r t) : DeviceKeeps s t where
  host := k.host.trans h.host
  time := k.time.trans h.time
  fatal := k.fatal.trans h.fatal
  tile i hi := k.tile i (h.tile i hi)

theorem foldl {α : Type} {f : State → α → State} (hf : ∀ s a, DeviceKeeps s (f s a)) (l : List α) :
    DeviceKeeps s (l.foldl f s) :=
  List.foldlRecOn (motive := DeviceKeeps s) l f refl fun r h a _ => h.trans (hf r a)

/-- An operation that changes none of them. -/
theorem of_eq {r : State} (h : r.host = s.host) (t : r.time = s.time) (e : r.err.fatal = s.err.fatal)
    (k : r.tiles = s.tiles) : DeviceKeeps s r :=
  ⟨h, t, e, fun i hi => by rw [State.tile, k]; exact hi⟩

theorem freeFill (a n : Nat) : DeviceKeeps s (s.freeFill a n) := of_eq rfl rfl rfl rfl

theorem dropWrite (w : Nat × List Byte × List Bool) : DeviceKeeps s (Machine.dropWrite w s) := by
  unfold Machine.dropWrite
  split
  · exact freeFill _ _
  · exact refl

theorem discardWindow : DeviceKeeps s (Machine.discardWindow s) := by
  unfold Machine.discardWindow
  extract_lets lost s1
  refine trans (of_eq (r := s1) rfl rfl rfl rfl) (foldl (fun s h => ?_) _)
  split
  · exact of_eq rfl rfl rfl rfl
  · exact refl

theorem loseRanges (rs : List (Nat × Nat)) : DeviceKeeps s (Machine.loseRanges rs s) := foldl (fun _ _ => freeFill _ _) rs

end DeviceKeeps

/-- A dropped entry reads as the default. -/
theorem tget_tdrop {α : Type} (x : α) (t : Tbl α) (p : Nat → Bool) (k : Nat) :
    tget x (tdrop t p) k = if p k then x else tget x t k := by
  induction t with
  | nil => simp [tdrop]
  | cons q t ih =>
    unfold tdrop at ih ⊢
    rw [List.filter_cons]
    by_cases hk : k = q.1
    · subst hk
      cases hq : p q.1 <;> simp_all [tget]
    · cases hq : p q.1 <;> simp [tget, hk, ih]

theorem loseRanges_tiles (rs : List (Nat × Nat)) : (loseRanges rs s).tiles = s.tiles :=
  List.foldlRecOn (motive := fun q : State => q.tiles = s.tiles) _ _ rfl fun _ h _ _ => h

theorem resetDie_tiles (d : Nat) :
    (resetDie d s).tiles = if d ≤ 4 then tdrop s.tiles fun t => t / 12 == d - 1 else s.tiles := by
  unfold resetDie
  split
  · exact congrArg (tdrop · fun t => t / 12 == d - 1) (loseRanges_tiles (resetCommon d s) _)
  · rfl

theorem DeviceKeeps.resetDie (d : Nat) : DeviceKeeps s (Machine.resetDie d s) where
  host := by
    unfold Machine.resetDie
    split
    · exact (DeviceKeeps.loseRanges _).host
    · rfl
  time := by
    unfold Machine.resetDie
    split
    · exact (DeviceKeeps.loseRanges _).time
    · rfl
  fatal := by
    unfold Machine.resetDie
    split
    · exact (DeviceKeeps.loseRanges _).fatal
    · rfl
  tile t h := by
    rw [State.tile, resetDie_tiles]
    split
    · rw [tget_tdrop]
      split
      · rfl
      · exact h
    · exact h

/-- The compute die of a tile clears it. -/
theorem resetDie_clears {t : Nat} (h : t < 48) : (resetDie (t / 12 + 1) s).tile t = {} := by
  rw [State.tile, resetDie_tiles, if_pos (by omega), tget_tdrop, if_pos (by simp)]

/-- The state in which every device die has been reset, before the host die drops what it holds for them. -/
def devicesReset (s : State) : State :=
  deviceDies.foldl (fun s d => resetDie d s)
    ((s.mems.flatMap fun p => (p.2.reqs.filter fun q => q.who.ofWindow && waitingWrite q).map reqWrite).foldl
      (fun s w => dropWrite w s)
      (((pendingWrites s).filter fun w =>
          !(s.mems.flatMap fun p => (p.2.reqs.filter fun q => q.who.ofWindow && waitingWrite q).map reqWrite).contains w).foldl
        (fun s w => dropWrite w s) (discardWindow s)))

theorem devicesReset_keeps : DeviceKeeps s (devicesReset s) :=
  .trans (.trans (.trans .discardWindow (.foldl (fun _ w => .dropWrite w) _)) (.foldl (fun _ w => .dropWrite w) _))
    (.foldl (fun s d => .resetDie s d) _)

theorem devicesReset_tile {t : Nat} (h : t < 48) : (devicesReset s).tile t = {} := by
  refine foldl_reaches (I := fun _ => True) (P := fun s : State => s.tile t = {}) (fun _ _ _ => trivial)
    (fun s d => (DeviceKeeps.resetDie s d).tile t) (fun s _ => resetDie_clears s h) ?_ trivial
  have : t / 12 < 4 := by omega
  simp [deviceDies]
  omega

/-- R440: no region is valid once every one has lost valid. -/
theorem tget_loseRegion (t : Tbl Region) (i : Nat) : (tget {} (t.map fun p => (p.1, loseRegion p.2)) i).valid = false := by
  induction t with
  | nil => rfl
  | cons p t ih =>
    simp only [List.map_cons, tget]
    split
    · rfl
    · exact ih

theorem loseDevice_tiles : (loseDevice s).tiles = (devicesReset s).tiles := rfl

theorem loseDevice_host : (loseDevice s).host = s.host := (devicesReset_keeps s).host

theorem loseDevice_time : (loseDevice s).time = s.time := (devicesReset_keeps s).time

theorem loseDevice_fatal : (loseDevice s).err.fatal = s.err.fatal := (devicesReset_keeps s).fatal

theorem loseDevice_tile {t : Nat} (h : t < 48) : (loseDevice s).tile t = {} := by
  rw [State.tile, loseDevice_tiles]
  exact devicesReset_tile s h

theorem loseDevice_region (i : Nat) : ((loseDevice s).region i).valid = false := tget_loseRegion _ i

theorem hostLinkRecord_frame (e : Nat) : ∃ x, hostLinkRecord e s = { s with err := x } := by
  unfold hostLinkRecord
  extract_lets r copy s1
  split
  · exact ⟨_, rfl⟩
  · exact ⟨_, rfl⟩

theorem hostLinkRecord_fatal (e : Nat) (h : s.err.fatalCopied = false) :
    ∃ f, (hostLinkRecord e s).err.fatal = some f ∧ f.cls = 5 ∧ f.severity = 2 ∧ f.code = 7 ∧ f.info1 = e := by
  unfold hostLinkRecord
  extract_lets r copy s1
  rw [if_neg (by simp [s1, h])]
  exact ⟨copy, rfl, rfl, rfl, rfl, rfl⟩

theorem hostLinkRecord_kept (e : Nat) (h : s.err.fatalCopied = true) : (hostLinkRecord e s).err.fatal = s.err.fatal := by
  unfold hostLinkRecord
  extract_lets r copy s1
  rw [if_pos (by simp [s1, h])]
  rfl

/-! ### The events of a link (O37) -/

/-- The link is active again with all of its modules, and each end has counted the flits that it replayed. -/
def replayed (d e n k : Nat) (s : State) : State :=
  countReplays e d k (countReplays d e n
    (modLinkEnds d e (fun x => { x with state := lsActive, modules := 2 ^ linkModules d e - 1 }) s))

theorem replayed_frame (d e n k : Nat) : ∃ ls, replayed d e n k s = { s with links := ls } := by
  obtain ⟨l1, h1⟩ := modLinkEnds_frame s d e fun x => { x with state := lsActive, modules := 2 ^ linkModules d e - 1 }
  obtain ⟨l2, h2⟩ := countReplays_frame { s with links := l1 } d e n
  obtain ⟨l3, h3⟩ := countReplays_frame { s with links := l2 } e d k
  exact ⟨l3, by rw [replayed, h1, h2, h3]⟩

section
variable {d e l l' : Nat} (hl : linkTo d e = some l) (hl' : linkTo e d = some l') (hne : linkKey d l ≠ linkKey e l')
  (n k : Nat)
include hl hl' hne

theorem link_replayed_near : (replayed d e n k s).link d l =
    { s.link d l with state := lsActive, modules := 2 ^ linkModules d e - 1, replays := satAdd 16 (s.link d l).replays n } := by
  rw [replayed, link_countReplays_far _ hl' hne.symm, link_countReplays_near _ hl, link_modLinkEnds_near _ hl hl' hne]

theorem link_replayed_far : (replayed d e n k s).link e l' =
    { s.link e l' with state := lsActive, modules := 2 ^ linkModules d e - 1, replays := satAdd 16 (s.link e l').replays k } := by
  rw [replayed, link_countReplays_near _ hl', link_countReplays_far _ hl hne, link_modLinkEnds_far _ hl hl' hne]

end

section
variable {s}
variable {d : DieId} {l : LinkId} {e : Nat} (hlive : s.live = true) (hp : linkPeer d l = some e)
include hlive hp

/-- LINK_TRAINED changes the links alone: up with all modules, else down. -/
theorem exec_linkTrained (m : BitVec 6) (hx : (s.link d l).state = 0 ∨ (s.link d l).state = 1)
    (hd : d.val = 0 ∨ s.dieUp d = true) (he : e = 0 ∨ s.dieUp e = true) :
    exec (.linkTrained d l m) s = .next (modLinkEnds d e (fun x => { x with
      state := if m.toNat % 2 ^ linkModules d e == 2 ^ linkModules d e - 1 then lsActive else lsDown
      modules := m.toNat % 2 ^ linkModules d e }) s) := by
  have out {x : Nat} (h : x = 0 ∨ s.dieUp x = true) : (x != 0 && !s.dieUp x) = false := by
    rcases h with h | h <;> simp [h]
  simp only [exec, execLinkTrained, lsReset, lsTraining, if_pos hx, hp, eventOf_some s _ _ hlive, out hd, out he,
    Bool.or_self, Bool.false_eq_true, if_false]

theorem exec_linkRetrainStart (hx : (s.link d l).state = 2) :
    exec (.linkRetrainStart d l) s = .next (modLinkEnds d e (fun x => { x with
      state := lsRetraining, retrains := satAdd 16 x.retrains 1, leftAt := s.time.span }) s) := by
  simp only [exec, execLinkRetrainStart, lsActive, if_pos hx, hp, eventOf_some s _ _ hlive]

/-- LINK_UP_AGAIN within its time: the ends are active, their replays counted, and the records of the retrain stand. -/
theorem exec_linkUpAgain (n k : Nat) (hx : (s.link d l).state = 3) (ht : s.time.span < (s.link d l).leftAt + 8_000_000) :
    exec (.linkUpAgain d l { near := n, far := k }) s = .next (retrainRecords d l e (replayed d e n k s)) := by
  simp only [exec, replayed, execLinkUpAgain, lsRetraining, linkLimit, if_pos (And.intro hx ht), hp, eventOf_some s _ _ hlive]

theorem exec_linkLossTimeout (hx : (s.link d l).state = 3) (ht : (s.link d l).leftAt + 8_000_000 ≤ s.time.span) :
    exec (.linkLossTimeout d l) s = .next (
      let q := modLinkEnds d e (fun x => { x with state := lsDown, modules := 0 }) s
      if d.val = 0 ∨ e = 0 then q
      else formRecord d { cls := 5, severity := sevFatal, code := 2, info0 := l, info1 := e } q) := by
  simp only [exec, execLinkLossTimeout, lsRetraining, linkLimit, if_pos (And.intro hx ht), hp, eventOf_some s _ _ hlive]

end

theorem exec_hostLinkLoss {s : State} {d : DieId} (hlive : s.live = true) (hd : d.val ≠ 0)
    (hx : (s.link 0 (d.val - 1)).state = 4) (hup : s.dieUp d = true) :
    exec (.hostLinkLoss d) s = .next (loseDevice (hostLinkRecord d s)) :=
  event_of_due s (d.val != 0 && (s.link 0 (d.val - 1)).state == lsDown && s.dieUp d)
    (fun s => loseDevice (hostLinkRecord d s)) hlive (by simp [hd, hx, hup, lsDown])

/-- Settles O37: one lemma for each of the five events, over the two ends of the link. -/
theorem linksTrainRetrainAndFail : Obligations.LinksTrainRetrainAndFail := by
  intro d l s e hlive hp x up
  obtain ⟨-, hl⟩ := linkPeer_spec hp
  obtain ⟨l', hl', hne⟩ := linkPeer_back hp
  have hpow : up + 1 = 2 ^ linkModules d e := Nat.sub_add_cancel Nat.one_le_two_pow
  have far {i : Nat} (h : linkTo e d = some i) : i = l'.val := Option.some.inj (h.symm.trans hl')
  refine ⟨fun m hx hd he => ⟨_, exec_linkTrained hlive hp m hx hd he, ?_, fun hm => ?_, fun hm => ?_⟩,
    fun hx => ⟨_, exec_linkRetrainStart hlive hp hx, ?_, ?_, fun i hi => ?_⟩, fun n k hx ht => ?_, fun hx ht => ?_,
    fun hd hx hup => ?_⟩
  · obtain ⟨ks, h⟩ := modLinkEnds_frame s d e _
    rw [h]
  · rw [link_modLinkEnds_near s hl hl' hne, ← hpow, hm]
    simp [up, lsActive]
  · rw [link_modLinkEnds_near s hl hl' hne, ← hpow]
    simp [hm, lsDown]
  · obtain ⟨ks, h⟩ := modLinkEnds_frame s d e _
    rw [h]
  · exact link_modLinkEnds_near s hl hl' hne _
  · rw [far hi, link_modLinkEnds_far s hl hl' hne]
    rfl
  · refine ⟨_, exec_linkUpAgain hlive hp n k hx ht, ?_⟩
    obtain ⟨ls, hr⟩ := replayed_frame s d e n k
    have himg : (replayed d e n k s).image = s.image := by rw [hr]; rfl
    have htr : (replayed d e n k s).troupes = s.troupes := by rw [hr]
    rw [retrainRecords_link, link_replayed_near s hl hl' hne]
    refine ⟨rfl, rfl, by rw [retrainRecords_mem, hr], rfl, fun i hi => ?_, fun tr hmem h16 hrun => ?_, fun hnone => ?_⟩
    · rw [far hi, retrainRecords_link, link_replayed_far s hl hl' hne]
      exact ⟨rfl, rfl⟩
    · exact retrainRecords_aborts _ _ _ _ (himg ▸ hmem) (by omega) (by rw [State.troupe, htr]; exact hrun)
    · rw [retrainRecords_troupes _ _ _ _ (himg ▸ hnone), htr]
  · refine ⟨_, exec_linkLossTimeout hlive hp hx ht, ?_⟩
    obtain ⟨ls, hm⟩ := modLinkEnds_frame s d e fun x => { x with state := lsDown, modules := 0 }
    have hdown := link_modLinkEnds_near s hl hl' hne fun x => { x with state := lsDown, modules := 0 }
    rw [hm] at hdown ⊢
    dsimp only
    split
    · next hhost => exact ⟨by rw [hdown]; rfl, rfl, fun h h' => absurd hhost (by omega), fun _ => ⟨rfl, rfl⟩⟩
    · next hdev =>
      obtain ⟨_, _, _, _, h⟩ := formRecord_frame { s with links := ls } d
        { cls := 5, severity := sevFatal, code := 2, info0 := l, info1 := e }
      refine ⟨?_, formRecord_mem _ _ _, fun _ _ => formRecord_owes _ _ _ rfl, fun h => absurd h hdev⟩
      rw [h]
      exact congrArg Link.state hdown
  · obtain ⟨x, h⟩ := hostLinkRecord_frame s d
    refine ⟨_, exec_hostLinkLoss hlive hd hx hup, rfl, fun t => loseDevice_tile _, rfl, loseDevice_region _,
      ?_, ?_, fun hf => ?_, fun hf => ?_⟩
    · rw [loseDevice_host, h]
    · rw [loseDevice_time, h]
    · rw [loseDevice_fatal]
      exact hostLinkRecord_fatal s d hf
    · rw [loseDevice_fatal, hostLinkRecord_kept s d hf]

end Sys2Proof.Machine
end

section

/-! SUPPORT. The caches (O48): the parts of the coherence state that a message, a line and an engine's access touch. -/

namespace Sys2Proof.Machine

open Sys2Proof

variable (s : State) (a line b l : Nat) (m : CohMsg) (c : CLine)

/-! ### Lines and messages -/

@[simp] theorem cline_setCline_same : (s.setCline a line c).cline a line = c := by
  simp only [State.cline, State.setCline, tget_tmod_same]
  split
  · next h => rw [tget_tdel_same, h]
  · exact tget_tset_same _ _ _ _

theorem cline_setCline_ne (h : b ≠ a ∨ l ≠ line) : (s.setCline a line c).cline b l = s.cline b l := by
  simp only [State.cline, State.setCline]
  by_cases hb : b = a
  · subst hb
    have hl : l ≠ line := h.resolve_left fun k => k rfl
    rw [tget_tmod_same]
    split
    · exact tget_tdel_ne _ _ _ _ hl
    · exact tget_tset_ne _ _ _ _ _ hl
  · rw [tget_tmod_ne _ _ _ _ _ hb]

@[simp] theorem cline_cohSend : (cohSend m s).cline b l = s.cline b l := rfl

@[simp] theorem cline_cohTake : (cohTake m s).cline b l = s.cline b l := rfl

@[simp] theorem cline_acknowledge : (acknowledge a line m s).cline b l = s.cline b l := rfl

@[simp] theorem cline_leaveSlice : (leaveSlice a line s).cline b l = s.cline b l := by
  unfold leaveSlice
  split <;> rfl

@[simp] theorem msgs_cohSend : (cohSend m s).coh.msgs = s.coh.msgs ++ [m] := rfl

@[simp] theorem msgs_cohTake : (cohTake m s).coh.msgs = s.coh.msgs.erase m := rfl

@[simp] theorem msgs_setCline : (s.setCline a line c).coh.msgs = s.coh.msgs := rfl

@[simp] theorem msgs_acknowledge : (acknowledge a line m s).coh.msgs = s.coh.msgs ++
    [{ op := 0x2A, line := line, txn := m.txn, req := a, dst := m.src, src := a, cls := m.cls }] := rfl

@[simp] theorem coh_leaveSlice : (leaveSlice a line s).coh = s.coh := by
  unfold leaveSlice
  split <;> rfl

@[simp] theorem mem_leaveSlice : (leaveSlice a line s).mem = s.mem := by
  unfold leaveSlice
  split <;> rfl

/-- From s to r memory, the homes and every line of a cache but one stand. -/
def OnlyLine (a line : Nat) (s r : State) : Prop :=
  r.mem = s.mem ∧ r.coh.homes = s.coh.homes ∧ ∀ b l, (b ≠ a ∨ l ≠ line) → r.cline b l = s.cline b l

namespace OnlyLine

variable {s a line} {r : State}

theorem refl : OnlyLine a line s s := ⟨rfl, rfl, fun _ _ _ => rfl⟩

theorem trans {q : State} (h : OnlyLine a line s r) (k : OnlyLine a line r q) : OnlyLine a line s q :=
  ⟨k.1.trans h.1, k.2.1.trans h.2.1, fun b l n => (k.2.2 b l n).trans (h.2.2 b l n)⟩

theorem cohSend (h : OnlyLine a line s r) : OnlyLine a line s (Machine.cohSend m r) := h

theorem cohTake (h : OnlyLine a line s r) : OnlyLine a line s (Machine.cohTake m r) := h

theorem acknowledge (h : OnlyLine a line s r) : OnlyLine a line s (Machine.acknowledge b l m r) := h

theorem setCline (h : OnlyLine a line s r) : OnlyLine a line s (r.setCline a line c) :=
  h.trans ⟨rfl, rfl, fun b l n => cline_setCline_ne r a line b l c n⟩

theorem leaveSlice (h : OnlyLine a line s r) : OnlyLine a line s (Machine.leaveSlice b l r) :=
  h.trans ⟨mem_leaveSlice r b l, by rw [coh_leaveSlice], fun _ _ _ => cline_leaveSlice ..⟩

end OnlyLine

/-! ### Snoops (R387) -/

section
variable {s a line m}

/-- A snoop that is found is answered by the line's state, the response first, then the forwarded data, then DataHome. -/
theorem snoopRow_answers {op rsp : Nat} {fwd : Option Nat} {home : Bool} {n : CState} {next : CLine}
    (hlive : s.live = true) (hm : cohFind s (msgTo op line a) = some m)
    (hans : answerOf op (s.cline a line).st = { rsp := rsp, fwd := fwd, toHome := home, next := n })
    (hnext : (s.cline a line).to n = next) :
    let msg := fun (op dst : Nat) (data : List Byte) (poison : Bool) =>
      ({ op := op, line := line, txn := m.txn, req := m.req, dst := dst, src := a, data := data, poison := poison } : CohMsg)
    ∃ r, snoopRow op a line s = .next r ∧ OnlyLine a line s r ∧ r.cline a line = next ∧
      r.coh.msgs = s.coh.msgs.erase m ++ [msg rsp m.src [] false] ++
        (fwd.elim [] fun d => [msg d m.req (s.cline a line).data (s.cline a line).poison]) ++
        (if home = true then [msg 0x34 m.src (s.cline a line).data (s.cline a line).poison] else []) := by
  unfold snoopRow
  rw [hm, eventOf_some s _ _ hlive]
  subst hnext
  refine ⟨_, rfl, ?_⟩
  extract_lets c x s1 s2 base s3 s4
  have hx : x = { rsp := rsp, fwd := fwd, toHome := home, next := n } := hans
  clear_value x
  subst hx
  have h2 : OnlyLine a line s s2 ∧ s2.cline a line = c.to n ∧ s2.coh.msgs = s.coh.msgs.erase m := by
    have h1 : OnlyLine a line s s1 := (OnlyLine.refl.cohTake m).setCline _
    by_cases k : n = .I ∨ n = .IM
    · have e : s2 = leaveSlice a line s1 := if_pos k
      rw [e]
      exact ⟨h1.leaveSlice a line, by simp [s1], by simp [s1]⟩
    · have e : s2 = s1 := if_neg k
      rw [e]
      exact ⟨h1, by simp [s1], by simp [s1]⟩
  obtain ⟨k2, l2, e2⟩ := h2
  clear_value s2
  have h4 : OnlyLine a line s s4 ∧ s4.cline a line = c.to n ∧ s4.coh.msgs = s.coh.msgs.erase m ++ [base] ++
      (fwd.elim [] fun d => [{ base with op := d, dst := m.req, data := c.data, poison := c.poison }]) := by
    cases fwd with
    | none => exact ⟨k2, l2, by simp [s4, s3, e2]⟩
    | some d => exact ⟨k2, l2, by simp [s4, s3, e2]⟩
  obtain ⟨k4, l4, e4⟩ := h4
  clear_value s4
  cases home with
  | true => exact ⟨k4, l4, by simp only [if_true, msgs_cohSend, e4]; rfl⟩
  | false => exact ⟨k4, l4, by simp only [Bool.false_eq_true, if_false, e4, List.append_nil]; rfl⟩

end

theorem CLine.with_st {c : CLine} {st : CState} (h : c.st = st) : { c with st := st } = c := by rw [← h]

/-! ### Data, Cmp and WbAck (R385, R390) -/

section
variable {s a line m}

/-- Where no access of a free engine waits at the agent, the turn of its accesses changes nothing. -/
theorem edgeTurn_quiet (h : ∀ q ∈ s.coh.edge, q.done = true ∨ 8 + q.die ≠ a) : edgeTurn a s = s :=
  if_pos (List.all_eq_true.2 fun q hq => by simpa using h q hq)

/-- A read that is the one access of an agent takes its line once the agent may read it. -/
theorem edgeTurn_read {q : EdgeAsk} (he : s.coh.edge = [q]) (hk : q.kind = .read) (hd : q.done = false)
    (ha : 8 + q.die = a) (hl : q.addr / 128 = line) (hh : sliceHas s a line = true) :
    (edgeTurn a s).coh.edge = [{ q with done := true, data := (s.cline a line).data, poison := (s.cline a line).poison }] := by
  have hstep : edgeStep a q s =
      ({ q with done := true, data := (s.cline a line).data, poison := (s.cline a line).poison }, s) := by
    simp only [edgeStep, hk, hl, hh, if_true]
  unfold edgeTurn
  rw [he, if_neg (by simp [hd, ha])]
  simp only [edgeGo, hstep]
  rw [if_neg (by simp [hd, ha])]

/-- Data that a line awaits fills it, with the store that waited, and is acknowledged. -/
def filled (a line : Nat) (st : CState) (m : CohMsg) (s : State) : State :=
  acknowledge a line { m with src := ackHome line } ((cohTake m s).setCline a line ((s.cline a line).fill st m.data m.poison))

theorem dataRow_awaited {op : Nat} {wait st : CState} (hlive : s.live = true) (hst : (s.cline a line).st = wait)
    (hm : cohFind s (msgTo op line a) = some m) :
    dataRow op a line wait st s = .next (edgeTurn a (filled a line st m s)) := by
  unfold dataRow
  rw [if_pos hst, hm, eventOf_some s _ _ hlive]
  rfl

theorem filled_onlyLine (st : CState) : OnlyLine a line s (filled a line st m s) :=
  ((OnlyLine.refl.cohTake m).setCline _).acknowledge a line _

@[simp] theorem filled_cline (st : CState) :
    (filled a line st m s).cline a line = (s.cline a line).fill st m.data m.poison := by simp [filled]

theorem fill_eq (c : CLine) (st : CState) (data : List Byte) (poison : Bool) :
    c.fill st data poison = (match c.store with
      | none => { st := st, data := data, poison := poison }
      | some (off, bs) => { st := .M, data := data.take off ++ bs ++ data.drop (off + bs.length),
                            poison := poison && decide (bs.length < 128) }) := by
  unfold CLine.fill
  cases c.store <;> rfl

theorem execCmp_awaited {a : AgentId} (ha : a.val ≠ 12) (hlive : s.live = true) (hst : (s.cline a line).st = .SM)
    (hm : cohFind s (msgTo 0x29 line a) = some m) :
    execCmp a line s = .next (edgeTurn a (acknowledge a line m ((cohTake m s).setCline a line
      ((s.cline a line).fill .M (s.cline a line).data (s.cline a line).poison)))) := by
  unfold execCmp
  rw [if_neg (show ¬a.val = ioAgent from ha), if_pos hst]
  exact (congrArg (eventOf s · _) hm).trans (eventOf_some s _ _ hlive)

theorem execWbAck_awaited {a : AgentId} (hlive : s.live = true) (hst : (s.cline a line).st = .WBP)
    (hm : cohFind s (msgTo 0x2B line a) = some m) :
    execWbAck a line s = .next (edgeTurn a ((cohTake m s).setCline a line {})) := by
  unfold execWbAck
  rw [if_pos hst]
  exact (congrArg (eventOf s · _) hm).trans (eventOf_some s _ _ hlive)

end

/-! ### Agent 12 (R385, R396) -/

theorem foldl_completeQ_frame (es : List (Nat × Nat)) :
    ∃ x, es.foldl (fun s e => completeQ e.1 e.2 0 0 s) s = { s with queues := x } := by
  refine List.foldlRecOn (motive := fun q : State => ∃ x, q = { s with queues := x }) _ _ ⟨s.queues, rfl⟩ ?_
  rintro _ ⟨x, rfl⟩ e _
  exact completeQ_frame { s with queues := x } e.1 e.2 0 0

/-- A region whose placements no longer await request k. -/
def Region.forget (k : Nat) (x : Region) : Region :=
  { x with inflight := x.inflight.map fun w => { w with txns := without w.txns k } }

/-- Request k of agent 12 is forgotten by every one who awaited it. -/
theorem ioDone_frame (k : Nat) : ∃ x, ioDone k s = { s with
    coh := { s.coh with ioOut := without s.coh.ioOut k, ioSent := s.coh.ioSent.filter fun p => p.2.2 != k }
    queues := x
    plc := { s.plc with regions := s.plc.regions.map fun p => (p.1, p.2.forget k) }
    sec := { s.sec with quoteTxns := without s.sec.quoteTxns k } } := by
  unfold ioDone
  extract_lets ends _ _ _ s1
  obtain ⟨x, e⟩ := foldl_completeQ_frame s1 ends
  exact ⟨x, e⟩

theorem not_mem_without (l : List Nat) (k : Nat) : k ∉ without l k := by simp [without]

theorem tget_forget (t : Tbl Region) (k i : Nat) :
    (tget {} (List.map (fun p => (p.1, Region.forget k p.2)) t) i).inflight.length = (tget {} t i).inflight.length := by
  induction t with
  | nil => rfl
  | cons p t ih =>
    simp only [List.map_cons, tget]
    split
    · exact List.length_map _
    · exact ih

theorem finishRead_frame (x : PlcRead) : ∃ p d f o, finishRead x s =
    { s with plc := p, coh := { s.coh with ioData := d }, fresh := f, out := o } := by
  unfold finishRead
  extract_lets got _ _ s1
  split
  · exact ⟨s.plc, s.coh.ioData, s.fresh, s.out, rfl⟩
  split
  · exact ⟨_, _, _, _, rfl⟩
  · exact ⟨_, _, _, _, rfl⟩

/-- What agent 12 receives is kept for who awaits it, and its request is forgotten. -/
theorem ioReceive_frame (k : Nat) : ∃ p d f o, ioReceive m k s = { s with
    plc := p, fresh := f, out := o
    coh := { s.coh with ioOut := without s.coh.ioOut k, ioSent := s.coh.ioSent.filter fun p => p.2.2 != k, ioData := d } } := by
  unfold ioReceive
  extract_lets wanted _ s1
  refine List.foldlRecOn (motive := fun q : State => ∃ p d f o, q =
    { s1 with plc := p, fresh := f, out := o, coh := { s1.coh with ioData := d } }) _ _ ⟨s.plc, _, s.fresh, s.out, rfl⟩ ?_
  rintro _ ⟨p, d, f, o, rfl⟩ x _
  obtain ⟨p', d', f', o', e⟩ := finishRead_frame { s1 with plc := p, fresh := f, out := o, coh := { s1.coh with ioData := d } } x
  exact ⟨p', d', f', o', e⟩

section
variable {s line m} {a : AgentId}

theorem execCmp_io (ha : a.val = 12) (hlive : s.live = true) (hm : cohFind s (msgTo 0x29 line a) = some m) :
    execCmp a line s = .next (acknowledge 12 line m ((ioKey s line m.txn).elim id ioDone (cohTake m s))) := by
  unfold execCmp
  rw [if_pos (show a.val = ioAgent from ha)]
  exact (congrArg (eventOf s · _) hm).trans (eventOf_some s _ _ hlive)

theorem execDataI_io (ha : a.val = 12) (hlive : s.live = true) (hm : cohFind s (msgTo 0x35 line a) = some m) :
    execDataI a line s = .next ((ioKey s line m.txn).elim id (ioReceive m)
      (acknowledge 12 line { m with src := ackHome line } (cohTake m s))) := by
  unfold execDataI
  rw [if_pos (show a.val = ioAgent from ha)]
  exact (congrArg (eventOf s · _) hm).trans (eventOf_some s _ _ hlive)

end

/-! ### Evictions (R380) -/

section
variable {s a line}

theorem evictLine_onlyLine : OnlyLine a line s (evictLine a line s) :=
  ((OnlyLine.refl.cohSend _).setCline _).leaveSlice a line

theorem evictLine_cline : (evictLine a line s).cline a line =
    { s.cline a line with st := .WBP, dirty := decide ((s.cline a line).st = .M) } := by simp [evictLine]

theorem evictLine_msgs_dirty (h : (s.cline a line).st = .M) : (evictLine a line s).coh.msgs = s.coh.msgs ++
    [{ op := 0x41, line := line, req := a, dst := ackHome line, src := a, data := (s.cline a line).data,
       poison := (s.cline a line).poison }] := by
  simp [evictLine, h, mWbDirty]

theorem evictLine_msgs_clean (h : (s.cline a line).st = .E) : (evictLine a line s).coh.msgs = s.coh.msgs ++
    [{ op := 0x42, line := line, req := a, dst := ackHome line, src := a }] := by
  simp [evictLine, h, mWbClean]

theorem execCacheEviction_evicts {a : AgentId} (hlive : s.live = true) (hcredit : hasWbCredit s a line = true)
    (h : (s.cline a line).st = .E ∨ (s.cline a line).st = .M) :
    execCacheEviction a line s = .next (evictLine a line s) := by
  unfold execCacheEviction
  rcases h with h | h
  · simp only [h, hcredit]
    exact event_of_due s _ _ hlive rfl
  · simp only [h, hcredit]
    exact event_of_due s _ _ hlive rfl

end

/-! ### Accesses of the harts (R25, R384, R455) -/

section
variable {s a line}

theorem sliceHas_of {st : CState} (h : (s.cline a line).st = st) (hst : st = .S ∨ st = .E ∨ st = .M) :
    sliceHas s a line = true := by
  unfold sliceHas
  rw [h]
  rcases hst with rfl | rfl | rfl <;> rfl

theorem sliceOwns_of (h : (s.cline a line).st = .E ∨ (s.cline a line).st = .M) : sliceOwns s a line = true := by
  unfold sliceOwns
  rcases h with h | h <;> rw [h] <;> rfl

theorem sliceHas_of_I (h : (s.cline a line).st = .I) : sliceHas s a line = false := by
  unfold sliceHas
  rw [h]
  rfl

theorem sliceOwns_of_I (h : (s.cline a line).st = .I) : sliceOwns s a line = false := by
  unfold sliceOwns
  rw [h]
  rfl

/-- A line that is held and not poisoned serves a load. -/
theorem hartLoad_held (off n : Nat) (h : (s.cline a line).st = .S ∨ (s.cline a line).st = .E ∨ (s.cline a line).st = .M)
    (hp : (s.cline a line).poison = false) : hartLoad a line off n s =
      s.reply ⟨BitVec.ofNat 64 (fieldAt (s.cline a line).data off (min n 8)), ((s.cline a line).data.drop off).take n,
        false, false⟩ := by
  unfold hartLoad
  rcases h with h | h | h <;> simp only [h, hp, Bool.false_eq_true, if_false]

/-- A line that is owned takes a store and becomes M. -/
theorem hartStore_owned (off : Nat) (bs : List Byte) (h : (s.cline a line).st = .E ∨ (s.cline a line).st = .M) :
    hartStore a line off bs s = s.setCline a line { s.cline a line with
      st := .M, data := (s.cline a line).data.take off ++ bs ++ (s.cline a line).data.drop (off + bs.length),
      poison := (s.cline a line).poison && decide (bs.length < 128) } := by
  unfold hartStore
  rcases h with h | h <;> simp only [h, patch]

/-- A hart's store to an owned line comes into its caches and takes away other harts' reservations. -/
theorem hartWrite_owned (x : Nat) {off : Nat} (hoff : off < 128) (bs : List Byte)
    (h : (s.cline a line).st = .E ∨ (s.cline a line).st = .M) :
    hartWrite x a line off bs.length (hartStore a line off bs) s = breakReservations x (2 * line + off / 64)
      ((s.modHart x fun y => y.useBytes false (128 * line + off) bs.length).setCline a line { s.cline a line with
        st := .M, data := (s.cline a line).data.take off ++ bs ++ (s.cline a line).data.drop (off + bs.length),
        poison := (s.cline a line).poison && decide (bs.length < 128) }) := by
  have hline : (128 * line + off) / 128 = line := by omega
  unfold hartWrite useCaches
  rw [if_pos (sliceOwns_of h), hline, if_pos (sliceHas_of rfl (.inr h))]
  exact congrArg _ (hartStore_owned (s := s.modHart x _) off bs h)

theorem hartLoad_miss (off n : Nat) (h : (s.cline a line).st = .I) :
    hartLoad a line off n s = cacheRequest clsCoh a line mRdShared { st := .IS } s := by
  simp only [hartLoad, h]

theorem hartStore_miss (off : Nat) (bs : List Byte) (h : (s.cline a line).st = .I) :
    hartStore a line off bs s = cacheRequest clsCoh a line mRdUnique { st := .IM, store := some (off, bs) } s := by
  simp only [hartStore, h]

variable {home : Nat} (hh : homeOf line = some home)
include hh

theorem cacheRequest_without_credit (cls op : Nat) (hc : hasReqCredit s a home = false) :
    cacheRequest cls a line op c s = s := by
  simp [cacheRequest, hh, hc]

/-- With a credit and room a request leaves, and the line takes its state. -/
theorem cacheRequest_leaves (cls op : Nat) (hc : hasReqCredit s a home = true)
    (hroom : (tget [] s.coh.caches a).length < cacheLines a) :
    cacheRequest cls a line op c s =
      (cohSend { op := op, line := line, txn := freeTxn s a home, req := a, dst := 16 + home, src := a, cls := cls } s).setCline
        a line { c with txn := freeTxn s a home } := by
  simp only [cacheRequest, hh]
  exact if_pos ⟨hc, .inr hroom⟩

end

theorem placeOf_inTier {addr : Nat} (h : inTier addr 1 = true) :
    (∃ i o, placeOf addr = .fast i o) ∨ ∃ i o, placeOf addr = .slow i o := by
  simp only [inTier, Bool.or_eq_true, Bool.and_eq_true, decide_eq_true_eq] at h
  unfold placeOf
  by_cases hf : addr ≤ 0x08F_FFFF_FFFF
  · exact .inl ⟨_, _, if_pos hf⟩
  · exact .inr ⟨_, _, by rw [if_neg hf, if_pos (by omega)]⟩

section
variable {s} {x : HartId} {addr : Nat} (hlive : s.live = true) 
  (hrun : (if x.val < 64 then bitOf s.host.run0.toNat x else bitOf s.host.run1.toNat (x.val - 64)) = true) (data : List Byte)
include hlive hrun

/-- An access to the tiers of a running hart, the boot RAM closed, its home's die up, and within one line. -/
theorem execHartMemoryAccess_tier {home : Nat} (ht : inTier addr 1 = true) (hb : s.boot.bootRam = false)
    (hh : homeOf (addr / 128) = some home) (hup : s.dieUp (1 + home) = true) (hn : addr % 128 + data.length ≤ 128) :
    execHartMemoryAccess x .load addr data s = .next (hartLoad (sliceOf (addr / 128)) (addr / 128) (addr % 128) data.length
      (useCaches x (sliceOf (addr / 128)) false addr data.length s)) ∧
    execHartMemoryAccess x .store addr data s = .next (hartWrite x (sliceOf (addr / 128)) (addr / 128) (addr % 128)
      data.length (hartStore (sliceOf (addr / 128)) (addr / 128) (addr % 128) data) s) := by
  have hram : inBootRam s addr data.length = false := by simp [inBootRam, hb]
  have hany : (homeOf (addr / 128)).any (fun h => s.dieUp (homeDie h)) = true := by simp [hh, homeDie, hup]
  unfold execHartMemoryAccess
  dsimp only
  rw [event_of_due s _ _ hlive hrun, event_of_due s _ _ hlive hrun]
  rcases placeOf_inTier ht with ⟨i, o, hp⟩ | ⟨i, o, hp⟩ <;>
    simp only [hp, hram, hany, Bool.not_true, Bool.false_eq_true, if_false, if_pos hn, and_self]

/-- An access outside the map faults, but for a prefetch (R25, R455). -/
theorem execHartMemoryAccess_unmapped (hp : placeOf addr = .unmapped) :
    execHartMemoryAccess x .load addr data s = .next (s.reply { accessFault := true }) ∧
    execHartMemoryAccess x .store addr data s = .next (s.reply { accessFault := true }) ∧
    execHartMemoryAccess x .prefetch addr data s = .next s := by
  unfold execHartMemoryAccess
  dsimp only
  rw [event_of_due s _ _ hlive hrun, event_of_due s _ _ hlive hrun, event_of_due s _ _ hlive hrun]
  simp only [hp, reduceCtorEq, if_false, if_true, and_self]

end

theorem exec_snoop {i : Instr} {op line : Nat} {a : AgentId} {s : State}
    (h : (i, op) ∈ [(Instr.snpShared a line, 0x11), (Instr.snpUnique a line, 0x12), (Instr.snpInv a line, 0x13),
      (Instr.snpCur a line, 0x14)]) : exec i s = snoopRow op a line s := by
  simp only [List.mem_cons, Prod.mk.injEq, List.not_mem_nil, or_false] at h
  rcases h with ⟨rfl, rfl⟩ | ⟨rfl, rfl⟩ | ⟨rfl, rfl⟩ | ⟨rfl, rfl⟩ <;> rfl

theorem exec_data {i : Instr} {op line : Nat} {a : AgentId} {wait st : CState} {s : State}
    (h : (i, op, wait, st) ∈ [(Instr.dataE a line, 0x31, CState.IS, CState.E), (Instr.dataS a line, 0x32, CState.IS, CState.S),
      (Instr.dataM a line, 0x33, CState.IM, CState.M)]) : exec i s = dataRow op a line wait st s := by
  simp only [List.mem_cons, Prod.mk.injEq, List.not_mem_nil, or_false] at h
  rcases h with ⟨rfl, rfl, rfl, rfl⟩ | ⟨rfl, rfl, rfl, rfl⟩ | ⟨rfl, rfl, rfl, rfl⟩ <;> rfl

/-- Settles O48: a snoop by the line's state, then what a cache takes, evicts and serves, one lemma for each. -/
theorem cachesAnswerByTheirState : Obligations.CachesAnswerByTheirState := by
  refine ⟨fun a line s m => ?_, fun x addr data s home => ?_⟩
  · intro c kept msg ans quiet hlive
    have answers {i : Instr} {op rsp : Nat} {fwd : Option Nat} {home : Bool} {next : CLine} (n : CState)
        (hi : exec i s = snoopRow op a line s)
        (hans : answerOf op c.st = { rsp := rsp, fwd := fwd, toHome := home, next := n }) (hn : c.to n = next) :
        ans i op rsp fwd home next := by
      intro hm
      rw [hi]
      obtain ⟨r, h⟩ := snoopRow_answers hlive hm hans hn
      cases fwd <;> exact ⟨r, h⟩
    clear_value ans
    refine ⟨fun i op hi => ⟨fun h => ?_, fun h => ?_⟩, fun h => ⟨?_, ?_, ?_, ?_⟩, fun h => ⟨?_, ?_, ?_, ?_⟩,
      fun h => ⟨?_, ?_, ?_, ?_⟩, fun i op wait st hi hw hm hq => ?_, fun q he hk hd ha hl hnone hst hstore hm => ?_,
      fun ha hst hstore hm hq => ?_, fun ha hm => ?_, fun ha hm => ?_, fun hst hm hq => ?_,
      fun hcredit => ⟨fun h => ?_, fun h => ?_⟩⟩
    · rcases h with h | h <;> exact answers .I (exec_snoop hi) (by rw [h]; rfl) rfl
    · exact answers .IM (exec_snoop hi) (by rw [h]; rfl) rfl
    · exact answers .S rfl (by rw [h]; rfl) rfl
    · exact answers .I rfl (by rw [h]; rfl) rfl
    · exact answers .I rfl (by rw [h]; rfl) rfl
    · exact answers .E rfl (by rw [h]; rfl) (CLine.with_st h)
    · exact answers .S rfl (by rw [h]; rfl) rfl
    · exact answers .I rfl (by rw [h]; rfl) rfl
    · exact answers .I rfl (by rw [h]; rfl) rfl
    · exact answers .M rfl (by rw [h]; rfl) (CLine.with_st h)
    · exact answers .WBP rfl (by rw [h]; rfl) (CLine.with_st h)
    · exact answers .WBP rfl (by rw [h]; rfl) (CLine.with_st h)
    · exact answers .WBP rfl (by rw [h]; rfl) (CLine.with_st h)
    · exact answers .WBP rfl (by rw [h]; rfl) (CLine.with_st h)
    · rw [exec_data hi, dataRow_awaited hlive hw hm, edgeTurn_quiet (by exact hq)]
      exact ⟨_, rfl, filled_onlyLine st, (filled_cline st).trans (fill_eq ..), rfl⟩
    · refine ⟨_, dataRow_awaited (op := 0x31) (st := .E) hlive hst hm, ?_⟩
      have hfill : (filled a line .E m s).cline a line = { st := .E, data := m.data, poison := m.poison } := by
        rw [filled_cline, fill_eq, hstore]
      have hl' : q.addr / 128 = line := by omega
      have hhas : sliceHas (filled a line .E m s) a line = true := sliceHas_of (congrArg CLine.st hfill) (.inr (.inl rfl))
      rw [edgeTurn_read (s := filled a line .E m s) he hk hd ha hl' hhas, hfill]
    · rw [show exec (.cmp a line) s = _ from execCmp_awaited ha hlive hst hm, edgeTurn_quiet (by exact hq)]
      refine ⟨_, rfl, ((OnlyLine.refl.cohTake m).setCline _).acknowledge a line m, ?_, rfl⟩
      rw [cline_acknowledge, cline_setCline_same, fill_eq, hstore]
    · refine ⟨_, execCmp_io ha hlive hm, ?_⟩
      cases hk : ioKey s line m.txn with
      | none => exact ⟨rfl, nofun, rfl, rfl, fun _ => rfl, nofun⟩
      | some k =>
        obtain ⟨x, e⟩ := ioDone_frame (cohTake m s) k
        rw [Option.elim_some, e]
        refine ⟨rfl, ?_, rfl, rfl, fun i => tget_forget s.plc.regions k i, ?_⟩
        · rintro _ ⟨⟩
          exact not_mem_without _ k
        · rintro w hw ⟨⟩
          exact not_mem_without _ _ hw
    · refine ⟨_, execDataI_io ha hlive hm, ?_⟩
      cases hk : ioKey s line m.txn with
      | none => exact ⟨⟨rfl, rfl, fun _ _ _ => rfl⟩, nofun⟩
      | some k =>
        obtain ⟨p, d, f, o, e⟩ := ioReceive_frame (acknowledge 12 line { m with src := ackHome line } (cohTake m s)) m k
        rw [Option.elim_some, e]
        refine ⟨⟨rfl, rfl, fun _ _ _ => rfl⟩, ?_⟩
        rintro _ ⟨⟩
        exact not_mem_without _ k
    · rw [show exec (.wbAck a line) s = _ from execWbAck_awaited hlive hst hm, edgeTurn_quiet (by exact hq)]
      exact ⟨_, rfl, (OnlyLine.refl.cohTake m).setCline _, cline_setCline_same .., rfl⟩
    · exact ⟨_, execCacheEviction_evicts hlive hcredit (.inr h), evictLine_onlyLine, by rw [evictLine_cline]; simp [h, c],
        evictLine_msgs_dirty h⟩
    · exact ⟨_, execCacheEviction_evicts hlive hcredit (.inl h), evictLine_onlyLine, by rw [evictLine_cline]; simp [h, c],
        evictLine_msgs_clean h⟩
  · intro line a c off hlive hrun
    have addr_eq : 128 * line + off = addr := Nat.div_add_mod addr 128
    refine ⟨fun ht hb hh hup hn => ?_, fun hp => execHartMemoryAccess_unmapped hlive hrun data hp⟩
    obtain ⟨load, store⟩ := execHartMemoryAccess_tier hlive hrun data ht hb hh hup hn
    refine ⟨fun h hpoison => load.trans ?_, fun h => ?_, fun h hc => ⟨load.trans ?_, store.trans ?_⟩,
      fun h hc hroom => ⟨⟨_, load, ?_⟩, ⟨_, store, ?_⟩⟩⟩
    · rw [useCaches, if_pos (sliceHas_of rfl h)]
      exact congrArg _ (hartLoad_held (s := s.modHart x _) _ _ h hpoison)
    · refine store.trans ?_
      have write := hartWrite_owned (s := s) (a := a) (line := line) x (Nat.mod_lt addr (by omega)) data h
      rw [show 128 * line + addr % 128 = addr from addr_eq] at write
      exact congrArg _ write
    · rw [useCaches, if_neg (by rw [sliceHas_of_I h]; decide), hartLoad_miss _ _ h, cacheRequest_without_credit _ hh _ _ hc]
    · rw [hartWrite, if_neg (by rw [sliceOwns_of_I h]; decide), hartStore_miss _ _ h, cacheRequest_without_credit _ hh _ _ hc]
    · rw [useCaches, if_neg (by rw [sliceHas_of_I h]; decide), hartLoad_miss _ _ h, cacheRequest_leaves _ hh _ _ hc hroom,
        cline_setCline_same]
      exact ⟨rfl, rfl, _, rfl⟩
    · rw [hartWrite, if_neg (by rw [sliceOwns_of_I h]; decide), hartStore_miss _ _ h, cacheRequest_leaves _ hh _ _ hc hroom,
        cline_setCline_same]
      exact ⟨rfl, rfl, rfl, _, rfl⟩

end Sys2Proof.Machine
end

section

/-! SUPPORT. The homes (O47): the tables of a home, the slot that a transaction asks for, and how far a transaction goes. -/

namespace Sys2Proof.Machine

open Sys2Proof

/-! ### Tables read by find? -/

theorem find?_tset {α : Type} (t : Tbl α) (k : Nat) (v : α) :
    (tset t k v).find? (fun p => p.1 == k) = some (k, v) := by
  induction t with
  | nil => simp [tset]
  | cons p t ih =>
    simp only [tset]
    split
    · simp
    · split
      · simp
      · next h1 h2 => simp [Ne.symm h2, ih]

theorem find?_tdel {α : Type} (t : Tbl α) (k : Nat) : (tdel t k).find? (fun p => p.1 == k) = none := by
  induction t with
  | nil => rfl
  | cons p t ih =>
    simp only [tdel]
    split
    · exact ih
    · next h => simp [Ne.symm h, ih]

theorem thas_tset {α : Type} (t : Tbl α) (k : Nat) (v : α) : thas (tset t k v) k = true :=
  List.any_eq_true.2 ⟨(k, v), List.mem_of_find?_eq_some (find?_tset t k v), beq_self_eq_true k⟩

/-- A new entry counts once. -/
theorem countP_tset {α : Type} (t : Tbl α) (k : Nat) (v : α) (p : Nat × α → Bool) (h : thas t k = false) :
    (tset t k v).countP p = t.countP p + if p (k, v) = true then 1 else 0 := by
  induction t with
  | nil => simp [tset, List.countP_cons]
  | cons q t ih =>
    obtain ⟨i, w⟩ := q
    simp only [thas, List.any_cons, Bool.or_eq_false_iff, beq_eq_false_iff_ne] at h
    simp only [tset]
    split
    · rw [List.countP_cons]
    · rw [if_neg (Ne.symm h.1), List.countP_cons, List.countP_cons, ih (by simpa [thas] using h.2)]
      omega

/-! ### A home's directory and the snoops that are out -/

section
variable {x y : Home} {line : Nat} {t : Txn}

theorem Home.entry_allocate (x : Home) (line : Nat) (st : DirState) : (x.allocate line st).entry line = some st := by
  simp only [Home.entry, Home.allocate, find?_tset, Option.map_some]

theorem Home.entry_settle (x : Home) (line : Nat) (final : Option DirState) : (x.settle line final).entry line = final := by
  cases final with
  | none => simp only [Home.entry, Home.settle, find?_tdel, Option.map_none]
  | some st => simp only [Home.entry, Home.settle, find?_tset, Option.map_some]

/-- Once a line has become busy a cache has at most one more snoop to answer. -/
theorem Home.snpsOut_le (ht : y.txns = tset x.txns line t) (hq : y.snpQ = x.snpQ) (h : x.busy line = false) {b : Nat}
    (hb : x.snpsOut b < 64) : y.snpsOut b ≤ 64 := by
  unfold Home.snpsOut at hb ⊢
  rw [ht, hq, countP_tset _ _ _ _ h]
  split <;> omega

theorem Home.snpsOut_gt (ht : y.txns = tset x.txns line t) (hq : y.snpQ = x.snpQ) (h : x.busy line = false) {b : Nat}
    (ha : t.awaiting.contains b = true) (hb : 64 ≤ x.snpsOut b) : 64 < y.snpsOut b := by
  unfold Home.snpsOut at hb ⊢
  rw [ht, hq, countP_tset _ _ _ _ h, if_pos ha]
  omega

end

/-! ### Plans (R385) -/

/-- A transaction that has only been planned. -/
structure Txn.Planned (t : Txn) (y : HomeReq) : Prop where
  req : t.req = y
  effectDue : t.effectDue = true
  memWait : t.memWait = false
  acked : t.acked = false
  answered : t.answered = t.awaiting.isEmpty

theorem planTxn_planned (y : HomeReq) (d : Option DirState) (now : Nat) : (planTxn y d now).1.Planned y := by
  have plan {t : Txn} (h : t = { ({ req := y, since := now } : Txn) with
      give := t.give, final := t.final, awaiting := t.awaiting }) : t.Planned y := by
    rw [h]
    exact ⟨rfl, rfl, rfl, rfl, by simp [Txn.answered]⟩
  unfold planTxn
  rcases d with _ | v | o
  · dsimp only
    split_ifs <;> exact plan rfl
  · dsimp only
    split_ifs <;> exact plan rfl
  · dsimp only
    split_ifs <;> exact plan rfl

/-- The requests of R385. -/
def HomeReq.known (y : HomeReq) : Prop := y.op = 1 ∨ y.op = 2 ∨ y.op = 3 ∨ y.op = 4 ∨ y.op = 5 ∨ y.op = 6

section
variable (y : HomeReq) (now : Nat)

theorem planTxn_none_awaiting : (planTxn y none now).1.awaiting = [] := by
  simp only [planTxn]
  split_ifs <;> rfl

/-- On a line without an entry each request asks for its slot. -/
theorem planTxn_none_access (h : y.known) : (planTxn y none now).1.access =
    some (y.op == 5 || y.op == 6, if y.op = 6 then y.mask else []) := by
  unfold Txn.access
  rw [(planTxn_planned y none now).req]
  rcases h with h | h | h | h | h | h <;>
    simp [planTxn, h, mRdShared, mRdUnique, mUpgrade, mRdOnce, mWrFull, mWrPart, needsEntry, mDataE, mDataM, mDataI, mCmp]

theorem planTxn_shared_read (v : Nat) (h : y.op = 1 ∨ y.op = 4) : (planTxn y (some (.S v)) now).1.awaiting = [] ∧
    (planTxn y (some (.S v)) now).1.access = some (false, []) := by
  unfold Txn.access
  rw [(planTxn_planned y (some (.S v)) now).req]
  rcases h with h | h <;> simp [planTxn, h, mRdShared, mRdOnce, mWrFull, mWrPart, mDataS, mDataI, mCmp]

/-- The other requests snoop the sharers but the requester. -/
theorem planTxn_shared_snoops (v : Nat) (h1 : y.op ≠ 1) (h4 : y.op ≠ 4) :
    (planTxn y (some (.S v)) now).1.awaiting = without (sharerList v) y.req ∧ (planTxn y (some (.S v)) now).2 = 0x13 := by
  simp only [planTxn, mRdShared, mRdOnce, if_neg h1, if_neg h4]
  split_ifs <;> exact ⟨rfl, rfl⟩

theorem planTxn_upgrade (v : Nat) (h : y.op = 3) (hv : bitOf v y.req = true) : (planTxn y (some (.S v)) now).1 =
    { req := y, since := now, give := some mCmp, final := some (.EM y.req), awaiting := without (sharerList v) y.req } := by
  simp [planTxn, h, hv, mRdShared, mRdOnce, mUpgrade]

/-- An owner is snooped, by the kind of the request. -/
theorem planTxn_owned (o : Nat) (h : y.known) : (planTxn y (some (.EM o)) now).1.awaiting = [o] ∧
    (planTxn y (some (.EM o)) now).2 =
      if y.op = 1 then 0x11 else if y.op = 2 ∨ y.op = 3 then 0x12 else if y.op = 4 then 0x14 else 0x13 := by
  rcases h with h | h | h | h | h | h <;>
    simp [planTxn, h, mRdShared, mRdUnique, mUpgrade, mRdOnce, needsEntry, mSnpShared, mSnpUnique, mSnpCur, mSnpInv]

end

end Sys2Proof.Machine
end

section

/-! SUPPORT. What a home sends and asks for, the effect of a transaction, and how far one goes (O47). -/

namespace Sys2Proof.Machine

open Sys2Proof

/-! ### What a home's work leaves alone -/

/-- From s to r memory, the caches and the tiles stand. -/
def HomeKeeps (s r : State) : Prop := r.mem = s.mem ∧ r.coh.caches = s.coh.caches ∧ r.tiles = s.tiles

theorem HomeKeeps.refl (s : State) : HomeKeeps s s := ⟨rfl, rfl, rfl⟩

variable (h line : Nat) (t : Txn) (y : HomeReq) (s : State)

/-! ### The slot that a home asks for (R385) -/

theorem askLine_frame (q : MemReq) : ∃ ms, askLine q s = { s with mems := ms } := by
  unfold askLine
  split
  · exact ⟨_, rfl⟩
  · exact ⟨s.mems, rfl⟩

theorem askLine_reqs (q : MemReq) {d o : Nat} (hm : memOf (128 * q.line) = some (d, o)) :
    ((askLine q s).memCtl d).reqs = (s.memCtl d).reqs ++ [{ q with since := s.time.span }] := by
  unfold askLine
  rw [hm]
  exact congrArg MemCtl.reqs (State.memCtl_modMem_same ..)

theorem askHome_frame (cls : Nat) (write : Bool) (who : MemUser) (data : List Byte) (mask : List Bool) (poison : Bool) :
    ∃ ms, askHome cls line write who data mask poison s = { s with mems := ms } := askLine_frame s _

/-! ### Snoops (R384) -/

theorem sendSnoop_credit (m : CohMsg) (hc : (s.home h).snpsOut m.dst ≤ 64) : sendSnoop h m s = cohSend m s := if_pos hc

/-- Snoops within the credits of their caches leave at once. -/
theorem sendSnoops_credit (op : Nat) {targets : List Nat} (hc : ∀ b ∈ targets, (s.home h).snpsOut b ≤ 64) :
    sendSnoops h line op y targets s = { s with coh := { s.coh with msgs := s.coh.msgs ++ targets.map fun a =>
      ({ op := op, line := line, txn := y.txn, req := y.req, dst := a, src := 16 + h } : CohMsg) } } := by
  unfold sendSnoops
  induction targets generalizing s with
  | nil => simp
  | cons b targets ih =>
    rw [List.foldl_cons, sendSnoop_credit h s _ (hc b List.mem_cons_self)]
    refine (ih (cohSend _ s) fun a ha => hc a (List.mem_cons_of_mem b ha)).trans ?_
    simp [cohSend, homeAgent]

/-- A snoop beyond the credits of its cache waits at the home. -/
theorem sendSnoop_full (m : CohMsg) (hc : 64 < (s.home h).snpsOut m.dst) :
    sendSnoop h m s = s.modHome h fun x => { x with snpQ := x.snpQ ++ [m] } := if_neg (Nat.not_le.2 hc)

/-- Of the home itself snoops change the snoops that wait alone. -/
theorem sendSnoops_home (op : Nat) (targets : List Nat) :
    ∃ q, (sendSnoops h line op y targets s).home h = { s.home h with snpQ := q } := by
  unfold sendSnoops
  refine List.foldlRecOn (motive := fun r : State => ∃ q, r.home h = { s.home h with snpQ := q }) _ _ ⟨_, rfl⟩ ?_
  rintro r ⟨q, hr⟩ b _
  unfold sendSnoop
  split
  · exact ⟨q, hr⟩
  · rw [State.home_modHome_same, hr]
    exact ⟨_, rfl⟩

/-! ### The effect of a transaction (R385) -/

theorem writeEffect_kept : (writeEffect line y s).coh.homes = s.coh.homes ∧ (writeEffect line y s).coh.msgs = s.coh.msgs := by
  unfold writeEffect homeWrite homeMerge storeLine
  obtain ⟨ms, e⟩ := cancelWriteBack_frame (s.store (128 * line) y.data) (128 * line)
  obtain ⟨ms', e'⟩ := cancelWriteBack_frame { s with mem := memMasked s.mem (128 * line) y.data y.mask } (128 * line)
  rw [e, e']
  split
  · exact ⟨rfl, rfl⟩
  split <;> exact ⟨rfl, rfl⟩

theorem writeEffect_none (h5 : y.op ≠ 5) (h6 : y.op ≠ 6) : writeEffect line y s = s := by
  unfold writeEffect
  rw [if_neg (show ¬y.op = mWrFull from h5), if_neg (show ¬y.op = mWrPart from h6)]

theorem writeEffect_mem : (writeEffect line y s).mem =
    if y.op = 5 then memWrites s.mem (128 * line) y.data
    else if y.op = 6 then memMasked s.mem (128 * line) y.data y.mask else s.mem := by
  unfold writeEffect homeMerge
  obtain ⟨ms, c, e⟩ := homeWrite_frame s line y.data false
  obtain ⟨ms', e'⟩ := cancelWriteBack_frame { s with mem := memMasked s.mem (128 * line) y.data y.mask } (128 * line)
  rw [e, e', mWrFull, mWrPart]
  split
  · rfl
  · split <;> rfl

/-- The answer that a home gives. -/
def Txn.reply (t : Txn) (h line op : Nat) (data : List Byte) (poison : Bool) : CohMsg :=
  { op := op, line := line, txn := t.req.txn, req := t.req.req, dst := t.req.req, src := 16 + h, data := data,
    poison := poison, cls := t.req.cls }

section
variable (dropped : Bool)

theorem giveEffect_home : (giveEffect h line t dropped s).home h = { ((s.home h).settle line t.final) with
    txns := tset (s.home h).txns line { t with effectDue := false, memWait := false } } := by
  unfold giveEffect
  extract_lets s1 reply sent s2
  have h1 : s1.coh.homes = s.coh.homes := by
    cases dropped with
    | true => rfl
    | false => exact (writeEffect_kept line t.req s).1
  have h2 : s2.home h = s.home h := by
    have e : s2.coh.homes = s1.coh.homes := by
      dsimp only [s2]
      split
      · rfl
      · split <;> rfl
    rw [State.home, e, h1]
    rfl
  rw [State.home_modHome_same, h2]

theorem giveEffect_cmp (hg : t.give = some 0x29) :
    (giveEffect h line t false s).mem = (writeEffect line t.req s).mem ∧
    (giveEffect h line t false s).coh.caches = (writeEffect line t.req s).coh.caches ∧
    (giveEffect h line t false s).coh.msgs = s.coh.msgs ++ [t.reply h line 0x29 [] false] := by
  unfold giveEffect
  rw [hg]
  refine ⟨rfl, rfl, ?_⟩
  exact congrArg (· ++ [t.reply h line 0x29 [] false]) (writeEffect_kept line t.req s).2

/-- A read is answered with the line's bytes. -/
theorem giveEffect_data {o : Nat} (hg : t.give = some o) (ho : o ≠ 0x29) (h5 : t.req.op ≠ 5) (h6 : t.req.op ≠ 6) :
    (giveEffect h line t false s).mem = s.mem ∧
    (giveEffect h line t false s).coh.msgs = s.coh.msgs ++
      [t.reply h line o (s.bytes (128 * line) 128) (s.badLine (128 * line))] := by
  unfold giveEffect
  rw [hg, writeEffect_none line t.req s h5 h6]
  dsimp only
  rw [if_neg (show ¬o = mCmp from ho)]
  exact ⟨rfl, rfl⟩

end

/-! ### How far a transaction goes (R385, R386) -/

/-- The transaction of a line waits for its slot. -/
def awaitSlot (h line : Nat) (t : Txn) (s : State) : State :=
  s.modHome h fun x => { x with txns := tset x.txns line { t with memWait := true } }

theorem awaitSlot_home : (awaitSlot h line t s).home h =
    { s.home h with txns := tset (s.home h).txns line { t with memWait := true } } := State.home_modHome_same ..

/-- The line's transaction, as its home finds it. -/
def Home.finds (x : Home) (line : Nat) (t : Txn) : Prop := x.txns.find? (fun p => p.1 == line) = some (line, t)

theorem Home.finds_of_tset {x : Home} {ts : Tbl Txn} (hx : x.txns = tset ts line t) : x.finds line t := by
  rw [Home.finds, hx, find?_tset]

theorem Home.settle_frame (x : Home) (line : Nat) (final : Option DirState) :
    ∃ d, x.settle line final = { x with dir := d } := by
  cases final with
  | none => exact ⟨_, rfl⟩
  | some st => exact ⟨_, rfl⟩

theorem Home.busy_of_tset {x : Home} {ts : Tbl Txn} (hx : x.txns = tset ts line t) : x.busy line = true := by
  rw [Home.busy, hx, thas_tset]

section
variable {h line t s} (n : Nat) (hf : (s.home h).finds line t)
include hf

theorem advanceTxn_awaiting (ha : t.answered = false) : advanceTxn h line n s = s := by
  cases n with
  | zero => rfl
  | succ n =>
    unfold advanceTxn
    rw [hf]
    simp [ha]

theorem advanceTxn_unacked (he : t.effectDue = false) (ha : t.acked = false) : advanceTxn h line n s = s := by
  cases n with
  | zero => rfl
  | succ n =>
    unfold advanceTxn
    rw [hf]
    simp [he, ha]

/-- An answered transaction whose effect is a memory access asks for its slot. -/
theorem advanceTxn_asks (he : t.effectDue = true) (ha : t.answered = true) (hw : t.memWait = false) {a : Bool × List Bool}
    (hacc : t.access = some a) : advanceTxn h line (n + 1) s = 
      askHome t.req.cls line a.1 .home [] a.2 false (awaitSlot h line t s) := by
  rw [advanceTxn, hf]
  simp [he, ha, hw, hacc, awaitSlot]

/-- One whose effect is no access gives it, and then waits for its Ack. -/
theorem advanceTxn_gives (he : t.effectDue = true) (ha : t.answered = true) (hw : t.memWait = false)
    (hacc : t.access = none) (hack : t.acked = false) : advanceTxn h line (n + 1) s = giveEffect h line t false s := by
  rw [advanceTxn, hf]
  simp only [he, ha, hw, hacc, Bool.and_self, if_true, Bool.false_eq_true, if_false]
  exact advanceTxn_unacked n (Home.finds_of_tset line _ (congrArg Home.txns (giveEffect_home h line t s false))) rfl hack

/-- A transaction that is not acknowledged keeps its line busy, and leaves the home's queues and counts alone. -/
theorem advanceTxn_unacked_home (ha : t.acked = false) (hp : t.Planned t.req) :
    ∃ d ts, (advanceTxn h line (n + 1) s).home h = { s.home h with dir := d, txns := ts } ∧
      ((advanceTxn h line (n + 1) s).home h).busy line = true := by
  by_cases hw : t.answered = true
  · cases hacc : t.access with
    | none =>
      rw [advanceTxn_gives n hf hp.effectDue hw hp.memWait hacc ha, giveEffect_home]
      obtain ⟨d, e⟩ := Home.settle_frame (s.home h) line t.final
      rw [e]
      exact ⟨d, _, rfl, Home.busy_of_tset line _ rfl⟩
    | some a =>
      rw [advanceTxn_asks n hf hp.effectDue hw hp.memWait hacc]
      obtain ⟨ms, e⟩ := askHome_frame line (awaitSlot h line t s) t.req.cls a.1 .home [] a.2 false
      have e' : (askHome t.req.cls line a.1 .home [] a.2 false (awaitSlot h line t s)).home h =
          { s.home h with txns := tset (s.home h).txns line { t with memWait := true } } := by
        rw [e]
        exact awaitSlot_home h line t s
      rw [e']
      exact ⟨_, _, rfl, Home.busy_of_tset line _ rfl⟩
  · rw [advanceTxn_awaiting (n + 1) hf (by simpa using hw)]
    refine ⟨_, _, rfl, ?_⟩
    exact List.any_eq_true.2 ⟨(line, t), List.mem_of_find?_eq_some hf, beq_self_eq_true line⟩

end

end Sys2Proof.Machine
end

section

/-! SUPPORT. The start of a transaction, and of one that asks for its slot (O47). -/

namespace Sys2Proof.Machine

open Sys2Proof

variable {h line : Nat} {t : Txn} {y : HomeReq} {s : State}

/-! ### The start of a transaction (R385, R392) -/

/-- A request has been counted, and its transaction makes the line busy. -/
def started (h line : Nat) (t : Txn) (s : State) : State :=
  (s.modHome h fun x => { x with requests := satAdd 32 x.requests 1 }).modHome h fun x =>
    { x with txns := tset x.txns line t }

/-- The same with a new entry of the directory. -/
def startedNew (h line req : Nat) (t : Txn) (s : State) : State :=
  (s.modHome h fun x => { x with requests := satAdd 32 x.requests 1 }).modHome h fun x =>
    { (x.allocate line (.EM req)) with txns := tset x.txns line t }

theorem started_home (h line : Nat) (t : Txn) (s : State) : (started h line t s).home h =
    { s.home h with requests := satAdd 32 (s.home h).requests 1, txns := tset (s.home h).txns line t } := by
  simp only [started, State.home_modHome_same]

theorem startedNew_home (h line req : Nat) (t : Txn) (s : State) : (startedNew h line req t s).home h =
    { ((s.home h).allocate line (.EM req)) with
      requests := satAdd 32 (s.home h).requests 1, txns := tset (s.home h).txns line t } := by
  simp only [startedNew, State.home_modHome_same]
  rfl

theorem started_txns (h line : Nat) (t : Txn) (s : State) :
    ((started h line t s).home h).txns = tset (s.home h).txns line t := congrArg Home.txns (started_home h line t s)

theorem started_snpQ (h line : Nat) (t : Txn) (s : State) :
    ((started h line t s).home h).snpQ = (s.home h).snpQ := by rw [started_home]

theorem started_entry (h line : Nat) (t : Txn) (s : State) :
    ((started h line t s).home h).entry line = (s.home h).entry line := by rw [started_home]; rfl

theorem started_finds (h line : Nat) (t : Txn) (s : State) : ((started h line t s).home h).finds line t :=
  Home.finds_of_tset line t (started_txns h line t s)

theorem startedNew_finds (h line req : Nat) (t : Txn) (s : State) : ((startedNew h line req t s).home h).finds line t :=
  Home.finds_of_tset line t (congrArg Home.txns (startedNew_home h line req t s))

theorem beginTxn_known (hk : ((s.home h).entry line).isSome = true ∨ needsEntry y.op = false) :
    beginTxn h line y s = advanceTxn h line cohFuel (sendSnoops h line (planTxn y ((s.home h).entry line) s.time.span).2 y
      (planTxn y ((s.home h).entry line) s.time.span).1.awaiting
      (started h line (planTxn y ((s.home h).entry line) s.time.span).1 s)) := by
  unfold beginTxn
  refine if_neg ?_
  rcases hk with hk | hk
  · simp [Option.isNone_eq_false_iff.2 hk]
  · simp [hk]

theorem beginTxn_new (he : (s.home h).entry line = none) (hn : needsEntry y.op = true)
    (hw : ((s.home h).ways h line).length < 16) : beginTxn h line y s =
      advanceTxn h line cohFuel (startedNew h line y.req (planTxn y none s.time.span).1 s) := by
  have way : ({ s.home h with requests := satAdd 32 (s.home h).requests 1 } : Home).way h line = .invalid := if_pos hw
  unfold beginTxn
  simp only [he, hn, State.home_modHome_same, way, Option.isNone_none, Bool.and_self, if_true]
  rfl

/-- A transaction that starts makes its line busy and is counted; the requests that wait at the home stand. -/
theorem beginTxn_home (hw : (s.home h).entry line = none → ((s.home h).ways h line).length < 16) :
    ∃ d ts q, (beginTxn h line y s).home h =
        { s.home h with dir := d, stamp := ((beginTxn h line y s).home h).stamp, txns := ts, snpQ := q,
                        requests := min ((s.home h).requests + 1) 0xFFFF_FFFF } ∧
      ((beginTxn h line y s).home h).busy line = true := by
  by_cases hk : ((s.home h).entry line).isSome = true ∨ needsEntry y.op = false
  · have hp := planTxn_planned y ((s.home h).entry line) s.time.span
    rw [beginTxn_known hk]
    obtain ⟨q, e⟩ := sendSnoops_home h line y (started h line (planTxn y ((s.home h).entry line) s.time.span).1 s)
      (planTxn y ((s.home h).entry line) s.time.span).2 (planTxn y ((s.home h).entry line) s.time.span).1.awaiting
    rw [started_home] at e
    obtain ⟨d, ts, e', busy⟩ := advanceTxn_unacked_home 7 (Home.finds_of_tset line _ (congrArg Home.txns e)) hp.acked
      (hp.req.symm ▸ hp)
    rw [e] at e'
    exact ⟨d, ts, q, e'.trans (by rw [show cohFuel = 7 + 1 from rfl, e']; rfl), busy⟩
  · obtain ⟨hs, hn⟩ := not_or.1 hk
    have he : (s.home h).entry line = none := by simpa using hs
    have hp := planTxn_planned y none s.time.span
    rw [beginTxn_new he (by simpa using hn) (hw he)]
    obtain ⟨d, ts, e', busy⟩ := advanceTxn_unacked_home 7 (startedNew_finds h line y.req (planTxn y none s.time.span).1 s)
      hp.acked (hp.req.symm ▸ hp)
    rw [startedNew_home] at e'
    exact ⟨d, ts, (s.home h).snpQ, e'.trans (by rw [show cohFuel = 7 + 1 from rfl, e']; rfl), busy⟩

/-! ### A request that asks for its slot -/

/-- From s the home asks for a slot of the request's class on the line's channel, and its transaction waits for it. -/
def AsksSlot (h line : Nat) (y : HomeReq) (a : Bool × List Bool) (s r : State) : Prop :=
  (∃ t, (r.home h).finds line t ∧ t.memWait = true) ∧
  ∀ d o, memOf (128 * line) = some (d, o) → (r.memCtl d).reqs = (s.memCtl d).reqs ++
    [{ owner := owFree y.cls, die := (homeOf line).elim 0 homeDie, line := line, write := a.1, who := .home, mask := a.2,
       since := s.time.span }]

/-- A planned transaction that awaits nobody asks for the slot of its access. -/
theorem advanceTxn_asksSlot (n : Nat) (hf : (s.home h).finds line t) (hp : t.Planned y) (ha : t.awaiting = [])
    {a : Bool × List Bool} (hacc : t.access = some a) :
    HomeKeeps s (advanceTxn h line (n + 1) s) ∧ (advanceTxn h line (n + 1) s).coh.msgs = s.coh.msgs ∧
      ((advanceTxn h line (n + 1) s).home h).entry line = (s.home h).entry line ∧
      AsksSlot h line y a s (advanceTxn h line (n + 1) s) := by
  rw [advanceTxn_asks n hf hp.effectDue (by rw [hp.answered, ha]; rfl) hp.memWait hacc, hp.req]
  have hreqs {d o : Nat} (hm : memOf (128 * line) = some (d, o)) := askLine_reqs (awaitSlot h line t s)
    { owner := owFree y.cls, die := (homeOf line).elim 0 homeDie, line := line, write := a.1, who := .home, mask := a.2 } hm
  obtain ⟨ms, e⟩ := askHome_frame line (awaitSlot h line t s) y.cls a.1 .home [] a.2 false
  refine ⟨?_, ?_, ?_, ⟨{ t with memWait := true }, ?_, rfl⟩, fun d o hm => hreqs hm⟩
  · rw [e]
    exact ⟨rfl, rfl, rfl⟩
  · rw [e]
    rfl
  · have entry := congrArg (fun x => Home.entry x line) (awaitSlot_home h line t s)
    rw [e]
    exact entry
  · rw [e]
    exact Home.finds_of_tset line _ (congrArg Home.txns (awaitSlot_home h line t s))

/-- On a line without an entry a request asks for its slot, with a new entry if it needs one. -/
theorem beginTxn_without_entry (hy : y.known) (he : (s.home h).entry line = none) (hw : ((s.home h).ways h line).length < 16) :
    HomeKeeps s (beginTxn h line y s) ∧ (beginTxn h line y s).coh.msgs = s.coh.msgs ∧
      ((beginTxn h line y s).home h).entry line = (if y.op ≤ 3 then some (.EM y.req) else none) ∧
      AsksSlot h line y (y.op == 5 || y.op == 6, if y.op = 6 then y.mask else []) s (beginTxn h line y s) := by
  have hp := planTxn_planned y none s.time.span
  have ha := planTxn_none_awaiting y s.time.span
  have hacc := planTxn_none_access y s.time.span hy
  by_cases hn : needsEntry y.op = true
  · have h3 : y.op ≤ 3 := by
      rcases hy with h | h | h | h | h | h <;> simp_all [needsEntry, mRdShared, mRdUnique, mUpgrade]
    rw [beginTxn_new he hn hw, if_pos h3]
    obtain ⟨keeps, msgs, entry, asks⟩ := advanceTxn_asksSlot 7 (startedNew_finds h line y.req _ s) hp ha hacc
    refine ⟨keeps, msgs, entry.trans ?_, asks⟩
    rw [startedNew_home]
    exact Home.entry_allocate (s.home h) line (.EM y.req)
  · have h3 : ¬y.op ≤ 3 := by
      rcases hy with h | h | h | h | h | h <;> simp_all [needsEntry, mRdShared, mRdUnique, mUpgrade]
    rw [beginTxn_known (.inr (by simpa using hn)), he, ha, if_neg h3]
    obtain ⟨keeps, msgs, entry, asks⟩ := advanceTxn_asksSlot 7 (started_finds h line _ s) hp ha hacc
    refine ⟨keeps, msgs, entry.trans ?_, asks⟩
    rw [started_home]
    exact he

/-- With sharers a request that only reads asks for its slot. -/
theorem beginTxn_shared_read {v : Nat} (hy : y.op = 1 ∨ y.op = 4) (he : (s.home h).entry line = some (.S v)) :
    HomeKeeps s (beginTxn h line y s) ∧ (beginTxn h line y s).coh.msgs = s.coh.msgs ∧
      ((beginTxn h line y s).home h).entry line = some (.S v) ∧ AsksSlot h line y (false, []) s (beginTxn h line y s) := by
  obtain ⟨ha, hacc⟩ := planTxn_shared_read y s.time.span v hy
  rw [beginTxn_known (.inl (by rw [he]; rfl)), he, ha]
  obtain ⟨keeps, msgs, entry, asks⟩ :=
    advanceTxn_asksSlot 7 (started_finds h line _ s) (planTxn_planned y (some (.S v)) s.time.span) ha hacc
  refine ⟨keeps, msgs, entry.trans ?_, asks⟩
  rw [started_home]
  exact he

/-- The transaction of an Upgrade of the only sharer, which awaits nobody and answers Cmp. -/
def upgradeTxn (y : HomeReq) (now : Nat) : Txn :=
  { req := y, since := now, give := some mCmp, final := some (.EM y.req) }

/-- An Upgrade of the only sharer is answered at once. -/
theorem beginTxn_upgrade {v : Nat} (hy : y.op = 3) (hv : bitOf v y.req = true) (ho : without (sharerList v) y.req = [])
    (he : (s.home h).entry line = some (.S v)) :
    (beginTxn h line y s).mem = s.mem ∧ ((beginTxn h line y s).home h).entry line = some (.EM y.req) ∧
      (beginTxn h line y s).coh.msgs = s.coh.msgs ++
        [{ op := 0x29, line := line, txn := y.txn, req := y.req, dst := y.req, src := 16 + h, cls := y.cls }] := by
  have hplan : (planTxn y (some (.S v)) s.time.span).1 = upgradeTxn y s.time.span := by
    rw [planTxn_upgrade y s.time.span v hy hv, ho]
    rfl
  have hacc : (upgradeTxn y s.time.span).access = none := by
    simp [upgradeTxn, Txn.access, hy, mWrFull, mWrPart]
  have hbegin : beginTxn h line y s =
      giveEffect h line (upgradeTxn y s.time.span) false (started h line (upgradeTxn y s.time.span) s) := by
    rw [beginTxn_known (.inl (by rw [he]; rfl)), he, hplan]
    exact advanceTxn_gives 7 (started_finds h line (upgradeTxn y s.time.span) s) rfl rfl rfl hacc rfl
  obtain ⟨mem, -, msgs⟩ := giveEffect_cmp h line (upgradeTxn y s.time.span) (started h line (upgradeTxn y s.time.span) s) rfl
  rw [hbegin]
  refine ⟨mem.trans ?_, ?_, msgs⟩
  · have unwritten := writeEffect_none line y (started h line (upgradeTxn y s.time.span) s) (by rw [hy]; decide)
      (by rw [hy]; decide)
    exact (congrArg State.mem unwritten).trans rfl
  · rw [giveEffect_home]
    exact Home.entry_settle ..

end Sys2Proof.Machine
end

section

/-! SUPPORT. A transaction that snoops, and the rows of a request and of one that waited (O47). -/

namespace Sys2Proof.Machine

open Sys2Proof

variable {h line : Nat} {t : Txn} {y : HomeReq} {s : State}

/-! ### A request that snoops -/

/-- A transaction that awaits caches goes no further: its line is busy, its entry stands. -/
theorem advanceTxn_snooping (n : Nat) (ht : (s.home h).finds line t) (ha : t.answered = false) :
    advanceTxn h line n s = s ∧ (s.home h).busy line = true :=
  ⟨advanceTxn_awaiting n ht ha, List.any_eq_true.2 ⟨(line, t), List.mem_of_find?_eq_some ht, beq_self_eq_true line⟩⟩

/-- With other sharers every other request invalidates those. -/
theorem beginTxn_invalidates {v : Nat} (h1 : y.op ≠ 1) (h4 : y.op ≠ 4) (ho : without (sharerList v) y.req ≠ [])
    (he : (s.home h).entry line = some (.S v)) (hb : (s.home h).busy line = false) (hc : ∀ b, (s.home h).snpsOut b < 64) :
    HomeKeeps s (beginTxn h line y s) ∧ ((beginTxn h line y s).home h).entry line = some (.S v) ∧
      ((beginTxn h line y s).home h).busy line = true ∧
      (beginTxn h line y s).coh.msgs = s.coh.msgs ++ (without (sharerList v) y.req).map fun a =>
        ({ op := 0x13, line := line, txn := y.txn, req := y.req, dst := a, src := 16 + h } : CohMsg) := by
  obtain ⟨ha, hop⟩ := planTxn_shared_snoops y s.time.span v h1 h4
  have hp := planTxn_planned y (some (.S v)) s.time.span
  rw [beginTxn_known (.inl (by rw [he]; rfl)), he, ha, hop]
  have credit (b : Nat) : ((started h line (planTxn y (some (.S v)) s.time.span).1 s).home h).snpsOut b ≤ 64 :=
    Home.snpsOut_le (started_txns h line _ s) (started_snpQ h line _ s) hb (hc b)
  rw [sendSnoops_credit h line y _ _ fun b _ => credit b]
  obtain ⟨stays, busy⟩ := advanceTxn_snooping (s := { started h line (planTxn y (some (.S v)) s.time.span).1 s with
      coh := { (started h line (planTxn y (some (.S v)) s.time.span).1 s).coh with
        msgs := (started h line (planTxn y (some (.S v)) s.time.span).1 s).coh.msgs ++ (without (sharerList v) y.req).map fun a =>
          ({ op := 0x13, line := line, txn := y.txn, req := y.req, dst := a, src := 16 + h } : CohMsg) } })
    cohFuel (started_finds h line (planTxn y (some (.S v)) s.time.span).1 s) (by rw [hp.answered, ha]; simpa using ho)
  rw [stays]
  exact ⟨⟨rfl, rfl, rfl⟩, (started_entry h line _ s).trans he, busy, rfl⟩

/-- An owner is snooped, or the snoop waits where the cache has 64 of the home's snoops to answer. -/
theorem beginTxn_owned {o : Nat} (hy : y.known) (he : (s.home h).entry line = some (.EM o)) (hb : (s.home h).busy line = false) :
    let asked : CohMsg := {
      op := (if y.op = 1 then 0x11 else if y.op = 2 ∨ y.op = 3 then 0x12 else if y.op = 4 then 0x14 else 0x13)
      line := line, txn := y.txn, req := y.req, dst := o, src := 16 + h }
    HomeKeeps s (beginTxn h line y s) ∧ ((beginTxn h line y s).home h).busy line = true ∧
      ((beginTxn h line y s).home h).entry line = some (.EM o) ∧
      ((s.home h).snpsOut o < 64 → (beginTxn h line y s).coh.msgs = s.coh.msgs ++ [asked] ∧
        ((beginTxn h line y s).home h).snpQ = (s.home h).snpQ) ∧
      (64 ≤ (s.home h).snpsOut o → (beginTxn h line y s).coh.msgs = s.coh.msgs ∧
        ((beginTxn h line y s).home h).snpQ = (s.home h).snpQ ++ [asked]) := by
  intro asked
  obtain ⟨ha, hop⟩ := planTxn_owned y s.time.span o hy
  have hp := planTxn_planned y (some (.EM o)) s.time.span
  rw [beginTxn_known (.inl (by rw [he]; rfl)), he, ha, hop]
  generalize (planTxn y (some (.EM o)) s.time.span).1 = t at ha hp
  have hans : t.answered = false := by rw [hp.answered, ha]; rfl
  have entry := (started_entry h line t s).trans he
  rw [show sendSnoops h line _ y [o] (started h line t s) = sendSnoop h asked (started h line t s) from rfl]
  by_cases hc : (s.home h).snpsOut o < 64
  · have credit := Home.snpsOut_le (started_txns h line t s) (started_snpQ h line t s) hb hc
    obtain ⟨stays, busy⟩ :=
      advanceTxn_snooping (s := cohSend asked (started h line t s)) cohFuel (started_finds h line t s) hans
    rw [sendSnoop_credit h (started h line t s) asked credit, stays]
    exact ⟨.refl _, busy, entry, fun _ => ⟨rfl, started_snpQ h line t s⟩, fun k => absurd hc (Nat.not_lt.2 k)⟩
  · have full := Home.snpsOut_gt (started_txns h line t s) (started_snpQ h line t s) hb
      (b := o) (by rw [ha]; simp) (Nat.not_lt.1 hc)
    have hq : ((started h line t s).modHome h fun x => { x with snpQ := x.snpQ ++ [asked] }).home h =
        { (started h line t s).home h with snpQ := ((started h line t s).home h).snpQ ++ [asked] } := State.home_modHome_same ..
    rw [started_snpQ] at hq
    have finds := Home.finds_of_tset line t ((congrArg Home.txns hq).trans (started_txns h line t s))
    obtain ⟨stays, busy⟩ := advanceTxn_snooping cohFuel finds hans
    rw [sendSnoop_full h (started h line t s) asked full, stays]
    exact ⟨.refl _, busy, (congrArg (fun x => Home.entry x line) hq).trans entry, fun k => absurd k hc,
      fun _ => ⟨rfl, congrArg Home.snpQ hq⟩⟩

/-! ### A request at its home (R386, R393) -/

/-- The request of a message. -/
def CohMsg.request (m : CohMsg) (op from_ txn : Nat) : HomeReq :=
  { op := op, req := from_, txn := txn, data := m.data, mask := m.mask, cls := m.cls }

theorem homeRequest_busy (hb : (s.home h).busy line = true) :
    homeRequest h line y s = s.modHome h fun x => { x with lineQ := x.lineQ ++ [(line, y)] } := by
  unfold homeRequest
  exact if_pos (by simp [hb])

theorem Home.canStart_of (x : Home) (h line op : Nat) (hw : (x.entry line).isSome = true ∨ (x.ways h line).length < 16) :
    x.canStart h line op = true := by
  unfold Home.canStart
  rcases hw with hw | hw
  · simp [hw]
  · have way : x.way h line = .invalid := if_pos hw
    simp [way]

/-- On a free line, with nobody before it and its way there, a request starts. -/
theorem homeRequest_starts (hb : (s.home h).busy line = false) (hl : ∀ p ∈ (s.home h).lineQ, p.1 ≠ line)
    (hs : (s.home h).setQ = []) (hw : (s.home h).entry line = none → ((s.home h).ways h line).length < 16) :
    homeRequest h line y s = beginTxn h line y s := by
  have hq : ((s.home h).lineQ.any fun p => p.1 == line) = false := by simpa using hl
  have hcan : (s.home h).canStart h line y.op = true := Home.canStart_of _ _ _ _ (by
    cases he : (s.home h).entry line with
    | some d => exact .inl rfl
    | none => exact .inr (hw he))
  unfold homeRequest
  simp [hb, hq, hs, hcan]

theorem requestRow_found {op from_ txn : Nat} {m : CohMsg} (hlive : s.live = true) (hh : homeOf line = some h)
    (hm : cohFind s (fun m => msgFrom op line from_ m && m.txn == txn) = some m) :
    requestRow op from_ line txn s = .next (homeRequest h line (m.request op from_ txn) (cohTake m s)) := by
  unfold requestRow
  simp only [hh, hm, eventOf_some s _ _ hlive]
  rfl

theorem exec_request {c : Instr} {op from_ txn line : Nat} {a : AgentId}
    (hc : (c, op, from_) ∈ [(Instr.rdShared a line txn, 1, a.val), (Instr.rdUnique a line txn, 2, a.val),
      (Instr.upgrade a line txn, 3, a.val), (Instr.rdOnce line txn, 4, 12), (Instr.wrFull line txn, 5, 12),
      (Instr.wrPart line txn, 6, 12)]) (s : State) :
    exec c s = requestRow op from_ line txn s ∧ (op = 1 ∨ op = 2 ∨ op = 3 ∨ op = 4 ∨ op = 5 ∨ op = 6) := by
  simp only [List.mem_cons, Prod.mk.injEq, List.not_mem_nil, or_false] at hc
  rcases hc with ⟨rfl, rfl, rfl⟩ | ⟨rfl, rfl, rfl⟩ | ⟨rfl, rfl, rfl⟩ | ⟨rfl, rfl, rfl⟩ | ⟨rfl, rfl, rfl⟩ |
      ⟨rfl, rfl, rfl⟩ <;>
    exact ⟨rfl, by omega⟩

/-! ### Requests that waited (R386, R393) -/

theorem execQueuedRequestStart_found {p : Nat × HomeReq} (hlive : s.live = true) (hh : homeOf line = some h)
    (hb : (s.home h).busy line = false) (hs : ∀ q ∈ (s.home h).setQ, q.1 ≠ line)
    (hf : (s.home h).lineQ.find? (fun p => p.1 == line) = some p) :
    execQueuedRequestStart line s = .next (
      if (s.home h).canStart h line p.2.op then beginTxn h line p.2 (s.modHome h fun x => { x with lineQ := x.lineQ.erase p })
      else (s.modHome h fun x => { x with lineQ := x.lineQ.erase p }).modHome h fun x => { x with setQ := x.setQ ++ [p] }) := by
  have hq : ((s.home h).setQ.any fun p => p.1 == line) = false := by simpa using hs
  unfold execQueuedRequestStart
  simp only [hh, hb, hq, hf, Bool.or_self, Bool.false_eq_true, if_false, eventOf_some s _ _ hlive]

theorem execSetQueueRequestStart_found {home : AgentId} {set : Nat} {p : Nat × HomeReq} (hlive : s.live = true)
    (h16 : 16 ≤ home.val) (hf : (s.home (home.val - 16)).setQ.find? (fun p => setOf (home.val - 16) p.1 == set) = some p)
    (hb : (s.home (home.val - 16)).busy p.1 = false)
    (hw : ((s.home (home.val - 16)).entry p.1).isSome = true ∨
      ((s.home (home.val - 16)).ways (home.val - 16) p.1).length < 16) :
    execSetQueueRequestStart home set s = .next (beginTxn (home.val - 16) p.1 p.2
      (s.modHome (home.val - 16) fun x => { x with setQ := x.setQ.erase p })) := by
  unfold execSetQueueRequestStart
  simp only [hf, if_neg (Nat.not_lt.2 h16), Option.filter_some, hb, Home.canStart_of _ _ _ p.2.op hw, Bool.not_false,
    Bool.and_self, if_true, eventOf_some s _ _ hlive]

end Sys2Proof.Machine
end

section

/-! SUPPORT. The slot of a home's request, and masked writes (O47). -/

namespace Sys2Proof.Machine

open Sys2Proof

/-! ### Masked writes (R234) -/

/-- A byte of a masked write reads as it was written where the mask names it, and as it stood where not. -/
theorem memRead_memMasked_in (m : List Host.Cell) (a i : Nat) {bs : List Byte} {ks : List Bool} (hb : i < bs.length)
    (hk : i < ks.length) : memRead (memMasked m a bs ks) (a + i) =
      if ks.getD i false = true then bs.getD i 0 else memRead m (a + i) := by
  induction bs generalizing m a i ks with
  | nil => simp at hb
  | cons b bs ih =>
    cases ks with
    | nil => simp at hk
    | cons k ks =>
      cases i with
      | zero =>
        rw [memMasked, memRead_memMasked_out _ _ _ _ _ (.inl (by omega))]
        cases k with
        | false => rfl
        | true => simp [memRead_memWrite]
      | succ i =>
        have e : a + (i + 1) = a + 1 + i := by omega
        rw [memMasked, e, ih _ _ _ (by simpa using hb) (by simpa using hk)]
        cases k with
        | false => rfl
        | true => simp [memRead_memWrite, show a + 1 + i ≠ a by omega]

/-! ### The slot of a request (R229, R236) -/

variable {h line : Nat} {t : Txn} {s : State}

/-- A line that can be read is read with counters and records alone. -/
theorem eccRead_readable {a : Nat} {e : Ecc} (hr : effEcc s a e = .clean ∨ effEcc s a e = .corrected)
    (requester unit troupe : Nat) : ∃ m x k tr b, eccRead a e requester unit troupe s =
      { s with mems := m, err := x, host := k, troupes := tr, boot := b } := by
  unfold eccRead
  split
  · exact ⟨s.mems, s.err, s.host, s.troupes, s.boot, rfl⟩
  · next m off _ =>
    extract_lets ch base
    rcases hr with hr | hr
    · rw [hr]
      exact ⟨s.mems, s.err, s.host, s.troupes, s.boot, rfl⟩
    · rw [hr]
      exact eccCorrected_frame s m ch off requester (memDie m) { base with cls := 3, severity := sevCorrected }

/-- A home's request read in its slot. -/
theorem readInSlot_home {q : MemReq} {e : Ecc} (hw : q.who = .home)
    (hr : effEcc s (128 * q.line) e = .clean ∨ effEcc s (128 * q.line) e = .corrected) :
    ∃ m x k tr b, readInSlot q e s = { s with mems := m, err := x, host := k, troupes := tr, boot := b } := by
  unfold readInSlot
  rw [hw]
  dsimp only
  split
  · exact eccRead_readable hr _ _ _
  · exact eccRead_readable hr _ _ _

theorem badLine_of_readable {a : Nat} {e : Ecc} (hr : effEcc s a e = .clean ∨ effEcc s a e = .corrected) :
    s.badLine a = false := by
  unfold effEcc at hr
  by_cases hb : s.badLine a = true
  · simp [hb] at hr
  · simpa using hb

/-- The slot that a transaction awaits gives its effect; the transaction then waits for its Ack. -/
theorem homeServed_gives {k : Nat} (hh : homeOf line = some h)
    (hf : (s.home h).txns.find? (fun p => p.1 == line && p.2.memWait) = some (k, t)) (ha : t.acked = false) :
    homeServed line false s = giveEffect h line t false s := by
  unfold homeServed
  simp only [hh, hf]
  exact advanceTxn_unacked cohFuel
    (Home.finds_of_tset line _ (congrArg Home.txns (giveEffect_home h line t s false))) rfl ha

theorem giveEffect_entry (h line : Nat) (t : Txn) (s : State) (dropped : Bool) :
    ((giveEffect h line t dropped s).home h).entry line = t.final := by
  rw [giveEffect_home]
  exact Home.entry_settle ..

section
variable {m : MemoryId} {ch slot : Nat} {e : Ecc} {q : MemReq}

/-- The next slot of a channel is counted. -/
def nextSlotCounted (m : MemoryId) (ch slot : Nat) (s : State) : State :=
  s.modMem m fun c => { c with nextSlot := tset c.nextSlot ch (s.time.ttFrames * memSlots m + slot + 1) }

theorem slotTaker_counted (w begins : Nat) :
    slotTaker (nextSlotCounted m ch slot s) m ch w begins = slotTaker s m ch w begins := by
  have reqs : ((nextSlotCounted m ch slot s).memCtl m).reqs = (s.memCtl m).reqs := by
    unfold nextSlotCounted
    rw [State.memCtl_modMem_same]
  unfold slotTaker
  rw [reqs]
  rfl

/-- A slot that is due and carries requests serves the first of its owner. -/
theorem execMemorySlot_serves (hlive : s.live = true) (hch : ch < 2 ^ chanBits m) (hslot : slot < memSlots m)
    (hnext : tget 0 (s.memCtl m).nextSlot ch ≤ s.time.ttFrames * memSlots m + slot)
    (hnow : s.beginsNow (memSlotAt m (s.time.ttFrames * memSlots m + slot)) = true)
    (hcarry : carriesRequests (ownerWord s m ch slot) = true)
    (hq : slotTaker s m ch (ownerWord s m ch slot) (memSlotAt m (s.time.ttFrames * memSlots m + slot)) = some q) :
    execMemorySlot m ch slot e s = .next (serveRequest m e q (nextSlotCounted m ch slot s)) := by
  have howner : ownerWord (nextSlotCounted m ch slot s) m ch slot = ownerWord s m ch slot := rfl
  have htaker := slotTaker_counted (m := m) (ch := ch) (slot := slot) (s := s) (ownerWord s m ch slot)
    (memSlotAt m (s.time.ttFrames * memSlots m + slot))
  rw [hq] at htaker
  unfold execMemorySlot
  dsimp only
  rw [event_of_due s _ _ hlive (by simp [hch, hslot, hnext, hnow])]
  unfold nextSlotCounted at howner htaker ⊢
  rw [howner, if_pos hcarry, htaker]

/-- The request has had its slots. -/
def unqueued (m : MemoryId) (q : MemReq) (s : State) : State := s.modMem m fun c => { c with reqs := c.reqs.erase q }

theorem serveRequest_read (hw : q.write = false) : serveRequest m e q s = served q false (unqueued m q (readInSlot q e s)) := by
  unfold serveRequest
  simp only [hw, Bool.not_false, if_true]
  rfl

/-- A whole line is written in one slot, the line of a home's transaction by the transaction's effect. -/
theorem serveRequest_write (hw : q.write = true) (hm : q.mask = []) (hp : q.poison = false) : serveRequest m e q s =
    served q false (unqueued m q (if q.data.isEmpty then s else storeLine (128 * q.line) q.data s)) := by
  unfold serveRequest
  simp only [hw, hm, hp, Bool.not_true, Bool.false_eq_true, if_false, List.isEmpty_nil, if_true]
  rfl

/-- A transaction's masked write acts in its second slot. -/
theorem serveRequest_merge (hw : q.write = true) (hm : q.mask ≠ []) (hr : q.readDone = true) (hd : q.data = []) :
    serveRequest m e q s = served q false (unqueued m q s) := by
  have hm' : q.mask.isEmpty = false := by simpa using hm
  unfold serveRequest
  simp only [hw, hm', hr, hd, Bool.not_true, Bool.false_eq_true, if_false, List.isEmpty_nil, if_true]
  rfl

end

end Sys2Proof.Machine
end

section

/-! SUPPORT. What the slot of a transaction does, and O47. -/

namespace Sys2Proof.Machine

open Sys2Proof

variable {h line : Nat} {t : Txn} {s : State}

section
variable {m : MemoryId} {e : Ecc} {q : MemReq} {k : Nat} (hh : homeOf q.line = some h) (hwho : q.who = .home)
  (hf : (s.home h).txns.find? (fun p => p.1 == q.line && p.2.memWait) = some (k, t)) (ha : t.acked = false)
include hh hwho hf ha

/-- The slot of a read answers it with the line's bytes. -/
theorem serveRequest_reads {o : Nat} (hw : q.write = false) (h5 : t.req.op ≠ 5) (h6 : t.req.op ≠ 6) (hg : t.give = some o)
    (ho : o ≠ 0x29) (hr : effEcc s (128 * q.line) e = .clean ∨ effEcc s (128 * q.line) e = .corrected) :
    (serveRequest m e q s).mem = s.mem ∧ ((serveRequest m e q s).home h).entry q.line = t.final ∧
      (serveRequest m e q s).coh.msgs = s.coh.msgs ++ [t.reply h q.line o (s.bytes (128 * q.line) 128) false] := by
  obtain ⟨ms, x, ho', tr, b, hread⟩ := readInSlot_home hwho hr
  have hserved : serveRequest m e q s = giveEffect h q.line t false (unqueued m q (readInSlot q e s)) := by
    rw [serveRequest_read hw]
    unfold served
    rw [hwho]
    rw [hread]
    exact homeServed_gives hh hf ha
  have hbad := badLine_of_readable hr
  obtain ⟨mem, msgs⟩ := giveEffect_data h q.line t (unqueued m q (readInSlot q e s)) hg ho h5 h6
  rw [hserved]
  refine ⟨mem.trans ?_, giveEffect_entry .., msgs.trans ?_⟩
  · rw [hread]
    rfl
  · rw [← hbad, hread]
    rfl

/-- The slot of a write makes it and answers Cmp. -/
theorem serveRequest_writes (hw : q.write = true) (hd : q.data = []) (hp : q.poison = false)
    (hm : q.mask = [] ∨ q.readDone = true) (hg : t.give = some 0x29) :
    (serveRequest m e q s).mem = (writeEffect q.line t.req s).mem ∧ ((serveRequest m e q s).home h).entry q.line = t.final ∧
      (serveRequest m e q s).coh.msgs = s.coh.msgs ++ [t.reply h q.line 0x29 [] false] := by
  have hserve : serveRequest m e q s = served q false (unqueued m q s) := by
    by_cases hmask : q.mask = []
    · rw [serveRequest_write hw hmask hp, hd]
      rfl
    · exact serveRequest_merge hw hmask (hm.resolve_left hmask) hd
  have hserved : serveRequest m e q s = giveEffect h q.line t false (unqueued m q s) := by
    rw [hserve]
    unfold served
    rw [hwho]
    exact homeServed_gives hh hf ha
  obtain ⟨mem, -, msgs⟩ := giveEffect_cmp h q.line t (unqueued m q s) hg
  rw [hserved]
  refine ⟨mem.trans ?_, giveEffect_entry .., msgs⟩
  rw [writeEffect_mem, writeEffect_mem]
  rfl

end

/-- A write-back's slot writes its line, and the cache is told. -/
theorem serveRequest_writeBack {m : MemoryId} {e : Ecc} {q : MemReq} {b n : Nat} (hh : homeOf q.line = some h)
    (hwho : q.who = .writeBack b n) (hw : q.write = true) (hm : q.mask = []) (hp : q.poison = false) (hd : q.data.length = 128) :
    (serveRequest m e q s).mem = memWrites s.mem (128 * q.line) q.data ∧ (serveRequest m e q s).coh.msgs = s.coh.msgs ++
      [{ op := 0x2B, line := q.line, req := b, dst := b, src := 16 + h }] := by
  have hne : q.data.isEmpty = false := by
    cases hq : q.data with
    | nil => rw [hq] at hd; cases hd
    | cons => rfl
  rw [serveRequest_write hw hm hp, hne]
  unfold served backWritten
  simp only [hwho, hh, Bool.false_eq_true, if_false]
  obtain ⟨ms, e⟩ := cancelWriteBack_frame (s.store (128 * q.line) q.data) (128 * q.line)
  unfold storeLine
  rw [e]
  exact ⟨rfl, rfl⟩

theorem memoryKept_memWrites {r : State} {a : Nat} {bs : List Byte} (hn : bs.length = 128) (hr : r.mem = memWrites s.mem a bs) :
    MemoryKept a 128 s r ∧ r.bytes a 128 = bs := by
  refine ⟨fun b hb => ?_, ?_⟩
  · rw [hr, memRead_memWrites_out _ _ _ _ (hn.symm ▸ hb)]
  · rw [State.bytes, hr, ← hn, memReads_memWrites]

/-- Settles O47: what a home does with a request, in the slot of its memory, and with those that waited. -/
theorem homesServeRequestsByDirectoryState : Obligations.HomesServeRequestsByDirectoryState := by
  refine ⟨fun line txn h a s c op from_ m => ?_, fun m ch slot e s q h => ?_, fun line h s p => ?_, fun home set s p => ?_⟩
  · intro x rest snoop asks hlive hh hc hm
    obtain ⟨hexec, hop⟩ := exec_request hc s
    have hrow := hexec.trans (requestRow_found hlive hh hm)
    have hknown : (m.request op from_ txn).known := hop
    refine ⟨fun hb => ⟨_, hrow, ?_⟩, fun hb hl hs => ?_⟩
    · rw [homeRequest_busy (s := cohTake m s) hb]
      exact ⟨rfl, rfl, rfl, State.home_modHome_same ..⟩
    have hstart (hw : x.entry line = none → (x.ways h line).length < 16) :
        exec c s = .next (beginTxn h line (m.request op from_ txn) (cohTake m s)) := by
      rw [hrow, homeRequest_starts (s := cohTake m s) hb hl hs hw]
    have hasks {r : State} {b : Bool × List Bool} (hb : b = (op == 5 || op == 6, if op = 6 then m.mask else []))
        (k : AsksSlot h line (m.request op from_ txn) b (cohTake m s) r) : asks r := by
      subst hb
      obtain ⟨waits, reqs⟩ := k
      refine ⟨waits, fun d o hd => (reqs d o hd).trans ?_⟩
      rw [hh]
      rfl
    refine ⟨fun he hw => ?_, fun v he hcredit => ?_, fun o he => ?_⟩
    · obtain ⟨⟨mem, caches, tiles⟩, msgs, entry, slot⟩ := beginTxn_without_entry (s := cohTake m s) hknown he hw
      exact ⟨_, hstart fun _ => hw, caches, tiles, mem, msgs, hasks rfl slot, entry⟩
    · have hsome : x.entry line = none → (x.ways h line).length < 16 := fun k => by simp [he] at k
      refine ⟨fun h14 => ?_, fun h3 hv ho => ?_, fun h1 h4 ho => ?_⟩
      · obtain ⟨⟨mem, caches, tiles⟩, msgs, entry, slot⟩ :=
          beginTxn_shared_read (s := cohTake m s) (y := m.request op from_ txn) h14 he
        refine ⟨_, hstart hsome, mem, caches, msgs, hasks ?_ slot, entry⟩
        rcases h14 with rfl | rfl <;> rfl
      · obtain ⟨mem, entry, msgs⟩ := beginTxn_upgrade (s := cohTake m s) (y := m.request op from_ txn) h3 hv ho he
        exact ⟨_, hstart hsome, mem, msgs, entry⟩
      · obtain ⟨⟨mem, caches, tiles⟩, entry, busy, msgs⟩ :=
          beginTxn_invalidates (s := cohTake m s) (y := m.request op from_ txn) h1 h4 ho he hb hcredit
        exact ⟨_, hstart hsome, mem, caches, msgs, entry, busy⟩
    · have hsome : x.entry line = none → (x.ways h line).length < 16 := fun k => by simp [he] at k
      obtain ⟨⟨mem, caches, tiles⟩, busy, entry, sent, waits⟩ := beginTxn_owned (s := cohTake m s) hknown he hb
      exact ⟨_, hstart hsome, mem, caches, busy, entry, sent, waits⟩
  · intro g w a hlive hch hslot hnext hnow hcarry hq hh hp
    have hserve := execMemorySlot_serves (e := e) hlive hch hslot hnext hnow hcarry hq
    refine ⟨fun k t hwho hd hf ha => ⟨fun o hw h5 h6 hg ho hr => ?_, fun hw h5 hm hg hn => ?_,
        fun hw h6 hm hr hg hn hk => ?_⟩,
      fun b n hwho hw hm hd => ?_⟩
    · obtain ⟨mem, entry, msgs⟩ :=
        serveRequest_reads (s := nextSlotCounted m ch slot s) (m := m) hh hwho hf ha hw h5 h6 hg ho hr
      exact ⟨_, hserve, mem, msgs, entry⟩
    · obtain ⟨mem, entry, msgs⟩ :=
        serveRequest_writes (s := nextSlotCounted m ch slot s) (m := m) (e := e) hh hwho hf ha hw hd hp (.inl hm) hg
      rw [writeEffect_mem, if_pos h5] at mem
      obtain ⟨kept, bytes⟩ := memoryKept_memWrites (s := s) hn mem
      exact ⟨_, hserve, kept, bytes, msgs, entry⟩
    · obtain ⟨mem, -, msgs⟩ :=
        serveRequest_writes (s := nextSlotCounted m ch slot s) (m := m) (e := e) hh hwho hf ha hw hd hp (.inr hr) hg
      rw [writeEffect_mem, if_neg (by rw [h6]; decide), if_pos h6] at mem
      refine ⟨_, hserve, fun b hb => ?_, msgs, fun i hi => ?_⟩
      · rw [mem, memRead_memMasked_out _ _ _ _ _ (hn.symm ▸ hb)]
        rfl
      · rw [mem, memRead_memMasked_in _ _ _ (hn.symm ▸ hi) (hk.symm ▸ hi)]
        rfl
    · obtain ⟨mem, msgs⟩ := serveRequest_writeBack (s := nextSlotCounted m ch slot s) (m := m) (e := e) hh hwho hw hm hp hd
      obtain ⟨kept, bytes⟩ := memoryKept_memWrites (s := s) hd mem
      exact ⟨_, hserve, kept, bytes, msgs⟩
  · intro x hlive hh hb hs hf
    have hrow := execQueuedRequestStart_found hlive hh hb hs hf
    have hx : (s.modHome h fun x => { x with lineQ := x.lineQ.erase p }).home h = { x with lineQ := x.lineQ.erase p } :=
      State.home_modHome_same ..
    refine ⟨fun he => ?_, fun hcan => ?_⟩
    · rw [Home.canStart_of x h line p.2.op (.inl he), if_pos rfl] at hrow
      obtain ⟨d, ts, sq, hr, busy⟩ := beginTxn_home (h := h) (line := line) (y := p.2)
        (s := s.modHome h fun x => { x with lineQ := x.lineQ.erase p }) fun k => by
          rw [hx] at k
          have : x.entry line = none := k
          simp [this] at he
      rw [hx] at hr
      exact ⟨_, hrow, congrArg Home.lineQ hr, busy, congrArg Home.requests hr⟩
    · rw [show (s.home h).canStart h line p.2.op = false from hcan, if_neg (by decide)] at hrow
      refine ⟨_, hrow, rfl, ?_⟩
      rw [State.home_modHome_same, hx]
  · intro h x hlive h16 hf hb hw
    have hx : (s.modHome h fun x => { x with setQ := x.setQ.erase p }).home h = { x with setQ := x.setQ.erase p } :=
      State.home_modHome_same ..
    obtain ⟨d, ts, sq, hr, busy⟩ := beginTxn_home (h := h) (line := p.1) (y := p.2)
      (s := s.modHome h fun x => { x with setQ := x.setQ.erase p }) fun k => by
        rw [hx] at k ⊢
        have : x.entry p.1 = none := k
        exact hw.resolve_left (by simp [this])
    rw [hx] at hr
    exact ⟨_, execSetQueueRequestStart_found hlive h16 hf hb hw, congrArg Home.setQ hr, busy, congrArg Home.requests hr⟩

end Sys2Proof.Machine
end

section

/-! SUPPORT. Images and epoch changes: what the image logic's operations write, what the judgement of the ports and the
switch to a full image keep, and O57. -/

namespace Sys2Proof.Machine

open Sys2Proof

variable {s r q : State}

/-! ### The end of an operation (R59, R461) -/

theorem finishImage_eq (f : ImgFault) (s : State) : finishImage f s = { s with
    img := { s.img with op := .idle, code := f.code, sec := f.sec, record := f.record, votedGo := false }
    host := (finishImage f s).host } := by
  unfold finishImage
  extract_lets busy _ s1
  split
  · exact evtSend_eq s1 7
  · rfl

/-- Where no operation is under way no message is sent. -/
theorem finishImage_of_idle (f : ImgFault) (h : s.img.op = .idle) : finishImage f s =
    { s with img := { s.img with op := .idle, code := f.code, sec := f.sec, record := f.record, votedGo := false } } := by
  simp [finishImage, h]

section
variable (f : ImgFault) (s : State)

@[simp] theorem finishImage_img : (finishImage f s).img =
    { s.img with op := .idle, code := f.code, sec := f.sec, record := f.record, votedGo := false } := by rw [finishImage_eq]

@[simp] theorem finishImage_mem : (finishImage f s).mem = s.mem := by rw [finishImage_eq]

@[simp] theorem finishImage_tiles : (finishImage f s).tiles = s.tiles := by rw [finishImage_eq]

@[simp] theorem finishImage_troupes : (finishImage f s).troupes = s.troupes := by rw [finishImage_eq]

@[simp] theorem finishImage_fences : (finishImage f s).fences = s.fences := by rw [finishImage_eq]

end

/-! ### Commands (R61) -/

theorem imgCommand_busy (c : Nat) (hl : s.boot.lantern = false) (h : s.img.op ≠ .idle) :
    imgCommand c s = { s with img := { s.img with ignored := true } } := by
  simp [imgCommand, hl, h]

section
variable (hl : s.boot.lantern = false) (h : s.img.op = .idle)
include hl h

theorem imgCommand_discard : imgCommand 1 s = { s with img := { s.img with
    ignored := false, discarded := false, staged := none, op := .idle, code := 0, sec := 0xFFFF, record := 0xFFFF_FFFF
    votedGo := false } } := by
  simp [imgCommand, hl, h, finishImage_of_idle]

theorem imgCommand_full :
    imgCommand 2 s = { s with img := { s.img with ignored := false, discarded := false, op := .checkingFull } } := by
  simp [imgCommand, hl, h]

theorem imgCommand_partial :
    imgCommand 3 s = { s with img := { s.img with ignored := false, discarded := false, op := .checkingPartial } } := by
  simp [imgCommand, hl, h]

theorem imgCommand_epoch : imgCommand 4 s =
    { s with img := { s.img with ignored := false, discarded := false, op := .voting, votedGo := epochVote s } } := by
  simp only [imgCommand, hl, h]
  rfl

end

/-- R69: a vote is go where the staged image is the next change and each troupe that it affects is quiescent. -/
theorem epochVote_iff : epochVote s = true ↔ ∃ i, s.img.staged = some i ∧ i.header.epoch = s.img.changes + 1 ∧
    ∀ tr, tr < 16 → bitOf i.header.affected tr = true → quiescentTroupe s tr = true := by
  simp only [epochVote, Option.any_eq_true, Bool.and_eq_true, beq_iff_eq, List.all_eq_true, List.mem_range, Bool.or_eq_true,
    Bool.not_eq_true', ← Bool.not_eq_true, ← imp_iff_not_or]

/-! ### The end of a check (R57 to R59) -/

/-- The record of a refusal is a corrected error, which aborts nothing. -/
theorem refuseImage_frame (f : ImgFault) (x : ImageHeader) (s : State) : (refuseImage f x s).mem = s.mem ∧
    (refuseImage f x s).tiles = s.tiles ∧ (refuseImage f x s).troupes = s.troupes ∧ (refuseImage f x s).img =
      { s.img with op := .idle, code := f.code, sec := f.sec, record := f.record, votedGo := false } := by
  unfold refuseImage
  extract_lets s1 old
  have h1 : s1.mem = s.mem ∧ s1.tiles = s.tiles ∧ s1.troupes = s.troupes ∧ s1.img = s.img := by
    by_cases c : 5 ≤ f.code ∧ f.code ≤ 8
    · obtain ⟨e, h, t, b, k⟩ := formRecord_frame s 0
        { cls := 0x0A, severity := sevCorrected, code := f.code, info0 := x.imageId }
      have ht := formRecord_corrected_troupes s 0
        { cls := 0x0A, severity := sevCorrected, code := f.code, info0 := x.imageId } rfl
      have hs1 : s1 = _ := (if_pos c).trans k
      exact ⟨by rw [hs1], by rw [hs1], (congrArg State.troupes (if_pos c)).trans ht, by rw [hs1]⟩
    · have hs1 : s1 = s := if_neg c
      rw [hs1]
      exact ⟨rfl, rfl, rfl, rfl⟩
  obtain ⟨mem, tiles, troupes, img⟩ := h1
  simp [mem, tiles, troupes, img, old]

theorem acceptImage_partial (i : Image) (d : BitVec 256) (s : State) : acceptImage false i d s =
    finishImage { code := 0 } { extendMreg 6 d s with img := { s.img with staged := some i } } := rfl

section
variable (bad : Bool) {kind : Nat} (hlive : s.live = true)
  (hk : (s.img.op = .checkingFull ∧ kind = 1) ∨ (s.img.op = .checkingPartial ∧ kind = 2))
include hk

/-- A check that is under way is one of its command's kind. -/
theorem checking_kind : (s.img.op == .checkingFull || s.img.op == .checkingPartial) = true ∧
    (s.img.op == .checkingFull) = (kind == 1) ∧ (if s.img.op == .checkingFull then 1 else 2) = kind := by
  rcases hk with ⟨h, rfl⟩ | ⟨h, rfl⟩
  · rw [h]
    decide
  · rw [h]
    decide

include hlive

theorem execImageCheckComplete_refuses {f : ImgFault} (hf : checkImage s s.img.base kind bad = some f) :
    execImageCheckComplete bad s = .next (refuseImage f (headerOf (s.bytes s.img.base 0x1000)) s) := by
  obtain ⟨hdue, -, hkind⟩ := checking_kind hk
  rw [execImageCheckComplete, event_of_due _ _ _ hlive hdue]
  dsimp only
  rw [hkind, hf]

theorem execImageCheckComplete_accepts (hf : checkImage s s.img.base kind bad = none) : execImageCheckComplete bad s =
    .next (acceptImage (kind == 1) (imageOf s s.img.base (headerOf (s.bytes s.img.base 0x1000)))
      (imageDigest s s.img.base (headerOf (s.bytes s.img.base 0x1000))) s) := by
  obtain ⟨hdue, hfull, hkind⟩ := checking_kind hk
  rw [execImageCheckComplete, event_of_due _ _ _ hlive hdue]
  dsimp only
  rw [hkind, hf, hfull]

end

/-! ### Operations that touch neither the image registers nor the troupes -/

/-- The image registers and the troupes are as they were. -/
def ScenesKept (s r : State) : Prop := r.img = s.img ∧ r.troupes = s.troupes

namespace ScenesKept

theorem upd (h : ScenesKept s r) {q : State} (i : q.img = r.img := by rfl) (t : q.troupes = r.troupes := by rfl) :
    ScenesKept s q :=
  ⟨i.trans h.1, t.trans h.2⟩

theorem fold {α : Type} {l : List α} {f : State → α → State} (h : ScenesKept s r)
    (hf : ∀ {q} a, ScenesKept s q → ScenesKept s (f q a)) : ScenesKept s (l.foldl f r) :=
  List.foldlRecOn l f h fun _ hq a _ => hf a hq

theorem remapMemory (old : Option Image) (new : Image) (m : Nat) (h : ScenesKept s r) :
    ScenesKept s (Machine.remapMemory old new m r) := by
  unfold Machine.remapMemory
  extract_lets size before after
  split
  · exact h
  · exact h.upd

theorem resetCounts (tr : Nat) (h : ScenesKept s r) : ScenesKept s (Machine.resetCounts tr r) := by
  unfold Machine.resetCounts
  dsimp only
  split
  · exact h
  · exact .fold (.fold (.fold (.fold (.fold h fun _ h => h.upd) fun _ h => h.upd) fun _ h => h.upd) fun _ h => h.upd)
      fun _ h => h.upd

theorem imageFence (t : Nat) (h : ScenesKept s r) : ScenesKept s (Machine.imageFence t r) := by
  unfold Machine.imageFence
  split
  · exact h.upd
  · split
    · exact h.upd
    · exact h

end ScenesKept

/-! ### The judgement of a port (R275, R292) -/

/-- What the judgement of ports keeps: the image registers, memory, the tiles, every fence that stands, and the troupes
where none runs, since a record then aborts nothing. -/
structure PortKeeps (s r : State) : Prop where
  img : r.img = s.img
  mem : r.mem = s.mem
  tiles : r.tiles = s.tiles
  troupes : (∀ tr, (s.troupe tr).state ≠ 1) → r.troupes = s.troupes
  fenced : ∀ u, (s.fence u).fenced = true → (r.fence u).fenced = true

namespace PortKeeps

theorem refl (s : State) : PortKeeps s s := ⟨rfl, rfl, rfl, fun _ => rfl, fun _ => id⟩

theorem trans (h : PortKeeps s r) (k : PortKeeps r q) : PortKeeps s q where
  img := k.img.trans h.img
  mem := k.mem.trans h.mem
  tiles := k.tiles.trans h.tiles
  troupes quiet := by
    have hr := h.troupes quiet
    refine (k.troupes fun tr => ?_).trans hr
    rw [State.troupe, hr]
    exact quiet tr
  fenced u := k.fenced u ∘ h.fenced u

/-- An update of other parts of the state. -/
theorem upd (h : PortKeeps s r) {q : State} (i : q.img = r.img := by rfl) (m : q.mem = r.mem := by rfl)
    (t : q.tiles = r.tiles := by rfl) (x : q.troupes = r.troupes := by rfl) (f : q.fences = r.fences := by rfl) :
    PortKeeps s q :=
  h.trans ⟨i, m, t, fun _ => x, fun u k => by rwa [State.fence, f]⟩

theorem foldl {α : Type} {f : State → α → State} (h : ∀ s a, PortKeeps s (f s a)) (l : List α) (s : State) :
    PortKeeps s (l.foldl f s) :=
  List.foldlRecOn l f (refl s) fun _ hb a _ => hb.trans (h _ a)

theorem formRecord (d : Nat) (x : ErrRec) (hx : x.severity = sevDeferred) (s : State) :
    PortKeeps s (Machine.formRecord d x s) := by
  obtain ⟨e, h, t, b, frame⟩ := formRecord_frame s d x
  obtain ⟨p, ⟨e', h', rfl⟩, acts⟩ := formRecord_acts s d x
  refine ⟨by rw [frame], by rw [frame], by rw [frame], fun quiet => ?_, fun u k => by rw [frame]; exact k⟩
  rw [acts, if_pos hx, beginAbort_idle { s with err := e', host := h' } x.troupe (quiet x.troupe), ite_self]

theorem fenceFabric (d : Nat) (s : State) : PortKeeps s (Machine.fenceFabric d s) := by
  unfold Machine.fenceFabric
  split
  · refine ⟨rfl, rfl, rfl, fun _ => rfl, fun u k => ?_⟩
    by_cases hu : u = 72 + d
    · rw [hu, State.fence_modFence_same]
    · rwa [State.fence_modFence_ne _ _ _ _ hu]
  · exact refl s

theorem losePort (p code state : Nat) (s : State) : PortKeeps s (Machine.losePort p code state s) := by
  unfold Machine.losePort
  extract_lets s1 s2
  have h1 : PortKeeps s s1 := (refl s).upd
  have h2 : PortKeeps s1 s2 := by
    unfold s2
    split
    · exact formRecord _ _ rfl s1
    · exact foldl (fun s tr => formRecord _ _ rfl s) _ s1
  exact (h1.trans h2).trans (fenceFabric _ s2)

theorem judgePort (p : Nat) (s : State) : PortKeeps s (Machine.judgePort p s) := by
  unfold Machine.judgePort
  extract_lets x ok
  split
  · exact refl s
  split
  · exact losePort p 4 psMiswired s
  split
  · exact (refl s).upd
  split
  · exact (refl s).upd
  · exact refl s

theorem activatePort (p : Nat) (s : State) : PortKeeps s (Machine.activatePort p s) := by
  unfold Machine.activatePort
  extract_lets s1 x
  split
  · exact (judgePort p s).upd
  · exact judgePort p s

theorem dropFreeJobs (e : Nat) (s : State) : PortKeeps s (Machine.dropFreeJobs e s) := by
  unfold Machine.dropFreeJobs
  split
  · exact (refl s).upd
  · exact refl s

theorem changeTrim (old : Option Image) (new : Image) (s : State) : PortKeeps s (Machine.changeTrim old new s) := by
  unfold Machine.changeTrim
  split
  · exact refl s
  split
  · exact refl s
  extract_lets _ s1
  exact (refl s).upd.trans (foldl (fun s d => (refl s).upd) _ s1)

end PortKeeps

/-! ### The switch (R44, R67, R95) -/

/-- A member that leaves counts itself alone, fails a pending epoch change, and its undecided steps become unknown. -/
theorem leaveSpan_cases (s : State) : ∃ str h, leaveSpan s =
    if spanMember s then unknownAll (failEpoch { s with str := str, host := h }) else { s with str := str, host := h } := by
  unfold leaveSpan
  extract_lets was c _ s1 s2 str
  by_cases h : spanMember s = true
  · obtain ⟨x, y, -, e⟩ := noteMember_frame s1 false c.spanIndex c.x c.y c.z
    refine ⟨{ x with members := 1 }, y, ?_⟩
    rw [if_pos h, if_pos h]
    have hs2 : s2 = { s1 with str := x, host := y } := e
    simp only [str, hs2, s1]
  · exact ⟨s1.str, s.host, by rw [if_neg h, if_neg h]⟩

/-- R67: the departure that a switch begins with is no failed epoch change. -/
theorem leaveSpan_img (h : s.img.op = .switching) : (leaveSpan s).img = s.img := by
  obtain ⟨str, y, e⟩ := leaveSpan_cases s
  rw [e]
  split
  · obtain ⟨g, t, k, e'⟩ := unknownAll_frame (failEpoch { s with str := str, host := y })
    rw [e', failEpoch, if_neg (by simp [h])]
  · rfl

/-- The counts of a troupe that outlive an image: its faults and its commits. -/
def CountsKept (s r : State) : Prop :=
  ∀ tr, (r.troupe tr).faultCount = (s.troupe tr).faultCount ∧ (r.troupe tr).commits = (s.troupe tr).commits

theorem CountsKept.of_eq (h : r.troupes = s.troupes) : CountsKept s r := fun tr => by
  rw [State.troupe, h]
  exact ⟨rfl, rfl⟩

theorem CountsKept.trans (h : CountsKept s r) (k : CountsKept r q) : CountsKept s q := fun tr =>
  ⟨(k tr).1.trans (h tr).1, (k tr).2.trans (h tr).2⟩

theorem CountsKept.unknownStep (tr : Nat) (s : State) : CountsKept s (Machine.unknownStep tr s) := fun j => by
  unfold Machine.unknownStep
  split
  · exact ⟨rfl, rfl⟩
  rw [State.troupe, evtSend_troupes, ← State.troupe]
  by_cases hj : j = tr
  · subst hj
    rw [State.troupe_modTroupe_same]
    exact ⟨rfl, rfl⟩
  · rw [State.troupe_modTroupe_ne _ _ _ _ hj]
    exact ⟨rfl, rfl⟩

theorem CountsKept.unknownAll (s : State) : CountsKept s (Machine.unknownAll s) := by
  refine List.foldlRecOn (motive := fun r : State => CountsKept s r) _ _ (.of_eq rfl) fun r h g _ => ?_
  split
  · split
    · exact h.trans (.unknownStep _ (r.modGrot g _))
    · exact h
  · exact h

theorem failEpoch_troupes (s : State) : (failEpoch s).troupes = s.troupes := by
  obtain ⟨i, h, -, e⟩ := failEpoch_frame s
  rw [e]

theorem CountsKept.leaveSpan (s : State) : CountsKept s (Machine.leaveSpan s) := by
  obtain ⟨str, y, e⟩ := leaveSpan_cases s
  rw [e]
  split
  · exact .trans (r := failEpoch { s with str := str, host := y }) (.of_eq (failEpoch_troupes _)) (.unknownAll _)
  · exact .of_eq rfl

/-- R95: the troupes as the loading of a full image leaves them. -/
def reloadAll (t : Tbl Troupe) : Tbl Troupe := t.map fun p => (p.1, p.2.reload)

theorem tget_reloadAll (t : Tbl Troupe) (tr : Nat) : (tget {} (reloadAll t) tr).state = 0 ∧
    (tget {} (reloadAll t) tr).faultCount = (tget {} t tr).faultCount ∧
    (tget {} (reloadAll t) tr).commits = (tget {} t tr).commits := by
  induction t with
  | nil => exact ⟨rfl, rfl, rfl⟩
  | cons p t ih =>
    unfold reloadAll at ih ⊢
    simp only [List.map_cons, tget]
    split
    · exact ⟨rfl, rfl, rfl⟩
    · exact ih

/-- R44: once the image in force names a tile in no troupe, its fence stands whatever tiles follow. -/
theorem imageFence_fenced {i : Image} {u : Nat} (hi : r.img.inForce = some i) (hu : i.unitTroupe u = none) (t : Nat)
    (h : t = u ∨ (r.fence u).fenced = true) : ((imageFence t r).fence u).fenced = true := by
  have himage : r.image = i := by rw [State.image, hi]; rfl
  by_cases ht : t = u
  · subst ht
    simp [imageFence, himage, hu, setFence]
  have hne (f : Fence → Fence) : ((r.modFence t f).fence u).fenced = true := by
    rw [State.fence_modFence_ne _ _ _ _ (Ne.symm ht)]
    exact h.resolve_left ht
  unfold imageFence
  split
  · exact hne _
  · split
    · exact hne fun _ => {}
    · exact h.resolve_left ht

theorem foldl_imageFence_fenced {i : Image} {u : Nat} (hi : r.img.inForce = some i) (hu : i.unitTroupe u = none) (h48 : u < 48) :
    (((List.range 48).foldl (fun s t => imageFence t s) r).fence u).fenced = true := by
  have himg (s : State) (t : Nat) (h : s.img.inForce = some i) : (imageFence t s).img.inForce = some i :=
    (congrArg ImageState.inForce (ScenesKept.imageFence (s := s) t ⟨rfl, rfl⟩).1).trans h
  exact (foldl_reaches (I := fun s : State => s.img.inForce = some i)
    (P := fun s : State => s.img.inForce = some i ∧ (s.fence u).fenced = true) himg
    (fun s t h => ⟨himg s t h.1, imageFence_fenced h.1 hu t (.inr h.2)⟩)
    (fun s h => ⟨himg s u h, imageFence_fenced h hu u (.inl rfl)⟩) (List.mem_range.2 h48) hi).2

/-- R67: the switch to a full image, in the image registers, the troupes and the fences. -/
theorem switchImage_loads (i : Image) (h : s.img.op = .switching) :
    (switchImage i s).img = { s.img with
      inForce := some i, next := none, staged := none, loaded := true, discarded := s.img.staged.isSome, changes := 0
      accepted := s.img.accepted + 1, op := .idle, code := 0, sec := 0xFFFF, record := 0xFFFF_FFFF, votedGo := false } ∧
    (switchImage i s).troupes = reloadAll (leaveSpan s).troupes ∧
    ∀ t, t < 48 → i.unitTroupe t = none → ((switchImage i s).fence t).fenced = true := by
  unfold switchImage
  extract_lets old s1 s2 img str fab clk s3 s4 s5 s6 s7 before
  have h2 : ScenesKept s1 s2 := .fold ⟨rfl, rfl⟩ fun _ h => h.remapMemory _ _ _
  have h4 : ScenesKept s3 s4 := .fold ⟨rfl, rfl⟩ fun _ h => h.resetCounts _
  have h5 : ScenesKept s3 s5 := .fold h4 fun _ h => h.imageFence _
  have h8 : PortKeeps s5 (changeTrim old i s7) :=
    ((PortKeeps.foldl (fun s p => .activatePort p s) _ s5).trans (.foldl (fun s e => .dropFreeJobs e s) _ s6)).trans
      (.changeTrim old i s7)
  have himg2 : s2.img = s.img := h2.1.trans (leaveSpan_img h)
  have htr5 : s5.troupes = reloadAll s1.troupes :=
    h5.2.trans (congrArg reloadAll h2.2)
  have quiet : ∀ tr, (s5.troupe tr).state ≠ 1 := fun tr => by
    rw [State.troupe, htr5, (tget_reloadAll s1.troupes tr).1]
    decide
  refine ⟨?_, ?_, fun t h48 ht => ?_⟩
  · rw [finishImage_img, h8.img, h5.1]
    simp only [s3, img, himg2, before]
  · rw [finishImage_troupes, h8.troupes quiet, htr5]
  · rw [State.fence, finishImage_fences]
    exact h8.fenced t (foldl_imageFence_fenced (congrArg ImageState.inForce h4.1) ht h48)

/-! ### Epoch changes (R69 to R71) -/

/-- R69: the partial image takes effect, in the image registers; no tile and no byte of memory changes, and no troupe
where none runs. -/
theorem activateEpoch_loads (own : Image) (s : State) :
    (activateEpoch own s).img = { s.img with
      inForce := some (mergeImage s.image own), staged := none, changes := (s.img.changes + 1) % 2 ^ 32
      op := .idle, code := 0, sec := 0xFFFF, record := 0xFFFF_FFFF, votedGo := false } ∧
    (activateEpoch own s).mem = s.mem ∧ (activateEpoch own s).tiles = s.tiles ∧
    ((∀ tr, (s.troupe tr).state ≠ 1) → (activateEpoch own s).troupes = s.troupes) := by
  unfold activateEpoch
  extract_lets img s1 s2 s3
  have h3 : PortKeeps s1 s3 :=
    (PortKeeps.foldl (fun s f => (PortKeeps.refl s).upd) _ s1).trans (.foldl (fun s p => .activatePort p s) _ s2)
  refine ⟨?_, ?_, ?_, fun quiet => ?_⟩
  · rw [finishImage_img, h3.img]
  · rw [finishImage_mem, h3.mem]
  · rw [finishImage_tiles, h3.tiles]
  · rw [finishImage_troupes, h3.troupes quiet]

section
variable (frame : Nat) (hlive : s.live = true)
include hlive

/-- R69: a request of another member of the span casts this package's vote. -/
theorem execEpochVoteOutcome_casts (go : Bool) (h : s.img.op = .idle) (hm : spanMember s = true) : execEpochVoteOutcome go frame s =
    .next { s with img := { s.img with op := .voting, votedGo := epochVote s } } := by
  rw [execEpochVoteOutcome, event_of_due _ _ _ hlive (by simp [h, hm]), if_pos h]

theorem execEpochVoteOutcome_go (h : s.img.op = .voting) (hv : s.img.votedGo = true) : execEpochVoteOutcome true frame s =
    .next { s with img := { s.img with
      op := .activating, frame := if (markPort s).isNone then s.frame + 16 else frame } } := by
  rw [execEpochVoteOutcome, event_of_due _ _ _ hlive (by simp [h]), if_neg (by simp [h]), if_pos (by simp [hv])]

theorem execEpochVoteOutcome_noGo (h : s.img.op = .voting) : execEpochVoteOutcome false frame s =
    .next (finishImage { code := 0x13 } s) := by
  rw [execEpochVoteOutcome, event_of_due _ _ _ hlive (by simp [h]), if_neg (by simp [h]), if_neg (by simp)]

end

/-- Settles O57: the commands, the end of a check, the switch, and the vote and activation of an epoch change. -/
theorem imagesLoadStageAndChangeEpoch : Obligations.ImagesLoadStageAndChangeEpoch := by
  intro s hlive hlantern
  have hcommand (c : Nat) : event s true (imgCommand c) = .next (imgCommand c s) := event_due s _ hlive
  refine ⟨fun hbusy c hc => ?_, fun hidle => ⟨?_, ?_, ?_, ?_⟩, fun bad kind hk => ⟨fun f hf => ?_, fun hf => ?_⟩,
    fun i hop hnext hmark hbypass hfree => ?_, fun frame go hidle hm => ?_, fun frame hop => ⟨fun hv => ?_, ?_⟩,
    fun i hop hstaged => ⟨fun hframe => ?_, fun hframe hmark => ?_⟩⟩
  · have hignored (n : Nat) := (hcommand n).trans (congrArg _ (imgCommand_busy n hlantern hbusy))
    simp only [List.mem_cons, List.not_mem_nil, or_false] at hc
    rcases hc with rfl | rfl | rfl | rfl
    · exact hignored 1
    · exact hignored 2
    · exact hignored 3
    · exact hignored 4
  · exact ⟨_, (hcommand 1).trans (congrArg _ (imgCommand_discard hlantern hidle)), rfl, rfl, rfl, rfl, rfl⟩
  · exact ⟨_, (hcommand 2).trans (congrArg _ (imgCommand_full hlantern hidle)), rfl, rfl, rfl, rfl⟩
  · exact ⟨_, (hcommand 3).trans (congrArg _ (imgCommand_partial hlantern hidle)), rfl, rfl, rfl, rfl⟩
  · exact ⟨_, (hcommand 4).trans (congrArg _ (imgCommand_epoch hlantern hidle)), rfl, rfl, rfl, epochVote_iff⟩
  · obtain ⟨mem, tiles, troupes, img⟩ := refuseImage_frame f (headerOf (s.bytes s.img.base 0x1000)) s
    refine ⟨_, execImageCheckComplete_refuses bad hlive hk hf, mem, tiles, troupes, ?_⟩
    rw [img]
    exact ⟨rfl, rfl, rfl, rfl, rfl, rfl⟩
  · have hend := execImageCheckComplete_accepts bad hlive hk hf
    rcases hk with ⟨-, rfl⟩ | ⟨-, rfl⟩
    · exact ⟨_, hend, rfl, rfl, rfl, fun _ => ⟨rfl, rfl, rfl⟩, fun h => absurd h (by decide)⟩
    · rw [show (2 == 1) = false from rfl, acceptImage_partial] at hend
      exact ⟨_, hend, finishImage_mem .., finishImage_tiles .., by rw [finishImage_img], fun h => absurd h (by decide),
        fun _ => by simp⟩
  · have hexec : exec .imageSwitch s = .next (switchImage i s) := by
      show execImageSwitch s = _
      rw [execImageSwitch, if_pos ⟨hop, hmark, hbypass⟩, hnext, Option.filter_some, if_pos (by rw [hfree]; rfl),
        eventOf_some _ _ _ hlive]
    obtain ⟨img, troupes, fences⟩ := switchImage_loads i hop
    have htroupe (tr : Nat) := tget_reloadAll (leaveSpan s).troupes tr
    rw [← troupes] at htroupe
    refine ⟨_, hexec, ?_⟩
    rw [img]
    refine ⟨rfl, rfl, rfl, rfl, rfl, rfl, rfl, rfl, rfl, fun tr => (htroupe tr).1, fences, fun tr => ?_⟩
    obtain ⟨-, faults, commits⟩ := htroupe tr
    obtain ⟨faults', commits'⟩ := CountsKept.leaveSpan s tr
    exact ⟨faults.trans faults', commits.trans commits'⟩
  · exact ⟨_, execEpochVoteOutcome_casts frame hlive go hidle hm, rfl, rfl, rfl, rfl, rfl⟩
  · exact ⟨_, execEpochVoteOutcome_go frame hlive hop hv, rfl, rfl, rfl, rfl⟩
  · refine ⟨_, execEpochVoteOutcome_noGo frame hlive hop, ?_⟩
    simp
  · show execEpochActivation s = _
    rw [execEpochActivation, if_neg fun h => hframe h.2.1, eventOf_none]
  · have hexec : exec .epochActivation s = .next (activateEpoch i s) := by
      show execEpochActivation s = _
      rw [execEpochActivation, if_pos ⟨hop, hframe, hmark⟩, hstaged, eventOf_some _ _ _ hlive]
    obtain ⟨img, mem, tiles, troupes⟩ := activateEpoch_loads i s
    refine ⟨_, hexec, ?_⟩
    rw [img]
    exact ⟨rfl, rfl, rfl, rfl, rfl, mem, tiles, troupes⟩

end Sys2Proof.Machine
end

section
/-! SUPPORT. The issue of words (R74, R101, R103): what the sequencer does with a word that its row may issue, and when the
judgement of the cycles that it reaches leaves the state alone. -/

namespace Sys2Proof.Machine

open Sys2Proof

/-! ### Tables set twice, and the banks of a mask -/

theorem tset_tset {α : Type} (t : Tbl α) (k : Nat) (v w : α) : tset (tset t k v) k w = tset t k w := by
  induction t with
  | nil => simp [tset]
  | cons p t ih =>
    obtain ⟨a, b⟩ := p
    by_cases hlt : k < a
    · simp [tset, hlt]
    · by_cases heq : k = a
      · simp [tset, heq]
      · simp [tset, hlt, heq, ih]

theorem tget_foldl_tset {α : Type} (d v : α) (ks : List Nat) (t : Tbl α) (j : Nat) :
    tget d (ks.foldl (fun m k => tset m k v) t) j = if j ∈ ks then v else tget d t j := by
  induction ks generalizing t with
  | nil => simp
  | cons k ks ih =>
    rw [List.foldl_cons, ih, tget_tset]
    by_cases hm : j ∈ ks <;> by_cases hk : j = k <;> simp [hm, hk]

theorem mem_bitsSet (n p v b : Nat) : b ∈ bitsSet n p v ↔ p ≤ b ∧ b < p + n ∧ v.testBit (b - p) = true := by
  induction n generalizing p v with
  | zero => simp only [bitsSet, List.not_mem_nil, false_iff]; omega
  | succ n ih =>
    simp only [bitsSet, List.mem_append, ih, Nat.testBit_div_two]
    by_cases hb : b = p
    · subst hb
      by_cases ho : v % 2 = 1 <;> simp [ho, Nat.testBit_zero]
    · have hs : (b ∈ if v % 2 = 1 then [p] else []) ↔ False := by split <;> simp [hb]
      rw [hs, false_or]
      constructor
      · rintro ⟨hle, hlt, ht⟩
        exact ⟨by omega, by omega, by rwa [show b - p = b - (p + 1) + 1 by omega]⟩
      · rintro ⟨hle, hlt, ht⟩
        exact ⟨by omega, by omega, by rwa [show b - (p + 1) + 1 = b - p by omega]⟩

theorem tget_setWindows (ws : Tbl (Option Nat)) (banks b : Nat) (p : Option Nat) :
    tget none (setWindows ws banks p) b = if b < 32 ∧ banks.testBit b = true then p else tget none ws b := by
  unfold setWindows
  rw [tget_foldl_tset]
  simp only [mem_bitsSet, Nat.zero_le, true_and, Nat.zero_add, Nat.sub_zero]

/-- Only what the change makes of the tile as it stands counts. -/
theorem State.modTile_congr {s : State} {t : Nat} {f g : Tile → Tile} (h : f (s.tile t) = g (s.tile t)) :
    s.modTile t f = s.modTile t g :=
  congrArg (fun y => ({ s with tiles := tset s.tiles t y } : State)) h

theorem State.modTile_modTile (s : State) (t : Nat) (f g : Tile → Tile) :
    (s.modTile t f).modTile t g = s.modTile t fun x => g (f x) := by
  show ({ s with tiles := tset (tset s.tiles t (f (s.tile t))) t (g ((s.modTile t f).tile t)) } : State) = _
  rw [tset_tset, State.tile_modTile_same]
  rfl

/-! ### When a word may issue -/

section
variable {s : State} {t op : Nat}

theorem issues_iff : s.issues t op = true ↔
    s.live = true ∧ (s.tile t).canIssue = true ∧ (s.tile t).pcOk = true ∧ opcodeOf (s.tile t).word = op := by
  simp [State.issues, and_assoc]

/-- The sequencer moves past a word as the statements put it (R109). -/
theorem Tile.advance_eq_beyond (x : Tile) (n : Nat) : x.advance n = x.beyond n := by
  simp only [Tile.advance, Tile.beyond, Tile.setLoops]
  by_cases h : (nextPc x.pc x.loops).2 = x.loops <;> simp [h]

theorem Tile.push_eq_queued (x : Tile) (u : Nat) : x.push u = x.queued u := by
  unfold Tile.push
  rw [Tile.advance_eq_beyond]
  rfl

end

/-! ### The judgement of the cycles reached (R88) -/

/-- Tile t is listed in the table of tiles, so that writing it as it reads changes nothing. -/
def TileListed (t : Nat) (s : State) : Prop := tset s.tiles t (s.tile t) = s.tiles

theorem TileListed.modTile (t : Nat) (f : Tile → Tile) (s : State) : TileListed t (s.modTile t f) := by
  unfold TileListed
  rw [State.tile_modTile_same]
  exact tset_tset _ _ _ _

theorem TileListed.modTile_self {t : Nat} {s : State} (h : TileListed t s) {f : Tile → Tile} (hf : f (s.tile t) = s.tile t) :
    s.modTile t f = s := by
  have : tset s.tiles t (f (s.tile t)) = s.tiles := by rw [hf]; exact h
  show { s with tiles := tset s.tiles t (f (s.tile t)) } = s
  rw [this]

/-- Where the cycles reached hold no violation, nothing is raised. -/
theorem judgeOn_unbroken {t lo : Nat} {s : State} (h : s.unbroken t lo) (hl : TileListed t s) : judgeOn t lo s = s := by
  obtain ⟨huses, hdues⟩ := h
  have hnow : (s.tile t).dues.filter (fun b => decide (b.cycle ≤ (s.tile t).knownTo)) = [] := by
    simpa using hdues
  have hlater : (s.tile t).dues.filter (fun b => decide ((s.tile t).knownTo < b.cycle)) = (s.tile t).dues := by
    simpa using hdues
  unfold judgeOn judge
  split
  · rfl
  · simp only [huses, raiseBreaches, List.insertionSort_nil, List.foldl_nil, raiseDues, List.append_nil, hnow]
    exact hl.modTile_self (by rw [hlater])

/-! ### What the sequencer does with a word (R74, R103) -/

section
variable {s : State} {t op : Nat} {wf : Tile → Nat → Bool} {act : Nat → State → State}

theorem issues_selects (hi : s.issues t op = true) : (opcodeOf (s.tile t).word == op) = true := by
  simpa using (issues_iff.1 hi).2.2.2

/-- A word for a full queue holds issue (R74). -/
theorem issueWord_holds {u : Nat} (hi : s.issues t op = true) (hf : (s.tile t).full u = true) :
    issueWord t (fun w => opcodeOf w == op) (some u) wf act s = .next (s.modTile t fun x => { x with held := some u }) := by
  obtain ⟨hlive, hcan, hpc, -⟩ := issues_iff.1 hi
  simp [issueWord, event, hlive, hcan, hpc, issues_selects hi, hf]

/-- A well-formed word with room in its unit's queue acts (R101). -/
theorem issueWord_acts {u : Nat} (hi : s.issues t op = true) (hf : (s.tile t).full u = false)
    (hok : wf (s.tile t) (s.tile t).word = true) :
    issueWord t (fun w => opcodeOf w == op) (some u) wf act s =
      .next (judgeOn t (s.tile t).cycle (act (s.tile t).word s)) := by
  obtain ⟨hlive, hcan, hpc, -⟩ := issues_iff.1 hi
  simp [issueWord, event, hlive, hcan, hpc, issues_selects hi, hf, hok]

/-- A malformed word with room in its unit's queue halts the sequencer (R103). -/
theorem issueWord_refuses {u : Nat} (hi : s.issues t op = true) (hf : (s.tile t).full u = false)
    (hok : wf (s.tile t) (s.tile t).word = false) :
    issueWord t (fun w => opcodeOf w == op) (some u) wf act s = .next (encodingFault t s) := by
  obtain ⟨hlive, hcan, hpc, -⟩ := issues_iff.1 hi
  simp [issueWord, event, hlive, hcan, hpc, issues_selects hi, hf, hok]

/-- A well-formed word of the sequencer's own acts, where no chain is open (R189). -/
theorem issueWord_control_acts (hi : s.issues t op = true) (hc : (s.tile t).vec.chain = [])
    (hok : wf (s.tile t) (s.tile t).word = true) :
    issueWord t (fun w => opcodeOf w == op) none wf act s =
      .next (judgeOn t (s.tile t).cycle (act (s.tile t).word s)) := by
  obtain ⟨hlive, hcan, hpc, -⟩ := issues_iff.1 hi
  simp [issueWord, event, hlive, hcan, hpc, issues_selects hi, breaksChain, hc, hok]

/-- A word of the sequencer's own that is malformed, or that meets an open chain, halts the sequencer (R103, R189). -/
theorem issueWord_control_refuses (hi : s.issues t op = true)
    (hbad : breaksChain (s.tile t) (s.tile t).word = true ∨ wf (s.tile t) (s.tile t).word = false) :
    issueWord t (fun w => opcodeOf w == op) none wf act s = .next (encodingFault t s) := by
  obtain ⟨hlive, hcan, hpc, -⟩ := issues_iff.1 hi
  rcases hbad with h | h <;> simp [issueWord, event, hlive, hcan, hpc, issues_selects hi, h]

/-- A well-formed word that its unit's queue takes and nothing else. -/
theorem issueWord_pushes {u : Nat} (hi : s.issues t op = true) (hf : (s.tile t).full u = false)
    (hok : wf (s.tile t) (s.tile t).word = true) :
    issueWord t (fun w => opcodeOf w == op) (some u) wf (pushTo t u) s =
      .next (judgeOn t (s.tile t).cycle (s.modTile t fun _ => (s.tile t).queued u)) := by
  rw [issueWord_acts hi hf hok, ← Tile.push_eq_queued]
  rfl

end

/-! ### The control words (O8) -/

theorem breaksChain_of_chain {x : Tile} {w : Nat} (ho : opcodeOf w / 16 = 0) (hc : x.vec.chain ≠ []) :
    breaksChain x w = true := by
  simp [breaksChain, ho, hc]

/-- The innermost loop index at a level, once a loop has opened. -/
theorem loopIndex_opened (l : Loop) (ls : List Loop) (level : Nat) (h0 : l.index = 0) :
    loopIndex (l :: ls) level = if level = l.level then 0 else loopIndex ls level := by
  unfold loopIndex
  by_cases h : level = l.level
  · simp [h, h0]
  · rw [List.find?_cons_of_neg (by simpa using fun e => h e.symm), if_neg h]

theorem setLoops_open (x : Tile) (l : Loop) : x.setLoops (l :: x.loops) =
    { x with loops := l :: x.loops, idxLog := (x.cycle + 1, (List.range 4).map (loopIndex (l :: x.loops))) :: x.idxLog } :=
  if_neg fun h => by simpa using congrArg List.length h

/-- A window word's entry at the head of the log: its banks stand open or closed from its cycle on (R83). -/
theorem windowAt_logged {x y : Tile} {banks c b cycle : Nat} {isOpen : Bool} (h : y.winLog = (banks, isOpen, c + 1) :: x.winLog) :
    y.windowAt b cycle = if c < cycle ∧ banks.testBit b = true then isOpen else x.windowAt b cycle := by
  unfold Tile.windowAt
  rw [h]
  by_cases hb : c < cycle ∧ banks.testBit b = true
  · rw [List.find?_cons_of_pos (by simpa [Nat.succ_le_iff] using hb), if_pos hb]
  · rw [List.find?_cons_of_neg (by simpa [Nat.succ_le_iff] using hb), if_neg hb]

/-- Settles O4: every field of the state after reset holds its default. -/
theorem resetValues : Obligations.ResetValues :=
  ⟨rfl, rfl, rfl, rfl, fun _ => ⟨rfl, rfl, rfl⟩, fun _ => ⟨rfl, rfl, rfl⟩, fun _ => rfl, fun _ => rfl, fun _ => rfl, rfl, rfl, rfl⟩

/-- Settles O8: one case for each control word. -/
theorem controlWordsIssue : Obligations.ControlWordsIssue := by
  unfold Obligations.ControlWordsIssue
  intro t s
  extract_lets x w goes
  refine ⟨fun hc => ⟨fun hi hok => ?_, fun hi hok hn => ?_, fun hi hok => ?_, fun hi hok h7 h9 => ?_, fun hi hok => ?_,
    fun hi hok hl => ?_⟩, fun y lo h => judgeOn_unbroken h (.modTile _ _ _)⟩
  · show execCtNop t s = _
    obtain ⟨hlive, hcan, hpc, hw⟩ := issues_iff.1 hi
    have hrow : noRow (s.tile t).word = false := by simp [noRow, hw, opcodeInForce]
    rw [← Tile.advance_eq_beyond]
    simp only [execCtNop, hcan, hpc, hw, hrow, breaksChain, show (s.tile t).vec.chain = [] from hc,
      show reservedClear (s.tile t).word [] = true from hok]
    exact event_of_due _ _ _ hlive rfl
  · show execCtIdle t s = _
    unfold execCtIdle
    rw [issueWord_control_acts hi hc (by simpa using ⟨hok, hn⟩), ← Tile.advance_eq_beyond]
    rfl
  · show execCtLoop t s = _
    unfold execCtLoop
    rw [issueWord_control_acts hi hc hok]
    have hidx (l : Loop) (h0 : l.index = 0) (ls : List Loop) : (List.range 4).map (loopIndex (l :: ls)) =
        (List.range 4).map fun k => if k = l.level then 0 else loopIndex ls k :=
      List.map_congr_left fun k _ => loopIndex_opened l ls k h0
    simp only [setLoops_open, hidx]
    rfl
  · refine ⟨{ x with windows := setWindows x.windows (fld w 8 32) (some (fld w 40 4))
                     winLog := (fld w 8 32, true, x.cycle + 1) :: x.winLog }.beyond 1, ?_,
      rfl, fun b c => windowAt_logged rfl, fun b => tget_setWindows _ _ _ _⟩
    show execCtOpen t s = _
    unfold execCtOpen
    rw [issueWord_control_acts hi hc (by simpa using ⟨⟨hok, h7⟩, h9⟩), ← Tile.advance_eq_beyond]
    rfl
  · refine ⟨{ x with windows := setWindows x.windows (fld w 8 32) none
                     winLog := (fld w 8 32, false, x.cycle + 1) :: x.winLog }.beyond 1, ?_,
      rfl, fun b c => windowAt_logged rfl, fun b => tget_setWindows _ _ _ _⟩
    show execCtClose t s = _
    unfold execCtClose
    rw [issueWord_control_acts hi hc (by exact hok), ← Tile.advance_eq_beyond]
    rfl
  · show execCtEnd t s = _
    unfold execCtEnd
    rw [issueWord_control_acts hi hc (by simpa using ⟨hok, hl⟩)]
    rfl

end Sys2Proof.Machine
end

section
/-! SUPPORT. Words that a unit's queue takes (O9, O10), and a queue that is full (O14). -/

namespace Sys2Proof.Machine

open Sys2Proof

section
variable {s : State} {t op u : Nat} {wf : Tile → Nat → Bool}

/-- What the statements say of a word that its unit's queue takes: it is queued, and where the cycles reached hold no
violation nothing else changes. -/
theorem pushed_unbroken {r : Host.Outcome State Fault Refusal} {y : Tile} {lo : Nat}
    (h : r = .next (judgeOn t lo (s.modTile t fun _ => y))) :
    r = .next (judgeOn t lo (s.modTile t fun _ => y)) ∧
    ((s.modTile t fun _ => y).unbroken t lo → r = .next (s.modTile t fun _ => y)) :=
  ⟨h, fun hu => by rw [h, judgeOn_unbroken hu (.modTile _ _ _)]⟩

end

/-- Settles O9: every row is a word that its unit's queue takes and nothing else. -/
theorem unitWordsEnterTheirQueues : Obligations.UnitWordsEnterTheirQueues := by
  unfold Obligations.UnitWordsEnterTheirQueues
  intro t s
  extract_lets x w mover takes
  refine ⟨fun hi hf hok => ?_, fun hi hf hok => ?_, fun hi hf hok => ?_, fun hi hf hok => ?_, fun hi hf hok => ?_,
    fun hi hf hok => ?_, fun hi hf hok => ?_, fun hi hf hok => ?_, fun hi hf hok => ?_, fun hi hf hok => ?_,
    fun hi hf hok => ?_⟩
  · exact pushed_unbroken (show execTkSignal t s = _ from issueWord_pushes hi hf (by simpa using hok))
  · exact pushed_unbroken (show execStArrive t s = _ from issueWord_pushes hi hf (by exact hok))
  · exact pushed_unbroken (show execMvLd t s = _ from issueWord_pushes hi hf (by exact hok))
  · exact pushed_unbroken (show execMvSt t s = _ from issueWord_pushes hi hf (by exact hok))
  · exact pushed_unbroken (show execMvCp t s = _ from issueWord_pushes hi hf (by exact hok))
  · exact pushed_unbroken (show execMmDrain t s = _ from issueWord_pushes hi hf (by exact hok))
  · exact pushed_unbroken (show execGtArm t s = _ from issueWord_pushes hi hf (by exact hok))
  · exact pushed_unbroken (show execGtFire t s = _ from issueWord_pushes hi hf (by exact hok))
  · exact pushed_unbroken (show execLgRec t s = _ from issueWord_pushes hi hf (by exact hok))
  · exact pushed_unbroken (show execLgMark t s = _ from issueWord_pushes hi hf (by exact hok))
  · exact pushed_unbroken (show execLgClr t s = _ from issueWord_pushes hi hf (by exact hok))

/-- Settles O10: the two words that also record a format. -/
theorem accumulateAndFillWordsIssue : Obligations.AccumulateAndFillWordsIssue := by
  unfold Obligations.AccumulateAndFillWordsIssue
  intro t s
  extract_lets x w
  refine ⟨fun hi hf hok => ⟨tset x.accKind (fld w 8 1) (kindOf (descAt x.imem (fld w 16 12)).format), ?_,
    tget_tset_same _ _ _ _, fun b hb => tget_tset_ne _ _ _ _ _ hb⟩, fun hi hf hok h95 hd hw hg => ?_⟩
  · show execMmAcc t s = _
    unfold execMmAcc
    rw [issueWord_acts hi hf hok, ← Tile.push_eq_queued]
    rfl
  · show execGtFill t s = _
    unfold execGtFill
    rw [issueWord_acts hi hf (by simpa using ⟨⟨⟨⟨hok, h95⟩, hd⟩, hw⟩, hg⟩)]
    simp only [Tile.push_eq_queued]
    rfl

/-- Settles O14: a word for a full queue waits at its row; ISSUE_RESUME ends the hold. -/
theorem fullQueueHoldsIssueUntilAStart : Obligations.FullQueueHoldsIssueUntilAStart := by
  unfold Obligations.FullQueueHoldsIssueUntilAStart
  refine ⟨fun t s c hc hi hf => ?_, fun t s u hlive hheld hstate hroom => ?_⟩
  · simp only [List.mem_cons, List.not_mem_nil, or_false] at hc
    rcases hc with rfl | rfl | rfl | rfl | rfl | rfl | rfl | rfl | rfl | rfl | rfl | rfl | rfl | rfl | rfl | rfl
    · exact show execTkSignal t s = _ from issueWord_holds hi hf
    · exact show execStArrive t s = _ from issueWord_holds hi hf
    · exact show execStSync t s = _ from issueWord_holds hi hf
    · exact show execStRed t s = _ from issueWord_holds hi hf
    · exact show execStVote t s = _ from issueWord_holds hi hf
    · exact show execMvLd t s = _ from issueWord_holds hi hf
    · exact show execMvSt t s = _ from issueWord_holds hi hf
    · exact show execMvCp t s = _ from issueWord_holds hi hf
    · exact show execMmAcc t s = _ from issueWord_holds hi hf
    · exact show execMmDrain t s = _ from issueWord_holds hi hf
    · exact show execGtArm t s = _ from issueWord_holds hi hf
    · exact show execGtFill t s = _ from issueWord_holds hi hf
    · exact show execGtFire t s = _ from issueWord_holds hi hf
    · exact show execLgRec t s = _ from issueWord_holds hi hf
    · exact show execLgMark t s = _ from issueWord_holds hi hf
    · exact show execLgClr t s = _ from issueWord_holds hi hf
  · refine pushed_unbroken (s := s) ?_
    show execIssueResume t s = _
    unfold execIssueResume
    rw [event_of_due _ _ _ hlive (by simp [hheld, hstate, hroom, queueDepth])]
    exact congrArg (fun r => Host.Outcome.next (judgeOn t (s.tile t).cycle r)) (State.modTile_congr (by rw [hheld]; rfl))

end Sys2Proof.Machine
end

section
/-! SUPPORT. Contract faults (R88 to R91): the abort that one begins in a running troupe, and what it leaves alone. Malformed
words (O13). -/

namespace Sys2Proof.Machine

open Sys2Proof

variable {s : State}

/-! ### A fault of a running troupe -/

/-- In r the scene of troupe tr, which was running in s, aborts for a fault of a unit (R90, R91). -/
def AbortsFor (tr unit code : Nat) (s r : State) : Prop :=
  (r.troupe tr).state = 2 ∧ (r.troupe tr).faultCode = code ∧ (r.troupe tr).faultUnit = unit ∧
  (r.troupe tr).faultCount = min ((s.troupe tr).faultCount + 1) 0xFF

theorem beginAbort_troupe {tr : Nat} (h : (s.troupe tr).state = 1) : (beginAbort tr s).troupe tr =
    { s.troupe tr with state := 2, noticed := [], abortAt := s.time.span, auditing := false } := by
  rw [beginAbort, if_pos h, State.troupe, evtSend_troupes]
  exact State.troupe_modTroupe_same _ _ _

theorem contractFaultAt_aborts {tr : Nat} (at_ die unit code addr info0 : Nat) (h : (s.troupe tr).state = 1) (htr : tr < 16) :
    AbortsFor tr unit code s (contractFaultAt at_ die tr unit code addr info0 s) := by
  unfold contractFaultAt
  extract_lets sid s1
  have hs1 : s1.troupe tr = { s.troupe tr with
      faultCount := satAdd 8 (s.troupe tr).faultCount 1, faultCode := code, faultUnit := unit, faultAt := at_, faulted := true } := by
    refine (State.troupe_modTroupe_same _ _ _).trans ?_
    simp [Troupe.reports, h]
  obtain ⟨q, ⟨e, k, rfl⟩, acts⟩ := formRecord_acts s1 die
    { cls := 1, severity := sevDeferred, unit := unit, code := code, troupe := tr, sceneId := sid, addr := addr, info0 := info0 }
  rw [acts, if_pos rfl, if_neg (show tr ≠ 0xFF by omega)]
  have hq : (({ s1 with err := e, host := k } : State).troupe tr).state = 1 := (congrArg Troupe.state hs1).trans h
  unfold AbortsFor
  rw [beginAbort_troupe hq]
  exact ⟨rfl, congrArg Troupe.faultCode hs1, congrArg Troupe.faultUnit hs1, congrArg Troupe.faultCount hs1⟩

theorem unitFault_aborts {u tr : Nat} (code addr info0 : Nat) (hu : s.image.unitTroupe u = some tr)
    (h : (s.troupe tr).state = 1) (htr : tr < 16) : AbortsFor tr u code s (unitFault u code addr info0 s) := by
  unfold unitFault
  rw [hu]
  exact contractFaultAt_aborts _ _ _ _ _ _ h htr

/-! ### A fault of a command of a tile -/

/-- The first fault of its code that a command of a tile raises (R90). -/
theorem tileFaultAt_first {t tr seq code : Nat} (cycle addr info0 : Nat) (hu : s.image.unitTroupe t = some tr)
    (hr : (seq, code) ∉ (s.tile t).raised) : tileFaultAt t cycle seq addr code info0 s =
      contractFaultAt ((s.tile t).startCmp + cycle) (unitDie t) tr t code addr info0
        (s.modTile t fun x => { x with raised := x.raised ++ [(seq, code)] }) := by
  unfold tileFaultAt
  rw [if_neg (by simpa using hr)]
  simp only [State.tile_modTile_same, show (s.modTile t fun x => { x with raised := x.raised ++ [(seq, code)] }).image.unitTroupe t =
    some tr from hu]

theorem contractFaultAt_tile (at_ die tr unit code addr info0 t : Nat) :
    (contractFaultAt at_ die tr unit code addr info0 s).tile t = s.tile t := by
  obtain ⟨e, h, ts, b, k⟩ := contractFaultAt_frame s at_ die tr unit code addr info0
  rw [k]
  rfl

theorem tileFaultAt_aborts {t tr seq code : Nat} (cycle addr info0 : Nat) (hu : s.image.unitTroupe t = some tr)
    (h : (s.troupe tr).state = 1) (htr : tr < 16) (hr : (seq, code) ∉ (s.tile t).raised) :
    AbortsFor tr t code s (tileFaultAt t cycle seq addr code info0 s) := by
  rw [tileFaultAt_first cycle addr info0 hu hr]
  exact contractFaultAt_aborts _ _ _ _ _ _ h htr

theorem tileFaultAt_raised {t tr seq code : Nat} (cycle addr info0 : Nat) (hu : s.image.unitTroupe t = some tr)
    (hr : (seq, code) ∉ (s.tile t).raised) : (tileFaultAt t cycle seq addr code info0 s).tile t =
      { s.tile t with raised := (s.tile t).raised ++ [(seq, code)] } := by
  rw [tileFaultAt_first cycle addr info0 hu hr, contractFaultAt_tile, State.tile_modTile_same]

/-! ### What a violation on a tile leaves alone -/

/-- r is s but for violations of tile t: what it has raised and what is due on it, the records, the interrupt files, the
troupes that abort and the reset that is owed. -/
def OnlyBreaches (t : Nat) (s r : State) : Prop :=
  (∃ ts e h tr b, r = { s with tiles := ts, err := e, host := h, troupes := tr, boot := b }) ∧
  (∀ u, u ≠ t → r.tile u = s.tile u) ∧ ∃ d k, r.tile t = { s.tile t with dues := d, raised := k }

namespace OnlyBreaches

variable {t : Nat}

theorem refl (t : Nat) (s : State) : OnlyBreaches t s s :=
  ⟨⟨s.tiles, s.err, s.host, s.troupes, s.boot, rfl⟩, fun _ _ => rfl, _, _, rfl⟩

theorem trans {s r q : State} (h : OnlyBreaches t s r) (k : OnlyBreaches t r q) : OnlyBreaches t s q := by
  obtain ⟨⟨_, _, _, _, _, rfl⟩, hu, d, l, ht⟩ := h
  obtain ⟨⟨ts, e, x, tr, b, rfl⟩, ku, d', l', kt⟩ := k
  exact ⟨⟨ts, e, x, tr, b, rfl⟩, fun u n => (ku u n).trans (hu u n), d', l', by rw [kt, ht]⟩

theorem foldl {α : Type} {f : State → α → State} (h : ∀ s a, OnlyBreaches t s (f s a)) (l : List α) (s : State) :
    OnlyBreaches t s (l.foldl f s) :=
  List.foldlRecOn (motive := OnlyBreaches t s) _ _ (refl t s) fun _ k a _ => k.trans (h _ a)

theorem modTile {f : Tile → Tile} {d : List Breach} {k : List (Nat × Nat)}
    (h : f (s.tile t) = { s.tile t with dues := d, raised := k }) : OnlyBreaches t s (s.modTile t f) :=
  ⟨⟨_, s.err, s.host, s.troupes, s.boot, rfl⟩, fun u n => State.tile_modTile_ne s t f u n, d, k,
    (State.tile_modTile_same s t f).trans h⟩

theorem tileFaultAt (t cycle seq addr code info0 : Nat) (s : State) :
    OnlyBreaches t s (Machine.tileFaultAt t cycle seq addr code info0 s) := by
  unfold Machine.tileFaultAt
  split
  · exact refl t s
  · extract_lets s1
    have h1 : OnlyBreaches t s s1 := modTile (d := (s.tile t).dues) rfl
    split
    · refine h1.trans ?_
      obtain ⟨e, h, tr, b, k⟩ := contractFaultAt_frame s1 ((s1.tile t).startCmp + cycle) (unitDie t) _ t code addr info0
      rw [k]
      exact ⟨⟨s1.tiles, e, h, tr, b, rfl⟩, fun _ _ => rfl, _, _, rfl⟩
    · exact h1

theorem raiseBreaches (t : Nat) (bs : List Breach) (s : State) : OnlyBreaches t s (Machine.raiseBreaches t bs s) :=
  foldl (fun s (b : Breach) => tileFaultAt t b.cycle b.seq b.addr b.code b.info0 s) _ s

theorem raiseDues (t : Nat) (bs : List Breach) (s : State) : OnlyBreaches t s (Machine.raiseDues t bs s) :=
  trans (modTile (k := (s.tile t).raised) rfl) (raiseBreaches t _ _)

theorem judge (t lo hi : Nat) (s : State) : OnlyBreaches t s (Machine.judge t lo hi s) := by
  unfold Machine.judge
  split
  · exact refl t s
  · exact (raiseBreaches t _ s).trans (raiseDues t _ _)

theorem judgeOn (t lo : Nat) (s : State) : OnlyBreaches t s (Machine.judgeOn t lo s) := judge t lo _ s

/-- A part of the state that no violation touches. -/
theorem eq {α : Type} {r : State} (h : OnlyBreaches t s r) (f : State → α)
    (hf : ∀ ts e h tr b, f { s with tiles := ts, err := e, host := h, troupes := tr, boot := b } = f s) : f r = f s := by
  obtain ⟨⟨ts, e, x, tr, b, rfl⟩, -, -⟩ := h
  exact hf ts e x tr b

/-- A part of the tile that no violation touches. -/
theorem tile_eq {α : Type} {r : State} (h : OnlyBreaches t s r) (f : Tile → α)
    (hf : ∀ d k, f { s.tile t with dues := d, raised := k } = f (s.tile t)) : f (r.tile t) = f (s.tile t) := by
  obtain ⟨-, -, d, k, e⟩ := h
  rw [e]
  exact hf d k

end OnlyBreaches

/-! ### Malformed words (O13) -/

/-- A malformed word halts the sequencer at it, and its running troupe begins to abort (R90, R103). -/
theorem encodingFault_halts {t tr : Nat} (hu : s.image.unitTroupe t = some tr) (htr : tr < 16) (h : (s.troupe tr).state = 1)
    (hr : ((s.tile t).nextSeq, 0x0E) ∉ (s.tile t).raised) :
    let r := encodingFault t s
    (r.tile t) = { s.tile t with halted := true, raised := (s.tile t).raised ++ [((s.tile t).nextSeq, 0x0E)] } ∧
    (∀ u, u ≠ t → r.tile u = s.tile u) ∧ AbortsFor tr t 0x0E s r ∧ r.mem = s.mem ∧ r.waits = s.waits ∧ r.str = s.str := by
  intro r
  have hf := OnlyBreaches.tileFaultAt t (s.tile t).cycle (s.tile t).nextSeq (s.tile t).pc fcEncoding 0 s
  refine ⟨?_, fun u hn => (State.tile_modTile_ne _ _ _ u hn).trans (hf.2.1 u hn),
    tileFaultAt_aborts _ _ _ hu h htr hr, hf.eq State.mem fun _ _ _ _ _ => rfl, hf.eq State.waits fun _ _ _ _ _ => rfl,
    hf.eq State.str fun _ _ _ _ _ => rfl⟩
  exact (State.tile_modTile_same _ _ _).trans
    (congrArg (fun y : Tile => { y with halted := true }) (tileFaultAt_raised _ _ _ hu hr))

/-- A malformed VX word of its row halts the sequencer, be it a ninth link or one for which the queue has room (R103, R189). -/
theorem issueVx_refuses {t op : Nat} {f : Nat → Bool} (hi : s.issues t op = true) (hsel : f (fld (s.tile t).word 8 8) = true)
    (hf : (s.tile t).full 1 = false) (hok : vxOk (s.tile t) (s.tile t).word = false) :
    issueVx t op f s = .next (encodingFault t s) := by
  obtain ⟨hlive, hcan, hpc, -⟩ := issues_iff.1 hi
  have hrow : f (vxOf (s.tile t).word).func = true := hsel
  by_cases hlen : (s.tile t).vec.chain.length < 8 <;>
    simp [issueVx, issueWord, event, hlive, hcan, hpc, issues_selects hi, hrow, hlen, hf, hok]

/-- Settles O13: each word is one that its row refuses. -/
theorem malformedWordsHaltTheSequencer : Obligations.MalformedWordsHaltTheSequencer := by
  unfold Obligations.MalformedWordsHaltTheSequencer
  intro t s tr
  extract_lets x w halts
  intro hu htr hrun hr
  have hhalt {c : Instr} (hc : exec c s = .next (encodingFault t s)) : halts c := by
    obtain ⟨htile, hothers, ⟨hstate, hcode, hunit, hcount⟩, hmem, hwaits, hstr⟩ := encodingFault_halts hu htr hrun hr
    exact ⟨_, hc, htile, hothers, hstate, hcode, hunit, hcount, hmem, hwaits, hstr⟩
  have hnop {op : Nat} (hi : s.issues t op = true) (hsel : op = 0x00 ∨ noRow w = true)
      (hbad : noRow w = true ∨ breaksChain x w = true) : halts (.ctNop t) := by
    obtain ⟨hlive, hcan, hpc, hw⟩ := issues_iff.1 hi
    refine hhalt (show execCtNop t s = _ from ?_)
    have hdue : ((s.tile t).canIssue && (!(s.tile t).pcOk || opcodeOf (s.tile t).word == 0x00 || noRow (s.tile t).word)) = true := by
      rcases hsel with h | h
      · simp [hcan, hw, h]
      · simp [hcan, show noRow (s.tile t).word = true from h]
    unfold execCtNop
    rw [event_of_due _ _ _ hlive hdue, if_pos (by rcases hbad with h | h <;> simp [w, x] at h <;> simp [h])]
  refine ⟨fun hi hop => ?_, fun hi hc => ?_, fun hi hc => ?_, fun hi hok => ?_, fun hi hl => ?_, fun hi hf hok => ?_,
    fun hi hf hok => ?_, fun hi h8 hf hok => ?_⟩
  · have hrow : noRow w = true := by simp [noRow, hop]
    exact hnop hi (.inr hrow) (.inl hrow)
  · exact hnop hi (.inl rfl) (.inr (breaksChain_of_chain (by rw [(issues_iff.1 hi).2.2.2]) hc))
  · exact hhalt (show execCtIdle t s = _ from issueWord_control_refuses hi
      (.inl (breaksChain_of_chain (by rw [(issues_iff.1 hi).2.2.2]) hc)))
  · exact hhalt (show execCtLoop t s = _ from issueWord_control_refuses hi (.inr hok))
  · exact hhalt (show execCtEnd t s = _ from issueWord_control_refuses hi (.inr (by simp [x] at hl; simp [hl])))
  · exact hhalt (show execMvLd t s = _ from issueWord_refuses hi hf hok)
  · exact hhalt (show execMmAcc t s = _ from issueWord_refuses hi hf hok)
  · exact hhalt (show execVxAdd t s = _ from issueVx_refuses hi (by simpa using h8) hf hok)

end Sys2Proof.Machine
end

section
/-! SUPPORT. The words that block a tile (O12), and the release of a wait whose channel already holds its count. -/

namespace Sys2Proof.Machine

open Sys2Proof

variable {s : State}

/-! ### Visible signals (R76) -/

theorem visible_all {f : Nat × Nat × Nat → Nat} {l : List (Nat × Nat × Nat)} {c : Nat} (h : ∀ e ∈ l, f e ≤ c) :
    visible f l c = (l.map fun e => e.1).sum := by
  unfold visible
  rw [List.filter_eq_self.2 (by simpa using h)]

/-- Where all that is counted is visible by a cycle and reaches k, k is visible by that cycle. -/
theorem firstVisible_le {f : Nat × Nat × Nat → Nat} {l : List (Nat × Nat × Nat)} {k c : Nat} (h : ∀ e ∈ l, f e ≤ c)
    (hk : k ≠ 0) (hs : k ≤ (l.map fun e => e.1).sum) : ∃ m, firstVisible f l k = some m ∧ m ≤ c := by
  unfold firstVisible
  have hne : l.map f ≠ [] := by
    rw [ne_eq, List.map_eq_nil_iff]
    rintro rfl
    exact hk (by simpa using hs)
  obtain ⟨top, hmax⟩ := Option.isSome_iff_exists.1 (List.isSome_max?_of_ne_nil hne)
  obtain ⟨hmem, htop⟩ := List.max?_eq_some_iff.1 hmax
  have hin : top ∈ (l.map f).filter fun c => decide (k ≤ visible f l c) := by
    rw [List.mem_filter]
    exact ⟨hmem, by rw [visible_all fun e he => htop _ (List.mem_map_of_mem he)]; simpa using hs⟩
  obtain ⟨m, hm⟩ := Option.isSome_iff_exists.1 (List.isSome_min?_of_mem hin)
  obtain ⟨hmin, -⟩ := List.min?_eq_some_iff.1 hm
  obtain ⟨e, he, rfl⟩ := List.mem_map.1 (List.mem_of_mem_filter hmin)
  exact ⟨_, hm, h e he⟩

/-- A count that is complete before the wait is issued lets it go at once. -/
theorem inBounds_at_issue {l : List (Nat × Nat × Nat)} {k c : Nat} (h : ∀ e ∈ l, e.2.1 ≤ c ∧ e.2.2 ≤ c) (hk : k ≠ 0)
    (hs : k ≤ (l.map fun e => e.1).sum) : inBounds l k c c = true := by
  obtain ⟨lo, hlo, hlec⟩ := firstVisible_le (f := fun e => e.2.1) (fun e he => (h e he).1) hk hs
  obtain ⟨hi, hhi, -⟩ := firstVisible_le (f := fun e => e.2.2) (fun e he => (h e he).2) hk hs
  unfold inBounds
  rw [hlo, hhi]
  simp [hlec]

/-! ### A tile without commands -/

theorem settled_of_idle {x : Tile} (hs : x.state ≠ tsIssue) (hu : x.units = []) (c : Nat) : x.settled c = true := by
  have hq (u : Nat) : x.unit u = {} := by simp [Tile.unit, hu]
  have hh (u : Nat) : x.headStart u = none := by
    simp [Tile.headStart, hq, firstChain]
  simp [Tile.settled, Tile.reached, Tile.canIssue, hs, hh]

theorem caughtUp_of_idle {x : Tile} (hu : x.units = []) (hf : x.gate.fills = []) (c : Nat) : x.caughtUp c = true := by
  simp [Tile.caughtUp, Tile.unit, hu, hf]

theorem breachesFrom_nil (i : Image) (t : Nat) (x : Tile) (k lo hi : Nat) : breachesFrom i t x [] k lo hi = [] := by
  simp [breachesFrom]

/-! ### Waits -/

/-- A tile with k taken out of one of its channels (R79). -/
def Tile.consumed (x : Tile) (chan k : Nat) : Tile := { x with
  tokens := tmod 0 x.tokens chan fun c => c - k
  tokenLog := tmod [] x.tokenLog chan fun l => consume l.length k l }

theorem subtractWait_tile {u : Nat} {w : WaitRec} (h : w.kind = 1) :
    subtractWait u w s = s.modTile u fun x => x.consumed w.chan w.k := by
  simp only [subtractWait, h]
  rfl

/-- A wait of a tile that is released goes on in the state that WAIT_RELEASE makes of it. -/
theorem execWaitRelease_tile {u : UnitId} {cycle : Nat} {w : WaitRec} (hl : s.live = true) (hw : s.wait u = some w)
    (h48 : u.val < 48) (hd : tileRelease s u cycle w = true) (h4 : w.kind ≠ 4) : execWaitRelease u cycle s =
      .next (judgeOn u (((subtractWait u w s).setWait u none).tile u).cycle
        (((subtractWait u w s).setWait u none).modTile u fun x => { x with state := tsIssue, cycle := cycle + 2 })) := by
  unfold execWaitRelease
  rw [hw, Option.filter_some, if_pos (by rw [releaseDue, if_pos h48]; exact hd), eventOf_some _ _ _ hl]
  simp only [if_pos h48, if_neg h4]

/-- The wait of a tile without commands on its own channel ends in the cycle of its issue, where the channel holds k. -/
theorem execWaitRelease_at_issue {u : UnitId} {w : WaitRec} (hl : s.live = true) (hw : s.wait u = some w) (h48 : u.val < 48)
    (hk : w.kind = 1) (hstate : (s.tile u).state = tsWait) (hunits : (s.tile u).units = []) (hfills : (s.tile u).gate.fills = [])
    (hvis : ∀ e ∈ tget [] (s.tile u).tokenLog w.chan, e.2.1 ≤ w.cycle ∧ e.2.2 ≤ w.cycle) (hk0 : w.k ≠ 0)
    (hsum : w.k ≤ ((tget [] (s.tile u).tokenLog w.chan).map fun e => e.1).sum) :
    ∃ q, execWaitRelease u w.cycle s = .next q ∧ (q.tile u).state = tsIssue ∧ (q.tile u).cycle = w.cycle + 2 ∧
      q.wait u = none ∧ (q.tile u).pc = (s.tile u).pc ∧
      (q.tile u).tokens = tmod 0 (s.tile u).tokens w.chan fun c => c - w.k := by
  have hd : tileRelease s u w.cycle w = true := by
    simp only [tileRelease, hstate, settled_of_idle (x := s.tile u) (by rw [hstate]; decide) hunits,
      caughtUp_of_idle hunits hfills, hk, inBounds_at_issue hvis hk0 hsum]
    simp
  refine ⟨_, execWaitRelease_tile hl hw h48 hd (by rw [hk]; decide), ?_⟩
  rw [subtractWait_tile hk]
  generalize hs1 : (s.modTile u fun x => x.consumed w.chan w.k).setWait u none = s1
  have ht1 : s1.tile u = (s.tile u).consumed w.chan w.k := by
    rw [← hs1]
    exact State.tile_modTile_same s u fun x => x.consumed w.chan w.k
  have hb := OnlyBreaches.judgeOn u (s1.tile u).cycle (s1.modTile u fun x => { x with state := tsIssue, cycle := w.cycle + 2 })
  have part {α : Type} (f : Tile → α) (hf : ∀ (x : Tile) d k, f { x with dues := d, raised := k } = f x) :
      f ((judgeOn u (s1.tile u).cycle (s1.modTile u fun x => { x with state := tsIssue, cycle := w.cycle + 2 })).tile u) =
        f { s1.tile u with state := tsIssue, cycle := w.cycle + 2 } :=
    (hb.tile_eq f fun _ _ => hf _ _ _).trans (congrArg f (State.tile_modTile_same _ _ _))
  refine ⟨part Tile.state fun _ _ _ => rfl, part Tile.cycle fun _ _ _ => rfl, ?_, ?_, ?_⟩
  · refine (hb.eq (fun s => s.wait u) fun _ _ _ _ _ => rfl).trans ?_
    rw [← hs1]
    exact State.wait_setWait_same _ _ _
  · exact (part Tile.pc fun _ _ _ => rfl).trans (by rw [ht1]; rfl)
  · exact (part Tile.tokens fun _ _ _ => rfl).trans (by rw [ht1]; rfl)

/-! ### Words that block (O12) -/

/-- Nothing is raised in a state whose tiles and image are those of one that holds no violation. -/
theorem judgeOn_kept {t lo : Nat} {y : Tile} {r : State} (htiles : r.tiles = tset s.tiles t y) (himg : r.image = s.image)
    (h : (s.modTile t fun _ => y).unbroken t lo) : judgeOn t lo r = r := by
  have htile : r.tile t = y := by rw [State.tile, htiles, tget_tset_same]
  refine judgeOn_unbroken ?_ ?_
  · unfold State.unbroken at h ⊢
    rw [State.tile_modTile_same] at h
    rwa [htile, himg]
  · rw [TileListed, htile, htiles, tset_tset]

/-- The Strings operation of an ST word, pushed and awaited (R113). -/
theorem pushAndBlock_tiles (t kind w : Nat) :
    (pushAndBlock t kind w s).tiles = tset s.tiles t { (s.tile t).queued 6 with state := tsWait } := by
  rw [← Tile.push_eq_queued]
  rfl

/-- What an ST word that blocks the tile leaves, where the cycles reached hold no violation (R113). -/
theorem pushAndBlock_blocks (t kind : Nat)
    (hb : (s.modTile t fun _ => { (s.tile t).queued 6 with state := tsWait }).unbroken t (s.tile t).cycle) :
    let r := judgeOn t (s.tile t).cycle (pushAndBlock t kind (s.tile t).word s)
    r.tile t = { (s.tile t).queued 6 with state := tsWait } ∧ (∀ u, u ≠ t → r.tile u = s.tile u) ∧
    r.wait t = some ⟨4, fld (s.tile t).word 48 16, 0, waitLimitOf s t (fld (s.tile t).word 96 32), s.time.span,
      (s.tile t).cycle, (s.tile t).pc, false⟩ ∧ (∀ u, u ≠ t → r.wait u = s.wait u) ∧
    tget { kind := 0, obj := 0 } r.str.waits t =
      { kind := kind, obj := fld (s.tile t).word 48 16, seq := (s.tile t).nextSeq, addr := (s.tile t).pc, queued := true } ∧
    r = { s with tiles := r.tiles, waits := r.waits, str := { s.str with waits := r.str.waits } } := by
  intro r
  have htiles := pushAndBlock_tiles (s := s) t kind (s.tile t).word
  have hr : r = pushAndBlock t kind (s.tile t).word s := judgeOn_kept htiles rfl hb
  clear_value r
  subst hr
  refine ⟨?_, fun u hn => ?_, State.wait_setWait_same _ _ _, fun u hn => State.wait_setWait_ne _ _ _ _ hn, tget_tset_same _ _ _ _, rfl⟩
  · rw [State.tile, htiles, tget_tset_same]
  · rw [State.tile, htiles, tget_tset_ne _ _ _ _ _ hn]
    rfl

/-- A TK.WAIT past which the tile has moved, with its wait and its waiter (R79). -/
def tkWaiting (t : Nat) (y : Tile) (s : State) : State :=
  let w := (s.tile t).word
  setWaiter (1 + fld w 16 2) (fld w 32 16) (some t) ((beginWait t (1 + fld w 16 2) (fld w 32 16) (fld w 64 32) (fld w 96 32)
    (s.tile t).cycle (s.tile t).pc s).modTile t fun _ => y)

theorem setWaiter_tiles (kind ch : Nat) (w : Option Nat) : (setWaiter kind ch w s).tiles = s.tiles ∧
    (setWaiter kind ch w s).image = s.image ∧ (setWaiter kind ch w s).waits = s.waits ∧
    setWaiter kind ch w s = { s with tokens := (setWaiter kind ch w s).tokens, plc := (setWaiter kind ch w s).plc } := by
  unfold setWaiter
  split
  · exact ⟨rfl, rfl, rfl, rfl⟩
  · split <;> exact ⟨rfl, rfl, rfl, rfl⟩

theorem setWaiter_token {kind : Nat} (h : kind = 2) (ch : Nat) (w : Option Nat) :
    (setWaiter kind ch w s).token ch = { s.token ch with waiter := w } := by
  rw [setWaiter, if_pos h]
  exact State.token_modToken_same _ _ _

theorem setWaiter_region {kind : Nat} (h : kind = 3) (ch : Nat) (w : Option Nat) :
    (setWaiter kind ch w s).region ch = { s.region ch with waiter := w } := by
  rw [setWaiter, if_neg (by omega), if_pos h]
  exact State.region_modRegion_same _ _ _

/-- A well-formed TK.WAIT whose naming raises no fault leaves the tile waiting, where the cycles reached hold no violation. -/
theorem execTkWait_waits {t : TileId} (hi : s.issues t 0x11 = true) (hc : (s.tile t).vec.chain = [])
    (hok : (reservedClear (s.tile t).word [(16, 2), (32, 16), (64, 32), (96, 32)] &&
      channelOk (fld (s.tile t).word 16 2) (fld (s.tile t).word 32 16) && fld (s.tile t).word 64 32 != 0) = true)
    (hbad : fld (s.tile t).word 16 2 = 0 ∨ waitFault s t (1 + fld (s.tile t).word 16 2) (fld (s.tile t).word 32 16) = none)
    (hb : (s.modTile t fun _ => { (s.tile t).beyond 1 with nextSeq := (s.tile t).nextSeq + 1, state := tsWait }).unbroken t
      (s.tile t).cycle) :
    execTkWait t s = .next (tkWaiting t { (s.tile t).beyond 1 with nextSeq := (s.tile t).nextSeq + 1, state := tsWait } s) := by
  have hnone : (if 1 + fld (s.tile t).word 16 2 = 1 then none
      else waitFault s t (1 + fld (s.tile t).word 16 2) (fld (s.tile t).word 32 16)) = none := by
    rcases hbad with h | h <;> simp [h]
  unfold execTkWait
  rw [issueWord_control_acts hi hc (by exact hok)]
  simp only [hnone, Tile.advance_eq_beyond]
  refine congrArg Host.Outcome.next (Eq.trans ?_ (judgeOn_kept (setWaiter_tiles _ _ _).1 (setWaiter_tiles _ _ _).2.1 hb))
  refine congrArg (judgeOn t (s.tile t).cycle) (congrArg (setWaiter _ _ _) ?_)
  exact State.modTile_modTile (beginWait t (1 + fld (s.tile t).word 16 2) (fld (s.tile t).word 32 16) (fld (s.tile t).word 64 32)
    (fld (s.tile t).word 96 32) (s.tile t).cycle (s.tile t).pc s) t (fun x => { x with nextSeq := x.nextSeq + 1 }.beyond 1)
    fun x => { x with state := tsWait }

/-- Settles O12: the tile past the word and its wait; where the channel holds k already, the wait ends at once. -/
theorem blockingWordsBlockTheTile : Obligations.BlockingWordsBlockTheTile := by
  unfold Obligations.BlockingWordsBlockTheTile
  intro t s x w limit waits y
  refine ⟨fun hi hc hok hch hk hbad hb => ?_, ?_, ?_, ?_⟩
  · have hexec : exec (.tkWait t) s = .next (tkWaiting t y s) :=
      show execTkWait t s = _ from execTkWait_waits hi hc (by simpa using ⟨⟨hok, hch⟩, hk⟩) hbad hb
    obtain ⟨htiles, -, hwaits, hframe⟩ := setWaiter_tiles (s := (beginWait t (1 + fld w 16 2) (fld w 32 16) (fld w 64 32)
      (fld w 96 32) x.cycle x.pc s).modTile t fun _ => y) (1 + fld w 16 2) (fld w 32 16) (some t.val)
    change (tkWaiting t y s).tiles = _ at htiles
    change (tkWaiting t y s).waits = _ at hwaits
    change tkWaiting t y s = _ at hframe
    have htile : (tkWaiting t y s).tile t = y := by rw [State.tile, htiles]; exact State.tile_modTile_same _ _ _
    have hwait : (tkWaiting t y s).wait t = waits (1 + fld w 16 2) (fld w 32 16) (fld w 64 32) := by
      rw [State.wait, hwaits]; exact State.wait_setWait_same _ _ _
    refine ⟨_, hexec, htile, fun u hn => ?_, hwait, fun u hn => ?_, fun h1 => ?_, fun h2 => ?_, ?_,
      fun h0 hunits huses hdues hfills hvis hsum u hu => ?_⟩
    · rw [State.tile, htiles]
      exact State.tile_modTile_ne _ _ _ _ hn
    · rw [State.wait, hwaits]
      exact State.wait_setWait_ne _ _ _ _ hn
    · exact setWaiter_token (s := (beginWait t _ _ _ _ _ _ s).modTile t fun _ => y) (by rw [h1]) _ _
    · exact setWaiter_region (s := (beginWait t _ _ _ _ _ _ s).modTile t fun _ => y) (by rw [h2]) _ _
    · exact hframe.trans (by rw [htiles, hwaits]; rfl)
    · have hu48 : u.val < 48 := by have := t.isLt; omega
      have hlive : (tkWaiting t y s).live = true := by
        rw [hframe]
        exact (issues_iff.1 hi).1
      have hk1 : 1 + fld w 16 2 = 1 := by rw [h0]
      rw [← hu] at htile hwait hlive ⊢
      obtain ⟨q, hq, hstate, hcycle, hnone, hpc, htok⟩ := execWaitRelease_at_issue hlive hwait hu48
        hk1 (by rw [htile]) (by rw [htile]; exact hunits) (by rw [htile]; exact hfills)
        (by rw [htile]; exact hvis) hk (by rw [htile]; exact hsum)
      refine ⟨q, hq, hstate, hcycle, hnone, by rw [hpc, htile], fun c => ?_⟩
      rw [htok, htile, tmod, tget_tset]
      split
      · next h => subst h; rfl
      · rfl
  · intro hi hf hok hb
    exact ⟨_, show execStSync t s = _ from issueWord_acts hi hf (by exact hok), pushAndBlock_blocks t 1 hb⟩
  · intro hi hf hok hb
    exact ⟨_, show execStRed t s = _ from issueWord_acts hi hf (by exact hok), pushAndBlock_blocks t 2 hb⟩
  · intro hi hf hok hb
    exact ⟨_, show execStVote t s = _ from issueWord_acts hi hf (by exact hok), pushAndBlock_blocks t 3 hb⟩

end Sys2Proof.Machine
end

section
/-! SUPPORT. The limits of waits and holds (O26): WAIT_LIMIT is raised against a running troupe, and what was reported is
marked. -/

namespace Sys2Proof.Machine

open Sys2Proof

variable {s : State}

/-! ### Strings objects changed -/

theorem State.barrier_modBarrier (s : State) (b o : Nat) (f : Barrier → Barrier) :
    (s.modBarrier b f).barrier o = if o = b then f (s.barrier b) else s.barrier o := tget_tset _ _ _ _ _

theorem State.redObj_modRedObj (s : State) (b o : Nat) (f : RedObj → RedObj) :
    (s.modRedObj b f).redObj o = if o = b then f (s.redObj b) else s.redObj o := tget_tset _ _ _ _ _

theorem State.voteObj_modVote (s : State) (b o : Nat) (f : VoteObj → VoteObj) :
    (s.modVote b f).voteObj o = if o = b then f (s.voteObj b) else s.voteObj o := tget_tset _ _ _ _ _

/-! ### Limits -/

theorem unitFault_waits (u code addr info0 : Nat) : (unitFault u code addr info0 s).waits = s.waits ∧
    (unitFault u code addr info0 s).str = s.str := by
  obtain ⟨e, h, t, b, k⟩ := unitFault_frame s u code addr info0
  rw [k]
  exact ⟨rfl, rfl⟩

/-- The hold that has reached its limit has not raised WAIT_LIMIT yet (R90). -/
theorem holdExpired_unreported {u : Nat} {c : Cmd} (h : holdExpired s u = some c) : (c.seq, fcWaitLimit) ∉ (s.tile u).raised := by
  unfold holdExpired at h
  dsimp only at h
  split at h
  · split at h
    · next hc =>
      obtain rfl := Option.some.inj h
      simp at hc
      exact hc.2
    · cases h
  · cases h

/-- A held arrival marked as reported in its object (R253). -/
def markArrival (e : Nat × Nat × HeldArrival) (s : State) : State :=
  if e.1 = 1 then s.modBarrier e.2.1 fun b => { b with held := markHeld e.2.2 b.held }
  else if e.1 = 2 then s.modRedObj e.2.1 fun b => { b with held := markHeld e.2.2 b.held }
  else s.modVote e.2.1 fun b => { b with held := markHeld e.2.2 b.held }

theorem execArrivalHoldLimit_marks {u : UnitId} {e : Nat × Nat × HeldArrival} (hl : s.live = true) (h : dueArrival s u = some e)
    (hk : e.1 = 1 ∨ e.1 = 2 ∨ e.1 = 3) :
    execArrivalHoldLimit u s = .next (unitFault u fcWaitLimit e.2.2.addr e.2.1 (markArrival e s)) := by
  obtain ⟨k, obj, h'⟩ := e
  rw [execArrivalHoldLimit, h]
  obtain rfl | rfl | rfl := hk <;> exact eventOf_some _ _ _ hl

theorem markArrival_frame (e : Nat × Nat × HeldArrival) (s : State) : ∃ x, markArrival e s = { s with str := x } := by
  unfold markArrival
  split
  · exact ⟨_, rfl⟩
  · split <;> exact ⟨_, rfl⟩

/-- Settles O26: each of the limits raises WAIT_LIMIT against the unit after it has marked what it reports. -/
theorem waitsAndHoldsAtTheirLimitAbort : Obligations.WaitsAndHoldsAtTheirLimitAbort := by
  unfold Obligations.WaitsAndHoldsAtTheirLimitAbort
  intro u s tr aborts hlive hu htr hrun
  have raised {q : State} (addr info0 : Nat) (hi : q.image = s.image) (ht : q.troupes = s.troupes) (hm : q.mem = s.mem) :
      aborts (unitFault u fcWaitLimit addr info0 q) := by
    have htroupe : q.troupe tr = s.troupe tr := congrArg (tget ({} : Troupe) · tr) ht
    obtain ⟨hstate, hcode, hunit, hcount⟩ := unitFault_aborts (s := q) fcWaitLimit addr info0 (hi ▸ hu) (htroupe ▸ hrun) htr
    exact ⟨hstate, hcode, hunit, htroupe ▸ hcount, (unitFault_mem ..).trans hm⟩
  have held {e : Nat × Nat × HeldArrival} (hdue : dueArrival s u = some e) (hk : e.1 = 1 ∨ e.1 = 2 ∨ e.1 = 3) :
      ∃ r, exec (.arrivalHoldLimit u) s = .next r ∧ aborts r ∧ r.str = (markArrival e s).str := by
    obtain ⟨x, h⟩ := markArrival_frame e s
    exact ⟨_, show execArrivalHoldLimit u s = _ from execArrivalHoldLimit_marks hlive hdue hk,
      raised _ _ (by rw [h]; rfl) (by rw [h]) (by rw [h]), (unitFault_waits ..).2⟩
  refine ⟨fun w hw hraised hspan hblocked => ?_, fun c hw h48 hexp => ?_, fun obj h hdue => ?_, fun obj h hdue => ?_,
    fun obj h hdue => ?_⟩
  · have hdue : ((s.wait u).filter fun w => !w.raised && s.atLimit w.since w.limit && stillBlocked s u w) = some w := by
      simp [hw, hraised, hblocked, State.atLimit, hspan]
    refine ⟨_, ?_, raised (q := s.setWait u (some { w with raised := true })) w.addr w.chan rfl rfl rfl, ?_⟩
    · show execWaitLimitExpiry u s = _
      unfold execWaitLimitExpiry
      rw [hdue]
      exact event_due s _ hlive
    · exact (congrArg (tget none · u.val) (unitFault_waits ..).1).trans (State.wait_setWait_same _ _ _)
  · have hnew := holdExpired_unreported hexp
    obtain ⟨hstate, hcode, hunit, hcount⟩ := tileFaultAt_aborts (s.tile u).cycle c.addr 0 hu hrun htr hnew
    refine ⟨tileFault u c.seq c.addr fcWaitLimit 0 s, ?_, ⟨hstate, hcode, hunit, hcount, tileFault_mem ..⟩, ?_⟩
    · show execWaitLimitExpiry u s = _
      unfold execWaitLimitExpiry
      rw [hw, Option.filter_none, if_pos h48, hexp]
      exact eventOf_some s _ _ hlive
    · rw [tileFault, tileFaultAt_raised _ _ _ hu hnew]
      simp [fcWaitLimit]
  · obtain ⟨r, hexec, haborts, hstr⟩ := held hdue (.inl rfl)
    refine ⟨r, hexec, haborts, ?_⟩
    rw [State.barrier, hstr]
    exact (congrArg Barrier.held (State.barrier_modBarrier s obj obj _)).trans (by rw [if_pos rfl])
  · obtain ⟨r, hexec, haborts, hstr⟩ := held hdue (.inr (.inl rfl))
    refine ⟨r, hexec, haborts, ?_⟩
    rw [State.redObj, hstr]
    exact (congrArg RedObj.held (State.redObj_modRedObj s obj obj _)).trans (by rw [if_pos rfl])
  · obtain ⟨r, hexec, haborts, hstr⟩ := held hdue (.inr (.inr rfl))
    refine ⟨r, hexec, haborts, ?_⟩
    rw [State.voteObj, hstr]
    exact (congrArg VoteObj.held (State.voteObj_modVote s obj obj _)).trans (by rw [if_pos rfl])

end Sys2Proof.Machine
end

section
/-! SUPPORT. Strings messages that leave the network together (R248), token signals at their holder (O31), and the phases of
barriers (O32). -/

namespace Sys2Proof.Machine

open Sys2Proof

variable {s : State}

/-! ### Messages that leave as one (R248) -/

theorem foldl_dropMsg (l : List StrMsg) (s : State) :
    l.foldl State.dropMsg s = { s with str := { s.str with msgs := s.str.msgs.diff l } } := by
  induction l generalizing s with
  | nil => rfl
  | cons m l ih => rw [List.foldl_cons, ih, List.diff_cons]; rfl

theorem mergeable_subperm (s : State) (kind obj : Nat) : List.Subperm (mergeable s kind obj) s.str.msgs := by
  unfold mergeable
  split
  · next m _ =>
    refine List.filter_sublist.subperm.trans ?_
    unfold strQueue
    refine List.Perm.subperm ?_ |>.trans (List.filter_sublist (p := fun k => strPath s.image k == strPath s.image m)).subperm
    exact List.filter_append_perm (fun k => strClass k == 3) _
  · exact List.nil_subperm

theorem length_diff_take {l k : List StrMsg} (h : List.Subperm k l) {n : Nat} (hn : n ≤ k.length) :
    (l.diff (k.take n)).length + n = l.length := by
  have hsub := (List.take_sublist n k).subperm.trans h
  have hperm := (List.subperm_append_diff_self_of_count_le fun x _ => hsub.count_le x).length_eq
  rw [List.length_append, List.length_take, min_eq_left hn] at hperm
  omega

theorem countMerged_frame (d n : Nat) (s : State) :
    countMerged d n s = { s with str := { s.str with merged := (countMerged d n s).str.merged } } := by
  unfold countMerged
  split <;> rfl

theorem mem_mergeable {kind obj : Nat} {m : StrMsg} (h : m ∈ mergeable s kind obj) : m.obj = obj := by
  unfold mergeable at h
  split at h
  · simp at h
    exact h.2.2
  · cases h

/-! ### Token signals (O31) -/

theorem prefixLen_le {k n : Nat} {l : List Nat} (h : prefixLen k l = some n) : n ≤ l.length := by
  induction l generalizing k n with
  | nil => cases k <;> simp_all [prefixLen]
  | cons a l ih =>
    obtain rfl | hk := eq_or_ne k 0
    · simp only [prefixLen, Option.some.injEq] at h
      omega
    · rw [prefixLen.eq_3 _ _ _ hk] at h
      split at h
      · obtain ⟨m, hm, rfl⟩ := Option.map_eq_some_iff.1 h
        exact Nat.succ_le_succ (ih hm)
      · cases h

theorem tokenAt_away {ch : Nat} (h : isRoot s.image 0 ch = false) (u k sent addr : Nat) : tokenAt u ch k sent addr s = s := by
  simp [tokenAt, h]

theorem tokenAt_adds {ch k : Nat} (h : isRoot s.image 0 ch = true) (hk : (s.token ch).count + k < 2 ^ 32) (u sent addr : Nat) :
    tokenAt u ch k sent addr s = s.modToken ch fun x => { x with count := x.count + k, log := x.log ++ [(k, sent, u)] } := by
  rw [tokenAt, if_pos h, signalDevice, if_pos hk]
  rfl

/-- A signal at its holder changes its channel's count, or raises a fault. -/
theorem tokenAt_frame (u ch k sent addr : Nat) : ∃ tk e h t b, tokenAt u ch k sent addr s =
    { s with tokens := tk, err := e, host := h, troupes := t, boot := b } := by
  unfold tokenAt
  split
  · exact signalDevice_frame s u ch k sent addr
  · exact ⟨s.tokens, s.err, s.host, s.troupes, s.boot, rfl⟩

theorem tokenAt_token_ne (u k sent addr : Nat) {ch c : Nat} (h : c ≠ ch) : (tokenAt u ch k sent addr s).token c = s.token c := by
  unfold tokenAt signalDevice
  extract_lets x
  split
  · split
    · exact State.token_modToken_ne _ _ _ _ h
    · split
      · next tr _ =>
        obtain ⟨e, k', t, b, he⟩ := contractFaultOn_frame s (1 + tokenHome ch) tr u fcTokenOverflow addr ch
        rw [he]
        rfl
      · rfl
  · rfl

/-- A sum that does not fit 32 bits is refused, and the channel's running troupe begins to abort (R79). -/
theorem tokenAt_overflows {ch k tr : Nat} (h : isRoot s.image 0 ch = true) (hk : 2 ^ 32 ≤ (s.token ch).count + k)
    (htok : s.image.tokenTroupe ch = some tr) (htr : tr < 16) (hrun : (s.troupe tr).state = 1) (u sent addr : Nat) :
    (tokenAt u ch k sent addr s).tokens = s.tokens ∧ AbortsFor tr u 0x08 s (tokenAt u ch k sent addr s) := by
  rw [tokenAt, if_pos h, signalDevice, if_neg (by omega), htok]
  refine ⟨?_, contractFaultAt_aborts _ _ _ _ _ _ hrun htr⟩
  obtain ⟨e, k', t, b, he⟩ := contractFaultOn_frame s (1 + tokenHome ch) tr u fcTokenOverflow addr ch
  dsimp only
  rw [he]

/-- The first n of a channel's signals leave the network and come to its holder as one. -/
theorem execTokenSignalMessage_counts {ch : Fin 16384} {k : W32} {n : Nat} (hl : s.live = true) (hn : 0 < n)
    (hp : prefixLen k.toNat ((mergeable s 0 ch.val).map fun m => m.value.toNat) = some n) :
    ∃ unit sent addr c, execTokenSignalMessage none ch k s = .next (tokenAt unit ch k.toNat sent addr
      { s with str := { s.str with msgs := s.str.msgs.diff ((mergeable s 0 ch.val).take n), merged := c } }) := by
  rw [execTokenSignalMessage]
  dsimp only
  rw [hp, Option.filter_some, if_pos (by simpa using hn), eventOf_some _ _ _ hl, foldl_dropMsg, countMerged_frame]
  exact ⟨_, _, _, _, rfl⟩

/-- Settles O31: what leaves the network goes to the channel's holder as one signal. -/
theorem tokenSignalsAddAtTheirHolder : Obligations.TokenSignalsAddAtTheirHolder := by
  unfold Obligations.TokenSignalsAddAtTheirHolder
  intro ch k s hlive
  refine ⟨fun n hn hpre => ?_, fun p hears hdown => ?_⟩
  · have hle : n ≤ (mergeable s 0 ch.val).length := by simpa using prefixLen_le hpre
    have hlen := length_diff_take (mergeable_subperm s 0 ch.val) hle
    obtain ⟨unit, sent, addr, c, hexec⟩ := execTokenSignalMessage_counts hlive hn hpre
    set q : State := { s with str := { s.str with msgs := s.str.msgs.diff ((mergeable s 0 ch.val).take n), merged := c } }
    obtain ⟨tk, e, h, t, b, hf⟩ := tokenAt_frame (s := q) unit ch k.toNat sent addr
    refine ⟨_, show execTokenSignalMessage none ch k s = _ from hexec, ?_, ?_, ?_, fun c hc => tokenAt_token_ne (s := q) _ _ _ _ hc, fun hroot hk => ?_, fun hroot => ?_⟩
    · rw [hf]; exact hlen
    · rw [hf]
    · rw [hf]
    · rw [tokenAt_adds (s := q) hroot hk]
      refine ⟨?_, ?_, rfl⟩
      · exact congrArg Token.count (State.token_modToken_same q ch _)
      · exact (congrArg Token.waiter (State.token_modToken_same q ch _)).trans rfl
    · rw [tokenAt_away (s := q) hroot]
  · have hexec : exec (.tokenSignalMessage (some p) ch k) s = .next (tokenAt 0xFF ch k.toNat s.time.span 0 s) := by
      show execTokenSignalMessage (some p) ch k s = _
      rw [execTokenSignalMessage]
      exact event_of_due _ _ _ hlive (by simpa [hears] using hdown)
    refine ⟨fun hroot hk => by rw [hexec, tokenAt_adds hroot hk], fun hroot => by rw [hexec, tokenAt_away hroot],
      fun tr hroot hk htok htr hrun => ?_⟩
    obtain ⟨htokens, hstate, hcode, -, -⟩ := tokenAt_overflows hroot hk htok htr hrun 0xFF s.time.span 0
    exact ⟨_, hexec, htokens, hstate, hcode⟩

/-! ### Barriers (R253) -/

/-- A contribution that goes up is noted in its barrier alone. -/
theorem pumpBarrier_frame (b : Nat) (s : State) :
    pumpBarrier b s = { s with str := { s.str with barriers := (pumpBarrier b s).str.barriers } } ∧
    ∃ f, ∀ o, (pumpBarrier b s).barrier o = if o = b then { s.barrier b with forwarded := f } else s.barrier o := by
  unfold pumpBarrier
  split
  · exact ⟨rfl, _, fun o => State.barrier_modBarrier s b o _⟩
  · refine ⟨rfl, (s.barrier b).forwarded, fun o => ?_⟩
    split
    · next h => rw [h]
    · rfl

/-- A barrier changed, and what is complete then sent up. -/
theorem pumpBarrier_modBarrier (b : Nat) (f : Barrier → Barrier) (s : State) : ∃ k bs,
    pumpBarrier b (s.modBarrier b f) = { s with str := { s.str with barriers := bs } } ∧
    (∀ o, o ≠ b → (pumpBarrier b (s.modBarrier b f)).barrier o = s.barrier o) ∧
    (pumpBarrier b (s.modBarrier b f)).barrier b = { f (s.barrier b) with forwarded := k } := by
  obtain ⟨hframe, k, hbarrier⟩ := pumpBarrier_frame b (s.modBarrier b f)
  refine ⟨k, _, hframe, fun o ho => ?_, ?_⟩
  · rw [hbarrier, if_neg ho, State.barrier_modBarrier, if_neg ho]
  · rw [hbarrier, if_pos rfl, State.barrier_modBarrier, if_pos rfl]

/-- r is s with n more arrivals of one barrier, counted or held. -/
def Arrived (obj n : Nat) (s r : State) : Prop :=
  (∃ bs, r = { s with str := { s.str with barriers := bs } }) ∧ (∀ o, o ≠ obj → r.barrier o = s.barrier o) ∧
  (r.barrier obj).ports = (s.barrier obj).ports ∧
  (r.barrier obj).arrived.length + (r.barrier obj).held.length = (s.barrier obj).arrived.length + (s.barrier obj).held.length + n

theorem arriveLocal_counts (m : StrMsg) (s : State) :
    Arrived m.obj 1 s (arriveLocal m s) ∧
    ((s.barrier m.obj).arrived.contains m.unit = false → (s.barrier m.obj).forwarded = false →
      ((arriveLocal m s).barrier m.obj).arrived = (s.barrier m.obj).arrived ++ [m.unit] ∧
      ((arriveLocal m s).barrier m.obj).held = (s.barrier m.obj).held) ∧
    ((s.barrier m.obj).arrived.contains m.unit = true ∨ (s.barrier m.obj).forwarded = true →
      ((arriveLocal m s).barrier m.obj).arrived = (s.barrier m.obj).arrived ∧
      ((arriveLocal m s).barrier m.obj).held = (s.barrier m.obj).held ++ [heldOf s m]) := by
  unfold arriveLocal
  extract_lets x
  obtain ⟨k, bs, hframe, hothers, hown⟩ := pumpBarrier_modBarrier m.obj (fun b =>
    if x.arrived.contains m.unit || x.forwarded then { b with held := b.held ++ [heldOf s m] }
    else { b with arrived := b.arrived ++ [m.unit], lastAt := max b.lastAt (arrivedAt s m) }) s
  rw [Arrived, hown]
  refine ⟨⟨⟨_, hframe⟩, hothers, ?_⟩, fun h1 h2 => ?_, fun h => ?_⟩
  · split
    · exact ⟨rfl, by simp; omega⟩
    · exact ⟨rfl, by simp; omega⟩
  · rw [if_neg (by simp [x] at h1 h2 ⊢; exact ⟨h1, h2⟩)]
    exact ⟨rfl, rfl⟩
  · rw [if_pos (by simpa [x] using h)]
    exact ⟨rfl, rfl⟩

theorem foldl_arriveLocal {obj : Nat} (l : List StrMsg) (h : ∀ m ∈ l, m.obj = obj) (s : State) :
    Arrived obj l.length s (l.foldl (fun s m => arriveLocal m s) s) := by
  induction l generalizing s with
  | nil => exact ⟨⟨s.str.barriers, rfl⟩, fun _ _ => rfl, rfl, rfl⟩
  | cons m l ih =>
    obtain rfl := h m (by simp)
    obtain ⟨⟨⟨bs, h1⟩, ho1, hp1, hl1⟩, -⟩ := arriveLocal_counts m s
    obtain ⟨⟨bs2, h2⟩, ho2, hp2, hl2⟩ := ih (fun k hk => h k (List.mem_cons_of_mem _ hk)) (arriveLocal m s)
    rw [List.foldl_cons]
    refine ⟨⟨bs2, by rw [h2, h1]⟩, fun o ho => (ho2 o ho).trans (ho1 o ho), hp2.trans hp1, ?_⟩
    rw [List.length_cons]
    omega

/-- The wait of a unit after a map of the waits. -/
theorem tget_map {α : Type} (d : α) (f : Nat × α → α) (t : Tbl α) (u : Nat) (v : α) (h : tget d t u = v) (hd : v ≠ d) :
    tget d (t.map fun p => (p.1, f p)) u = f (u, v) := by
  induction t with
  | nil => exact absurd h.symm hd
  | cons p t ih =>
    rw [tget] at h
    rw [List.map_cons, tget]
    split
    · next hu => rw [if_pos hu] at h; rw [← h, hu]
    · next hu => rw [if_neg hu] at h; exact ih h

theorem refillBarrier_ports (hs : List HeldArrival) (opens : Nat) : (refillBarrier hs opens).ports = [] := by
  unfold refillBarrier
  refine List.foldlRecOn (motive := fun b : Barrier => b.ports = []) _ _ rfl fun b hb h _ => ?_
  split <;> exact hb

/-- The waits that a completed phase leaves (R253). -/
theorem releaseMembers_frame (kind obj since : Nat) (units : List Nat) (held : List HeldArrival) (f : StrWait → StrWait)
    (s : State) : ∃ ws, releaseMembers kind obj since units held f s = { s with str := { s.str with waits := ws } } := ⟨_, rfl⟩

/-- A member that is blocked on the phase, with nothing held and nothing on its way, is released. -/
theorem releaseMembers_releases {kind obj since u : Nat} {units : List Nat} {held : List HeldArrival} (f : StrWait → StrWait)
    (hk : (tget { kind := 0, obj := 0 } s.str.waits u).kind = kind) (hk0 : kind ≠ 0)
    (ho : (tget { kind := 0, obj := 0 } s.str.waits u).obj = obj) (hr : (tget { kind := 0, obj := 0 } s.str.waits u).released = false)
    (hq : (tget { kind := 0, obj := 0 } s.str.waits u).queued = false) (hu : u ∈ units) (hh : ∀ h ∈ held, h.unit ≠ u)
    (hs : s.strSent kind obj u = false) :
    tget { kind := 0, obj := 0 } (releaseMembers kind obj since units held f s).str.waits u =
      { f (tget { kind := 0, obj := 0 } s.str.waits u) with released := true, since := since } := by
  generalize hw : tget { kind := 0, obj := 0 } s.str.waits u = w at hk ho hr hq
  have hfree : (units.filter fun u => !held.any (fun h => h.unit == u) && !s.strSent kind obj u).contains u = true := by
    simpa [hu, hs] using hh
  rw [releaseMembers]
  have hmap := tget_map (d := ({ kind := 0, obj := 0 } : StrWait)) (fun p =>
    if (units.filter fun u => !held.any (fun h => h.unit == u) && !s.strSent kind obj u).contains p.1 && p.2.kind == kind &&
      p.2.obj == obj && !p.2.released && !p.2.queued then { f p.2 with released := true, since := since } else p.2)
    s.str.waits u w hw (by rintro rfl; exact hk0 hk.symm)
  rw [if_pos (by rw [hfree]; simp [hk, ho, hr, hq])] at hmap
  rw [← hmap]
  refine congrArg (tget _ · u) (List.map_congr_left fun p _ => ?_)
  split <;> rfl

/-- Settles O32: arrivals are counted or held one by one; a release opens the next phase with what was held. -/
theorem barrierPhasesCountHoldAndRelease : Obligations.BarrierPhasesCountHoldAndRelease := by
  unfold Obligations.BarrierPhasesCountHoldAndRelease
  refine ⟨fun obj unit n s m ms hlive hmine hm hn hle => ?_, fun p obj unit n s hlive hears hdown hport => ?_,
    fun obj s => ?_⟩
  · intro x
    have hlen := length_diff_take (mergeable_subperm s 1 obj) (n := n) (by rw [hmine]; simpa using hle)
    have hobj (k : StrMsg) (hk : k ∈ (mergeable s 1 obj).take n) : k.obj = obj := mem_mergeable (List.mem_of_mem_take hk)
    have hcount : ((mergeable s 1 obj).take n).length = n := by rw [List.length_take, hmine]; simpa using hle
    obtain ⟨c, hexec⟩ : ∃ c, exec (.barrierArrival none obj { unit := unit, count := n }) s =
        .next (((mergeable s 1 obj).take n).foldl (fun s m => arriveLocal m s) { s with str := { s.str with
          msgs := s.str.msgs.diff ((mergeable s 1 obj).take n), merged := c } }) := by
      refine ⟨?_, ?_⟩
      rotate_left
      · show execBarrierArrival none obj { unit := unit, count := n } s = _
        rw [execBarrierArrival]
        dsimp only
        rw [event_of_due _ _ _ hlive (by rw [hmine]; simp [hm, hn, hle]), foldl_dropMsg, countMerged_frame]
    set q : State := { s with str := { s.str with msgs := s.str.msgs.diff ((mergeable s 1 obj).take n), merged := c } } with hq
    obtain ⟨⟨bs, hframe⟩, hothers, hports, hlens⟩ := foldl_arriveLocal _ hobj q
    refine ⟨_, hexec, hothers, by rw [hframe], by rw [hframe]; exact hlen, hports, by rw [hlens, hcount]; rfl, ?_, ?_, ?_⟩
    all_goals
      intro h1
      have htake : (mergeable s 1 obj).take n = [m] := by rw [h1, hmine]; rfl
    · rw [hframe]
      show s.str.msgs.diff _ = _
      rw [htake, List.diff_cons, List.diff_nil]
    · intro hnew hfwd
      obtain rfl : m.obj = obj := hobj m (by simp [htake])
      rw [htake, ← hm]
      exact (arriveLocal_counts m q).2.1 (by simpa [hm, show q.barrier m.obj = x from rfl] using hnew) hfwd
    · intro hold
      obtain rfl : m.obj = obj := hobj m (by simp [htake])
      rw [htake]
      exact (arriveLocal_counts m q).2.2 (by simpa [hm, show q.barrier m.obj = x from rfl] using hold)
  · obtain ⟨k, bs, hframe, hothers, hown⟩ := pumpBarrier_modBarrier obj
      (fun b => { b with ports := b.ports ++ [p.val], lastAt := max b.lastAt s.time.span }) s
    refine ⟨_, ?_, hothers, by rw [hown], by rw [hown], by rw [hframe]⟩
    show execBarrierArrival (some p) obj { unit := unit, count := n } s = _
    rw [execBarrierArrival]
    exact event_of_due _ _ _ hlive (by simpa [hears] using ⟨hdown, hport⟩)
  · intro x since hlive hroot haway hpubs
    obtain ⟨k, bs, hframe, hothers, hown⟩ := pumpBarrier_modBarrier obj (fun b => refillBarrier b.held since)
      (releaseMembers 1 obj since x.arrived x.held id s)
    refine ⟨_, ?_, hothers, by rw [hframe]; rfl, ?_, ?_, ?_, ?_⟩
    · show execBarrierRelease obj s = _
      rw [execBarrierRelease]
      refine event_of_due _ _ _ hlive ?_
      rw [Bool.and_eq_true, List.all_eq_true]
      refine ⟨?_, by simpa using hpubs⟩
      split
      · next h => exact hroot h
      · next h => exact haway (by simpa using h)
    · rw [hown]
      exact refillBarrier_ports _ _
    · rw [hown]
      rfl
    · intro hnone
      rw [hown]
      show (refillBarrier x.held since).arrived = []
      rw [hnone]
      rfl
    · rintro u w rfl hk ho hr hq hu hheld hsent
      rw [hframe]
      exact releaseMembers_releases (s := s) id hk (by decide) ho hr hq hu hheld hsent

end Sys2Proof.Machine
end

section
/-! SUPPORT. What the operations of a tile's units may change (R73, R80, R82): bank accesses, writes of a local port,
finishing. The release of waits (O25). -/

namespace Sys2Proof.Machine

open Sys2Proof

variable {s : State}

/-! ### The frame of a tile's units -/

/-- r is s but for tile t, memory, Strings, the records, the interrupt files, the troupes that abort and the reset that is
owed. -/
def OnTile (t : Nat) (s r : State) : Prop :=
  (∃ m ts e h tr b x, r = { s with mem := m, tiles := ts, err := e, host := h, troupes := tr, boot := b, str := x }) ∧
  ∀ u, u ≠ t → r.tile u = s.tile u

namespace OnTile

variable {t : Nat}

theorem refl (t : Nat) (s : State) : OnTile t s s :=
  ⟨⟨s.mem, s.tiles, s.err, s.host, s.troupes, s.boot, s.str, rfl⟩, fun _ _ => rfl⟩

theorem trans {s r q : State} (h : OnTile t s r) (k : OnTile t r q) : OnTile t s q := by
  obtain ⟨⟨_, _, _, _, _, _, _, rfl⟩, hu⟩ := h
  obtain ⟨⟨m, ts, e, x, tr, b, y, rfl⟩, ku⟩ := k
  exact ⟨⟨m, ts, e, x, tr, b, y, rfl⟩, fun u n => (ku u n).trans (hu u n)⟩

theorem foldl {α : Type} {f : State → α → State} (h : ∀ s a, OnTile t s (f s a)) (l : List α) (s : State) :
    OnTile t s (l.foldl f s) :=
  List.foldlRecOn (motive := OnTile t s) _ _ (refl t s) fun _ k a _ => k.trans (h _ a)

theorem modTile (t : Nat) (f : Tile → Tile) (s : State) : OnTile t s (s.modTile t f) :=
  ⟨⟨s.mem, _, s.err, s.host, s.troupes, s.boot, s.str, rfl⟩, fun u n => State.tile_modTile_ne s t f u n⟩

theorem ofBreaches {r : State} (h : OnlyBreaches t s r) : OnTile t s r := by
  obtain ⟨⟨ts, e, x, tr, b, rfl⟩, hu, -⟩ := h
  exact ⟨⟨s.mem, ts, e, x, tr, b, s.str, rfl⟩, hu⟩

theorem useBanks (t c : Nat) (us : List (BankUse × Nat)) (s : State) : OnTile t s (Machine.useBanks t c us s).1 := by
  unfold Machine.useBanks
  extract_lets x all
  split
  · exact (modTile t _ s).trans (ofBreaches (.raiseBreaches ..))
  · exact ofBreaches (.raiseBreaches ..)

theorem padStore (t c a : Nat) (bs : List Byte) (s : State) : OnTile t s (Machine.padStore t c a bs s) := by
  unfold Machine.padStore
  extract_lets x later m0 put r
  exact .trans ⟨⟨r.2, s.tiles, s.err, s.host, s.troupes, s.boot, s.str, rfl⟩, fun _ _ => rfl⟩ (modTile t _ _)

theorem padWrites (t : Nat) (ws : List Write) (s : State) : OnTile t s (Machine.padWrites t ws s) :=
  foldl (fun s (w : Write) => padStore t w.cycle w.addr w.data s) ws s

/-- A part of the state that no unit of the tile touches. -/
theorem eq {α : Type} {r : State} (h : OnTile t s r) (f : State → α)
    (hf : ∀ m ts e h tr b x, f { s with mem := m, tiles := ts, err := e, host := h, troupes := tr, boot := b, str := x } = f s) :
    f r = f s := by
  obtain ⟨⟨m, ts, e, x, tr, b, y, rfl⟩, -⟩ := h
  exact hf m ts e x tr b y

end OnTile

/-! ### Bank accesses (R82, R83) -/

/-- Accesses leave the tile but for its accesses and its violations, and they leave memory and Strings. -/
theorem useBanks_tile (t c : Nat) (us : List (BankUse × Nat)) (s : State) : ∃ u d k,
    (useBanks t c us s).1.tile t = { s.tile t with uses := u, dues := d, raised := k } ∧
    (useBanks t c us s).1.mem = s.mem ∧ (useBanks t c us s).1.str = s.str := by
  unfold useBanks
  extract_lets x all
  split
  · have hb := OnlyBreaches.raiseBreaches t (breachesFrom s.image t x all x.uses.length (c + 1) x.knownTo)
      (s.modTile t fun x => { x with uses := all })
    have ⟨_, _, d, k, h⟩ := hb
    refine ⟨all, d, k, h.trans ?_, hb.eq State.mem fun _ _ _ _ _ => rfl, hb.eq State.str fun _ _ _ _ _ => rfl⟩
    rw [State.tile_modTile_same]
  · have hb := OnlyBreaches.raiseBreaches t (breachesFrom s.image t x all x.uses.length 0 c) s
    have ⟨_, _, d, k, h⟩ := hb
    exact ⟨x.uses, d, k, h, hb.eq State.mem fun _ _ _ _ _ => rfl, hb.eq State.str fun _ _ _ _ _ => rfl⟩

/-- An access in one cycle breaks no rule where its bank is bound and closed to asynchronous ports, and nothing clashes. -/
theorem useBreaches_clear {i : Image} {t c bank port seq addr : Nat} {x : Tile} {before : List (BankUse × Nat)}
    (hb : i.bound t bank port = true) (hw : x.windowAt bank c = false)
    (hc : ∀ v ∈ before, usesClash ⟨bank, port, c, 1, 1, seq⟩ v.1 c = false) :
    useBreaches i t x before (⟨bank, port, c, 1, 1, seq⟩, addr) 0 c = [] := by
  have hcycles : (⟨bank, port, c, 1, 1, seq⟩ : BankUse).cycles = [c] := rfl
  have hlast : (⟨bank, port, c, 1, 1, seq⟩ : BankUse).last = c := rfl
  unfold useBreaches
  simp only [hcycles, hlast, hb]
  simp [hw]
  exact fun _ _ _ _ _ _ v k hv _ _ _ => hc (v, k) hv

/-- Accesses in one cycle by one port, other than the vector engine's read port, are made where they break no rule. -/
theorem useBanks_grants {t c port seq addr : Nat} {bs : List Nat} (hport : port ≠ 2)
    (hb : ∀ b ∈ bs, s.image.bound t b port = true) (hw : ∀ b ∈ bs, (s.tile t).windowAt b c = false)
    (hc : ∀ b ∈ bs, ∀ v ∈ (s.tile t).uses, usesClash ⟨b, port, c, 1, 1, seq⟩ v.1 c = false) :
    (useBanks t c (bs.map fun b => (⟨b, port, c, 1, 1, seq⟩, addr)) s).2 = true := by
  unfold useBanks
  extract_lets x all
  have hnone : breachesFrom s.image t x all x.uses.length 0 c = [] := by
    rw [breachesFrom, List.flatMap_eq_nil_iff]
    intro e he
    have hnew : e.1 ∈ bs.map fun b => ((⟨b, port, c, 1, 1, seq⟩ : BankUse), addr) := by
      have hmem := List.mem_map_of_mem (f := Prod.fst) he
      rwa [List.map_drop, List.zipIdx_map_fst, List.drop_left] at hmem
    obtain ⟨b, hmem, hb'⟩ := List.mem_map.1 hnew
    rw [← hb']
    refine useBreaches_clear (hb b hmem) (hw b hmem) fun v hv => ?_
    obtain hold | hnew := List.mem_append.1 (List.mem_of_mem_take hv)
    · exact hc b hmem v hold
    · obtain ⟨b', -, rfl⟩ := List.mem_map.1 hnew
      simp [usesClash, hport]
  rw [hnone]

/-! ### Writes of a local port (R73) -/

theorem takeWhile_later {past : List PadWrite} {c : Nat} (h : ∀ p ∈ past, p.cycle ≤ c) :
    (past.takeWhile fun w => decide (c < w.cycle)) = [] := by
  cases past with
  | nil => rfl
  | cons p l => simpa using h p (by simp)

/-- A write that no later one has come before changes memory as it stands. -/
theorem padStore_mem {t c : Nat} (h : ∀ p ∈ (s.tile t).past, p.cycle ≤ c) (a : Nat) (bs : List Byte) :
    (padStore t c a bs s).mem = memWrites s.mem a bs ∧
    (padStore t c a bs s).tile t = { s.tile t with past := ⟨c, a, memReads s.mem a bs.length, bs⟩ :: (s.tile t).past } := by
  have hundo : undoFrom (s.tile t).past (c + 1) s.mem = s.mem := by
    rw [undoFrom, show (fun w : PadWrite => decide (c + 1 ≤ w.cycle)) = fun w => decide (c < w.cycle) from rfl,
      takeWhile_later h]
    rfl
  unfold padStore
  dsimp only
  rw [takeWhile_later h, hundo]
  exact ⟨rfl, State.tile_modTile_same _ _ _⟩

/-- A write changes of the tile what its ports have written. -/
theorem padStore_tile (t c a : Nat) (bs : List Byte) (s : State) :
    ∃ p, (padStore t c a bs s).tile t = { s.tile t with past := p } := ⟨_, State.tile_modTile_same _ _ _⟩

theorem padWrites_tile (t : Nat) (ws : List Write) (s : State) :
    ∃ p, (padWrites t ws s).tile t = { s.tile t with past := p } := by
  refine List.foldlRecOn (motive := fun r : State => ∃ p, r.tile t = { s.tile t with past := p }) _ _ ⟨_, rfl⟩
    fun r ⟨p, hp⟩ w _ => ?_
  obtain ⟨p', hp'⟩ := padStore_tile t w.cycle w.addr w.data r
  exact ⟨p', by rw [hp', hp]⟩

/-- Writes that follow one another in their cycles change memory in their order. -/
theorem padWrites_mem {t : Nat} (ws : List Write) (s : State) (h : s.inOrder t (ws.map Write.cycle)) :
    (padWrites t ws s).mem = ws.foldl (fun m w => memWrites m w.addr w.data) s.mem := by
  induction ws generalizing s with
  | nil => rfl
  | cons w ws ih =>
    obtain ⟨hpast, hsorted⟩ := h
    rw [List.map_cons, List.pairwise_cons] at hsorted
    obtain ⟨hmem, htile⟩ := padStore_mem (s := s) (t := t) (c := w.cycle) (fun p hp => hpast p hp _ (by simp)) w.addr w.data
    rw [List.foldl_cons, ← hmem]
    refine ih (padStore t w.cycle w.addr w.data s) ⟨?_, hsorted.2⟩
    rw [htile]
    intro p hp c hc
    rw [List.mem_cons] at hp
    obtain rfl | hp := hp
    · exact hsorted.1 c hc
    · exact hpast p hp c (by simp only [List.map_cons, List.mem_cons]; exact .inr hc)

theorem memRead_foldl_memWrites {α : Type} (at_ : α → Nat) (data : α → List Byte) (l : List α) (m : List Host.Cell) {b : Nat}
    (h : ∀ w ∈ l, b < at_ w ∨ at_ w + (data w).length ≤ b) :
    memRead (l.foldl (fun m w => memWrites m (at_ w) (data w)) m) b = memRead m b := by
  induction l generalizing m with
  | nil => rfl
  | cons w l ih =>
    rw [List.foldl_cons, ih _ fun k hk => h k (List.mem_cons_of_mem _ hk)]
    exact memRead_memWrites_out _ _ _ _ (h w (by simp))

end Sys2Proof.Machine
end

section
/-! SUPPORT. The release of waits (O25): k leaves the count that was waited for, the unit goes on, and a tile that was blocked
on Strings receives its outcome. -/

namespace Sys2Proof.Machine

open Sys2Proof

variable {s : State}

/-! ### The count that is waited for -/

theorem countRelease_token {u issued at_ : Nat} {w : WaitRec} (hk : w.kind = 2) (h : countRelease s u issued at_ w = true) :
    w.k ≤ (s.token w.chan).count := by
  rw [countRelease, if_pos hk, Bool.and_eq_true] at h
  simpa using h.1

theorem countRelease_region {u issued at_ : Nat} {w : WaitRec} (hk : w.kind = 3) (h : countRelease s u issued at_ w = true) :
    w.k ≤ (s.region w.chan).arrivals := by
  rw [countRelease, if_neg (by omega), Bool.and_eq_true, Bool.and_eq_true] at h
  simpa using h.1.2

theorem subtractWait_frame (u : Nat) (w : WaitRec) (s : State) :
    ∃ ts tk p, subtractWait u w s = { s with tiles := ts, tokens := tk, plc := p } := by
  unfold subtractWait
  split
  · exact ⟨_, s.tokens, s.plc, rfl⟩
  · exact ⟨s.tiles, _, s.plc, rfl⟩
  · exact ⟨s.tiles, s.tokens, _, rfl⟩
  · exact ⟨s.tiles, s.tokens, s.plc, rfl⟩

theorem subtractWait_token {u : Nat} {w : WaitRec} (h : w.kind = 2) :
    (subtractWait u w s).token w.chan = (s.token w.chan).take w.k := by
  rw [subtractWait, h]
  exact State.token_modToken_same _ _ _

theorem subtractWait_region {u : Nat} {w : WaitRec} (h : w.kind = 3) :
    (subtractWait u w s).region w.chan = (s.region w.chan).take w.k := by
  rw [subtractWait, h]
  exact State.region_modRegion_same _ _ _

theorem subtractWait_strings {u : Nat} {w : WaitRec} (h : w.kind = 4) : subtractWait u w s = s := by
  simp only [subtractWait, h]

/-! ### Outcomes of Strings operations (R113, R254) -/

/-- The accesses with which an outcome is written through mover 1's port. -/
def outcomeUses (cycle : Nat) (w : StrWait) : List (BankUse × Nat) :=
  (banksOf w.dst 8).map fun b => (⟨b, 5, cycle, 1, 1, w.seq⟩, w.addr)

theorem deliverTile_writes {t cycle : Nat} {w : StrWait} {v : Word} (hm : w.mismatch = false) (hv : w.result = some v) :
    deliverTile t cycle w s = if (useBanks t cycle (outcomeUses cycle w) s).2
      then padStore t cycle w.dst (leBytes 8 v.toNat) (useBanks t cycle (outcomeUses cycle w) s).1
      else (useBanks t cycle (outcomeUses cycle w) s).1 := by
  unfold deliverTile
  rw [hm, if_neg (by decide), hv]
  rfl

theorem deliverTile_cases (t cycle : Nat) (w : StrWait) (s : State) :
    OnlyBreaches t s (deliverTile t cycle w s) ∨ ∃ v, w.mismatch = false ∧ w.result = some v := by
  obtain hm | hm := Bool.eq_false_or_eq_true w.mismatch
  · refine .inl ?_
    rw [deliverTile, if_pos hm]
    exact .tileFaultAt ..
  · cases hv : w.result with
    | none => exact .inl (by rw [deliverTile, hm, if_neg (by decide), hv]; exact .refl t s)
    | some v => exact .inr ⟨v, hm, rfl⟩

theorem deliverTile_onTile (t cycle : Nat) (w : StrWait) (s : State) : OnTile t s (deliverTile t cycle w s) := by
  obtain h | ⟨v, hm, hv⟩ := deliverTile_cases t cycle w s
  · exact .ofBreaches h
  · rw [deliverTile_writes hm hv]
    split
    · exact (OnTile.useBanks ..).trans (.padStore ..)
    · exact .useBanks ..

/-- An outcome changes of the tile its accesses, its violations and what its ports have written. -/
theorem deliverTile_tile (t cycle : Nat) (w : StrWait) (s : State) : ∃ u d k p,
    (deliverTile t cycle w s).tile t = { s.tile t with uses := u, dues := d, raised := k, past := p } := by
  obtain ⟨-, -, d, k, h⟩ | ⟨v, hm, hv⟩ := deliverTile_cases t cycle w s
  · exact ⟨(s.tile t).uses, d, k, (s.tile t).past, h⟩
  · rw [deliverTile_writes hm hv]
    obtain ⟨u, d, k, h, -, -⟩ := useBanks_tile t cycle (outcomeUses cycle w) s
    split
    · obtain ⟨p, hp⟩ := padStore_tile t cycle w.dst (leBytes 8 v.toNat) (useBanks t cycle (outcomeUses cycle w) s).1
      exact ⟨u, d, k, p, by rw [hp, h]⟩
    · exact ⟨u, d, k, _, h⟩

/-- An outcome that is written changes memory as it stands, where no later write of the tile's ports has come before. -/
theorem deliverTile_mem {t cycle : Nat} {w : StrWait} {v : Word} (hm : w.mismatch = false) (hv : w.result = some v)
    (h : s.inOrder t [cycle]) : (deliverTile t cycle w s).mem =
      if (useBanks t cycle (outcomeUses cycle w) s).2 then memWrites s.mem w.dst (leBytes 8 v.toNat) else s.mem := by
  rw [deliverTile_writes hm hv]
  obtain ⟨u, d, k, htile, hmem, -⟩ := useBanks_tile t cycle (outcomeUses cycle w) s
  split
  · rw [(padStore_mem (by rw [htile]; exact fun p hp => h.1 p hp cycle (by simp)) _ _).1, hmem]
  · exact hmem

/-- An outcome writes at most its 8 bytes. -/
theorem deliverTile_kept {t cycle : Nat} (w : StrWait) (h : s.inOrder t [cycle]) :
    MemoryKept w.dst 8 s (deliverTile t cycle w s) := by
  intro b hb
  obtain hb' | ⟨v, hm, hv⟩ := deliverTile_cases t cycle w s
  · rw [hb'.eq State.mem fun _ _ _ _ _ => rfl]
  · rw [deliverTile_mem hm hv h]
    split
    · exact memRead_memWrites_out _ _ _ _ (by simpa [leBytes] using hb)
    · rfl

/-- An outcome is written where the bank lets mover 1's port write in the cycle. -/
theorem deliverTile_bytes {t cycle : Nat} {w : StrWait} {v : Word} (hm : w.mismatch = false) (hv : w.result = some v)
    (h : s.inOrder t [cycle]) (hok : ∀ b ∈ banksOf w.dst 8, s.image.bound t b 5 = true ∧ (s.tile t).windowAt b cycle = false ∧
      ∀ k ∈ (s.tile t).uses, usesClash ⟨b, 5, cycle, 1, 1, w.seq⟩ k.1 cycle = false) :
    (deliverTile t cycle w s).bytes w.dst 8 = leBytes 8 v.toNat := by
  have hgrant : (useBanks t cycle (outcomeUses cycle w) s).2 = true :=
    useBanks_grants (by decide) (fun b hb => (hok b hb).1) (fun b hb => (hok b hb).2.1) fun b hb => (hok b hb).2.2
  rw [State.bytes, deliverTile_mem hm hv h, if_pos hgrant]
  exact memReads_memWrites _ _ _

theorem deliverRed_frame (d : Nat) (w : StrWait) (s : State) :
    ∃ rs e h t b, deliverRed d w s = { s with reds := rs, err := e, host := h, troupes := t, boot := b } := by
  unfold deliverRed
  split
  · exact ⟨_, s.err, s.host, s.troupes, s.boot, rfl⟩
  · split
    · obtain ⟨e, h, t, b, k⟩ := unitFault_frame (s.modRed d fun x => { x with state := 0 }) (48 + d) fcEncoding w.addr w.obj
      exact ⟨_, e, h, t, b, k⟩
    · exact ⟨s.reds, s.err, s.host, s.troupes, s.boot, rfl⟩

/-! ### The release -/

theorem resumeEngine_frame (u : Nat) (s : State) :
    ∃ r d g f, resumeEngine u s = { s with reds := r, dats := d, grots := g, fab := f } := by
  unfold resumeEngine
  split
  · exact ⟨_, s.dats, s.grots, s.fab, rfl⟩
  · split
    · exact ⟨s.reds, _, s.grots, s.fab, rfl⟩
    · split
      · exact ⟨s.reds, s.dats, _, s.fab, rfl⟩
      · split
        · exact ⟨s.reds, s.dats, s.grots, _, rfl⟩
        · exact ⟨s.reds, s.dats, s.grots, s.fab, rfl⟩

/-- A wait whose condition is satisfied ends with the k that it took (R79). -/
def waitTaken (u : Nat) (w : WaitRec) (s : State) : State := (subtractWait u w s).setWait u none

/-- A tile issues again from a cycle on. -/
def Tile.resumed (x : Tile) (cycle : Nat) : Tile := { x with state := tsIssue, cycle := cycle }

/-- What is taken from counts and waits by a release: r is s with the wait of u ended. -/
structure Released (u : Nat) (w : WaitRec) (s r : State) : Prop where
  waits : r.waits = tset s.waits u none
  tokens : r.tokens = (subtractWait u w s).tokens
  regions : r.plc = (subtractWait u w s).plc

/-- The state in which WAIT_RELEASE leaves a tile, before the cycles that it has reached are judged. -/
def tileReleased (u cycle : Nat) (w : WaitRec) (s : State) : State :=
  let r := (waitTaken u w s).modTile u fun x => x.resumed (cycle + 2)
  if w.kind = 4 then deliverTile u cycle (tget { kind := 0, obj := 0 } s.str.waits u) (r.endStrWait u) else r

/-- The state in which WAIT_RELEASE leaves an engine. -/
def engineReleased (u : Nat) (w : WaitRec) (s : State) : State :=
  let r := resumeEngine u (waitTaken u w s)
  if w.kind = 4 then deliverRed (u - 48) (tget { kind := 0, obj := 0 } s.str.waits u) (r.endStrWait u) else r

theorem waitTaken_str (u : Nat) (w : WaitRec) (s : State) : (waitTaken u w s).str = s.str := by
  obtain ⟨ts, tk, p, h⟩ := subtractWait_frame u w s
  rw [waitTaken, h]
  rfl

theorem execWaitRelease_of_tile {u : UnitId} {cycle : Nat} {w : WaitRec} (hl : s.live = true) (hw : s.wait u = some w)
    (h48 : u.val < 48) (hd : tileRelease s u cycle w = true) :
    ∃ lo, execWaitRelease u cycle s = .next (judgeOn u lo (tileReleased u cycle w s)) := by
  unfold execWaitRelease
  rw [hw, Option.filter_some, if_pos (by rw [releaseDue, if_pos h48]; exact hd), eventOf_some _ _ _ hl]
  dsimp only
  rw [if_pos h48]
  refine ⟨_, congrArg (fun r => Host.Outcome.next (judgeOn u _ r)) ?_⟩
  rw [tileReleased, ← waitTaken_str u w s]
  rfl

theorem execWaitRelease_of_engine {u : UnitId} {cycle : Nat} {w : WaitRec} (hl : s.live = true) (hw : s.wait u = some w)
    (h48 : ¬ u.val < 48) (hd : releaseDue s u cycle w = true) :
    execWaitRelease u cycle s = .next (engineReleased u w s) := by
  unfold execWaitRelease
  rw [hw, Option.filter_some, if_pos hd, eventOf_some _ _ _ hl]
  dsimp only
  rw [if_neg h48, engineReleased, ← waitTaken_str u w s]
  rfl

theorem released_of_tile (u cycle : Nat) (w : WaitRec) (s : State) (lo : Nat) :
    Released u w s (judgeOn u lo (tileReleased u cycle w s)) := by
  have hb := OnlyBreaches.judgeOn u lo (tileReleased u cycle w s)
  have keep {α : Type} (f : State → α) (hf : ∀ (s : State) m ts e h tr b x,
      f { s with mem := m, tiles := ts, err := e, host := h, troupes := tr, boot := b, str := x } = f s) : f (judgeOn u lo (tileReleased u cycle w s)) = f (waitTaken u w s) := by
    refine (hb.eq f fun ts e h tr b => hf _ _ ts e h tr b _).trans ?_
    unfold tileReleased
    extract_lets r
    have hr : f r = f (waitTaken u w s) := (OnTile.modTile u _ (waitTaken u w s)).eq f (hf _)
    split
    · refine ((deliverTile_onTile ..).eq f (hf _)).trans (Eq.trans ?_ hr)
      exact hf r r.mem r.tiles r.err r.host r.troupes r.boot _
    · exact hr
  obtain ⟨ts, tk, p, h⟩ := subtractWait_frame u w s
  refine ⟨(keep State.waits fun _ _ _ _ _ _ _ _ => rfl).trans ?_, keep State.tokens fun _ _ _ _ _ _ _ _ => rfl,
    keep State.plc fun _ _ _ _ _ _ _ _ => rfl⟩
  rw [waitTaken, h]
  rfl

theorem released_of_engine (u : Nat) (w : WaitRec) (s : State) : Released u w s (engineReleased u w s) := by
  obtain ⟨ts, tk, p, h⟩ := subtractWait_frame u w s
  obtain ⟨r, d, g, f, he⟩ := resumeEngine_frame u (waitTaken u w s)
  rw [engineReleased, he, waitTaken, h]
  split
  · obtain ⟨rs, e, x, t, b, hd⟩ := deliverRed_frame (u - 48) (tget { kind := 0, obj := 0 } s.str.waits u)
      (State.endStrWait { (({ s with tiles := ts, tokens := tk, plc := p } : State).setWait u none) with
        reds := r, dats := d, grots := g, fab := f } u)
    rw [hd]
    exact ⟨rfl, by rw [h]; rfl, by rw [h]; rfl⟩
  · exact ⟨rfl, by rw [h]; rfl, by rw [h]; rfl⟩

/-- What the release of a wait leaves of the counts and the waits (R79, R438). -/
theorem Released.counts {u : Nat} {w : WaitRec} {r : State} (h : Released u w s r) :
    r.wait u = none ∧ (∀ v, v ≠ u → r.wait v = s.wait v) ∧
    (w.kind = 2 → (r.token w.chan).count = (s.token w.chan).count - w.k ∧ (r.token w.chan).waiter = none) ∧
    (w.kind = 3 → r.region w.chan = (s.region w.chan).take w.k) := by
  refine ⟨?_, fun v hv => ?_, fun h2 => ?_, fun h3 => ?_⟩
  · rw [State.wait, h.waits, tget_tset_same]
  · rw [State.wait, h.waits, tget_tset_ne _ _ _ _ _ hv, State.wait]
  · have ht : r.token w.chan = (s.token w.chan).take w.k := (congrArg (tget _ · _) h.tokens).trans (subtractWait_token h2)
    rw [ht]
    exact ⟨rfl, rfl⟩
  · exact (congrArg (fun p : PlcState => tget _ p.regions _) h.regions).trans (subtractWait_region h3)

/-- The tile goes on; of its channels, the one that it waited for has lost k (R79). -/
theorem tileReleased_tile (u cycle : Nat) (w : WaitRec) (s : State) (lo : Nat) :
    let r := judgeOn u lo (tileReleased u cycle w s)
    (r.tile u).state = tsIssue ∧ (r.tile u).cycle = cycle + 2 ∧
    (w.kind = 1 → (r.tile u).tokens = tmod 0 (s.tile u).tokens w.chan fun c => c - w.k) := by
  have keep {α : Type} (f : Tile → α) (hf : ∀ (x : Tile) us d k p, f { x with uses := us, dues := d, raised := k, past := p } = f x) :
      f ((judgeOn u lo (tileReleased u cycle w s)).tile u) = f (((waitTaken u w s).tile u).resumed (cycle + 2)) := by
    refine ((OnlyBreaches.judgeOn u lo (tileReleased u cycle w s)).tile_eq f fun d k => hf _ _ d k _).trans ?_
    unfold tileReleased
    extract_lets r
    have hr : r.tile u = ((waitTaken u w s).tile u).resumed (cycle + 2) := State.tile_modTile_same _ _ _
    split
    · obtain ⟨us, d, k, p, h⟩ := deliverTile_tile u cycle (tget { kind := 0, obj := 0 } s.str.waits u) (r.endStrWait u)
      rw [h, hf, ← hr]
      rfl
    · rw [hr]
  refine ⟨keep Tile.state fun _ _ _ _ _ => rfl, keep Tile.cycle fun _ _ _ _ _ => rfl, fun h1 => ?_⟩
  refine (keep Tile.tokens fun _ _ _ _ _ => rfl).trans ?_
  show ((waitTaken u w s).tile u).tokens = _
  rw [waitTaken, subtractWait_tile h1]
  exact congrArg Tile.tokens (State.tile_modTile_same s u fun x => x.consumed w.chan w.k)

/-- Memory of a release: that of the outcome where the tile was blocked on Strings, else as it was. -/
theorem tileReleased_mem (u cycle : Nat) (w : WaitRec) (s : State) (lo : Nat) :
    (w.kind ≠ 4 → (judgeOn u lo (tileReleased u cycle w s)).mem = s.mem) ∧
    (w.kind = 4 → ∃ r, (judgeOn u lo (tileReleased u cycle w s)).mem =
      (deliverTile u cycle (tget { kind := 0, obj := 0 } s.str.waits u) r).mem ∧ r.mem = s.mem ∧ r.image = s.image ∧
      r.tile u = (s.tile u).resumed (cycle + 2)) := by
  have hm : (judgeOn u lo (tileReleased u cycle w s)).mem = (tileReleased u cycle w s).mem :=
    (OnlyBreaches.judgeOn u lo _).eq State.mem fun _ _ _ _ _ => rfl
  refine ⟨fun h4 => hm.trans ?_, fun h4 => ?_⟩
  · obtain ⟨ts, tk, p, h⟩ := subtractWait_frame u w s
    rw [tileReleased, if_neg h4, waitTaken, h]
    rfl
  · refine ⟨_, hm.trans (by rw [tileReleased, if_pos h4]), ?_, ?_, ?_⟩
    · rw [waitTaken, subtractWait_strings h4]
      rfl
    · rw [waitTaken, subtractWait_strings h4]
      rfl
    · rw [waitTaken, subtractWait_strings h4]
      exact State.tile_modTile_same (s.setWait u none) u fun x => x.resumed (cycle + 2)

/-- An engine that is released goes on with its entry; no memory changes. -/
theorem engineReleased_acts (u : Nat) (w : WaitRec) (s : State) : (engineReleased u w s).mem = s.mem ∧
    (w.kind ≠ 4 → 48 ≤ u → u < 52 →
      ((engineReleased u w s).redEng (u - 48)).released = true ∧ ((engineReleased u w s).redEng (u - 48)).state = 1) ∧
    (w.kind ≠ 4 → 72 ≤ u →
      ((engineReleased u w s).fabEng (u - 72)).released = true ∧ ((engineReleased u w s).fabEng (u - 72)).state = 1) := by
  refine ⟨?_, fun h4 h48 h52 => ?_, fun h4 h72 => ?_⟩
  · obtain ⟨ts, tk, p, h⟩ := subtractWait_frame u w s
    obtain ⟨r, d, g, f, he⟩ := resumeEngine_frame u (waitTaken u w s)
    rw [engineReleased, he, waitTaken, h]
    split
    · obtain ⟨rs, e, x, t, b, hd⟩ := deliverRed_frame (u - 48) (tget { kind := 0, obj := 0 } s.str.waits u)
        (State.endStrWait { (({ s with tiles := ts, tokens := tk, plc := p } : State).setWait u none) with
          reds := r, dats := d, grots := g, fab := f } u)
      rw [hd]
      rfl
    · rfl
  · rw [engineReleased, if_neg h4, resumeEngine, if_pos h52, State.redEng_modRed_same]
    exact ⟨rfl, rfl⟩
  · rw [engineReleased, if_neg h4, resumeEngine, if_neg (by omega), if_neg (by omega), if_neg (by omega), if_pos h72,
      State.fabEng_modFab_same]
    exact ⟨rfl, rfl⟩

/-- When the wait of a tile may be released (R73, R76). -/
theorem tileRelease_of {u cycle : Nat} {w : WaitRec} (hs : (s.tile u).state = tsWait) (hc : w.cycle ≤ cycle)
    (hset : (s.tile u).settled cycle = true) (hcaught : (s.tile u).caughtUp cycle = true)
    (h : (w.kind = 1 ∧ inBounds (tget [] (s.tile u).tokenLog w.chan) w.k w.cycle cycle = true) ∨
      ((w.kind = 2 ∨ w.kind = 3) ∧ countRelease s u ((s.tile u).spanAt w.cycle) ((s.tile u).spanAt cycle) w = true) ∨
      (w.kind = 4 ∧ (tget { kind := 0, obj := 0 } s.str.waits u).released = true ∧
        (tget { kind := 0, obj := 0 } s.str.waits u).since ≤ (s.tile u).spanAt cycle ∧
        ((tget { kind := 0, obj := 0 } s.str.waits u).kind = 3 ∨ (s.tile u).spanAt cycle ≤
          max (tget { kind := 0, obj := 0 } s.str.waits u).since ((s.tile u).spanAt w.cycle) + releaseLimit s.image
            (tget { kind := 0, obj := 0 } s.str.waits u).kind (tget { kind := 0, obj := 0 } s.str.waits u).obj))) :
    tileRelease s u cycle w = true := by
  simp only [tileRelease, hs, hc, hset, hcaught, BEq.rfl, decide_true, Bool.true_and]
  obtain ⟨hk, h⟩ | ⟨hk | hk, h⟩ | ⟨hk, hrel, hsince, hlim⟩ := h
  · simpa only [hk] using h
  · simpa only [hk] using h
  · simpa only [hk] using h
  · simp only [hk]
    simpa [hrel, hsince] using hlim

/-- When the wait of an engine may be released. -/
theorem releaseDue_of_engine {u cycle : Nat} {w : WaitRec} (h48 : ¬ u < 48)
    (h : ((w.kind = 2 ∨ w.kind = 3) ∧ countRelease s u w.since (2 * cycle) w = true) ∨
      (w.kind = 4 ∧ ¬ (64 ≤ u ∧ u < 68) ∧ (tget { kind := 0, obj := 0 } s.str.waits u).released = true)) :
    releaseDue s u cycle w = true := by
  rw [releaseDue, if_neg h48]
  obtain ⟨hk | hk, h⟩ | ⟨hk, hgrot, hrel⟩ := h
  · simpa only [hk] using h
  · simpa only [hk] using h
  · simp only [hk]
    simp [hrel]
    omega

/-- Settles O25: a release takes k from the count, and lets the tile or the engine go on. -/
theorem waitsReleaseWhenTheirCountIsReached : Obligations.WaitsReleaseWhenTheirCountIsReached := by
  unfold Obligations.WaitsReleaseWhenTheirCountIsReached
  intro u cycle s w q x inTile inEngine hlive hw htile hengine
  have counted (hk : w.kind = 2 ∨ w.kind = 3) : ∃ i a, countRelease s u i a w = true := by
    by_cases h48 : u.val < 48
    · obtain ⟨-, -, -, -, ⟨h1, -⟩ | ⟨-, h⟩ | ⟨h4, -⟩⟩ := htile h48
      · omega
      · exact ⟨_, _, h⟩
      · omega
    · obtain ⟨-, h⟩ | ⟨h4, -⟩ := hengine (by omega)
      · exact ⟨_, _, h⟩
      · omega
  obtain ⟨r, hexec, hreleased, ontile, onengine⟩ : ∃ r, exec (.waitRelease u cycle) s = .next r ∧ Released u w s r ∧
      (u.val < 48 → ∃ lo, r = judgeOn u lo (tileReleased u cycle w s)) ∧ (48 ≤ u.val → r = engineReleased u w s) := by
    by_cases h48 : u.val < 48
    · obtain ⟨hs, hc, hset, hcaught, hcase⟩ := htile h48
      obtain ⟨lo, h⟩ := execWaitRelease_of_tile hlive hw h48 (tileRelease_of hs hc hset hcaught hcase)
      exact ⟨_, h, released_of_tile .., fun _ => ⟨lo, rfl⟩, fun h => absurd h (by omega)⟩
    · have h := execWaitRelease_of_engine hlive hw h48 (releaseDue_of_engine h48 (hengine (by omega)))
      exact ⟨_, h, released_of_engine .., fun h => absurd h h48, fun _ => rfl⟩
  obtain ⟨hnone, hothers, htoken, hregion⟩ := hreleased.counts
  have hmem : w.kind ≠ 4 ∨ 48 ≤ u.val → r.mem = s.mem := by
    intro h
    by_cases h48 : u.val < 48
    · obtain ⟨lo, rfl⟩ := ontile h48
      exact (tileReleased_mem u cycle w s lo).1 (by omega)
    · rw [onengine (by omega)]
      exact (engineReleased_acts u w s).1
  refine ⟨r, hexec, hnone, hothers, fun h48 => ?_, fun hk h48 c => ?_, fun hk => ?_, fun hk => ?_, hmem, fun hin => ?_,
    fun hk h48 hmis hin v hv hok => ?_, fun hk h48 h52 => ?_, fun hk h72 => ?_⟩
  · obtain ⟨lo, rfl⟩ := ontile h48
    obtain ⟨hs, hc, -⟩ := tileReleased_tile u cycle w s lo
    exact ⟨hs, hc⟩
  · obtain ⟨lo, rfl⟩ := ontile h48
    rw [(tileReleased_tile u cycle w s lo).2.2 hk, tmod, tget_tset]
    split
    · next h => rw [h]
    · rfl
  · obtain ⟨i, a, h⟩ := counted (.inl hk)
    exact ⟨countRelease_token hk h, htoken hk⟩
  · obtain ⟨i, a, h⟩ := counted (.inr hk)
    refine ⟨countRelease_region hk h, ?_⟩
    rw [hregion hk]
    rfl
  · by_cases h4 : w.kind ≠ 4 ∨ 48 ≤ u.val
    · exact fun b _ => by rw [hmem h4]
    · obtain ⟨lo, rfl⟩ := ontile (by omega)
      obtain ⟨r, hmem, hr, -, htile⟩ := (tileReleased_mem u cycle w s lo).2 (by omega)
      intro b hb
      rw [hmem, deliverTile_kept (s := r) q ⟨by rw [htile]; exact hin.1, hin.2⟩ b hb, hr]
  · obtain ⟨lo, rfl⟩ := ontile h48
    obtain ⟨r, hmem, hr, himg, htile⟩ := (tileReleased_mem u cycle w s lo).2 hk
    rw [State.bytes, hmem]
    exact deliverTile_bytes (s := r) hmis hv ⟨by rw [htile]; exact hin.1, hin.2⟩ fun b hb => by
      rw [himg, htile]
      exact hok b hb
  · rw [onengine h48]
    exact (engineReleased_acts u w s).2.1 hk h48 h52
  · rw [onengine (by omega)]
    exact (engineReleased_acts u w s).2.2 hk h72

end Sys2Proof.Machine
end

section
/-! SUPPORT. The start of a queued command (O15): what each unit's start leaves of the queues of its tile (R73, R74). -/

namespace Sys2Proof.Machine

open Sys2Proof

variable {s : State}

/-! ### Units of a tile -/

theorem Tile.unit_modUnit (x : Tile) (u v : Nat) (f : TUnit → TUnit) :
    (x.modUnit u f).unit v = if v = u then f (x.unit u) else x.unit v := tget_tset _ _ _ _ _

/-- The queues of a tile and the last start of each unit stand. -/
def Tile.SameQueues (x y : Tile) : Prop := ∀ u, (y.unit u).queue = (x.unit u).queue ∧ (y.unit u).lastStart = (x.unit u).lastStart

theorem Tile.sameQueues_of_units {x y : Tile} (h : y.units = x.units) : x.SameQueues y := fun u => by
  rw [Tile.unit, h]
  exact ⟨rfl, rfl⟩

theorem Tile.sameQueues_modUnit (x : Tile) (u : Nat) {f : TUnit → TUnit} (h : ∀ q, (f q).queue = q.queue ∧ (f q).lastStart = q.lastStart) :
    x.SameQueues (x.modUnit u f) := fun v => by
  rw [Tile.unit_modUnit]
  split
  · next hv => rw [hv]; exact h _
  · exact ⟨rfl, rfl⟩

/-- r is s but for tile t and what its units reach, and every queue of the tile stands. -/
def QueuesKept (t : Nat) (s r : State) : Prop := OnTile t s r ∧ (s.tile t).SameQueues (r.tile t)

namespace QueuesKept

variable {t : Nat}

theorem refl (t : Nat) (s : State) : QueuesKept t s s := ⟨.refl t s, fun _ => ⟨rfl, rfl⟩⟩

theorem trans {s r q : State} (h : QueuesKept t s r) (k : QueuesKept t r q) : QueuesKept t s q :=
  ⟨h.1.trans k.1, fun u => ⟨(k.2 u).1.trans (h.2 u).1, (k.2 u).2.trans (h.2 u).2⟩⟩

theorem foldl {α : Type} {f : State → α → State} (h : ∀ s a, QueuesKept t s (f s a)) (l : List α) (s : State) :
    QueuesKept t s (l.foldl f s) :=
  List.foldlRecOn (motive := QueuesKept t s) _ _ (refl t s) fun _ k a _ => k.trans (h _ a)

theorem modTile {f : Tile → Tile} (h : ∀ x : Tile, x.SameQueues (f x)) (s : State) : QueuesKept t s (s.modTile t f) :=
  ⟨.modTile t f s, by rw [State.tile_modTile_same]; exact h _⟩

theorem modTile_units {f : Tile → Tile} (h : ∀ x : Tile, (f x).units = x.units) (s : State) : QueuesKept t s (s.modTile t f) :=
  modTile (fun x => Tile.sameQueues_of_units (h x)) s

theorem ofBreaches {r : State} (h : OnlyBreaches t s r) : QueuesKept t s r :=
  ⟨.ofBreaches h, Tile.sameQueues_of_units (h.tile_eq Tile.units fun _ _ => rfl)⟩

theorem useBanks (t c : Nat) (us : List (BankUse × Nat)) (s : State) : QueuesKept t s (Machine.useBanks t c us s).1 := by
  obtain ⟨u, d, k, h, -, -⟩ := useBanks_tile t c us s
  exact ⟨.useBanks t c us s, Tile.sameQueues_of_units (by rw [h])⟩

/-- A change of Strings alone. -/
theorem ofStr (x : StrState) (s : State) : QueuesKept t s { s with str := x } :=
  ⟨⟨⟨s.mem, s.tiles, s.err, s.host, s.troupes, s.boot, x, rfl⟩, fun _ _ => rfl⟩, fun _ => ⟨rfl, rfl⟩⟩

theorem sendStr (m : StrMsg) (s : State) : QueuesKept t s (Machine.sendStr m s) := ofStr _ s

theorem signalTile (t ch k lo hi addr seq : Nat) (s : State) : QueuesKept t s (Machine.signalTile t ch k lo hi addr seq s) := by
  unfold Machine.signalTile
  extract_lets c
  split
  · exact modTile_units (by intro _; rfl) s
  · exact ofBreaches (.tileFaultAt ..)

theorem sendTk (t : Nat) (r : Run) (s : State) : QueuesKept t s (Machine.sendTk t r s) := by
  unfold Machine.sendTk
  extract_lets w
  split
  · exact signalTile ..
  · exact sendStr ..

theorem pumpSignals (t : Nat) (s : State) : QueuesKept t s (Machine.pumpSignals t s) := by
  refine foldl (fun s r => ?_) _ s
  split
  · exact (modTile (by exact fun x => x.sameQueues_modUnit 5 (by intro _; exact ⟨rfl, rfl⟩)) s).trans (sendTk ..)
  · exact refl t s

theorem finished (t u seq cycle : Nat) (s : State) : QueuesKept t s (Machine.finished t u seq cycle s) := by
  unfold Machine.finished
  extract_lets hold later
  exact (modTile (by exact fun x => Tile.sameQueues_modUnit x 5 (f := later) (by intro _; exact ⟨rfl, rfl⟩)) s).trans (pumpSignals ..)

theorem duty (t kind a b seq addr : Nat) (s : State) : QueuesKept t s (Machine.duty t kind a b seq addr s) := by
  unfold Machine.duty
  split
  · exact refl t s
  · extract_lets x lo hi caps news s1
    refine (modTile_units (fun x => ?_) s).trans (ofBreaches (.raiseDues ..))
    split <;> rfl

theorem fireRound (t c : Nat) (s : State) : QueuesKept t s (Machine.fireRound t c s) := by
  unfold Machine.fireRound
  extract_lets old s1 moved kept
  have h1 : QueuesKept t s s1 := modTile_units (by intro _; rfl) s
  split
  · exact h1
  · exact h1.trans (.trans (modTile_units (by intro _; rfl) s1) (foldl (fun s (f : GateFill) => useBanks t c f.uses s) _ _))

end QueuesKept

/-! ### The start of a command -/

/-- r is s but for tile t and what its units reach; unit u of it has taken the head of its queue, in a cycle, and no other
queue has changed (R73). -/
structure Started (t u start : Nat) (s r : State) : Prop where
  onTile : OnTile t s r
  queue : ((r.tile t).unit u).queue = ((s.tile t).unit u).queue.drop 1
  lastStart : ((r.tile t).unit u).lastStart = start
  others : ∀ v, v ≠ u → ((r.tile t).unit v).queue = ((s.tile t).unit v).queue

namespace Started

variable {t u start : Nat}

theorem before {s r q : State} (h : QueuesKept t s r) (k : Started t u start r q) : Started t u start s q :=
  ⟨h.1.trans k.onTile, by rw [k.queue, (h.2 u).1], k.lastStart, fun v hv => (k.others v hv).trans (h.2 v).1⟩

theorem after {s r q : State} (h : Started t u start s r) (k : QueuesKept t r q) : Started t u start s q :=
  ⟨h.onTile.trans k.1, (k.2 u).1.trans h.queue, (k.2 u).2.trans h.lastStart, fun v hv => (k.2 v).1.trans (h.others v hv)⟩

/-- A tile of which one unit has taken its head. -/
theorem modTile {f : Tile → Tile} {g : TUnit → TUnit} (hf : ∀ x, (f x).units = (x.modUnit u g).units)
    (hg : ∀ q, (g q).queue = q.queue.drop 1 ∧ (g q).lastStart = start) (s : State) : Started t u start s (s.modTile t f) := by
  have hunit (v : Nat) : ((s.modTile t f).tile t).unit v = ((s.tile t).modUnit u g).unit v := by
    rw [State.tile_modTile_same, Tile.unit, hf]
    rfl
  refine ⟨.modTile t f s, ?_, ?_, fun v hv => ?_⟩
  · rw [hunit, Tile.unit_modUnit, if_pos rfl]
    exact (hg _).1
  · rw [hunit, Tile.unit_modUnit, if_pos rfl]
    exact (hg _).2
  · rw [hunit, Tile.unit_modUnit, if_neg hv]

theorem takeHead (free : Nat) (s : State) : Started t u start s (s.modTile t fun x => x.takeHead u start free) :=
  modTile (by intro _; rfl) (by intro _; exact ⟨rfl, rfl⟩) s

end Started

theorem startAcc_starts (t : Nat) (c : Cmd) (s : State) :
    Started t 0 (accStart (s.tile t) (accOf c.word.toNat) c) s (startAcc t c s) := by
  unfold startAcc
  extract_lets x a nd wd wf n start g drop bad west north done r
  have hdrop (q : State) : Started t 0 start q (drop q) := .modTile (by intro _; rfl) (by intro _; exact ⟨rfl, rfl⟩) q
  split
  · exact hdrop s
  · split
    · exact (hdrop s).after (.ofBreaches (.raiseBreaches ..))
    · generalize hp : useBanks t start _ s = p
      have h1 : QueuesKept t s p.1 := hp ▸ .useBanks t start _ s
      dsimp only
      split
      · exact .before h1 (hdrop p.1)
      · exact .before h1 (.after (.modTile (g := fun q => { q.started 1 start with running := q.running ++ [r], freeAt := start + g })
          (by intro _; rfl) (fun _ => ⟨rfl, rfl⟩) _) (.duty ..))

theorem startDrain_starts (t : Nat) (c : Cmd) (s : State) : Started t 0 (drainAccept (s.tile t) c) s (startDrain t c s) := by
  unfold startDrain
  extract_lets x w bank gated accept start d fmt dels scat s1 bad rowAddr clash s2 ws r
  have h1 : Started t 0 accept s s1 := .modTile (by intro _; rfl) (by intro _; exact ⟨rfl, rfl⟩) s
  have h2 : Started t 0 accept s s2 := h1.after (.ofBreaches (.raiseDues ..))
  split
  · exact h1.after (.ofBreaches (.tileFaultAt ..))
  · generalize hp : useBanks t start _ s2 = p
    have h3 : Started t 0 accept s p.1 := h2.after (hp ▸ .useBanks t start _ s2)
    dsimp only
    split
    · exact h3
    · exact h3.after (.modTile (by exact fun x => Tile.sameQueues_modUnit x 0 (f := fun q => { q with running := q.running ++ [r] }) (fun _ => ⟨rfl, rfl⟩)) p.1)

theorem startMover_starts (t m : Nat) (c : Cmd) (start : Nat) (s : State) :
    Started t (2 + m) start s (startMover t m c start s) := by
  unfold startMover
  extract_lets x op p n drop
  have hdrop (q : State) (free : Nat) : Started t (2 + m) start q (drop q free) := .takeHead free q
  split
  · exact (hdrop s _).after (.ofBreaches (.raiseBreaches ..))
  · generalize hq : (if op = 0x30 then (s, true) else useBanks t start _ s) = q
    have h1 : QueuesKept t s q.1 := by
      rw [← hq]
      split
      · exact .refl t s
      · exact .useBanks ..
    dsimp only
    split
    · exact .before h1 (hdrop q.1 _)
    · refine .before h1 ((hdrop q.1 _).after (.modTile (fun x => ?_) _))
      exact x.sameQueues_modUnit (2 + m) fun _ => ⟨rfl, rfl⟩

theorem startFill_keeps (t : Nat) (c : Cmd) (start : Nat) (s : State) : QueuesKept t s (startFill t c start s) := by
  unfold startFill
  extract_lets w x ctx d slot bad upr first units f
  split
  · exact .ofBreaches (.tileFaultAt ..)
  · generalize hp : useBanks t start _ s = p
    have h1 : QueuesKept t s p.1 := hp ▸ .useBanks t start _ s
    dsimp only
    split
    · exact h1
    · exact h1.trans (.modTile_units (by intro _; rfl) _)

theorem startArm_keeps (t : Nat) (c : Cmd) (start : Nat) (s : State) : QueuesKept t s (startArm t c start s) := by
  unfold startArm
  extract_lets w s1
  have h1 : QueuesKept t s s1 := .modTile_units (by intro _; rfl) s
  split
  · exact h1.trans (.fireRound ..)
  · exact h1

theorem startGate_keeps (t : Nat) (c : Cmd) (start : Nat) (joined : Bool) (s : State) :
    QueuesKept t s (startGate t c start joined s) := by
  unfold startGate
  extract_lets op
  split
  · exact startFill_keeps ..
  · split
    · exact (startArm_keeps ..).trans (.finished ..)
    · refine .trans ?_ (.finished ..)
      split
      · exact .refl t s
      · exact .fireRound ..

theorem startToken_keeps (t : Nat) (c : Cmd) (start : Nat) (s : State) : QueuesKept t s (startToken t c start s) := by
  unfold startToken
  extract_lets w ch bad
  split
  · exact .ofBreaches (.tileFaultAt ..)
  · exact .trans (.modTile (by exact fun x => x.sameQueues_modUnit 5 (by intro _; exact ⟨rfl, rfl⟩)) s) (.pumpSignals ..)

theorem startStrings_keeps (t : Nat) (c : Cmd) (start : Nat) (s : State) : QueuesKept t s (startStrings t c start s) := by
  unfold startStrings
  extract_lets w x op kind obj msg reads
  split
  · exact .ofBreaches (.tileFaultAt ..)
  · split
    · exact .sendStr ..
    · split
      · exact .trans (.ofStr _ s) (.sendStr ..)
      · split
        · next a d _ _ =>
          generalize hq : (if reads then useBanks t start _ s else (s, true)) = q
          have h1 : QueuesKept t s q.1 := by
            rw [← hq]
            split
            · exact .useBanks ..
            · exact .refl t s
          dsimp only
          split
          · exact h1
          · exact h1.trans (.trans (.ofStr _ q.1) (.sendStr ..))
        · exact .ofBreaches (.tileFaultAt ..)

theorem startLogger_keeps (t : Nat) (c : Cmd) (start : Nat) (s : State) : QueuesKept t s (startLogger t c start s) := by
  have hput (x : Tile) (r : LogRec) : (x.putLog r).units = x.units := by
    unfold Tile.putLog
    split <;> rfl
  unfold startLogger
  extract_lets w op base
  split
  · exact .modTile_units (by intro _; rfl) s
  · split
    · exact .modTile_units (fun x => hput x _) s
    · exact .modTile_units (fun x => hput x _) s

/-! ### COMMAND_START -/

theorem le_startOf (q : TUnit) (c : Cmd) : c.issue + 2 ≤ q.startOf c := le_max_left _ _

/-- The head command of a unit's queue, where nothing holds it, starts no sooner than two cycles after its issue (R73). -/
theorem startUnit_starts {t u : Nat} (c : Cmd) (hu : u < 8) (h1 : u ≠ 1) (h : ((s.tile t).headStart u).isSome = true) :
    ∃ start, c.issue + 2 ≤ start ∧ Started t u start s (startUnit t u c s) := by
  unfold startUnit
  extract_lets x start s1
  rw [if_neg (by cases hx : x.headStart u <;> simp_all [x])]
  have hissue : c.issue + 2 ≤ start := by
    simp only [start, gateStart]
    split
    · split
      · exact le_startOf ..
      · exact le_max_of_le_left (le_startOf ..)
    · exact le_startOf ..
  have hs1 : Started t u start s s1 := .takeHead (start + 1) s
  split
  · next h0 =>
    subst h0
    unfold startArray
    split
    · refine ⟨_, ?_, startAcc_starts t c s⟩
      have hb : c.issue + 2 ≤ max (max (((s.tile t).unit 0).startOf c) (tget 0 (s.tile t).accDrained (accOf c.word.toNat).bank))
        ((s.tile t).unit 0).lastStart := le_max_of_le_left (le_max_of_le_left (le_startOf ..))
      simp only [accStart]
      split
      · exact le_max_of_le_left hb
      · exact hb
    · exact ⟨_, le_max_of_le_left (le_max_left _ _), startDrain_starts t c s⟩
  · split
    · next h23 =>
      obtain ⟨m, rfl⟩ : ∃ m, u = 2 + m := ⟨u - 2, by omega⟩
      rw [Nat.add_sub_cancel_left]
      exact ⟨start, hissue, startMover_starts t m c start s⟩
    · refine ⟨start, hissue, ?_⟩
      split
      · exact hs1.after (startGate_keeps ..)
      · split
        · exact hs1.after (startToken_keeps ..)
        · split
          · exact hs1.after ((startStrings_keeps ..).trans (.finished ..))
          · exact hs1.after ((startLogger_keeps ..).trans (.finished ..))

/-- Where nothing holds the head of a unit's queue, time alone keeps it back. -/
theorem headStart_isSome {x : Tile} {u : Nat} {c : Cmd} {cs : List Cmd} (hq : (x.unit u).queue = c :: cs) (h1 : u ≠ 1)
    (h : ¬ ((u = 0 ∧ arrayBlocked x c = true) ∨ (u = 4 ∧ gateBlocked x c = true))) : (x.headStart u).isSome = true := by
  simp only [Tile.headStart, if_neg h1, hq, List.head?_cons, Option.bind_some]
  split
  · next h0 => rw [if_neg (by tauto)]; rfl
  · split
    · rw [if_neg (by tauto)]; rfl
    · rfl

theorem headStart_held {x : Tile} {u : Nat} {c : Cmd} {cs : List Cmd} (hq : (x.unit u).queue = c :: cs)
    (h : (u = 0 ∧ arrayBlocked x c = true) ∨ (u = 4 ∧ gateBlocked x c = true)) : x.headStart u = none := by
  obtain ⟨rfl, h⟩ | ⟨rfl, h⟩ := h <;> simp [Tile.headStart, hq, h]

/-- Settles O15: the head starts on its unit, or is held by the gate. -/
theorem commandsStartNoSoonerThanTheirUnitIsFree : Obligations.CommandsStartNoSoonerThanTheirUnitIsFree := by
  unfold Obligations.CommandsStartNoSoonerThanTheirUnitIsFree
  intro t unit s c cs x held hlive hworks h1 hq
  have hexec (hdue : dueHead x unit = some c) : exec (.commandStart t unit) s = .next (startUnit t unit c s) := by
    show execCommandStart t unit s = _
    rw [execCommandStart]
    rw [if_pos ⟨h1, hworks⟩, hdue, eventOf_some _ _ _ hlive]
  refine ⟨fun hfree hsettled hready => ?_, fun hheld => ?_⟩
  · have hsome := headStart_isSome hq h1 hfree
    obtain ⟨start, hissue, hstart⟩ := startUnit_starts (s := s) c unit.isLt h1 hsome
    refine ⟨_, hexec ?_, by rw [hstart.queue, hq]; rfl, by rw [hstart.lastStart]; exact hissue, hstart.others,
      hstart.onTile.2, hstart.onTile.eq State.time fun _ _ _ _ _ _ _ => rfl,
      hstart.onTile.eq State.grots fun _ _ _ _ _ _ _ => rfl, hstart.onTile.eq State.coh fun _ _ _ _ _ _ _ => rfl⟩
    obtain ⟨τ, hτ⟩ := Option.isSome_iff_exists.1 hsome
    simp [dueHead, hq, hτ, hsettled τ hτ, hready]
  · have hnone := headStart_held hq hheld
    rw [hexec (by simp [dueHead, hq, hnone])]
    unfold startUnit
    rw [if_pos (by simp only [x] at hnone; rw [hnone]; rfl)]
    rfl

end Sys2Proof.Machine
end

section
/-! SUPPORT. The end of a drain (O20) and of a mover command (O18): what finishing leaves where no TK.SIGNAL waits. -/

namespace Sys2Proof.Machine

open Sys2Proof

variable {s : State}

/-! ### Finishing, where no signal waits (R80) -/

/-- With no TK.SIGNAL started and unsent, a command that finishes notes its cycle and nothing else. -/
theorem finished_quiet {t : Nat} (u seq cycle : Nat) (h : ((s.tile t).unit 5).running = []) : ∃ f us l,
    finished t u seq cycle s = s.modTile t f ∧ f (s.tile t) = { s.tile t with units := us, lastDone := l } ∧
    ∀ v, (tget {} us v).running = ((s.tile t).unit v).running := by
  unfold finished
  extract_lets hold later
  refine ⟨fun x => { x.modUnit 5 later with lastDone := max x.lastDone cycle }, _, _, ?_, rfl, fun v => ?_⟩
  · unfold pumpSignals
    rw [State.tile_modTile_same]
    have hnone : (later ((s.tile t).unit 5)).running = [] := by simp [later, h]
    rw [show ({ (s.tile t).modUnit 5 later with lastDone := max (s.tile t).lastDone cycle } : Tile).unit 5 =
      later ((s.tile t).unit 5) from (Tile.unit_modUnit _ 5 5 later).trans (if_pos rfl), hnone]
    rfl
  · show (((s.tile t).modUnit 5 later).unit v).running = _
    rw [Tile.unit_modUnit]
    split
    · next hv => subst hv; simp [later, h]
    · rfl

/-! ### Signals of a tile channel -/

theorem signalTile_tile (t ch k lo hi addr seq : Nat) (s : State) : ∃ tk tl d r,
    (signalTile t ch k lo hi addr seq s).tile t = { s.tile t with tokens := tk, tokenLog := tl, dues := d, raised := r } ∧
    (signalTile t ch k lo hi addr seq s).mem = s.mem ∧ OnTile t s (signalTile t ch k lo hi addr seq s) := by
  unfold signalTile
  extract_lets c
  split
  · exact ⟨_, _, (s.tile t).dues, (s.tile t).raised, State.tile_modTile_same _ _ _, rfl, .modTile ..⟩
  · have hb := OnlyBreaches.tileFaultAt t (s.tile t).cycle seq addr fcTokenOverflow ch s
    have ⟨_, _, d, r, h⟩ := hb
    exact ⟨(s.tile t).tokens, (s.tile t).tokenLog, d, r, h, hb.eq State.mem fun _ _ _ _ _ => rfl, .ofBreaches hb⟩

/-! ### A round released (R150, R152) -/

theorem signalContexts_tile (t last addr seq : Nat) (g : Gate) (r : GateRound) (s : State) : ∃ tk tl d k,
    (signalContexts t last addr seq g r s).tile t = { s.tile t with tokens := tk, tokenLog := tl, dues := d, raised := k } ∧
    (signalContexts t last addr seq g r s).mem = s.mem ∧ OnTile t s (signalContexts t last addr seq g r s) := by
  refine List.foldlRecOn (motive := fun q : State => ∃ tk tl d k,
    q.tile t = { s.tile t with tokens := tk, tokenLog := tl, dues := d, raised := k } ∧ q.mem = s.mem ∧ OnTile t s q) _ _
    ⟨_, _, _, _, rfl, rfl, .refl t s⟩ fun q ⟨tk, tl, d, k, hq, hm, ho⟩ e _ => ?_
  dsimp only
  split
  · obtain ⟨tk', tl', d', k', h', hm', ho'⟩ := signalTile_tile t (tget {} g.map e.1).channel e.2 (last + 4) (last + 4) addr seq q
    exact ⟨tk', tl', d', k', by rw [h', hq], hm'.trans hm, ho.trans ho'⟩
  · exact ⟨tk, tl, d, k, hq, hm, ho⟩

/-- A release clears the fired round of the gate and signals its contexts. -/
theorem releaseRound_tile (t last addr seq : Nat) (s : State) : ∃ g tk tl d k,
    (releaseRound t last addr seq s).tile t = { s.tile t with gate := g, tokens := tk, tokenLog := tl, dues := d, raised := k } ∧
    (releaseRound t last addr seq s).mem = s.mem ∧ OnTile t s (releaseRound t last addr seq s) ∧
    ((s.tile t).gate.fired.isSome = true → g.fired = none ∧ g.freeFrom = last + 1) := by
  unfold releaseRound
  extract_lets g
  split
  · next hnone => exact ⟨_, _, _, _, _, rfl, rfl, .refl t s, fun h => by simp [g] at hnone; simp [hnone] at h⟩
  · next r _ =>
    obtain ⟨tk, tl, d, k, h, hm, ho⟩ := signalContexts_tile t last addr seq g r (s.modTile t fun x =>
      { x with gate := { x.gate with fired := none, freeFrom := last + 1, holdSince := none } })
    rw [State.tile_modTile_same] at h
    exact ⟨_, tk, tl, d, k, h, hm, .trans (.modTile ..) ho, fun _ => ⟨rfl, rfl⟩⟩

/-! ### DRAIN_END -/

/-- What a port of the tile writes rests on memory and on what the tile's ports have written. -/
theorem padStore_congr {t : Nat} {q : State} (hm : q.mem = s.mem) (hp : (q.tile t).past = (s.tile t).past) (c a : Nat) (bs : List Byte) :
    (padStore t c a bs q).mem = (padStore t c a bs s).mem ∧
    ((padStore t c a bs q).tile t).past = ((padStore t c a bs s).tile t).past := by
  unfold padStore
  simp only [State.tile_modTile_same, hm, hp]
  exact ⟨rfl, trivial⟩

theorem padWrites_congr {t : Nat} {q : State} (ws : List Write) (hm : q.mem = s.mem) (hp : (q.tile t).past = (s.tile t).past) :
    (padWrites t ws q).mem = (padWrites t ws s).mem := by
  induction ws generalizing q s with
  | nil => exact hm
  | cons w ws ih =>
    obtain ⟨hm', hp'⟩ := padStore_congr hm hp w.cycle w.addr w.data
    exact ih hm' hp'

/-- Running commands after one has left its unit. -/
theorem Tile.dropRun_running (x : Tile) (u seq : Nat) :
    ((x.dropRun u seq).unit u).running = (x.unit u).running.filter fun r => r.cmd.seq != seq := by
  rw [dropRun, Tile.unit_modUnit, if_pos rfl]

theorem Tile.dropRun_unit_ne (x : Tile) {u v : Nat} (seq : Nat) (h : v ≠ u) : (x.dropRun u seq).unit v = x.unit v := by
  rw [dropRun, Tile.unit_modUnit, if_neg h]

/-- Settles O20: the drain leaves, its writes are made in their cycles, and a gated one releases its round. -/
theorem drainsWriteTheirRowsAndReleaseTheRound : Obligations.DrainsWriteTheirRowsAndReleaseTheRound := by
  unfold Obligations.DrainsWriteTheirRowsAndReleaseTheRound
  intro t s r x hlive hrun hsettled hquiet
  set s1 := padWrites t r.writes (s.modTile t fun x => x.dropRun 0 r.cmd.seq) with hs1
  obtain ⟨past, htile1⟩ := padWrites_tile t r.writes (s.modTile t fun x => x.dropRun 0 r.cmd.seq)
  rw [State.tile_modTile_same, ← hs1] at htile1
  have hon1 : OnTile t s s1 := .trans (.modTile ..) (.padWrites ..)
  have hmem1 : s1.mem = (padWrites t r.writes s).mem := by
    refine padWrites_congr r.writes rfl ?_
    rw [State.tile_modTile_same]
    rfl
  set s2 := if bitOf r.cmd.word.toNat 13 then releaseRound t r.busyTo r.cmd.addr r.cmd.seq s1 else s1 with hs2
  obtain ⟨g, tk, tl, d, k, htile2, hmem2, hon2, hgated, hplain⟩ : ∃ g tk tl d k,
      s2.tile t = { s1.tile t with gate := g, tokens := tk, tokenLog := tl, dues := d, raised := k } ∧ s2.mem = s1.mem ∧
      OnTile t s1 s2 ∧ (bitOf r.cmd.word.toNat 13 = true → x.gate.fired.isSome = true → g.fired = none ∧ g.freeFrom = r.busyTo + 1) ∧
      (bitOf r.cmd.word.toNat 13 = false → g = x.gate ∧ tk = x.tokens) := by
    rw [hs2]
    split
    · next h13 =>
      obtain ⟨g, tk, tl, d, k, h, hm, ho, hf⟩ := releaseRound_tile t r.busyTo r.cmd.addr r.cmd.seq s1
      refine ⟨g, tk, tl, d, k, h, hm, ho, fun _ hfired => hf ?_, fun h => by simp [h13] at h⟩
      rw [htile1]
      exact hfired
    · next h13 =>
      exact ⟨(s1.tile t).gate, (s1.tile t).tokens, _, _, _, rfl, rfl, .refl t s1, fun h => absurd h h13,
        fun _ => by rw [htile1]; exact ⟨rfl, rfl⟩⟩
  have hunit (v : Nat) : (s2.tile t).unit v = (x.dropRun 0 r.cmd.seq).unit v := by
    rw [htile2, htile1]
    rfl
  obtain ⟨f, us, l, hfin, htile3, hrunning⟩ := finished_quiet (s := s2) (t := t) 0 r.cmd.seq r.done (by
    rw [hunit, Tile.dropRun_unit_ne _ _ (by decide)]
    exact hquiet)
  have htile : (s2.modTile t f).tile t = { s2.tile t with units := us, lastDone := l } :=
    (State.tile_modTile_same _ _ _).trans htile3
  refine ⟨s2.modTile t f, ?_, hmem2.trans hmem1, fun hin => ?_, ?_, ?_, ?_, fun h13 hfired => ?_, fun h13 => ?_⟩
  · show execDrainEnd t s = _
    rw [execDrainEnd, hrun, Option.filter_some, if_pos hsettled, eventOf_some _ _ _ hlive, ← hfin]
  · have hmem : (s2.modTile t f).mem = r.writes.foldl (fun m w => memWrites m w.addr w.data) s.mem :=
      hmem2.trans (hmem1.trans (padWrites_mem r.writes s hin))
    refine ⟨hmem, fun b hb => ?_⟩
    rw [hmem]
    exact memRead_foldl_memWrites Write.addr Write.data r.writes s.mem hb
  · rw [htile, htile2, htile1]
    rfl
  · exact ((hon1.trans hon2).trans (.modTile t f s2)).2
  · rw [htile]
    show (tget {} us 0).running = _
    rw [hrunning, hunit, Tile.dropRun_running]
  · rw [htile, htile2]
    exact hgated h13 hfired
  · rw [htile, htile2]
    exact hplain h13

/-! ### MOVER_FINISH -/

/-- The signal of a destination descriptor, where its channel's count stays within 32 bits (R106). -/
theorem descSignal_acts {t signal : Nat} (lo hi addr seq : Nat) (h : tget 0 (s.tile t).tokens (signal % 256) + 1 < 2 ^ 32) :
    let r := descSignal t signal lo hi addr seq s
    (∃ tk tl, r.tile t = { s.tile t with tokens := tk, tokenLog := tl } ∧
      ∀ c, tget 0 tk c = tget 0 (s.tile t).tokens c + if signal / 2 ^ 14 = 1 ∧ c = signal % 256 then 1 else 0) ∧
    (∀ v, v ≠ t → r.tile v = s.tile v) ∧
    r.str.msgs = s.str.msgs ++ (if signal / 2 ^ 14 = 2
      then [{ kind := 0, obj := signal % 2 ^ 14, unit := t, value := 1, addr := addr
              sent := max ((s.tile t).spanAt lo) s.time.span }] else []) ∧
    r.mem = s.mem ∧ r.tag = s.tag := by
  unfold descSignal
  split
  · next h1 =>
    rw [signalTile, if_pos h, if_neg (by omega), List.append_nil]
    refine ⟨⟨_, _, State.tile_modTile_same _ _ _, fun c => ?_⟩, fun v hv => State.tile_modTile_ne _ _ _ _ hv, rfl, rfl, rfl⟩
    rw [tget_tset]
    by_cases hc : c = signal % 256
    · rw [if_pos hc, if_pos ⟨h1, hc⟩, hc]
    · rw [if_neg hc, if_neg fun h => hc h.2]
      rfl
  · next h1 =>
    split
    · next h2 =>
      refine ⟨⟨(s.tile t).tokens, (s.tile t).tokenLog, rfl, fun c => ?_⟩, fun v _ => rfl, rfl, rfl, rfl⟩
      rw [if_neg fun h => h1 h.1]
      rfl
    · refine ⟨⟨(s.tile t).tokens, (s.tile t).tokenLog, rfl, fun c => ?_⟩, fun v _ => rfl, (List.append_nil _).symm, rfl, rfl⟩
      rw [if_neg fun h => h1 h.1]
      rfl

/-- The state in which a mover command's counts and tag part have been taken (R106, R121, R359). -/
def moverCounted (t : Nat) (u : Nat) (p : ConvPar) (r : Run) (s : State) : State :=
  let w := r.cmd.word.toNat
  let s := s.modTile t fun x => x.dropRun u r.cmd.seq
  let s := if bitOf w 9 then countInto t (fld w 48 8) r.cmd.addr u r.done (moverCounts (opcodeOf w) p r) s else s
  if opcodeOf w = 0x31 then tagPart p.dst.tagRef s else s

theorem tagPart_frame (tag : Nat) (s : State) : tagPart tag s = { s with tag := (tagPart tag s).tag } := by
  unfold tagPart
  split <;> rfl

theorem tagPart_tag {q : State} (tag : Nat) (h : q.tag = s.tag) : (tagPart tag q).tag = (tagPart tag s).tag := by
  unfold tagPart
  split
  · exact h
  · rw [h]

theorem moverCounted_acts (t u : Nat) (p : ConvPar) (r : Run) (s : State) :
    (moverCounted t u p r s).tile t = { (s.tile t).dropRun u r.cmd.seq with
      adds := (s.tile t).adds ++ (if bitOf r.cmd.word.toNat 9 = true ∧ (s.tile t).sealed = false
        then [⟨fld r.cmd.word.toNat 48 8, r.done, u, r.cmd.addr, moverCounts (opcodeOf r.cmd.word.toNat) p r⟩] else []) } ∧
    (∀ v, v ≠ t → (moverCounted t u p r s).tile v = s.tile v) ∧ (moverCounted t u p r s).mem = s.mem ∧
    (moverCounted t u p r s).str = s.str ∧ (moverCounted t u p r s).time = s.time ∧
    (moverCounted t u p r s).tag = (if opcodeOf r.cmd.word.toNat = 0x31 then (tagPart p.dst.tagRef s).tag else s.tag) := by
  unfold moverCounted
  extract_lets w s1 s2
  have hs2 : s2.tile t = { (s.tile t).dropRun u r.cmd.seq with adds := (s.tile t).adds ++ (if bitOf w 9 = true ∧
      (s.tile t).sealed = false then [⟨fld w 48 8, r.done, u, r.cmd.addr, moverCounts (opcodeOf w) p r⟩] else []) } ∧
      (∀ v, v ≠ t → s2.tile v = s.tile v) ∧ s2.mem = s.mem ∧ s2.str = s.str ∧ s2.time = s.time ∧ s2.tag = s.tag := by
    have h1 : s1.tile t = (s.tile t).dropRun u r.cmd.seq := State.tile_modTile_same _ _ _
    have h1' (v : Nat) (hv : v ≠ t) : s1.tile v = s.tile v := State.tile_modTile_ne _ _ _ _ hv
    simp only [s2]
    split
    · next h9 =>
      refine ⟨(State.tile_modTile_same _ _ _).trans ?_, fun v hv => (State.tile_modTile_ne _ _ _ _ hv).trans (h1' v hv),
        rfl, rfl, rfl, rfl⟩
      rw [h1]
      cases hsealed : (s.tile t).sealed
      · rw [if_neg (by rw [Tile.dropRun]; simp [Tile.modUnit, hsealed]), if_pos ⟨h9, rfl⟩]
        rfl
      · rw [if_pos (by rw [Tile.dropRun]; simp [Tile.modUnit, hsealed]), if_neg (by simp), List.append_nil]
        rfl
    · next h9 =>
      refine ⟨h1.trans ?_, h1', rfl, rfl, rfl, rfl⟩
      rw [if_neg fun h => h9 h.1, List.append_nil]
      rfl
  obtain ⟨htile, hothers, hmem, hstr, htime, htag⟩ := hs2
  split
  · next h31 =>
    rw [tagPart_frame]
    exact ⟨htile, hothers, hmem, hstr, htime, tagPart_tag _ htag⟩
  · next h31 => exact ⟨htile, hothers, hmem, hstr, htime, htag⟩

/-- Settles O18: the command leaves its mover with its counts, its tag part and its signal. -/
theorem moverCommandFinishes : Obligations.MoverCommandFinishes := by
  unfold Obligations.MoverCommandFinishes
  intro t mover cycle s r rs u x w p ch hlive hrun hlines hlo hhi
  have hdue : ((x.unit u).running.head?.filter fun r =>
      r.lines.all (fun l => l.stage == 2) && decide (r.done + 2 ≤ cycle) && decide (cycle ≤ r.done + 4)) = some r := by
    rw [hrun, List.head?_cons, Option.filter_some, if_pos (by simpa using ⟨⟨hlines, hlo⟩, hhi⟩)]
  refine ⟨fun hcut => ?_, fun hcut hquiet hfit => ?_⟩
  · show execMoverFinish t mover cycle s = _
    rw [execMoverFinish, hdue, eventOf_some _ _ _ hlive]
    dsimp only
    rw [if_pos hcut]
  · obtain ⟨htile1, hothers1, hmem1, hstr1, htime1, htag1⟩ := moverCounted_acts t u p r s
    set s1 := moverCounted t u p r s with hs1
    have hspan (c : Nat) : (s1.tile t).spanAt c = x.spanAt c := by rw [htile1]; rfl
    have htok : (s1.tile t).tokens = x.tokens := by rw [htile1]; rfl
    set s2 := if x.state = tsAbort then s1 else descSignal t p.dst.signal cycle cycle r.cmd.addr r.cmd.seq s1 with hs2
    obtain ⟨⟨tk, tl, htile2, htk⟩, hothers2, hmsgs, hmem2, htag2⟩ : (∃ tk tl, s2.tile t = { s1.tile t with tokens := tk, tokenLog := tl } ∧
          ∀ c, tget 0 tk c = tget 0 x.tokens c + if x.state ≠ tsAbort ∧ p.dst.signal / 2 ^ 14 = 1 ∧ c = ch then 1 else 0) ∧
        (∀ v, v ≠ t.val → s2.tile v = s1.tile v) ∧
        s2.str.msgs = s1.str.msgs ++ (if x.state ≠ tsAbort ∧ p.dst.signal / 2 ^ 14 = 2
          then [{ kind := 0, obj := p.dst.signal % 2 ^ 14, unit := t, value := 1, addr := r.cmd.addr
                  sent := max (x.spanAt cycle) s.time.span }] else []) ∧ s2.mem = s1.mem ∧ s2.tag = s1.tag := by
      rw [hs2]
      split
      · next h =>
        refine ⟨⟨_, _, rfl, fun c => ?_⟩, fun _ _ => rfl, ?_, rfl, rfl⟩
        · rw [if_neg fun k => k.1 h]
          exact congrArg (tget 0 · c) htok
        · rw [if_neg fun k => k.1 h, List.append_nil]
      · next h =>
        obtain ⟨⟨tk, tl, ht, hc⟩, ho, hm, hmem, htag⟩ := descSignal_acts (s := s1) (t := t) (signal := p.dst.signal) cycle cycle
          r.cmd.addr r.cmd.seq (by rw [htok]; exact hfit)
        refine ⟨⟨tk, tl, ht, fun c => ?_⟩, ho, hm.trans ?_, hmem, htag⟩
        · rw [hc, htok]
          simp [h, ch]
        · rw [hspan, htime1]
          simp [h]
    have hunit (v : Nat) : (s2.tile t).unit v = (x.dropRun u r.cmd.seq).unit v := by
      rw [htile2, htile1]
      rfl
    obtain ⟨f, us, l, hfin, htile3, hrunning⟩ := finished_quiet (s := s2) (t := t) u r.cmd.seq r.done (by
      rw [hunit, Tile.dropRun_unit_ne _ _ (by have := mover.isLt; omega)]
      exact hquiet)
    have htile : (s2.modTile t f).tile t = { s2.tile t with units := us, lastDone := l } :=
      (State.tile_modTile_same _ _ _).trans htile3
    refine ⟨s2.modTile t f, ?_, hmem2.trans hmem1, ?_, fun v hv => ?_, ?_, fun c => ?_, ?_, htag2.trans htag1⟩
    · show execMoverFinish t mover cycle s = _
      rw [execMoverFinish, hdue, eventOf_some _ _ _ hlive, ← hfin]
      dsimp only
      rw [if_neg (by rw [hcut]; decide)]
      rfl
    · rw [htile]
      show (tget {} us u).running = _
      rw [hrunning, hunit, Tile.dropRun_running]
    · exact (State.tile_modTile_ne _ _ _ _ hv).trans ((hothers2 v hv).trans (hothers1 v hv))
    · rw [htile, htile2, htile1]
    · rw [htile, htile2]
      exact htk c
    · show s2.str.msgs = _
      rw [hmsgs, hstr1]

end Sys2Proof.Machine
end

section
/-! SUPPORT. Aborts and safe points (O29): the notice that stops a tile, what the safe point resets and what it leaves
undefined, and the record of a safe point that is missed (R91 to R93). -/

namespace Sys2Proof.Machine

open Sys2Proof

variable {s : State}

/-! ### What faults leave of a troupe that aborts -/

/-- The abort of a troupe goes on in r as it stood in s. -/
structure AbortKept (tr : Nat) (s r : State) : Prop where
  kept : (s.troupe tr).state = 2 → (r.troupe tr).state = 2 ∧ (r.troupe tr).due = (s.troupe tr).due ∧
    (r.troupe tr).noticed = (s.troupe tr).noticed ∧ (r.troupe tr).starting = (s.troupe tr).starting

namespace AbortKept

variable {tr : Nat}

theorem of_troupes {r : State} (h : r.troupes = s.troupes) : AbortKept tr s r where
  kept k := by
    have ht : r.troupe tr = s.troupe tr := congrArg (tget ({} : Troupe) · tr) h
    rw [ht]
    exact ⟨k, rfl, rfl, rfl⟩

theorem refl (tr : Nat) (s : State) : AbortKept tr s s := of_troupes rfl

theorem trans {s r q : State} (h : AbortKept tr s r) (k : AbortKept tr r q) : AbortKept tr s q where
  kept hs := by
    obtain ⟨h2, hd, hn, hst⟩ := h.kept hs
    obtain ⟨k2, kd, kn, kst⟩ := k.kept h2
    exact ⟨k2, kd.trans hd, kn.trans hn, kst.trans hst⟩

theorem foldl {α : Type} {f : State → α → State} (h : ∀ s a, AbortKept tr s (f s a)) (l : List α) (s : State) :
    AbortKept tr s (l.foldl f s) :=
  List.foldlRecOn (motive := AbortKept tr s) _ _ (refl tr s) fun _ k a _ => k.trans (h _ a)

theorem modTroupe {f : Troupe → Troupe} (h : ∀ x, (f x).state = x.state ∧ (f x).due = x.due ∧ (f x).noticed = x.noticed ∧
    (f x).starting = x.starting) (i : Nat) (s : State) : AbortKept tr s (s.modTroupe i f) where
  kept k := by
    by_cases hi : tr = i
    · subst hi
      rw [State.troupe_modTroupe_same]
      obtain ⟨h1, h2, h3, h4⟩ := h (s.troupe tr)
      exact ⟨h1.trans k, h2, h3, h4⟩
    · rw [State.troupe_modTroupe_ne _ _ _ _ hi]
      exact ⟨k, rfl, rfl, rfl⟩

/-- A running troupe that begins to abort is another one. -/
theorem beginAbort (i : Nat) (s : State) : AbortKept tr s (Machine.beginAbort i s) where
  kept k := by
    unfold Machine.beginAbort
    split
    · next hi =>
      have hne : tr ≠ i := fun h => by rw [h] at k; omega
      have ht : (evtSend 3 (s.modTroupe i fun x =>
          { x with state := 2, noticed := [], abortAt := s.time.span, auditing := false })).troupe tr = s.troupe tr := by
        rw [State.troupe, evtSend_troupes]
        exact State.troupe_modTroupe_ne s i _ tr hne
      rw [ht]
      exact ⟨k, rfl, rfl, rfl⟩
    · exact ⟨k, rfl, rfl, rfl⟩

theorem formRecord (d : Nat) (r : ErrRec) (s : State) : AbortKept tr s (Machine.formRecord d r s) := by
  obtain ⟨q, ⟨e, h, rfl⟩, acts⟩ := formRecord_acts s d r
  rw [acts]
  have h1 : AbortKept tr s { s with err := e, host := h } := of_troupes rfl
  split
  · split
    · exact h1
    · exact h1.trans (beginAbort ..)
  · split
    · obtain ⟨b, hb⟩ := oweReset_frame { s with err := e, host := h } .fatal
      rw [hb]
      exact of_troupes rfl
    · exact h1

theorem contractFaultAt (at_ die i unit code addr info0 : Nat) (s : State) :
    AbortKept tr s (Machine.contractFaultAt at_ die i unit code addr info0 s) := by
  unfold Machine.contractFaultAt
  extract_lets sid s1
  refine .trans (.modTroupe (fun x => ?_) i s) (.formRecord ..)
  split <;> exact ⟨rfl, rfl, rfl, rfl⟩

theorem tileFaultAt (t cycle seq addr code info0 : Nat) (s : State) :
    AbortKept tr s (Machine.tileFaultAt t cycle seq addr code info0 s) := by
  unfold Machine.tileFaultAt
  split
  · exact refl tr s
  · extract_lets s1
    have h1 : AbortKept tr s s1 := of_troupes rfl
    split
    · exact h1.trans (contractFaultAt ..)
    · exact h1

theorem raiseBreaches (t : Nat) (bs : List Breach) (s : State) : AbortKept tr s (Machine.raiseBreaches t bs s) :=
  foldl (fun s (b : Breach) => tileFaultAt t b.cycle b.seq b.addr b.code b.info0 s) _ s

theorem raiseDues (t : Nat) (bs : List Breach) (s : State) : AbortKept tr s (Machine.raiseDues t bs s) := by
  unfold Machine.raiseDues
  extract_lets x all
  exact .trans (by exact of_troupes rfl) (raiseBreaches ..)

theorem judgeOn (t lo : Nat) (s : State) : AbortKept tr s (Machine.judgeOn t lo s) := by
  unfold Machine.judgeOn Machine.judge
  split
  · exact refl tr s
  · exact (raiseBreaches ..).trans (raiseDues ..)

end AbortKept

/-! ### ABORT_NOTICE -/

theorem abortVotes_frame (u : Nat) (s : State) : ∃ x, abortVotes u s = { s with str := x } := by
  unfold abortVotes
  refine List.foldlRecOn (motive := fun r : State => ∃ x, r = { s with str := x }) _ _ ⟨s.str, rfl⟩ fun r hr q _ => ?_
  obtain ⟨x, rfl⟩ := hr
  extract_lets v commit
  split
  · exact ⟨x, rfl⟩
  · obtain ⟨y, h⟩ := pumpVote_frame (({ s with str := x } : State).modVote q.id fun b =>
      { b with votes := if thas b.votes u then b.votes else tset b.votes u false
               veto := b.veto || commit, cause := lowCause b.cause 4 }) q.id
    exact ⟨y, h⟩

/-- A wait that is abandoned leaves tiles, memory and troupes. -/
theorem abandonWait_frame (u : Nat) (s : State) :
    ∃ tk p x, abandonWait u s = { s with tokens := tk, plc := p, waits := tset s.waits u none, str := x } := by
  unfold abandonWait
  extract_lets s1 keep s2
  obtain ⟨tk, p, h1⟩ : ∃ tk p, s1 = { s with tokens := tk, plc := p } := by
    simp only [s1]
    split
    · next w _ =>
      obtain ⟨-, -, -, h⟩ := setWaiter_tiles (s := s) w.kind w.chan none
      exact ⟨_, _, h⟩
    · exact ⟨s.tokens, s.plc, rfl⟩
  have h2 : s2 = { s with tokens := tk, plc := p, waits := tset s.waits u none } := by
    simp only [s2, h1]
    rfl
  rw [h2]
  split
  · exact ⟨tk, p, s.str, rfl⟩
  · exact ⟨tk, p, _, rfl⟩

/-- A unit of a tile that an abort notice has reached (R91). -/
def abortedUnit (u : Nat) (q : TUnit) : TUnit :=
  { q with
    queue := []
    running := if u = 5 then [] else q.running.map fun r => { r with
      lines := r.lines.filter fun l => decide (0 < l.stage)
      cut := r.lines.any fun l => l.stage == 0 } }

/-- No queue and no TK.SIGNAL is left on a tile that an abort notice has reached (R91). -/
theorem Tile.abort_unit (x : Tile) (k : Nat) : (x.abort.unit k).queue = [] ∧ (k = 5 → (x.abort.unit k).running = []) := by
  have hmap (l : Tbl TUnit) : (tget {} (l.map fun p => (p.1, abortedUnit p.1 p.2)) k).queue = [] ∧
      (k = 5 → (tget {} (l.map fun p => (p.1, abortedUnit p.1 p.2)) k).running = []) := by
    induction l with
    | nil => exact ⟨rfl, fun _ => rfl⟩
    | cons p l ih =>
      rw [List.map_cons, tget]
      split
      · next h => exact ⟨rfl, fun h5 => if_pos (by rw [← h]; exact h5)⟩
      · exact ih
  exact hmap x.units

theorem abortUnit_tile {u : Nat} (tr : Nat) (h48 : u < 48) (s : State) : abortUnit tr u s = abortTile u (abandonWait u s) := by
  have hgrot : ¬ (64 ≤ u ∧ u < 68) := by omega
  simp only [abortUnit, if_neg hgrot, if_pos h48]

/-- The notice stops a tile: its tile, its wait and what its troupe is still due (R91). -/
theorem execAbortNotice_stops {tr : TroupeId} {u : UnitId} (hl : s.live = true) (h2 : (s.troupe tr).state = 2)
    (hu : u.val ∈ s.image.units tr) (hn : u.val ∉ (s.troupe tr).noticed) (h48 : u.val < 48) :
    ∃ r d k, execAbortNotice tr u s = .next r ∧ r.tile u = { (s.tile u).abort with dues := d, raised := k } ∧
      (∀ v, v ≠ u.val → r.tile v = s.tile v) ∧ r.waits = tset s.waits u none ∧ r.mem = s.mem ∧
      (r.troupe tr).noticed = (s.troupe tr).noticed ++ [u.val] ∧
      (r.troupe tr).starting = without (s.troupe tr).starting u ∧ (r.troupe tr).due = (s.troupe tr).due ++ unitDue s u := by
  obtain ⟨tk, p, x, h1⟩ := abandonWait_frame u s
  generalize hq : abandonWait u s = q at h1
  have htile : q.tile u = s.tile u := by rw [h1]; rfl
  have hb := OnlyBreaches.judgeOn u (q.tile u).cycle (q.modTile u Tile.abort)
  have hk := AbortKept.trans (AbortKept.of_troupes (tr := tr) (s := s) (r := q.modTile u Tile.abort) (by rw [h1]; rfl))
    (AbortKept.judgeOn u (q.tile u).cycle (q.modTile u Tile.abort))
  obtain ⟨y, hv⟩ := abortVotes_frame u (judgeOn u (q.tile u).cycle (q.modTile u Tile.abort))
  obtain ⟨-, hdue, hnoticed, hstarting⟩ := hk.kept h2
  obtain ⟨-, hothers, d, k, hown⟩ := hb
  have hend : execAbortNotice tr u s = .next ((abortVotes u (judgeOn u (q.tile u).cycle (q.modTile u Tile.abort))).modTroupe tr
      fun x => { x with due := x.due ++ unitDue s u, noticed := x.noticed ++ [u.val], starting := without x.starting u }) := by
    unfold execAbortNotice
    rw [event_of_due _ _ _ hl (by simpa [h2] using ⟨hu, hn⟩), abortUnit_tile _ h48, hq]
    rfl
  refine ⟨_, d, k, hend, ?_, fun v hv' => ?_, ?_, ?_, ?_, ?_, ?_⟩
  · rw [hv]
    refine hown.trans ?_
    rw [State.tile_modTile_same, htile]
  · rw [hv]
    refine (hothers v hv').trans ((State.tile_modTile_ne _ _ _ _ hv').trans ?_)
    rw [h1]
    rfl
  · rw [hv]
    refine ((OnlyBreaches.judgeOn u _ _).eq State.waits fun _ _ _ _ _ => rfl).trans ?_
    rw [h1]
    rfl
  · rw [hv]
    refine ((OnlyBreaches.judgeOn u _ _).eq State.mem fun _ _ _ _ _ => rfl).trans ?_
    rw [h1]
    rfl
  all_goals
    rw [State.troupe_modTroupe_same, hv]
  · exact congrArg (· ++ [u.val]) hnoticed
  · exact congrArg (without · u) hstarting
  · exact congrArg (· ++ unitDue s u) hdue

/-! ### Memory made undefined -/

theorem memRead_append {l k : List Host.Cell} {b : Nat} (h : ∀ c ∈ l, c.1 ≠ b) : memRead (l ++ k) b = memRead k b := by
  induction l with
  | nil => rfl
  | cons c l ih =>
    rw [List.cons_append, memRead, if_neg fun hb => h c (by simp) hb.symm]
    exact ih fun d hd => h d (List.mem_cons_of_mem _ hd)

theorem memRead_append_left {l k : List Host.Cell} {b : Nat} (h : ∀ c ∈ k, c.1 ≠ b) : memRead (l ++ k) b = memRead l b := by
  induction l with
  | nil =>
    rw [List.nil_append, ← List.append_nil k, memRead_append h]
  | cons c l ih =>
    rw [List.cons_append, memRead, memRead, ih]

theorem memRead_filter (m : List Host.Cell) (p : Host.Cell → Bool) {b : Nat} (h : ∀ v, p (b, v) = true) :
    memRead (m.filter p) b = memRead m b := by
  induction m with
  | nil => rfl
  | cons c m ih =>
    rw [List.filter_cons]
    split
    · rw [memRead, memRead, ih]
    · next hp =>
      rw [memRead, if_neg, ih]
      rintro rfl
      exact hp (h c.2)

/-- Bytes outside a range that becomes undefined stand. -/
theorem memRead_memFree {m : List Host.Cell} {base len k b : Nat} (h : b < base ∨ base + len ≤ b) :
    memRead (memFree m base len k) b = memRead m b := by
  have hnew : ∀ c ∈ (List.range len).filterMap fun i => if Config.freeByte k (base + i) = unlisted then none
      else some (base + i, Config.freeByte k (base + i)), c.1 ≠ b := by
    intro c hc
    obtain ⟨i, hi, hsome⟩ := List.mem_filterMap.1 hc
    split at hsome
    · cases hsome
    · cases hsome
      have := List.mem_range.1 hi
      dsimp only
      omega
  unfold memFree
  by_cases hlow : b < base
  · rw [List.append_assoc, memRead_append_left, memRead_filter _ _ fun v => by simpa using hlow]
    intro c hc
    obtain hc | hc := List.mem_append.1 hc
    · exact hnew c hc
    · have := List.mem_filter.1 hc
      simp at this
      omega
  · rw [memRead_append, memRead_filter _ _ fun v => by simp; omega]
    intro c hc
    obtain hc | hc := List.mem_append.1 hc
    · have := List.mem_filter.1 hc
      simp at this
      omega
    · exact hnew c hc

/-! ### SAFE_POINT: tiles -/

/-- What a fold over tiles establishes of each of them and keeps of all. -/
theorem foldl_tiles {f : State → Nat → State} {P : Tile → Prop} (hset : ∀ s t, P ((f s t).tile t))
    (hkeep : ∀ s t v, P (s.tile v) → P ((f s t).tile v)) (l : List Nat) (s : State) : ∀ t ∈ l, P ((l.foldl f s).tile t) := by
  have keep (l : List Nat) (s : State) (v : Nat) (h : P (s.tile v)) : P ((l.foldl f s).tile v) :=
    List.foldlRecOn (motive := fun r : State => P (r.tile v)) _ _ h fun r hr t _ => hkeep r t v hr
  induction l generalizing s with
  | nil => exact fun t h => absurd h List.not_mem_nil
  | cons u l ih =>
    intro t ht
    rw [List.foldl_cons]
    obtain rfl | ht := List.mem_cons.1 ht
    · exact keep l _ _ (hset s _)
    · exact ih _ t ht

theorem foldl_tiles_keep {f : State → Nat → State} {P : Tile → Prop} {v : Nat}
    (hkeep : ∀ s t, P (s.tile v) → P ((f s t).tile v)) (l : List Nat) (s : State) (h : P (s.tile v)) :
    P ((l.foldl f s).tile v) :=
  List.foldlRecOn (motive := fun r : State => P (r.tile v)) _ _ h fun r hr t _ => hkeep r t hr

/-- A tile as the safe point leaves it (R92): no tokens counted, in no scene, sealed. -/
def Tile.atRest (x : Tile) : Prop := x.sealed = true ∧ x.tokens = [] ∧ x.state = tsNone

theorem putLog_scene (x : Tile) (r : LogRec) : (x.putLog r).tokens = x.tokens ∧ (x.putLog r).state = x.state := by
  unfold Tile.putLog
  split <;> exact ⟨rfl, rfl⟩

theorem tile_draw (s : State) (v : Nat) : s.draw.tile v = s.tile v := rfl

/-- An aborted tile whose scene has ended (R127, R129). -/
theorem settleTile_tile (s : State) (t v : Nat) : ((settleTile s t).tile v).tokens = (s.tile v).tokens ∧
    ((settleTile s t).tile v).state = if v = t then tsNone else (s.tile v).state := by
  by_cases hv : v = t
  · subst hv
    rw [if_pos rfl, settleTile, tile_draw, State.tile_modTile_same]
    exact ⟨rfl, rfl⟩
  · rw [if_neg hv, settleTile, tile_draw, State.tile_modTile_ne _ _ _ _ hv]
    exact ⟨rfl, rfl⟩

theorem sealTile_tile (tr : Nat) (s : State) (t v : Nat) : ((sealTile tr true s t).tile v).tokens = (s.tile v).tokens ∧
    ((sealTile tr true s t).tile v).state = (s.tile v).state ∧
    ((sealTile tr true s t).tile v).sealed = if v = t then true else (s.tile v).sealed := by
  by_cases hv : v = t
  · subst hv
    rw [show (sealTile tr true s v).tile v = _ from State.tile_modTile_same _ _ _, if_pos rfl]
    exact ⟨(putLog_scene _ _).1, (putLog_scene _ _).2, rfl⟩
  · rw [show (sealTile tr true s t).tile v = _ from State.tile_modTile_ne _ _ _ _ hv, if_neg hv]
    exact ⟨rfl, rfl, rfl⟩

theorem foldl_settleTile_frame (l : List Nat) (s : State) : ∃ ts k, l.foldl settleTile s = { s with tiles := ts, fresh := k } :=
  List.foldlRecOn (motive := fun r : State => ∃ ts k, r = { s with tiles := ts, fresh := k }) _ _ ⟨s.tiles, s.fresh, rfl⟩
    fun r ⟨ts, k, h⟩ t _ => by
      subst h
      exact ⟨_, _, rfl⟩

theorem foldl_sealTile_frame (tr : Nat) (l : List Nat) (s : State) : ∃ ts, l.foldl (sealTile tr true) s = { s with tiles := ts } :=
  List.foldlRecOn (motive := fun r : State => ∃ ts, r = { s with tiles := ts }) _ _ ⟨s.tiles, rfl⟩ fun r ⟨ts, h⟩ t _ => by
    subst h
    exact ⟨_, rfl⟩

/-- The tiles whose tokens read none are at rest once their scenes are settled and their counters sealed. -/
theorem settled_sealed_atRest (tr : Nat) (l : List Nat) (s : State) (h : ∀ t ∈ l, (s.tile t).tokens = []) :
    ∀ t ∈ l, ((l.foldl (sealTile tr true) (l.foldl settleTile s)).tile t).atRest := by
  intro t ht
  have htok : ((l.foldl settleTile s).tile t).tokens = [] :=
    foldl_tiles_keep (P := fun x => x.tokens = []) (fun s u h => (settleTile_tile s u t).1.trans h) l s (h t ht)
  have hstate : ((l.foldl settleTile s).tile t).state = tsNone :=
    foldl_tiles (P := fun x => x.state = tsNone) (fun s u => (settleTile_tile s u u).2.trans (if_pos rfl))
      (fun s u v h => (settleTile_tile s u v).2.trans (by rw [h, ite_self])) l s t ht
  refine ⟨foldl_tiles (P := fun x => x.sealed = true) (fun s u => (sealTile_tile tr s u u).2.2.trans (if_pos rfl))
    (fun s u v h => (sealTile_tile tr s u v).2.2.trans (by rw [h, ite_self])) l _ t ht, ?_, ?_⟩
  · exact foldl_tiles_keep (P := fun x => x.tokens = []) (fun s u h => (sealTile_tile tr s u t).1.trans h) l _ htok
  · exact foldl_tiles_keep (P := fun x => x.state = tsNone) (fun s u h => (sealTile_tile tr s u t).2.1.trans h) l _ hstate

/-! ### SAFE_POINT: counts -/

theorem tget_foldl_modToken (base n : Nat) (f : Nat → Token) (s : State) : ∃ tk,
    (List.range n).foldl (fun s k => s.modToken (base + k) fun _ => f k) s = { s with tokens := tk } ∧
    ∀ k, k < n → tget {} tk (base + k) = f k := by
  induction n with
  | zero => exact ⟨s.tokens, rfl, fun k h => absurd h (by omega)⟩
  | succ n ih =>
    obtain ⟨tk, h, hk⟩ := ih
    rw [List.range_succ, List.foldl_append, h]
    refine ⟨_, rfl, fun k hn => ?_⟩
    rw [tmod, tget_tset]
    split
    · rw [show k = n by omega]
    · exact hk k (by omega)

theorem tget_foldl_modBarrier (base n : Nat) (s : State) : ∃ bs,
    (List.range n).foldl (fun s k => s.modBarrier (base + k) fun _ => {}) s =
      { s with str := { s.str with barriers := bs } } ∧ ∀ k, k < n → tget {} bs (base + k) = {} := by
  induction n with
  | zero => exact ⟨s.str.barriers, rfl, fun k h => absurd h (by omega)⟩
  | succ n ih =>
    obtain ⟨bs, h, hk⟩ := ih
    rw [List.range_succ, List.foldl_append, h]
    refine ⟨_, rfl, fun k hn => ?_⟩
    rw [tmod, tget_tset]
    split
    · rfl
    · exact hk k (by omega)

theorem foldl_modFlow_frame {α : Type} (g : α → Nat) (f : α → FlowCtx) (l : List α) (s : State) :
    ∃ x, l.foldl (fun s a => s.modFlow (g a) fun _ => f a) s = { s with fab := x } :=
  List.foldlRecOn (motive := fun r : State => ∃ x, r = { s with fab := x }) _ _ ⟨s.fab, rfl⟩ fun r ⟨x, h⟩ a _ => by
    subst h
    exact ⟨_, rfl⟩

theorem foldl_modRed_frame (f : Nat → RedEngine → RedEngine) (l : List Nat) (s : State) :
    ∃ x, l.foldl (fun s d => s.modRed d (f d)) s = { s with reds := x } :=
  List.foldlRecOn (motive := fun r : State => ∃ x, r = { s with reds := x }) _ _ ⟨s.reds, rfl⟩ fun r ⟨x, h⟩ a _ => by
    subst h
    exact ⟨_, rfl⟩

/-- The tokens of tiles cleared. -/
theorem foldl_clearTokens (l : List Nat) (s : State) : ∃ ts,
    l.foldl (fun s t => s.modTile t fun x => { x with tokens := [], tokenLog := [] }) s = { s with tiles := ts } ∧
    ∀ t ∈ l, (tget ({} : Tile) ts t).tokens = [] := by
  obtain ⟨ts, h⟩ : ∃ ts, l.foldl (fun s t => s.modTile t fun x => { x with tokens := [], tokenLog := [] }) s = { s with tiles := ts } :=
    List.foldlRecOn (motive := fun r : State => ∃ x, r = { s with tiles := x }) _ _ ⟨s.tiles, rfl⟩ fun r ⟨x, h⟩ a _ => by
      subst h
      exact ⟨_, rfl⟩
  refine ⟨ts, h, fun t ht => ?_⟩
  have hclear := foldl_tiles (f := fun s t => s.modTile t fun x => { x with tokens := [], tokenLog := [] })
    (P := fun x => x.tokens = []) (fun s t => congrArg Tile.tokens (State.tile_modTile_same s t _)) (fun s t v hv => ?_) l s t ht
  · rwa [h] at hclear
  · by_cases hvt : v = t
    · subst hvt
      exact congrArg Tile.tokens (State.tile_modTile_same s v _)
    · exact (congrArg Tile.tokens (State.tile_modTile_ne s t _ v hvt)).trans hv

/-- What the safe point resets: channels, barriers, flows, tokens of tiles and the reduction engines (R92). -/
theorem resetCounts_resets {tr : Nat} {rec : TroupeRec} (h : s.image.troupeRec tr = some rec) :
    ∃ tk x f ts r, resetCounts tr s = { s with tokens := tk, str := x, fab := f, tiles := ts, reds := r } ∧
      (∀ k, k < rec.tokenCount → tget {} tk (rec.tokenBase + k) =
        { count := s.image.creditOf 0 (rec.tokenBase + k), waiter := none }) ∧
      (∀ k, k < rec.barrierCount → tget {} x.barriers (rec.barrierBase + k) = {}) ∧
      ∀ t ∈ s.image.tiles tr, (tget ({} : Tile) ts t).tokens = [] := by
  unfold resetCounts
  extract_lets i
  simp only [i, h]
  obtain ⟨tk, h1, htk⟩ := tget_foldl_modToken rec.tokenBase rec.tokenCount (fun k =>
    { count := s.image.creditOf 0 (rec.tokenBase + k), waiter := none }) s
  rw [h1]
  obtain ⟨bs, h2, hbs⟩ := tget_foldl_modBarrier rec.barrierBase rec.barrierCount { s with tokens := tk }
  rw [h2]
  obtain ⟨f, h3⟩ := foldl_modFlow_frame FlowRec.flow (fun f => { credits := f.credits }) (s.image.flowsOf tr)
    { s with tokens := tk, str := { s.str with barriers := bs } }
  rw [h3]
  obtain ⟨ts, h4, hts⟩ := foldl_clearTokens (s.image.tiles tr) { s with tokens := tk, str := { s.str with barriers := bs }, fab := f }
  rw [h4]
  obtain ⟨r, h5⟩ := foldl_modRed_frame _ (List.range 4)
    { s with tokens := tk, str := { s.str with barriers := bs }, fab := f, tiles := ts }
  exact ⟨tk, _, f, ts, r, h5, htk, hbs, hts⟩

theorem resetCounts_image (tr : Nat) (s : State) : (resetCounts tr s).image = s.image := by
  cases h : s.image.troupeRec tr with
  | none => simp only [resetCounts, h]
  | some rec =>
    obtain ⟨_, _, _, _, _, heq, -⟩ := resetCounts_resets h
    rw [heq]
    rfl

/-! ### SAFE_POINT: memory and fences -/

/-- r is s but for memory above the tiers and for tiles, fences and free values; a tile at rest stays so. -/
structure AtRestKept (s r : State) : Prop where
  frame : ∃ m k ts fs, r = { s with mem := m, fresh := k, tiles := ts, fences := fs }
  tiers : ∀ b, inTier b 1 = true → memRead r.mem b = memRead s.mem b
  rest : ∀ v, (s.tile v).atRest → (r.tile v).atRest

theorem AtRestKept.foldl {α : Type} {f : State → α → State} (h : ∀ s a, AtRestKept s (f s a)) (l : List α) (s : State) :
    AtRestKept s (l.foldl f s) :=
  List.foldlRecOn (motive := AtRestKept s) _ _ ⟨⟨s.mem, s.fresh, s.tiles, s.fences, rfl⟩, fun _ _ => rfl, fun _ h => h⟩
    fun r k a _ => by
      obtain ⟨⟨m, n, ts, fs, hf⟩, ht, hr⟩ := k
      obtain ⟨⟨m', n', ts', fs', hf'⟩, ht', hr'⟩ := h r a
      exact ⟨⟨m', n', ts', fs', by rw [hf', hf]⟩, fun b hb => (ht' b hb).trans (ht b hb), fun v hv => hr' v (hr v hv)⟩

/-- The tiers end below the scratchpads (R24). -/
theorem lt_of_inTier {b : Nat} (h : inTier b 1 = true) : b < 0x400_0000_0000 := by
  simp [inTier] at h
  omega

theorem AtRestKept.freeFill {base len : Nat} (h : 0x400_0000_0000 ≤ base) (s : State) : AtRestKept s (s.freeFill base len) :=
  ⟨⟨_, _, s.tiles, s.fences, rfl⟩, fun _ hb => memRead_memFree (.inl (by have := lt_of_inTier hb; omega)), fun _ h => h⟩

theorem undefineBound_keeps (tr : Nat) (s : State) : AtRestKept s (undefineBound tr s) := by
  refine AtRestKept.foldl (fun s b => ?_) _ s
  split
  · exact .freeFill (by simp only [padBase]; omega) s
  · exact .freeFill (by simp only [redBase]; omega) s

theorem undefineTile_keeps (t : Nat) (s : State) : AtRestKept s (undefineTile t s) := by
  obtain ⟨-, hm, -⟩ := AtRestKept.freeFill (base := padBase t) (len := 0x100_0000) (by simp only [padBase]; omega) s
  refine ⟨⟨_, _, _, s.fences, rfl⟩, hm, fun v hv => ?_⟩
  by_cases hvt : v = t
  · subst hvt
    rw [undefineTile, tile_draw, State.tile_modTile_same]
    exact ⟨hv.1, rfl, hv.2.2⟩
  · rw [undefineTile, tile_draw, State.tile_modTile_ne _ _ _ _ hvt]
    exact hv

theorem AtRestKept.modFence (u : Nat) (f : Fence → Fence) (s : State) : AtRestKept s (s.modFence u f) :=
  ⟨⟨s.mem, s.fresh, s.tiles, _, rfl⟩, fun _ _ => rfl, fun _ h => h⟩

theorem returnUnit_keeps (u : Nat) (s : State) : AtRestKept s (returnUnit u s) := by
  unfold returnUnit
  extract_lets x s1
  split
  · exact .modFence ..
  · obtain ⟨⟨m, n, ts, fs, hf⟩, ht, hr⟩ := AtRestKept.modFence u (fun _ => { fenced := false, pending := 0, cause := 0 }) s
    split
    · obtain ⟨⟨m', n', ts', fs', hf'⟩, ht', hr'⟩ := undefineTile_keeps u s1
      exact ⟨⟨m', n', ts', fs', hf'⟩, ht', hr'⟩
    · exact .modFence ..

theorem settleFences_keeps (tr : Nat) (s : State) : AtRestKept s (settleFences tr s) := by
  refine AtRestKept.foldl (fun s u => ?_) _ s
  unfold settleFence
  split
  · exact .modFence ..
  · exact returnUnit_keeps ..
  · exact ⟨⟨s.mem, s.fresh, s.tiles, s.fences, rfl⟩, fun _ _ => rfl, fun _ h => h⟩

/-- Ranges that become undefined leave every byte outside them. -/
theorem foldl_freeFill_frame (l : List (Nat × Nat)) (s : State) : ∃ m k,
    l.foldl (fun s r => s.freeFill r.1 r.2) s = { s with mem := m, fresh := k } ∧
    ∀ b, (∀ a ∈ l, b < a.1 ∨ a.1 + a.2 ≤ b) → memRead m b = memRead s.mem b := by
  induction l generalizing s with
  | nil => exact ⟨s.mem, s.fresh, rfl, fun _ _ => rfl⟩
  | cons a l ih =>
    obtain ⟨m, k, h, hb⟩ := ih (s.freeFill a.1 a.2)
    refine ⟨m, k, h, fun b hout => ?_⟩
    rw [hb b fun c hc => hout c (List.mem_cons_of_mem _ hc)]
    exact memRead_memFree (hout a (by simp))

/-- What SAFE_POINT resets before its troupe is written and its fences settle (R92). -/
structure SafelyReset (tr : Nat) (rec : TroupeRec) (due : List (Nat × Nat)) (s r : State) : Prop where
  frame : ∃ m k ts tk x f rd fs,
    r = { s with mem := m, fresh := k, tiles := ts, tokens := tk, str := x, fab := f, reds := rd, fences := fs }
  tokens : ∀ k, k < rec.tokenCount → r.token (rec.tokenBase + k) =
    { count := s.image.creditOf 0 (rec.tokenBase + k), waiter := none }
  barriers : ∀ k, k < rec.barrierCount → r.barrier (rec.barrierBase + k) = {}
  rest : ∀ t ∈ s.image.tiles tr, (r.tile t).atRest
  tiers : ∀ b, inTier b 1 = true → (∀ a ∈ due, b < a.1 ∨ a.1 + a.2 ≤ b) → memRead r.mem b = memRead s.mem b

/-- The state that SAFE_POINT reaches before its troupe is written. -/
def safeReset (tr : Nat) (s : State) : State :=
  (s.troupe tr).due.foldl (fun s a => s.freeFill a.1 a.2) (undefineBound tr ((s.image.tiles tr).foldl (sealTile tr true)
    ((s.image.tiles tr).foldl settleTile (resetCounts tr (discardLines tr s)))))

theorem safeReset_resets {tr : Nat} {rec : TroupeRec} (h : s.image.troupeRec tr = some rec) :
    SafelyReset tr rec (s.troupe tr).due s (safeReset tr s) := by
  obtain ⟨tk, x, f, ts, rd, h1, htk, hbs, hts⟩ := resetCounts_resets (s := discardLines tr s) (tr := tr) h
  obtain ⟨ts2, k2, h2⟩ := foldl_settleTile_frame (s.image.tiles tr) (resetCounts tr (discardLines tr s))
  obtain ⟨ts3, h3⟩ := foldl_sealTile_frame tr (s.image.tiles tr) ((s.image.tiles tr).foldl settleTile (resetCounts tr (discardLines tr s)))
  have hrest := settled_sealed_atRest tr (s.image.tiles tr) (resetCounts tr (discardLines tr s)) (by rw [h1]; exact hts)
  unfold safeReset
  generalize (s.image.tiles tr).foldl (sealTile tr true) ((s.image.tiles tr).foldl settleTile
    (resetCounts tr (discardLines tr s))) = q at h3 hrest
  obtain ⟨⟨m4, k4, ts4, fs4, h4⟩, htiers, hkeep⟩ := undefineBound_keeps tr q
  obtain ⟨m5, k5, h5, hout⟩ := foldl_freeFill_frame (s.troupe tr).due (undefineBound tr q)
  rw [h2, h1] at h3
  rw [h5]
  refine ⟨⟨m5, k5, ts4, tk, x, f, rd, fs4, ?_⟩, fun k hk => ?_, fun k hk => ?_, fun t ht => ?_, fun b hb ho => ?_⟩
  · rw [h4, h3]
    rfl
  · rw [h4, h3]
    exact htk k hk
  · rw [h4, h3]
    exact hbs k hk
  · exact hkeep t (hrest t ht)
  · refine (hout b ho).trans ((htiers b hb).trans ?_)
    rw [h3]
    rfl

/-- A troupe that awaits its next scene after an abort (R92). -/
def Troupe.awaitScene (x : Troupe) : Troupe :=
  { x with state := 3, due := [], noticed := [], arrived := [], auditing := false, owner := none }

/-- SAFE_POINT's state: after the reset the troupe is written, the fences settle and the launch completes. -/
def safeSettled (tr : Nat) (s : State) : State :=
  completeOwner (s.troupe tr).owner 6 (s.troupe tr).faultCode
    (settleFences tr ((safeReset tr s).modTroupe tr Troupe.awaitScene))

theorem execSafePoint_eq {tr : TroupeId} (hl : s.live = true) (h2 : (s.troupe tr).state = 2)
    (hus : ∀ u ∈ s.image.units tr, u ∈ (s.troupe tr).noticed ∧ unitIdle s u = true)
    (hfs : ∀ f ∈ s.image.flowsOf tr, inTransit s f.flow = 0) : execSafePoint tr s = .next (safeSettled tr s) := by
  unfold execSafePoint
  rw [event_of_due _ _ _ hl (by
    simp only [Bool.and_eq_true, List.all_eq_true, beq_iff_eq, List.contains_iff_mem]
    exact ⟨⟨h2, hus⟩, hfs⟩)]
  have himage : ((s.image.tiles tr).foldl settleTile (resetCounts tr (discardLines tr s))).image = s.image := by
    obtain ⟨ts, k, hs⟩ := foldl_settleTile_frame (s.image.tiles tr) (resetCounts tr (discardLines tr s))
    rw [hs]
    exact resetCounts_image tr _
  unfold safeSettled safeReset
  dsimp only
  rw [himage]
  rfl

/-- What the fences and queues that settle leave: counts and strings, tiles at rest, and the tiers. -/
theorem safeSettled_keeps (tr : Nat) (s : State) : ∃ k ts fs m qs,
    safeSettled tr s = { (safeReset tr s).modTroupe tr Troupe.awaitScene with
      mem := m, fresh := k, tiles := ts, fences := fs, queues := qs } ∧
      (∀ v, ((safeReset tr s).tile v).atRest → ((safeSettled tr s).tile v).atRest) ∧
      ∀ b, inTier b 1 = true → memRead m b = memRead (safeReset tr s).mem b := by
  obtain ⟨⟨m, k, ts, fs, hf⟩, htiers, hkeep⟩ := settleFences_keeps tr ((safeReset tr s).modTroupe tr Troupe.awaitScene)
  obtain ⟨qs, hqs⟩ := completeOwner_frame (s := settleFences tr ((safeReset tr s).modTroupe tr Troupe.awaitScene))
    (s.troupe tr).owner 6 (s.troupe tr).faultCode
  have heq : safeSettled tr s = _ := hqs
  refine ⟨k, ts, fs, m, qs, by rw [heq, hf], fun v hv => ?_, fun b hb => ?_⟩
  · rw [heq]
    exact hkeep v hv
  · rw [hf] at htiers
    exact htiers b hb

theorem execSafePoint_rests {tr : TroupeId} {rec : TroupeRec} (hl : s.live = true) (h2 : (s.troupe tr).state = 2)
    (h : s.image.troupeRec tr = some rec)
    (hus : ∀ u ∈ s.image.units tr, u ∈ (s.troupe tr).noticed ∧ unitIdle s u = true)
    (hfs : ∀ f ∈ s.image.flowsOf tr, inTransit s f.flow = 0) :
    ∃ r, execSafePoint tr s = .next r ∧ (r.troupe tr).state = 3 ∧ (r.troupe tr).noticed = [] ∧ (r.troupe tr).owner = none ∧
      (∀ k, k < rec.tokenCount → r.token (rec.tokenBase + k) = { count := s.image.creditOf 0 (rec.tokenBase + k), waiter := none }) ∧
      (∀ k, k < rec.barrierCount → r.barrier (rec.barrierBase + k) = {}) ∧
      (∀ t ∈ s.image.tiles tr, (r.tile t).atRest) ∧
      ∀ b, inTier b 1 = true → (∀ a ∈ (s.troupe tr).due, b < a.1 ∨ a.1 + a.2 ≤ b) → memRead r.mem b = memRead s.mem b := by
  obtain ⟨-, htokens, hbarriers, hrest, htiers⟩ := safeReset_resets h
  obtain ⟨k, ts, fs, m, qs, heq, hkeep, hkept⟩ := safeSettled_keeps tr s
  refine ⟨_, execSafePoint_eq hl h2 hus hfs, ?_, ?_, ?_, fun k hk => ?_, fun k hk => ?_, fun t ht => hkeep t (hrest t ht),
    fun b hb ho => ?_⟩
  rotate_left 3
  · rw [heq]
    exact htokens k hk
  · rw [heq]
    exact hbarriers k hk
  · rw [heq]
    exact (hkept b hb).trans (htiers b hb ho)
  all_goals
    have htroupe : (safeSettled tr s).troupe tr = ((safeReset tr s).troupe tr).awaitScene := by
      rw [heq]
      exact State.troupe_modTroupe_same _ _ _
    rw [htroupe]
    rfl

/-! ### SAFE_POINT_TIMEOUT -/

/-- A fatal record is kept for the copy to ERR_FATAL and owes a reset (R553, R555). -/
theorem formRecord_fatal (d : Nat) (e : ErrRec) (h : e.severity = sevFatal) (s : State) : ∃ flags seq,
    (formRecord d e s).err.fatalFormed =
      s.err.fatalFormed ++ [{ e with die := d, spanTime := s.time.span, flags := flags, seq := seq }] ∧
    (formRecord d e s).boot.resetDue = some (s.boot.resetDue.getD .fatal) := by
  unfold formRecord
  extract_lets r written full s1 s2
  have hs2 : ∃ h, s2 = { s1 with host := h } := by
    by_cases c : written && decide (r.severity ≤ 1)
    · obtain ⟨k, hk⟩ := evtSend_frame s1 r.severity
      exact ⟨k, (if_pos c).trans hk⟩
    · exact ⟨s1.host, if_neg c⟩
  obtain ⟨k, hk⟩ := hs2
  have hsev : r.severity = sevFatal := h
  clear_value s2
  subst hk
  rw [if_neg (by rw [hsev]; decide), if_pos hsev]
  refine ⟨full.flags, full.seq, ?_⟩
  unfold oweReset
  split
  · next x hx =>
    have hx : s.boot.resetDue = some x := hx
    rw [hx]
    exact ⟨rfl, hx⟩
  · next hx =>
    have hx : s.boot.resetDue = none := hx
    rw [hx]
    exact ⟨rfl, rfl⟩

/-- Settles O29: the notice abandons the unit's wait and empties its tile's queues; the safe point's folds over tiles,
counts and memory are taken one by one; a missed safe point forms a fatal record. -/
theorem abortsReachTheSafePoint : Obligations.AbortsReachTheSafePoint := by
  unfold Obligations.AbortsReachTheSafePoint
  refine ⟨?_, ?_, ?_⟩
  · intro tr u s x hl h2 hu hn h48
    obtain ⟨r, d, k, hr, htile, hothers, hwaits, hmem, hnoticed, hstarting, hdue⟩ := execAbortNotice_stops hl h2 hu hn h48
    refine ⟨r, hr, by rw [htile]; rfl, by rw [htile]; rfl, fun k => ?_, ?_, ?_, by rw [htile]; rfl, fun v hv => ⟨hothers v hv, ?_⟩, ?_, ?_,
      hdue, hmem⟩
    · rw [htile]
      exact (Tile.abort_unit _ k).1
    · rw [htile]
      exact (Tile.abort_unit _ 5).2 rfl
    · rw [State.wait, hwaits]
      exact tget_tset_same ..
    · rw [State.wait, hwaits]
      exact tget_tset_ne _ _ _ _ _ hv
    · rw [hnoticed]
      simp
    · rw [hstarting]
      exact not_mem_without _ _
  · intro tr s rec x hl h2 h hus hfs
    exact execSafePoint_rests hl h2 h hus hfs
  · intro tr s x hl h2 ht
    obtain ⟨flags, seq, hformed, howed⟩ := formRecord_fatal (unitDie x.faultUnit)
      { cls := 1, severity := sevFatal, unit := x.faultUnit, code := x.faultCode, troupe := tr, sceneId := x.sceneId } rfl s
    refine ⟨_, event_of_due s _ _ hl ?_, howed, _, hformed, rfl, rfl, rfl, rfl, rfl, rfl, rfl⟩
    exact Bool.and_eq_true_iff.2 ⟨beq_iff_eq.2 h2, decide_eq_true ht⟩

end Sys2Proof.Machine
end

section
/-! SUPPORT. The reduction engine (O42): a contribution added in its turn, and the entries of its ring (R290, R302 to
R304). -/

namespace Sys2Proof.Machine

open Sys2Proof

variable {s : State}

/-! ### Contributions -/

/-- A field that a change of the engine keeps. -/
theorem redEng_modRed_keep {α : Type} (p : RedEngine → α) {f : RedEngine → RedEngine} (h : ∀ x, p (f x) = p x) (d : Nat)
    (s : State) : p ((s.modRed d f).redEng d) = p (s.redEng d) := by
  rw [State.redEng_modRed_same, h]

/-- What adding and draining contributions leaves: all but the engine's table and memory, and the engine's inputs. -/
structure SumsOnly (d : Nat) (s r : State) : Prop where
  frame : ∃ rd m, r = { s with reds := rd, mem := m }
  inputs : (r.redEng d).inputs = (s.redEng d).inputs

namespace SumsOnly

variable {d : Nat}

theorem refl (d : Nat) (s : State) : SumsOnly d s s := ⟨⟨s.reds, s.mem, rfl⟩, rfl⟩

theorem trans {r q : State} (h : SumsOnly d s r) (k : SumsOnly d r q) : SumsOnly d s q := by
  obtain ⟨⟨rd, m, h⟩, hi⟩ := h
  obtain ⟨⟨rd', m', k⟩, ki⟩ := k
  exact ⟨⟨rd', m', by rw [k, h]⟩, ki.trans hi⟩

theorem modRed {f : RedEngine → RedEngine} (h : ∀ x, (f x).inputs = x.inputs) (s : State) : SumsOnly d s (s.modRed d f) :=
  ⟨⟨_, _, rfl⟩, redEng_modRed_keep _ h d s⟩

theorem store (a : Nat) (bs : List Byte) (s : State) : SumsOnly d s (s.store a bs) := ⟨⟨_, _, rfl⟩, rfl⟩

theorem addContribution (total : Nat) (c : Contribution) (s : State) : SumsOnly d s (Machine.addContribution d total c s) := by
  unfold Machine.addContribution
  extract_lets l old sum
  split
  · exact .trans (.modRed (by intro _; rfl) s) (.store ..)
  · exact .modRed (by intro _; rfl) s

theorem drainReorder (total addr fuel : Nat) (s : State) : SumsOnly d s (Machine.drainReorder d total addr fuel s) := by
  induction fuel generalizing s with
  | zero => exact refl d s
  | succ fuel ih =>
    unfold Machine.drainReorder
    extract_lets x next
    split
    · exact .trans (.modRed (by intro _; rfl) s) (.trans (.addContribution ..) (ih _))
    · exact refl d s

end SumsOnly

/-- The engine after it has taken its n-th input, with its flow's count. -/
def takeContribution (d n : Nat) (c : Contribution) (s : State) : State :=
  let s := s.modRed d fun x => { x with inputs := x.inputs.eraseIdx n }
  if (s.image.flowRec c.flow).any fun r => r.inPort != 8 then
    s.modFlow c.flow fun x => { (x.progress 2 1 0) with accepted := x.accepted + 1 }
  else s

theorem takeContribution_frame (d n : Nat) (c : Contribution) (s : State) :
    ∃ f, takeContribution d n c s = { s.modRed d fun x => { x with inputs := x.inputs.eraseIdx n } with fab := f } := by
  unfold takeContribution
  extract_lets s1
  split
  · exact ⟨_, rfl⟩
  · exact ⟨s.fab, rfl⟩

theorem takeContribution_redEng (d n : Nat) (c : Contribution) (s : State) :
    (takeContribution d n c s).redEng d = { s.redEng d with inputs := (s.redEng d).inputs.eraseIdx n } := by
  obtain ⟨f, h⟩ := takeContribution_frame d n c s
  rw [h]
  exact State.redEng_modRed_same s d fun x => { x with inputs := x.inputs.eraseIdx n }

/-- Contributors of a contribution's flow. -/
def contributorsOf (s : State) (c : Contribution) : Nat := ((s.image.flowRec c.flow).map FlowRec.contributors).getD 1

/-- A bound contribution is added in its turn or waits, as the reorder area has room. -/
def placeContribution (d total : Nat) (c : Contribution) (s : State) : State :=
  if (tget {} (s.redEng d).lines (c.addr / 128)).next = c.position then
    let s := addContribution d total c s
    drainReorder d total c.addr (s.redEng d).reorder.length s
  else if (s.redEng d).reorder.length < reorderLines then s.modRed d fun x => { x with reorder := x.reorder ++ [c] }
  else contributionFault d fcReorderFull c s

theorem execReductionContribution_places {d : ChipId} {n : Nat} {c : Contribution} (hl : s.live = true)
    (hn : (s.redEng d).inputs[n]? = some c) (hfirst : ∀ b ∈ (s.redEng d).inputs.take n, b.flow ≠ c.flow)
    (hold : c.since + 40 ≤ s.time.span) (hno : s.noticed (48 + d.val) = false)
    (hb : s.image.bound (0xF0 + d.val) ((c.addr - redBase d) / 0x80_0000) 9 = true) :
    execReductionContribution d n s = .next (placeContribution d (contributorsOf s c) c (takeContribution d n c s)) := by
  have hready : (((s.redEng d).inputs.take n).all (fun b => b.flow != c.flow) && decide (c.since + acceptLead ≤ s.time.span)) = true := by
    simp only [Bool.and_eq_true, List.all_eq_true, bne_iff_ne, decide_eq_true_eq]
    exact ⟨hfirst, hold⟩
  obtain ⟨f, hq⟩ := takeContribution_frame d n c s
  have hno' : (takeContribution d n c s).noticed (redUnit d) = false := by
    rw [hq]
    exact hno
  have hb' : (takeContribution d n c s).image.bound (0xF0 + d.val) ((c.addr - redBase d) / 0x80_0000) 9 = true := by
    rw [hq]
    exact hb
  have hdue : (((s.redEng d).inputs[n]?).filter fun c => ((s.redEng d).inputs.take n).all (fun b => b.flow != c.flow) &&
      decide (c.since + acceptLead ≤ s.time.span)) = some c := by
    rw [hn]
    exact if_pos hready
  unfold execReductionContribution
  dsimp only
  rw [hdue, eventOf_some _ _ _ hl]
  change Host.Outcome.next (if (takeContribution d n c s).noticed (redUnit d) then takeContribution d n c s
    else if !(takeContribution d n c s).image.bound (0xF0 + d.val) ((c.addr - redBase d) / 0x80_0000) 9 then
      contributionFault d fcBankDenied c (takeContribution d n c s)
    else placeContribution d (contributorsOf s c) c (takeContribution d n c s)) = _
  rw [hno', hb']
  rfl

theorem drainReorder_nil {d : Nat} (total addr fuel : Nat) (h : (s.redEng d).reorder = []) :
    drainReorder d total addr fuel s = s := by
  cases fuel with
  | zero => rfl
  | succ fuel => simp [drainReorder, h]

theorem addContribution_reorder (d total : Nat) (c : Contribution) (s : State) :
    ((addContribution d total c s).redEng d).reorder = (s.redEng d).reorder := by
  unfold addContribution
  extract_lets l old sum
  split
  · exact redEng_modRed_keep (f := fun x => { x with lines := tdel x.lines (c.addr / 128) }) RedEngine.reorder (fun _ => rfl) d s
  · exact redEng_modRed_keep RedEngine.reorder (by intro _; rfl) d s

/-- A contribution in its turn is added alone where none waits. -/
theorem placeContribution_turn {d total : Nat} {c : Contribution}
    (h : (tget {} (s.redEng d).lines (c.addr / 128)).next = c.position) (hr : (s.redEng d).reorder = []) :
    placeContribution d total c s = addContribution d total c s := by
  rw [placeContribution, if_pos h]
  exact drainReorder_nil _ _ _ ((addContribution_reorder ..).trans hr)

theorem placeContribution_keeps (d total : Nat) (c : Contribution) (s : State) :
    ((placeContribution d total c s).redEng d).inputs = (s.redEng d).inputs ∧ (placeContribution d total c s).tiles = s.tiles := by
  have sums {r : State} (h : SumsOnly d s r) : (r.redEng d).inputs = (s.redEng d).inputs ∧ r.tiles = s.tiles := by
    obtain ⟨⟨rd, m, h⟩, hi⟩ := h
    exact ⟨hi, by rw [h]⟩
  unfold placeContribution
  split
  · exact sums (.trans (.addContribution ..) (.drainReorder ..))
  · split
    · exact sums (.modRed (by intro _; rfl) s)
    · unfold contributionFault
      extract_lets key isLocal
      split
      · exact ⟨rfl, rfl⟩
      · obtain ⟨e, h, tr, b, hf⟩ := unitFault_frame (s.modRed d fun x => { x with raised := x.raised ++ [key] }) (redUnit d)
          fcReorderFull (if isLocal then c.cause else (s.redEng d).entry) c.addr
        rw [hf]
        exact ⟨redEng_modRed_keep (f := fun x => { x with raised := x.raised ++ [key] }) RedEngine.inputs (fun _ => rfl) d s, rfl⟩

/-- The sum of a line with one more contribution (R290). -/
def RegionLine.add (l : RegionLine) (c : Contribution) : List W32 :=
  List.zipWith (fun a b => (fAdd a b).val) (if l.next = 0 then List.replicate 32 0 else l.sum) (lineF32 c.data)

theorem RegionLine.add_length {l : RegionLine} (c : Contribution) (h : l.next = 0 ∨ l.sum.length = 32) : (l.add c).length = 32 := by
  have hold : (if l.next = 0 then List.replicate 32 (0 : W32) else l.sum).length = 32 := by
    split
    · exact List.length_replicate
    · next hne => exact h.resolve_left hne
  rw [RegionLine.add, List.length_zipWith, hold, lineF32, List.length_map, List.length_range, min_self]

theorem sumBytes_length (l : List W32) : (sumBytes l).length = 4 * l.length := by
  induction l with
  | nil => rfl
  | cons w l ih =>
    simp only [sumBytes, List.flatMap_cons, List.length_append, List.length_cons] at ih ⊢
    rw [ih]
    simp only [leBytes, List.length_cons, List.length_nil]
    omega

/-- A contribution before the last one stays in the engine. -/
theorem addContribution_partial {d total : Nat} {c : Contribution} (h : (tget {} (s.redEng d).lines (c.addr / 128)).next + 1 < total) :
    (addContribution d total c s).mem = s.mem ∧ tget {} ((addContribution d total c s).redEng d).lines (c.addr / 128) =
      ⟨(tget {} (s.redEng d).lines (c.addr / 128)).next + 1, (tget {} (s.redEng d).lines (c.addr / 128)).add c⟩ := by
  unfold addContribution
  extract_lets l old sum
  rw [if_neg (Nat.not_le.2 h), State.redEng_modRed_same]
  exact ⟨rfl, tget_tset_same ..⟩

/-- The last contribution's sum replaces the line (R290). -/
theorem addContribution_last {d total : Nat} {c : Contribution} (h : total ≤ (tget {} (s.redEng d).lines (c.addr / 128)).next + 1) :
    (addContribution d total c s).mem = memWrites s.mem c.addr (sumBytes ((tget {} (s.redEng d).lines (c.addr / 128)).add c)) ∧
    tget {} ((addContribution d total c s).redEng d).lines (c.addr / 128) = {} := by
  unfold addContribution
  extract_lets l old sum
  rw [if_pos h]
  refine ⟨rfl, ?_⟩
  change tget {} ((s.modRed d fun x => { x with lines := tdel x.lines (c.addr / 128) }).redEng d).lines (c.addr / 128) = {}
  rw [State.redEng_modRed_same]
  exact tget_tdel_same ..

/-! ### The ring's entries -/

/-- A wait that is over, or that the entry has not, is followed by its action. -/
theorem redEntry_goes {d : Nat} {act : List Byte → State → State}
    (h : fieldAt (s.redEng d).cur 2 2 = 0xFFFF ∨ (s.redEng d).released = true) : redEntry d act s = act (s.redEng d).cur s :=
  if_pos h

theorem setEngState_red (d : ChipId) (n : Nat) (s : State) : setEngState (redUnit d) n s = s.modRed d fun x => { x with state := n } := by
  have hu : redUnit d < 52 := by
    have := d.isLt
    unfold redUnit
    omega
  have hd : redUnit d - 48 = d.val := by
    unfold redUnit
    omega
  rw [setEngState, if_pos hu, hd]

theorem execRedNorm_norm {d : ChipId} (hl : s.live = true) (hrun : (s.redEng d).state = 1) (hop : fieldAt (s.redEng d).cur 0 1 = 0x21)
    (hgo : fieldAt (s.redEng d).cur 2 2 = 0xFFFF ∨ (s.redEng d).released = true)
    (halign : fieldAt (s.redEng d).cur 8 8 % 128 = 0)
    (hin : inRed d (fieldAt (s.redEng d).cur 8 8) (128 * fieldAt (s.redEng d).cur 0x10 4) = true)
    (hb : ∀ i, i < fieldAt (s.redEng d).cur 0x10 4 →
      s.image.bound (0xF0 + d.val) ((fieldAt (s.redEng d).cur 8 8 + 128 * i - redBase d) / 0x80_0000) 9 = true) :
    execRedNorm d s = .next (s.modRed d fun x => RedEngine.next { x with
      norm := (List.range (fieldAt (s.redEng d).cur 0x10 4)).foldl
        (fun a i => normLine a (s.bytes (fieldAt (s.redEng d).cur 8 8 + 128 * i) 128)) x.norm }) := by
  have hall : ((List.range (fieldAt (s.redEng d).cur 0x10 4)).all fun i =>
      s.image.bound (0xF0 + d.val) ((fieldAt (s.redEng d).cur 8 8 + 128 * i - redBase d) / 0x80_0000) 9) = true :=
    List.all_eq_true.2 fun i hi => hb i (List.mem_range.1 hi)
  unfold execRedNorm
  dsimp only
  rw [event_of_due _ _ _ hl (by simp [hrun, hop, esRun]), if_neg (by simp [hop]), redEntry_goes hgo]
  unfold runNorm
  dsimp only
  rw [if_pos ⟨halign, hin⟩, hall]
  rfl

/-- A NORM_VOTE whose wait is over contributes its norm and waits for the sum (R304). -/
theorem execRedNormVote_contributes {d : ChipId} (hl : s.live = true) (hrun : (s.redEng d).state = 1)
    (hop : fieldAt (s.redEng d).cur 0 1 = 0x22) (hno : (s.redEng d).contributed = false)
    (hgo : fieldAt (s.redEng d).cur 2 2 = 0xFFFF ∨ (s.redEng d).released = true)
    (h2 : objectFault s (redUnit d) 2 (fieldAt (s.redEng d).cur 0x14 2) = none)
    (h3 : objectFault s (redUnit d) 3 (fieldAt (s.redEng d).cur 0x18 1) = none) :
    ∃ ws wr, execRedNormVote d s = .next { s with
      reds := ((s.modRed d fun x => { x with norm := 0, contributed := true, released := false }).modRed d fun x => { x with state := 2 }).reds
      waits := tset s.waits (redUnit d) (some wr)
      str := { s.str with waits := ws, msgs := s.str.msgs ++ [⟨2, fieldAt (s.redEng d).cur 0x14 2, redUnit d, 4,
        (s.redEng d).norm.setWidth 64, (s.redEng d).entry, fieldAt (s.redEng d).cur 0x16 2, s.time.span⟩] } } ∧
      wr.kind = 4 ∧ wr.chan = fieldAt (s.redEng d).cur 0x14 2 := by
  unfold execRedNormVote
  dsimp only
  rw [event_of_due _ _ _ hl (by simp [hrun, hop, esRun]), if_neg (by simp [hno]), redEntry_goes hgo]
  unfold contributeNorm
  dsimp only
  rw [h2, h3]
  simp only [Option.or, engineStrWait, setEngState_red, sendStr, Nat.zero_max]
  exact ⟨_, _, rfl, rfl, rfl⟩

/-- A NORM_VOTE with its sum casts go or stop (R304). -/
theorem execRedNormVote_votes {d : ChipId} (hl : s.live = true) (hrun : (s.redEng d).state = 1)
    (hop : fieldAt (s.redEng d).cur 0 1 = 0x22) (hc : (s.redEng d).contributed = true) :
    execRedNormVote d s = .next (voteNorm d (s.redEng d).cur s) := by
  unfold execRedNormVote
  dsimp only
  rw [event_of_due _ _ _ hl (by simp [hrun, hop, esRun]), if_pos hc]

/-- Whether a norm lets its step commit: it is finite and at most the captured ceiling (R304). -/
def normGo (x ceil : W32) : Bool := !nonFin32 x && leF32 x ceil

theorem normGo_iff (x ceil : W32) : normGo x ceil = true ↔ nonFin32 x = false ∧ leF32 x ceil = true := by simp [normGo]

theorem voteNorm_votes (d : Nat) (e : List Byte) (s : State) :
    let tr := (s.image.unitTroupe (redUnit d)).getD 0xFF
    ((voteNorm d e s).redEng d).entry = (s.redEng d).entry + 1 ∧ (voteNorm d e s).mem = s.mem ∧
    ((voteNorm d e s).troupe tr).norm = some (s.redEng d).norm ∧
    (voteNorm d e s).str.msgs = s.str.msgs ++ [⟨3, fieldAt e 0x18 1, redUnit d, 0,
      if normGo (s.redEng d).norm (s.troupe tr).capCeil then 1 else 0, (s.redEng d).entry, 0, s.time.span⟩] := by
  intro tr
  refine ⟨?_, rfl, ?_, ?_⟩
  · unfold voteNorm
    extract_lets u x tr' go s1
    rw [State.redEng_modRed_same]
    rfl
  · unfold voteNorm
    extract_lets u x tr' go s1
    exact congrArg Troupe.norm (State.troupe_modTroupe_same s1 tr fun y => { y with norm := some x.norm })
  · rw [← Nat.zero_max (s.time.span)]
    rfl

/-- The engine has nothing left to add exactly if it has no contributions. -/
theorem execRedEnd_ends {d : ChipId} (hl : s.live = true) (hrun : (s.redEng d).state = 1)
    (hop : fieldAt (s.redEng d).cur 0 1 = 0x2F) :
    execRedEnd d s = .next (if (s.redEng d).inputs.isEmpty && (s.redEng d).reorder.isEmpty then engineArrive (redUnit d) s
      else setEngState (redUnit d) esEnd s) := by
  unfold execRedEnd
  dsimp only
  rw [event_of_due _ _ _ hl (by simp [hrun, hop, esRun])]

theorem mem_withOne (l : List Nat) (x : Nat) : x ∈ withOne l x := by
  unfold withOne
  split
  · next h => exact List.contains_iff_mem.1 h
  · simp

/-- An engine that arrives at the end barrier is done, and its troupe counts it (R111). -/
theorem engineArrive_arrives (u : Nat) (s : State) : ∃ t, engineArrive u s = { setEngState u esDone s with troupes := t } ∧
    ∀ tr, s.image.unitTroupe u = some tr → u ∈ (tget ({} : Troupe) t tr).arrived := by
  obtain ⟨r, d, g, f, h⟩ := setEngState_frame s u esDone
  have himage : (setEngState u esDone s).image = s.image := by
    rw [h]
    rfl
  unfold engineArrive
  dsimp only
  rw [himage]
  split
  · next tr htr =>
    refine ⟨_, rfl, fun tr' h => ?_⟩
    cases htr.symm.trans h
    exact (congrArg (u ∈ Troupe.arrived ·) (tget_tset_same ..)).mpr (mem_withOne ..)
  · next htr =>
    exact ⟨_, rfl, fun tr h => by cases htr.symm.trans h⟩

/-- Settles O42: a bound contribution is placed; the entries of the ring act one by one. -/
theorem reductionEngineAddsInContributorOrder : Obligations.ReductionEngineAddsInContributorOrder := by
  unfold Obligations.ReductionEngineAddsInContributorOrder
  refine ⟨?_, ?_⟩
  · intro d n s c x total l sum hl hn hfirst hold hno hb
    obtain ⟨f, hq⟩ := takeContribution_frame d n c s
    have heng := takeContribution_redEng d n c s
    obtain ⟨hinputs, htiles⟩ := placeContribution_keeps d total c (takeContribution d n c s)
    have hr : _ = Host.Outcome.next (placeContribution d total c (takeContribution d n c s)) :=
      execReductionContribution_places hl hn hfirst hold hno hb
    have hmem : (takeContribution d n c s).mem = s.mem := by
      rw [hq]
      rfl
    have hlines : ((takeContribution d n c s).redEng d).lines = x.lines := by rw [heng]
    have hreorder : ((takeContribution d n c s).redEng d).reorder = x.reorder := by rw [heng]
    generalize takeContribution d n c s = q at hq hinputs htiles hmem hlines hreorder heng hr
    refine ⟨_, hr, hinputs.trans (by rw [heng]), htiles.trans (by rw [hq]; rfl),
      fun hturn hempty hmore => ?_, fun hturn hempty hlast hlen => ?_, fun hturn hroom => ?_⟩
    · rw [placeContribution_turn (by rw [hlines]; exact hturn) (hreorder.trans hempty)]
      have hnext : (tget {} (q.redEng d).lines (c.addr / 128)).next + 1 < total := by
        rw [hlines, show (tget {} x.lines (c.addr / 128)).next = _ from hturn]
        exact hmore
      obtain ⟨hm, hline⟩ := addContribution_partial hnext
      rw [hlines] at hline
      exact ⟨hm.trans hmem, hline⟩
    · rw [placeContribution_turn (by rw [hlines]; exact hturn) (hreorder.trans hempty)]
      have hnext : total ≤ (tget {} (q.redEng d).lines (c.addr / 128)).next + 1 := by
        rw [hlines, show (tget {} x.lines (c.addr / 128)).next = _ from hturn]
        exact hlast
      obtain ⟨hm, hline⟩ := addContribution_last hnext
      rw [hlines, hmem] at hm
      have hlen : (sumBytes (l.add c)).length = 128 := by rw [sumBytes_length, RegionLine.add_length c hlen]
      obtain ⟨hkept, hbytes⟩ := memoryKept_memWrites hlen hm
      exact ⟨hkept, hbytes, hline⟩
    · rw [placeContribution, if_neg (by rw [hlines]; exact hturn), if_pos (by rw [hreorder]; exact hroom), State.redEng_modRed_same]
      exact ⟨hmem, congrArg (· ++ [c]) hreorder, hlines⟩
  · intro d s x e u hl
    refine ⟨fun hrun hop hgo halign hin hb => ?_, ?_, ?_, ?_⟩
    · exact ⟨_, execRedNorm_norm hl hrun hop hgo halign hin hb, rfl, by rw [State.redEng_modRed_same]; rfl, by rw [State.redEng_modRed_same]; rfl⟩
    · intro hrun hop hno hgo h2 h3
      obtain ⟨ws, wr, hr, hkind, hchan⟩ := execRedNormVote_contributes hl hrun hop hno hgo h2 h3
      have heng := (State.redEng_modRed_same (s.modRed d fun x => { x with norm := 0, contributed := true, released := false }) d
        fun x => { x with state := 2 }).trans (by rw [State.redEng_modRed_same])
      refine ⟨_, hr, ?_, ?_, ?_, rfl, ⟨wr, tget_tset_same .., hkind, hchan⟩, rfl⟩
      · exact congrArg RedEngine.contributed heng
      · exact congrArg RedEngine.norm heng
      · exact congrArg RedEngine.state heng
    · intro hrun hop hc tr go
      obtain ⟨hentry, hmem, hnorm, hmsgs⟩ := voteNorm_votes d e s
      refine ⟨_, execRedNormVote_votes hl hrun hop hc, hentry, hmem, hnorm, fun h => ?_, fun h => ?_⟩
      · have hgo : normGo (s.redEng d).norm (s.troupe ((s.image.unitTroupe (redUnit d)).getD 0xFF)).capCeil = true :=
          (normGo_iff ..).2 h
        rw [hgo] at hmsgs
        exact hmsgs
      · have hgo : normGo (s.redEng d).norm (s.troupe ((s.image.unitTroupe (redUnit d)).getD 0xFF)).capCeil = false :=
          Bool.eq_false_iff.2 fun hg => h ((normGo_iff ..).1 hg)
        rw [hgo] at hmsgs
        exact hmsgs
    · intro hrun hop
      obtain ⟨t, harrive, harrived⟩ := engineArrive_arrives (redUnit d) s
      refine ⟨_, execRedEnd_ends hl hrun hop, ?_, fun h1 h2 => ?_, fun h => ?_⟩
      · split
        · rw [harrive, setEngState_red]
          rfl
        · rw [setEngState_red]
          rfl
      · rw [if_pos (Bool.and_eq_true_iff.2 ⟨List.isEmpty_iff.2 h1, List.isEmpty_iff.2 h2⟩), harrive, setEngState_red]
        refine ⟨?_, harrived⟩
        exact congrArg RedEngine.state (State.redEng_modRed_same s d fun x => { x with state := esDone })
      · rw [if_neg fun hb => ?_, setEngState_red]
        · rw [State.redEng_modRed_same]
          rfl
        · obtain ⟨h1, h2⟩ := Bool.and_eq_true_iff.1 hb
          exact h.elim (· (List.isEmpty_iff.1 h1)) (· (List.isEmpty_iff.1 h2))

end Sys2Proof.Machine
end

section
/-! SUPPORT. The fabric engine (O41): the entries of its ring, the fetch check, repeats and publications (R286 to R289,
R363 to R366). -/

namespace Sys2Proof.Machine

open Sys2Proof

variable {s : State}

/-! ### SEND -/

/-- Requests for lines change the memories' queues only. -/
theorem foldl_askLine_frame {α : Type} (p : α → Bool) (q : α → MemReq) (l : List α) (s : State) :
    ∃ ms, l.foldl (fun s i => if p i = true then askLine (q i) s else s) s = { s with mems := ms } :=
  List.foldlRecOn (motive := fun r : State => ∃ ms, r = { s with mems := ms }) _ _ ⟨s.mems, rfl⟩ fun r ⟨ms, h⟩ i _ => by
    subst h
    split
    · obtain ⟨ms', h⟩ := askLine_frame { s with mems := ms } (q i)
      exact ⟨ms', h⟩
    · exact ⟨ms, rfl⟩

/-- A SEND with a slot on every line's way requests its lines (R85, R289). -/
theorem askSend_reached {d first count : Nat} {f : FlowRec}
    (h : ∀ i, i < count → fabReach s.image d 0 f.flow (f.lineAt (first + i)) false = true) :
    ∃ ms, askSend d f first count s = { s.modFab d fun x => { x with asked := true } with mems := ms } := by
  have hnone : ((List.range count).map (first + ·)).find? (fun i => !fabReach s.image d 0 f.flow (f.lineAt i) false) = none := by
    rw [List.find?_eq_none]
    intro i hi
    obtain ⟨k, hk, rfl⟩ := List.mem_map.1 hi
    rw [h k (List.mem_range.1 hk)]
    decide
  unfold askSend
  dsimp only
  rw [hnone]
  exact foldl_askLine_frame _ _ _ _

/-- A SEND without a fault whose wait is over requests its lines, or launches the next one in a slot of its flow. -/
theorem execFabSend_eq {d : ChipId} {slot : Nat} {f : FlowRec} (hl : s.live = true) (hfence : (s.fence (72 + d.val)).fenced = false)
    (hrun : (s.fabEng d).state = 1) (hreps : (s.fabEng d).repeats = []) (hop : fieldAt (s.fabEng d).cur 0 1 = 1)
    (hok : fabEntryFault s d (s.fabEng d).cur = none)
    (hgo : fieldAt (s.fabEng d).cur 2 2 = 0xFFFF ∨ (s.fabEng d).released = true)
    (hf : s.image.flowRec (fieldAt (s.fabEng d).cur 8 4 % 2 ^ 18) = some f) :
    execFabSend d slot s = .next (
      if !(s.fabEng d).asked then askSend d f (fieldAt (s.fabEng d).cur 0x0C 4) (fieldAt (s.fabEng d).cur 0x10 4)
        (s.modFab d fun x => { x with released := true })
      else if slotOfFlow s slot f && decide ((s.fabEng d).sent < fieldAt (s.fabEng d).cur 0x10 4) then
        sendLine d slot (fieldAt (s.fabEng d).cur 0x0C 4 + (s.fabEng d).sent) f
          (fun s => s.modFab d fun x => { x with sent := x.sent + 1 }) s
      else s) := by
  have hwait : ¬ (fieldAt (s.fabEng d).cur 2 2 ≠ 0xFFFF ∧ (s.fabEng d).released = false) := fun h =>
    hgo.elim h.1 fun hr => by rw [hr] at h; exact absurd h.2 (by decide)
  unfold execFabSend
  dsimp only
  rw [event_of_due _ _ _ hl (by simp [fabUnit, hfence, hrun, esRun]), if_neg (by simp [hreps]), if_neg (by simp [hrun, hop, esEnd]),
    if_neg (by simp [hop]), hok]
  dsimp only
  rw [if_neg hwait, hf]

/-- A ready line with a credit leaves in a slot of its flow (R286). -/
theorem sendLine_ready {d slot i : Nat} {f : FlowRec} {data : List Byte} (count : State → State)
    (hdata : readyLine s d i f = some data) (hc : 0 < (s.flowCtx f.flow).credits) :
    sendLine d slot i f count s = count ((launch f.outPort slot f.flow data (s.modFlow f.flow fun x =>
      { x with lines := x.lines + 1 })).modFab d fun x =>
        { x with fetched := x.fetched.filter fun l => !(l.1 == f.flow && l.2.1 == i), waited := false }) := by
  unfold sendLine
  rw [hdata]
  exact if_neg (by omega)

/-- A launch changes a port and its flow's count of credits. -/
theorem launch_frame (p slot flow : Nat) (data : List Byte) (s : State) : ∃ ports,
    launch p slot flow data s = { s.modFlow flow fun x => { x with credits := x.credits - 1 } with
      fab := { (s.modFlow flow fun x => { x with credits := x.credits - 1 }).fab with ports := ports } } := ⟨_, rfl⟩

/-- What a line of a SEND leaves: its flow counts it and loses a credit, and engines, memory and tiles stand. -/
theorem launch_line (p slot flow : Nat) (data : List Byte) (s : State) :
    let q := launch p slot flow data (s.modFlow flow fun x => { x with lines := x.lines + 1 })
    q.mem = s.mem ∧ q.tiles = s.tiles ∧ (∀ d, q.fabEng d = s.fabEng d) ∧
      q.flowCtx flow = { s.flowCtx flow with lines := (s.flowCtx flow).lines + 1, credits := (s.flowCtx flow).credits - 1 } := by
  intro q
  obtain ⟨ports, hq⟩ := launch_frame p slot flow data (s.modFlow flow fun x => { x with lines := x.lines + 1 })
  rw [show q = _ from hq]
  refine ⟨rfl, rfl, fun _ => rfl, ?_⟩
  exact (State.flowCtx_modFlow_same (s.modFlow flow fun x => { x with lines := x.lines + 1 }) flow
    fun x => { x with credits := x.credits - 1 }).trans (by rw [State.flowCtx_modFlow_same])

/-- The line that a SEND launches: it counts in the flow, takes a credit and moves no byte (R286). -/
theorem sendLine_launches {d slot i : Nat} {f : FlowRec} {data : List Byte}
    (hdata : readyLine s d i f = some data) (hc : 0 < (s.flowCtx f.flow).credits) :
    ∃ r, sendLine d slot i f (fun s => s.modFab d fun x => { x with sent := x.sent + 1 }) s = r ∧
      (r.fabEng d).sent = (s.fabEng d).sent + 1 ∧ r.mem = s.mem ∧ r.tiles = s.tiles ∧
      r.flowCtx f.flow = { s.flowCtx f.flow with lines := (s.flowCtx f.flow).lines + 1, credits := (s.flowCtx f.flow).credits - 1 } := by
  obtain ⟨hmem, htiles, heng, hctx⟩ := launch_line f.outPort slot f.flow data s
  have hr := sendLine_ready (slot := slot) (fun s => s.modFab d fun x => { x with sent := x.sent + 1 }) hdata hc
  generalize launch f.outPort slot f.flow data (s.modFlow f.flow fun x => { x with lines := x.lines + 1 }) = q at *
  refine ⟨_, hr, ?_, hmem, htiles, hctx⟩
  rw [State.fabEng_modFab_same, State.fabEng_modFab_same, ← heng]

/-! ### RECV, SEND's completion and END -/

theorem execFabRecv_registers {d : ChipId} (hl : s.live = true) (hfence : (s.fence (72 + d.val)).fenced = false)
    (hrun : (s.fabEng d).state = 1) (hop : fieldAt (s.fabEng d).cur 0 1 = 2) (hroom : (s.fabEng d).recvs.length < 64)
    (hok : fabEntryFault s d (s.fabEng d).cur = none) :
    let flow := fieldAt (s.fabEng d).cur 8 4 % 2 ^ 18
    let target := (s.flowCtx flow).claimed + fieldAt (s.fabEng d).cur 0x10 4
    execFabRecv d s = .next ((s.modFlow flow fun y => { y with claimed := target }).modFab d fun x =>
      { x.next with recvs := x.recvs ++ [{ flow := flow, target := target, signal := fieldAt (s.fabEng d).cur 0x14 2 }] }) := by
  intro flow target
  unfold execFabRecv
  dsimp only
  rw [event_of_due _ _ _ hl (by simp [fabUnit, hfence, hrun, hop, hroom, esRun, recvLimit]), hok]

/-- The message of an engine's finishing signal (R289). -/
theorem engineSignal_msgs (u ch : Nat) (s : State) : (engineSignal u ch s).str.msgs = s.str.msgs ++
    (if ch = 0xFFFF then [] else [{ kind := 0, obj := ch, unit := u, value := 1, sent := s.time.span }]) := by
  unfold engineSignal
  split
  · exact (List.append_nil _).symm
  · simp [sendSignal, sendStr]

theorem execFabSendComplete_next {d : ChipId} (hl : s.live = true) (hrun : (s.fabEng d).state = 1)
    (hop : fieldAt (s.fabEng d).cur 0 1 = 1) (hpos : 0 < (s.fabEng d).sent)
    (hall : (s.fabEng d).sent = fieldAt (s.fabEng d).cur 0x10 4) :
    execFabSendComplete d s = .next (engineSignal (fabUnit d) (fieldAt (s.fabEng d).cur 0x14 2) (s.modFab d fun x =>
      { x.next with lastSend := tset x.lastSend (fieldAt (s.fabEng d).cur 8 4 % 2 ^ 18) (fieldAt (s.fabEng d).cur 0x0C 4, fieldAt (s.fabEng d).cur 0x10 4) })) := by
  unfold execFabSendComplete
  dsimp only
  rw [event_of_due _ _ _ hl (by simp [hrun, hop, hpos, ← hall, esRun])]

theorem execFabEnd_ends {d : ChipId} (hl : s.live = true) (hfence : (s.fence (72 + d.val)).fenced = false)
    (hrun : (s.fabEng d).state = 1) (hop : fieldAt (s.fabEng d).cur 0 1 = 3) (hreps : (s.fabEng d).repeats = []) :
    execFabEnd d s = .next (if (s.fabEng d).recvs.isEmpty then engineArrive (fabUnit d) s else setEngState (fabUnit d) esEnd s) := by
  unfold execFabEnd
  dsimp only
  rw [event_of_due _ _ _ hl (by simp [fabUnit, hfence, hrun, hop, esRun]), hreps, List.isEmpty_nil, Bool.and_true]

theorem setEngState_fab (d : ChipId) (n : Nat) (s : State) : setEngState (fabUnit d) n s = s.modFab d fun x => { x with state := n } := by
  have hd : fabUnit d - 72 = d.val := by
    unfold fabUnit
    omega
  have hu : 72 ≤ fabUnit d := by
    unfold fabUnit
    omega
  rw [setEngState, if_neg (by omega), if_neg (by omega), if_neg (by omega), if_pos hu, hd]

theorem execFabRecvComplete_silent {d : ChipId} {n : Nat} {v : Recv} (hl : s.live = true) (hv : (s.fabEng d).recvs[n]? = some v)
    (hdone : v.target ≤ (s.flowCtx v.flow).accepted) (hs : v.signal = 0xFFFF) :
    execFabRecvComplete d n s = .next (s.modFab d fun x => { x with recvs := x.recvs.eraseIdx n }) := by
  unfold execFabRecvComplete
  rw [hv, Option.filter_some_pos (by simpa using hdone), eventOf_some _ _ _ hl]
  exact congrArg _ (if_pos hs)

/-! ### The fetch check -/

theorem boardEntry_modBoard_same (n : Nat) (f : BoardEntry → BoardEntry) (s : State) :
    (s.modBoard n f).boardEntry n = f (s.boardEntry n) := tget_tmod_same ..

/-- A flow whose first complete copy has been checked (R365). -/
def FlowCtx.checked (ok : Bool) (x : FlowCtx) : FlowCtx := { x with copies := x.copies.drop 1, matched := ok }

/-- Counting a part of a tag leaves the board. -/
theorem tagPart_board (tag n : Nat) (s : State) : (tagPart tag s).boardEntry n = s.boardEntry n := by
  unfold tagPart
  split <;> rfl

/-- A copy that is the board's is accepted and counts one part of its tag (R365). -/
theorem execFetchCheck_match {n : Fin 1024} {cs : List Word} (hl : s.live = true) (hv : (s.boardEntry n).valid = true)
    (hc : (s.flowCtx (s.boardEntry n).flow).copies = (s.boardEntry n).digest :: cs) :
    execFetchCheck n s = .next (tagPart (s.boardEntry n).tag
      (((s.modFlow (s.boardEntry n).flow (FlowCtx.checked true)).modFlow (s.boardEntry n).flow fun x =>
        { x with accepted := x.accepted + (s.boardEntry n).lines }).modBoard n fun y =>
        { y with misses := 0, matched := satAdd 16 y.matched 1 })) := by
  unfold execFetchCheck
  dsimp only
  rw [if_pos hv, hc, List.head?_cons, eventOf_some _ _ _ hl, if_pos rfl, beq_self_eq_true]
  rfl

/-- A copy that does not match has been taken, and the board's entry counts a miss (R365). -/
def fetchMissed (n : Nat) (b : BoardEntry) (s : State) : State :=
  (s.modFlow b.flow (FlowCtx.checked false)).modBoard n fun y => { y with misses := min (b.misses + 1) 3 }

theorem fetchMissed_ctx (n : Nat) (b : BoardEntry) (s : State) :
    (fetchMissed n b s).flowCtx b.flow = (s.flowCtx b.flow).checked false := State.flowCtx_modFlow_same ..

/-- Another copy is a miss; the first two misses ask for a repeat, the third forms a record (R365, R366). -/
theorem execFetchCheck_misses {n : Fin 1024} {c : Word} {cs : List Word} (hl : s.live = true) (hv : (s.boardEntry n).valid = true)
    (hc : (s.flowCtx (s.boardEntry n).flow).copies = c :: cs) (hne : c ≠ (s.boardEntry n).digest) :
    ∃ r, execFetchCheck n s = .next r ∧ r.mem = s.mem ∧ r.tag = (fetchMissed n (s.boardEntry n) s).tag ∧ r.fab =
      (if (s.boardEntry n).misses < 2 then (fetchMissed n (s.boardEntry n) s).modFlow (s.boardEntry n).flow fun x =>
        { x with asked := x.asked + 1 } else fetchMissed n (s.boardEntry n) s).fab := by
  unfold execFetchCheck
  dsimp only
  rw [if_pos hv, hc, List.head?_cons, eventOf_some _ _ _ hl, if_neg hne, beq_false_of_ne hne]
  by_cases hlow : (s.boardEntry n).misses < 2
  · rw [if_pos (by omega), if_pos hlow]
    exact ⟨_, rfl, rfl, rfl, rfl⟩
  · rw [if_neg (by omega), if_neg hlow]
    split
    · next f _ =>
      obtain ⟨e, h, t, b, hr⟩ := formRecord_frame (fetchMissed n (s.boardEntry n) s) (1 + f.inPort / 2)
        { cls := 0x0B, severity := sevDeferred, unit := 72 + f.inPort / 2, code := 1, troupe := f.troupe,
          sceneId := ((fetchMissed n (s.boardEntry n) s).troupe f.troupe).sceneId, info0 := n, info1 := (s.boardEntry n).digest.toNat, info2 := c.toNat }
      refine ⟨_, rfl, ?_⟩
      exact hr ▸ ⟨rfl, rfl, rfl⟩
    · exact ⟨_, rfl, rfl, rfl, rfl⟩

theorem execFetchCheck_miss {n : Fin 1024} {c : Word} {cs : List Word} (hl : s.live = true) (hv : (s.boardEntry n).valid = true)
    (hc : (s.flowCtx (s.boardEntry n).flow).copies = c :: cs) (hne : c ≠ (s.boardEntry n).digest) :
    ∃ r, execFetchCheck n s = .next r ∧ r.mem = s.mem ∧ (r.boardEntry n).misses = min ((s.boardEntry n).misses + 1) 3 ∧
      (r.flowCtx (s.boardEntry n).flow).copies = cs ∧
      (r.flowCtx (s.boardEntry n).flow).accepted = (s.flowCtx (s.boardEntry n).flow).accepted ∧
      ((s.boardEntry n).misses < 2 → (r.flowCtx (s.boardEntry n).flow).asked = (s.flowCtx (s.boardEntry n).flow).asked + 1) := by
  obtain ⟨r, hr, hmem, htag, hfab⟩ := execFetchCheck_misses hl hv hc hne
  have hctx := fetchMissed_ctx n (s.boardEntry n) s
  have hboard : (r.boardEntry n).misses = min ((s.boardEntry n).misses + 1) 3 := by
    rw [State.boardEntry, htag]
    exact congrArg BoardEntry.misses (boardEntry_modBoard_same ..)
  have hcs : ((s.flowCtx (s.boardEntry n).flow).checked false).copies = cs := congrArg (List.drop 1) hc
  refine ⟨r, hr, hmem, hboard, ?_⟩
  rw [State.flowCtx, hfab]
  split
  · rw [show tget {} (State.fab _).flows (s.boardEntry n).flow = _ from State.flowCtx_modFlow_same .., hctx]
    exact ⟨hcs, rfl, fun _ => rfl⟩
  · next hlow =>
    rw [show tget {} (State.fab _).flows (s.boardEntry n).flow = _ from hctx]
    exact ⟨hcs, rfl, fun h => absurd h hlow⟩

/-- The source of a flow owes its last SEND once more (R366). -/
theorem execRepeatRequest_owes {flow : Fin 262144} {f : FlowRec} (hl : s.live = true) (hf : s.image.flowRec flow = some f)
    (hport : f.inPort = 8) (hlast : thas (s.fabEng (f.outPort / 2)).lastSend flow = true)
    (hrun : (s.fabEng (f.outPort / 2)).state = 1) :
    execRepeatRequest flow s = .next (s.modFab (f.outPort / 2) fun x => { x with repeats := x.repeats ++ [(flow.val, 0)] }) := by
  unfold execRepeatRequest
  rw [hf, eventOf_some _ _ _ hl, if_pos hport]
  exact congrArg _ (if_pos (by simp [hlast, hrun]))

/-- What a matching copy leaves: its bytes are accepted, and the board's entry has no misses (R365). -/
theorem fetchMatched_leaves (n flow tag lines : Nat) (s : State) :
    let q := ((s.modFlow flow (FlowCtx.checked true)).modFlow flow fun x => { x with accepted := x.accepted + lines }).modBoard n fun y =>
      { y with misses := 0, matched := satAdd 16 y.matched 1 }
    (tagPart tag q).mem = s.mem ∧ (tagPart tag q).flowCtx flow =
      { (s.flowCtx flow).checked true with accepted := (s.flowCtx flow).accepted + lines } ∧
    (tagPart tag q).boardEntry n = { s.boardEntry n with misses := 0, matched := satAdd 16 (s.boardEntry n).matched 1 } := by
  intro q
  refine ⟨by rw [tagPart_frame]; rfl, ?_, (tagPart_board ..).trans (boardEntry_modBoard_same ..)⟩
  rw [tagPart_frame]
  exact (State.flowCtx_modFlow_same (s.modFlow flow (FlowCtx.checked true)) flow fun x => { x with accepted := x.accepted + lines }).trans
    (by rw [State.flowCtx_modFlow_same]; rfl)

/-! ### Publications -/

/-- A board entry after a publication: one of the key takes it (R363). -/
def BoardEntry.publish (key : W32) (digest : Word) (gen : W32) (b : BoardEntry) : BoardEntry :=
  if b.valid && b.key == key.toNat then { b with digest := digest, gen := gen.toNat } else b

theorem publish_board (key : W32) (digest : Word) (gen : W32) (l : Tbl BoardEntry) (n : Nat) :
    tget ({} : BoardEntry) (l.map fun p => if p.2.valid && p.2.key == key.toNat then (p.1, { p.2 with digest := digest, gen := gen.toNat }) else p) n =
      (tget ({} : BoardEntry) l n).publish key digest gen := by
  induction l with
  | nil => rfl
  | cons p l ih =>
    rw [List.map_cons, tget, tget, ih]
    by_cases hn : n = p.1
    · by_cases hk : (p.2.valid && p.2.key == key.toNat) = true
      · rw [if_pos hk, if_pos hn, if_pos hn, BoardEntry.publish, if_pos hk]
      · rw [if_neg hk, if_pos hn, if_pos hn, BoardEntry.publish, if_neg hk]
    · rw [if_neg hn, if_neg]
      split <;> exact hn

/-- Settles O41: each entry of the ring acts by its own lemma; a checked copy either matches the board or is a miss. -/
theorem fabricEngineRunsItsRing : Obligations.FabricEngineRunsItsRing := by
  unfold Obligations.FabricEngineRunsItsRing
  refine ⟨?_, ?_, ?_, ?_, ?_⟩
  · intro d slot s f x e flow hl hfence hrun hreps
    refine ⟨fun hop hok hgo hf => ⟨fun hasked hreach => ?_, fun data hasked hslot hsent hdata hc => ?_⟩, fun hop hroom hok => ?_,
      fun hop hpos hall => ?_, fun hop => ?_⟩
    · obtain ⟨ms, hask⟩ := askSend_reached (s := s.modFab d fun x => { x with released := true }) (d := d)
        (first := fieldAt e 0x0C 4) (count := fieldAt e 0x10 4) (f := f) hreach
      have hna : (!(s.fabEng d).asked) = true := (congrArg not hasked).trans rfl
      refine ⟨_, (execFabSend_eq hl hfence hrun hreps hop hok hgo hf).trans (congrArg _ ((if_pos hna).trans hask)), ?_, rfl, rfl, rfl, rfl⟩
      exact congrArg FabEngine.asked (State.fabEng_modFab_same (s.modFab d fun x => { x with released := true }) d
        fun x => { x with asked := true })
    · have hna : ¬ (!(s.fabEng d).asked) = true := by
        rw [show (s.fabEng d).asked = true from hasked]
        decide
      have hslot : (slotOfFlow s slot f && decide ((s.fabEng d).sent < fieldAt (s.fabEng d).cur 0x10 4)) = true :=
        Bool.and_eq_true_iff.2 ⟨hslot, decide_eq_true hsent⟩
      obtain ⟨r, hr, hsent, hmem, htiles, hctx⟩ := sendLine_launches (slot := slot) hdata hc
      have heq := execFabSend_eq (slot := slot) hl hfence hrun hreps hop hok hgo hf
      rw [if_neg hna, if_pos hslot] at heq
      exact ⟨r, heq.trans (congrArg _ hr), hsent, hmem, htiles, congrArg FlowCtx.credits hctx, congrArg FlowCtx.lines hctx⟩
    · refine ⟨_, execFabRecv_registers hl hfence hrun hop hroom hok, ?_, ?_, ?_, rfl⟩
      · rw [State.fabEng_modFab_same]
        rfl
      · rw [State.fabEng_modFab_same]
        rfl
      · exact congrArg FlowCtx.claimed (State.flowCtx_modFlow_same s flow fun y =>
          { y with claimed := (s.flowCtx flow).claimed + fieldAt e 0x10 4 })
    · obtain ⟨y, hsig⟩ := engineSignal_frame (s.modFab d fun x =>
        { x.next with lastSend := tset x.lastSend (fieldAt e 8 4 % 2 ^ 18) (fieldAt e 0x0C 4, fieldAt e 0x10 4) }) (fabUnit d) (fieldAt e 0x14 2)
      have hmsgs := engineSignal_msgs (fabUnit d) (fieldAt e 0x14 2) (s.modFab d fun x =>
        { x.next with lastSend := tset x.lastSend (fieldAt e 8 4 % 2 ^ 18) (fieldAt e 0x0C 4, fieldAt e 0x10 4) })
      have heng := State.fabEng_modFab_same s d fun x =>
        { x.next with lastSend := tset x.lastSend (fieldAt e 8 4 % 2 ^ 18) (fieldAt e 0x0C 4, fieldAt e 0x10 4) }
      refine ⟨_, execFabSendComplete_next hl hrun hop hpos hall, ?_, ?_, hmsgs, ?_⟩
      · rw [hsig]
        exact congrArg FabEngine.entry heng
      · rw [hsig]
        exact congrArg FabEngine.sent heng
      · rw [hsig]
        rfl
    · obtain ⟨t, harrive, harrived⟩ := engineArrive_arrives (fabUnit d) s
      refine ⟨_, execFabEnd_ends hl hfence hrun hop hreps, ?_, fun h => ?_, fun h => ?_, fun tr h htr => ?_⟩
      · split
        · rw [harrive, setEngState_fab]
          rfl
        · rw [setEngState_fab]
          rfl
      · rw [if_pos (List.isEmpty_iff.2 h), harrive, setEngState_fab]
        exact congrArg FabEngine.state (State.fabEng_modFab_same s d fun x => { x with state := esDone })
      · rw [if_neg fun hb => h (List.isEmpty_iff.1 hb), setEngState_fab, State.fabEng_modFab_same]
        rfl
      · rw [if_pos (List.isEmpty_iff.2 h), harrive]
        exact harrived tr htr
  · intro d n s v hl hv hdone hs
    exact execFabRecvComplete_silent hl hv hdone hs
  · intro n s c cs b hl hvalid hcopies
    by_cases hc : c = b.digest
    · rw [hc] at hcopies
      obtain ⟨hmem, hctx, hboard⟩ := fetchMatched_leaves n b.flow b.tag b.lines s
      refine ⟨_, execFetchCheck_match hl hvalid hcopies, hmem, ?_, fun _ => ⟨?_, ?_, ?_⟩, fun h => absurd hc h⟩
      · refine (congrArg FlowCtx.copies hctx).trans ?_
        exact congrArg (List.drop 1) hcopies
      · exact congrArg BoardEntry.misses hboard
      · exact congrArg BoardEntry.matched hboard
      · exact congrArg FlowCtx.accepted hctx
    · obtain ⟨r, hr, hmem, hboard, hcs, hacc, hask⟩ := execFetchCheck_miss hl hvalid hcopies hc
      exact ⟨r, hr, hmem, hcs, fun h => absurd h hc, fun _ => ⟨hboard, hacc, hask⟩⟩
  · intro flow s f hl hf hport hlast hrun
    exact execRepeatRequest_owes hl hf hport hlast hrun
  · intro key digest gen s hl
    refine ⟨_, show execPublicationReceipt key digest gen s = _ from event_of_due s true _ hl rfl, rfl, fun n => ?_⟩
    refine (publish_board ..).trans ?_
    unfold BoardEntry.publish
    simp only [Bool.and_eq_true, beq_iff_eq]
    rfl

end Sys2Proof.Machine
end

section
/-! SUPPORT. The timetable's slots and frames (O36): what a slot leaves of the controllers, and the temperatures of a frame
(R228 to R242). -/

namespace Sys2Proof.Machine

open Sys2Proof

variable {s : State}

/-! ### What a slot leaves -/

/-- From s to r tiles, the image in force, the requests of every memory and the channels that have scrubbed stand. -/
structure SlotKept (s r : State) : Prop where
  tiles : r.tiles = s.tiles
  img : r.img = s.img
  ctl : ∀ d, (r.memCtl d).reqs = (s.memCtl d).reqs ∧ (r.memCtl d).scrubbed = (s.memCtl d).scrubbed

namespace SlotKept

theorem of_mems {r : State} (ht : r.tiles = s.tiles) (hi : r.img = s.img) (hm : r.mems = s.mems) : SlotKept s r where
  tiles := ht
  img := hi
  ctl d := by
    unfold State.memCtl
    rw [hm]
    exact ⟨rfl, rfl⟩

theorem refl (s : State) : SlotKept s s := of_mems rfl rfl rfl

theorem trans {r q : State} (h : SlotKept s r) (k : SlotKept r q) : SlotKept s q where
  tiles := k.tiles.trans h.tiles
  img := k.img.trans h.img
  ctl d := ⟨(k.ctl d).1.trans (h.ctl d).1, (k.ctl d).2.trans (h.ctl d).2⟩

theorem modMem {f : MemCtl → MemCtl} (h : ∀ c, (f c).reqs = c.reqs ∧ (f c).scrubbed = c.scrubbed) (i : Nat) (s : State) :
    SlotKept s (s.modMem i f) where
  tiles := rfl
  img := rfl
  ctl d := by
    by_cases hd : d = i
    · subst hd
      rw [State.memCtl_modMem_same]
      exact h _
    · rw [State.memCtl_modMem_ne _ _ _ _ hd]
      exact ⟨rfl, rfl⟩

theorem formRecord (d : Nat) (r : ErrRec) (s : State) : SlotKept s (Machine.formRecord d r s) := by
  obtain ⟨e, h, t, b, hr⟩ := formRecord_frame s d r
  rw [hr]
  exact of_mems rfl rfl rfl

/-- Counting an error keeps what waits (R244 to R246). -/
theorem note (ue : Bool) (ch off : Nat) (c : MemCtl) : (c.note ue ch off).reqs = c.reqs ∧ (c.note ue ch off).scrubbed = c.scrubbed := by
  unfold MemCtl.note
  extract_lets c'
  have hc : c'.reqs = c.reqs ∧ c'.scrubbed = c.scrubbed := by
    simp only [c']
    split <;> exact ⟨rfl, rfl⟩
  split <;> exact hc

theorem eccRead (a : Nat) (e : Ecc) (requester unit troupe : Nat) (s : State) :
    SlotKept s (Machine.eccRead a e requester unit troupe s) := by
  unfold Machine.eccRead
  split
  · exact refl s
  · next m off _ =>
    extract_lets ch base s1 s3 s4 s2
    have hcorrected (q : State) : SlotKept q (if requester = rqPort then Machine.formRecord (memDie m)
        { base with cls := 3, severity := sevCorrected } (q.modMem m fun c => c.note false ch off) else q.modMem m fun c => c.note false ch off) := by
      have hnote : SlotKept q (q.modMem m fun c => c.note false ch off) := modMem (note false ch off) m q
      split
      · exact hnote.trans (formRecord ..)
      · exact hnote
    split
    · exact refl s
    · exact hcorrected s
    · exact .trans (by exact of_mems rfl rfl rfl) (hcorrected _)
    · refine .trans (modMem (note true ch off) m s) (.trans ?_ (formRecord ..))
      simp only [s2]
      split
      · exact refl _
      · exact of_mems rfl rfl rfl

theorem cancelWriteBack (a : Nat) (s : State) : SlotKept s (Machine.cancelWriteBack a s) := by
  unfold Machine.cancelWriteBack
  split
  · exact refl s
  · extract_lets p
    split
    · exact modMem (by intro _; exact ⟨rfl, rfl⟩) _ s
    · exact refl s

theorem storeLine (a : Nat) (bs : List Byte) (s : State) : SlotKept s (Machine.storeLine a bs s) :=
  .trans (of_mems (r := s.store a bs) rfl rfl rfl) (.trans (cancelWriteBack ..) (of_mems rfl rfl rfl))

end SlotKept

/-- A read that does not correct a line wrongly moves no byte (R236). -/
theorem eccRead_memory {a : Nat} {e : Ecc} (h : effEcc s a e ≠ .miscorrected) (requester unit troupe : Nat) :
    (eccRead a e requester unit troupe s).mem = s.mem := by
  obtain ⟨r, m, c, x, k, t, b, hr, heq⟩ := eccRead_frame s a e requester unit troupe
  rw [heq]
  obtain rfl | ⟨-, hbad⟩ := hr
  · rfl
  · exact absurd hbad h

/-! ### Requests in their slots -/

theorem isEmpty_of_length {α : Type} {l : List α} {n : Nat} (h : l.length = n + 1) : l.isEmpty = false := by
  cases l with
  | nil => cases h
  | cons => rfl

section
variable {m : MemoryId} {ch slot : Nat} {e : Ecc} {q : MemReq}

/-- The requests whose slots tell nobody. -/
theorem served_quiet (hq : (∃ h, q.who = .window h) ∨ q.who = .dataHome) (dropped : Bool) (s : State) : served q dropped s = s := by
  unfold served
  obtain ⟨h, hw⟩ | hw := hq
  · rw [hw]
  · rw [hw]

/-- A request leaves its queue. -/
theorem unqueued_reqs (m : Nat) (q : MemReq) (s : State) : ((s.modMem m fun c => { c with reqs := c.reqs.erase q }).memCtl m).reqs =
    (s.memCtl m).reqs.erase q := congrArg MemCtl.reqs (State.memCtl_modMem_same s m fun c => { c with reqs := c.reqs.erase q })

theorem mergeBytes_length (old data : List Byte) (mask : List Bool) : (mergeBytes old data mask).length = 128 := by
  rw [mergeBytes, List.length_map, List.length_range]

/-- A window write or DataHome of a whole line is written in one slot (R234). -/
theorem serveRequest_line (hq : (∃ h, q.who = .window h) ∨ q.who = .dataHome) (hw : q.write = true) (hp : q.poison = false)
    (hd : q.data.length = 128) (hm : q.mask = []) (s : State) : ∃ r, serveRequest m e q s = unqueued m q r ∧ SlotKept s r ∧
      r.mem = memWrites s.mem (128 * q.line) q.data := by
  have hne : q.data.isEmpty = false := isEmpty_of_length hd
  obtain ⟨ms, c, hs⟩ := storeLine_frame s (128 * q.line) q.data
  refine ⟨storeLine (128 * q.line) q.data s, ?_, .storeLine .., by rw [hs]⟩
  rw [serveRequest_write hw hm hp, hne, served_quiet hq]
  rfl

/-- The second slot of a partial write writes the merged line (R234). -/
theorem serveRequest_merged (hq : (∃ h, q.who = .window h) ∨ q.who = .dataHome) (hw : q.write = true)
    (hd : q.data.length = 128) (hm : q.mask ≠ []) (hr : q.readDone = true) (s : State) :
    ∃ r, serveRequest m e q s = unqueued m q r ∧ SlotKept s r ∧
      r.mem = memWrites s.mem (128 * q.line) (mergeBytes (s.bytes (128 * q.line) 128) q.data q.mask) := by
  have hne : q.data.isEmpty = false := isEmpty_of_length hd
  have hmask : q.mask.isEmpty = false := by simpa using hm
  obtain ⟨ms, hs⟩ := cancelWriteBack_frame (s.store (128 * q.line) (mergeBytes (s.bytes (128 * q.line) 128) q.data q.mask)) (128 * q.line)
  refine ⟨cancelWriteBack (128 * q.line) (s.store (128 * q.line) (mergeBytes (s.bytes (128 * q.line) 128) q.data q.mask)), ?_,
    (SlotKept.of_mems (s := s) (r := s.store (128 * q.line) (mergeBytes (s.bytes (128 * q.line) 128) q.data q.mask)) rfl rfl rfl).trans (.cancelWriteBack ..), by rw [hs]; rfl⟩
  unfold serveRequest
  simp only [hw, hmask, hr, hne, Bool.not_true, Bool.false_eq_true, if_false, if_true, served_quiet hq]
  rfl

/-- The first slot of a partial write reads its line, and drops the write where the line cannot be corrected (R236). -/
theorem serveRequest_partial (hq : (∃ h, q.who = .window h) ∨ q.who = .dataHome) (hw : q.write = true)
    (hm : q.mask ≠ []) (hr : q.readDone = false) (s : State) : ∃ r, r = eccRead (128 * q.line) e rqMerge 0xFF 0xFF s ∧
      serveRequest m e q s = if effEcc s (128 * q.line) e = .uncorrectable then unqueued m q r
        else r.modMem m fun c => { c with reqs := c.reqs.map fun k => if k = q then { k with readDone := true } else k } := by
  have hmask : q.mask.isEmpty = false := by simpa using hm
  refine ⟨_, rfl, ?_⟩
  unfold serveRequest
  simp only [hw, hmask, hr, Bool.not_true, Bool.false_eq_true, if_false, served_quiet hq, beq_iff_eq]
  rfl

/-- The slot of a window write or of DataHome leaves tiles and the image in force. -/
theorem serveRequest_bystanders (hq : (∃ h, q.who = .window h) ∨ q.who = .dataHome) (hw : q.write = true) (hp : q.poison = false)
    (hd : q.data.length = 128) (s : State) : (serveRequest m e q s).tiles = s.tiles ∧ (serveRequest m e q s).img = s.img := by
  by_cases hm : q.mask = []
  · obtain ⟨r, heq, hkept, -⟩ := serveRequest_line (m := m) (e := e) hq hw hp hd hm s
    rw [heq]
    exact ⟨hkept.tiles, hkept.img⟩
  · cases hr : q.readDone with
    | true =>
      obtain ⟨r, heq, hkept, -⟩ := serveRequest_merged (m := m) (e := e) hq hw hd hm hr s
      rw [heq]
      exact ⟨hkept.tiles, hkept.img⟩
    | false =>
      obtain ⟨r, hread, heq⟩ := serveRequest_partial (m := m) (e := e) hq hw hm hr s
      have hkept : SlotKept s r := hread ▸ .eccRead ..
      rw [heq]
      split
      · exact ⟨hkept.tiles, hkept.img⟩
      · exact ⟨hkept.tiles, hkept.img⟩

/-- A slot that is due and carries no requests scrubs or only passes (R229, R231). -/
theorem execMemorySlot_idles (hl : s.live = true) (hch : ch < 2 ^ chanBits m) (hslot : slot < memSlots m)
    (hnext : tget 0 (s.memCtl m).nextSlot ch ≤ s.time.ttFrames * memSlots m + slot)
    (hnow : s.beginsNow (memSlotAt m (s.time.ttFrames * memSlots m + slot)) = true)
    (hcarry : carriesRequests (ownerWord s m ch slot) = false) : execMemorySlot m ch slot e s = .next (
      if ownerWord s m ch slot / 2 ^ 28 = 4 ∧ scrubs (s.memCtl m).hot slot = true then scrubEntry m ch e (nextSlotCounted m ch slot s)
      else nextSlotCounted m ch slot s) := by
  have howner : ownerWord (nextSlotCounted m ch slot s) m ch slot = ownerWord s m ch slot := rfl
  have hhot : ((nextSlotCounted m ch slot s).memCtl m).hot = (s.memCtl m).hot := by
    unfold nextSlotCounted
    rw [State.memCtl_modMem_same]
  unfold execMemorySlot
  dsimp only
  rw [event_of_due s _ _ hl (by simp [hch, hslot, hnext, hnow])]
  unfold nextSlotCounted at howner hhot ⊢
  rw [howner, if_neg (by rw [hcarry]; decide), hhot]

theorem nextSlotCounted_kept (m : MemoryId) (ch slot : Nat) (s : State) : SlotKept s (nextSlotCounted m ch slot s) :=
  .modMem (by intro _; exact ⟨rfl, rfl⟩) m s

end

/-! ### Scrubbing -/

theorem withOne_of_not_mem {l : List Nat} {x : Nat} (h : x ∉ l) : withOne l x = l ++ [x] :=
  if_neg fun hc => h (List.contains_iff_mem.1 hc)

/-- One channel's part of a scrub entry: no byte moves, and a channel that had not scrubbed is marked (R231). -/
theorem scrubEntry_keeps {m ch : Nat} {e : Ecc} (he : e.finding ≠ .miscorrected) (s : State) :
    (scrubEntry m ch e s).mem = s.mem ∧ (scrubEntry m ch e s).tiles = s.tiles ∧ (scrubEntry m ch e s).img = s.img ∧
    (ch ∉ (s.memCtl m).scrubbed → (s.memCtl m).scrubbed.length + 1 ≠ 2 ^ chanBits m →
      ((scrubEntry m ch e s).memCtl m).scrubbed = (s.memCtl m).scrubbed ++ [ch]) := by
  have hecc (q : State) (a : Nat) : effEcc q a e ≠ .miscorrected := by
    unfold effEcc
    split
    · decide
    · exact he
  unfold scrubEntry
  extract_lets advance s1 c a found s2 s3 s4
  have h1 : s1.mem = s.mem ∧ s1.tiles = s.tiles ∧ s1.img = s.img ∧ (ch ∉ (s.memCtl m).scrubbed → s1 = s) := by
    simp only [s1]
    split
    · next h => exact ⟨rfl, rfl, rfl, fun hn => absurd (List.contains_iff_mem.1 h) hn⟩
    · exact ⟨rfl, rfl, rfl, fun _ => rfl⟩
  have h3 : s3.mem = s1.mem ∧ SlotKept s1 s3 := by
    simp only [s3]
    split
    · exact ⟨rfl, .modMem (by intro _; exact ⟨rfl, rfl⟩) m s1⟩
    · have h2 : s2.mem = s1.mem ∧ SlotKept s1 s2 := ⟨eccRead_memory (hecc s1 a) .., .eccRead ..⟩
      split
      · exact ⟨h2.1, h2.2.trans (.modMem (by intro _; exact ⟨rfl, rfl⟩) m s2)⟩
      · exact h2
  have h4 : (s4.memCtl m).scrubbed = withOne (s3.memCtl m).scrubbed ch :=
    congrArg MemCtl.scrubbed (State.memCtl_modMem_same s3 m fun c => { c with scrubbed := withOne c.scrubbed ch })
  obtain ⟨hmem, htiles, himg, hsame⟩ := h1
  obtain ⟨hmem3, htiles3, himg3, hctl3⟩ := h3
  have hframe : s4.mem = s3.mem ∧ s4.tiles = s3.tiles ∧ s4.img = s3.img := ⟨rfl, rfl, rfl⟩
  clear_value s4 s3 advance
  obtain ⟨hmem4, htiles4, himg4⟩ := hframe
  have hlast : ∀ c : Prop, ∀ _ : Decidable c, (if c then s4.modMem m advance else s4).mem = s4.mem ∧
      (if c then s4.modMem m advance else s4).tiles = s4.tiles ∧ (if c then s4.modMem m advance else s4).img = s4.img := by
    intro c _
    split <;> exact ⟨rfl, rfl, rfl⟩
  obtain ⟨hm, ht, hi⟩ := hlast ((s4.memCtl m).scrubbed.length = 2 ^ chanBits m) inferInstance
  refine ⟨hm.trans (hmem4.trans (hmem3.trans hmem)), ht.trans (htiles4.trans (htiles3.trans htiles)),
    hi.trans (himg4.trans (himg3.trans himg)), fun hn hlen => ?_⟩
  · rw [(hctl3 m).2, hsame hn, withOne_of_not_mem hn] at h4
    rw [if_neg (by rw [h4, List.length_append]; exact hlen)]
    exact h4

/-! ### The timetable frame -/

theorem thermalRecord_frame (m code severity : Nat) (x : Option Int) (s : State) :
    ∃ k e h t b, thermalRecord m code severity x s = { s with fresh := k, err := e, host := h, troupes := t, boot := b } := by
  unfold thermalRecord
  extract_lets s1
  obtain ⟨e, h, t, b, hr⟩ := formRecord_frame s1 (memDie m)
    { cls := 7, severity := severity, code := code
      info0 := if m < 12 then m else (Config.freeWord64 s1.fresh).toNat
      info1 := match x with
        | some t => wrapInt 64 t
        | none => (Config.freeWord64 s1.fresh).toNat }
  exact ⟨s1.fresh, e, h, t, b, hr⟩

/-- r is s but for records, router messages and free values. -/
def RecordsOnly (s r : State) : Prop := ∃ k e h t b, r = { s with fresh := k, err := e, host := h, troupes := t, boot := b }

theorem RecordsOnly.refl (s : State) : RecordsOnly s s := ⟨s.fresh, s.err, s.host, s.troupes, s.boot, rfl⟩

theorem RecordsOnly.ite {r : State} {f : State → State} (c : Prop) [Decidable c] (h : RecordsOnly s r)
    (hf : ∀ s, RecordsOnly s (f s)) : RecordsOnly s (if c then f r else r) := by
  split
  · obtain ⟨k, e, ho, t, b, rfl⟩ := h
    obtain ⟨k', e', ho', t', b', hr⟩ := hf { s with fresh := k, err := e, host := ho, troupes := t, boot := b }
    exact ⟨k', e', ho', t', b', hr⟩
  · exact h

/-- A memory takes its reading; records and messages follow (R240). -/
theorem heatMemory_heats (temps : List TempSample) (m : Nat) (s : State) :
    RecordsOnly (s.modMem m fun c => c.heat temps m) (heatMemory temps m s) := by
  have hsend (q : State) : RecordsOnly q (evtSend 4 q) := by
    obtain ⟨h, hr⟩ := evtSend_frame q 4
    exact ⟨q.fresh, q.err, h, q.troupes, q.boot, hr⟩
  have hrecord (code severity : Nat) (q : State) : RecordsOnly q (thermalRecord m code severity (readingOf temps m) q) :=
    thermalRecord_frame ..
  unfold heatMemory
  extract_lets c r s1 d s2 s3 s4 s5 s6
  have h2 : RecordsOnly s1 s2 := .ite _ (.refl s1) hsend
  have h3 : RecordsOnly s1 s3 := .ite _ h2 hsend
  have h4 : RecordsOnly s1 s4 := .ite _ h3 (hrecord _ _)
  have h5 : RecordsOnly s1 s5 := .ite _ h4 (hrecord _ _)
  have h6 : RecordsOnly s1 s6 := .ite _ h5 (hrecord _ _)
  exact .ite _ h6 (hrecord _ _)

/-- The first n memories have taken their readings. -/
structure Heated (temps : List TempSample) (n : Nat) (s r : State) : Prop where
  frame : ∃ ms k e h t b, r = { s with mems := ms, fresh := k, err := e, host := h, troupes := t, boot := b }
  ctl : ∀ d, r.memCtl d = if d < n then (s.memCtl d).heat temps d else s.memCtl d

theorem foldl_heatMemory (temps : List TempSample) (n : Nat) (s : State) :
    Heated temps n s ((List.range n).foldl (fun s m => heatMemory temps m s) s) := by
  induction n with
  | zero => exact ⟨⟨s.mems, s.fresh, s.err, s.host, s.troupes, s.boot, rfl⟩, fun d => (if_neg (Nat.not_lt_zero d)).symm⟩
  | succ n ih =>
    obtain ⟨⟨ms, k, e, h, t, b, hframe⟩, hctl⟩ := ih
    rw [List.range_succ, List.foldl_append]
    generalize (List.range n).foldl (fun s m => heatMemory temps m s) s = q at hframe hctl
    obtain ⟨k', e', h', t', b', hr⟩ := heatMemory_heats temps n q
    rw [List.foldl_cons, List.foldl_nil, hr]
    refine ⟨⟨_, k', e', h', t', b', by rw [hframe]; rfl⟩, fun d => ?_⟩
    change (q.modMem n fun c => c.heat temps n).memCtl d = _
    by_cases hd : d = n
    · subst hd
      rw [State.memCtl_modMem_same, hctl, if_neg (Nat.lt_irrefl d), if_pos (Nat.lt_succ_self d)]
    · rw [State.memCtl_modMem_ne _ _ _ _ hd, hctl]
      exact if_congr (by omega) rfl rfl

theorem mem_haltPeers (m : Nat) : m ∈ haltPeers m := by
  unfold haltPeers
  split
  · simp only [List.mem_cons, List.not_mem_nil, or_false]
    omega
  · exact List.mem_singleton_self m

/-- A reading at or below a bound in degrees. -/
theorem readsAtMost_iff (r : Option Int) (n : Int) : readsAtMost r n = true ↔ ∃ x, r = some x ∧ x ≤ 16 * n := by
  cases r with
  | none => simp [readsAtMost]
  | some t => simp [readsAtMost]

/-- An action ends where the reading is low enough to end it and too low to start it (R240). -/
theorem action_ends {start : Int} {t : Int} {was ends : Bool} (h : t ≤ start) (he : ends = true) :
    (decide (start < t) || (was && !ends)) = false := by
  rw [he, decide_eq_false (by omega)]
  cases was <;> rfl

/-- The bits of a controller follow its reading, one without a reading as one above 100 °C (R240, R242). -/
theorem MemCtl.heat_reads (c : MemCtl) (temps : List TempSample) (m : Nat) :
    (1360 < (readingOf temps m).getD 1616 → (c.heat temps m).hot = true) ∧
    (1520 < (readingOf temps m).getD 1616 → (c.heat temps m).warn = true) ∧
    (1600 < (readingOf temps m).getD 1616 → (c.heat temps m).halt = true) ∧
    (∀ x, readingOf temps m = some x → x ≤ 1280 → (c.heat temps m).hot = false) ∧
    (∀ x, readingOf temps m = some x → x ≤ 1440 → (c.heat temps m).warn = false) ∧
    ((∀ k ∈ haltPeers m, ∃ x, readingOf temps k = some x ∧ x ≤ 1472) → (c.heat temps m).halt = false) := by
  have starts {start : Int} {b : Bool} (h : start < (readingOf temps m).getD 1616) :
      (decide (start < actingReading (readingOf temps m)) || b) = true := by
    rw [show decide (start < actingReading (readingOf temps m)) = true from decide_eq_true h, Bool.true_or]
  have acting {x : Int} (h : readingOf temps m = some x) : actingReading (readingOf temps m) = x := by
    rw [h]
    rfl
  refine ⟨fun h => starts h, fun h => starts h, fun h => starts h, fun x hx h => ?_, fun x hx h => ?_, fun h => ?_⟩
  · exact action_ends (by rw [acting hx]; omega) ((readsAtMost_iff ..).2 ⟨x, hx, h⟩)
  · exact action_ends (by rw [acting hx]; omega) ((readsAtMost_iff ..).2 ⟨x, hx, h⟩)
  · obtain ⟨x, hx, hle⟩ := h m (mem_haltPeers m)
    exact action_ends (by rw [acting hx]; omega) (List.all_eq_true.2 fun k hk => (readsAtMost_iff ..).2 (h k hk))

/-- The alert output follows the warnings of the memories (R240). -/
theorem settleAlert_alert (s : State) : (settleAlert s).elec.alert = true ↔
    (∃ m, m < 16 ∧ ((settleAlert s).memCtl m).warn = true) ∨ s.elec.hotDies ≠ [] := by
  show (((List.range 16).any fun m => (s.memCtl m).warn) || !s.elec.hotDies.isEmpty) = true ↔ _
  rw [Bool.or_eq_true, List.any_eq_true, Bool.not_eq_true', List.isEmpty_eq_false_iff]
  exact or_congr_left (exists_congr fun m => and_congr_left' List.mem_range)

/-- Settles O36: a request's slot by its kind, the scrubbing slot, and the readings of a frame. -/
theorem timetableSlotsServeTheirOwners : Obligations.TimetableSlotsServeTheirOwners := by
  unfold Obligations.TimetableSlotsServeTheirOwners
  refine ⟨?_, ?_⟩
  · intro m ch slot e s g w passed hl hch hslot hnext hnow
    have hcounted := nextSlotCounted_kept m ch slot s
    have hcountedReqs := (hcounted.ctl m).1
    refine ⟨?_, ?_, ?_⟩
    · intro q hcarry htaker hw hq hp hd a
      obtain ⟨htiles, himg⟩ := serveRequest_bystanders (m := m) (e := e) hq hw hp hd (nextSlotCounted m ch slot s)
      refine ⟨_, execMemorySlot_serves hl hch hslot hnext hnow hcarry htaker, htiles, himg, fun hm => ?_, fun hm hr => ?_,
        fun hm hr hfound => ?_⟩
      · obtain ⟨r, heq, hkept, hmem⟩ := serveRequest_line (m := m) (e := e) hq hw hp hd hm (nextSlotCounted m ch slot s)
        obtain ⟨hothers, hbytes⟩ := memoryKept_memWrites (s := s) (r := unqueued m q r) hd hmem
        rw [heq]
        exact ⟨hbytes, hothers, (unqueued_reqs ..).trans (by rw [(hkept.ctl m).1, hcountedReqs])⟩
      · have hne : q.mask ≠ [] := List.ne_nil_of_length_eq_add_one hm
        obtain ⟨r, heq, hkept, hmem⟩ := serveRequest_merged (m := m) (e := e) hq hw hd hne hr (nextSlotCounted m ch slot s)
        obtain ⟨hothers, hbytes⟩ := memoryKept_memWrites (s := s) (r := unqueued m q r) (mergeBytes_length ..) hmem
        rw [heq]
        exact ⟨hbytes, hothers, (unqueued_reqs ..).trans (by rw [(hkept.ctl m).1, hcountedReqs])⟩
      · have hne : q.mask ≠ [] := List.ne_nil_of_length_eq_add_one hm
        obtain ⟨r, hread, heq⟩ := serveRequest_partial (m := m) (e := e) hq hw hne hr (nextSlotCounted m ch slot s)
        have hecc : effEcc (nextSlotCounted m ch slot s) (128 * q.line) e = effEcc s a e := rfl
        have hmem : r.mem = s.mem := hread ▸ eccRead_memory (s := nextSlotCounted m ch slot s) hfound ..
        have hkept : SlotKept s r := hcounted.trans (hread ▸ .eccRead ..)
        rw [hecc] at heq
        refine ⟨?_, fun hbad => ?_, fun hgood => ?_⟩
        · rw [heq]
          split <;> exact hmem
        · rw [heq, if_pos hbad]
          exact (unqueued_reqs ..).trans (by rw [(hkept.ctl m).1])
        · rw [heq, if_neg hgood, State.memCtl_modMem_same, (hkept.ctl m).1]
    · intro h0
      refine (execMemorySlot_idles hl hch hslot hnext hnow ?_).trans (congrArg _ (if_neg ?_))
      · rw [show ownerWord s m ch slot = 0 from h0]
        decide
      · rw [show ownerWord s m ch slot = 0 from h0]
        exact fun h => absurd h.1 (by decide)
    · intro h4 he
      have h4 : ownerWord s m ch slot = 0x4000_0000 := h4
      obtain ⟨hmem, htiles, himg, hscrubbed⟩ := scrubEntry_keeps (m := m) (ch := ch) he (nextSlotCounted m ch slot s)
      rw [(hcounted.ctl m).2] at hscrubbed
      refine ⟨_, execMemorySlot_idles hl hch hslot hnext hnow (by rw [h4]; decide), ?_, ?_, ?_, fun hs hn hlen => ?_⟩
      · split
        · exact hmem
        · rfl
      · split
        · exact htiles
        · rfl
      · split
        · exact himg
        · rfl
      · rw [if_pos ⟨by rw [h4]; rfl, hs⟩]
        exact hscrubbed hn hlen
  · intro temps s hl hdue
    obtain ⟨⟨ms, k, e, h, t, b, hframe⟩, hctl⟩ := foldl_heatMemory temps 16 { s with time := { s.time with ttFrames := s.time.span / 65536 } }
    have hexec : execTimetableFrameStart temps s = .next (settleAlert ((List.range 16).foldl (fun s m => heatMemory temps m s)
      { s with time := { s.time with ttFrames := s.time.span / 65536 } })) := event_of_due _ _ _ hl (bne_iff_ne.2 hdue)
    generalize (List.range 16).foldl (fun s m => heatMemory temps m s)
      { s with time := { s.time with ttFrames := s.time.span / 65536 } } = q at hframe hctl hexec
    have hdies : q.elec.hotDies = s.elec.hotDies := by rw [hframe]
    refine ⟨_, hexec, by rw [hframe]; rfl, by rw [hframe]; rfl, by rw [hframe]; rfl, ?_, fun m hm => ?_⟩
    · rw [← hdies]
      exact settleAlert_alert q
    · have hheat : (settleAlert q).memCtl m = (s.memCtl m).heat temps m := (hctl m).trans (if_pos hm)
      rw [hheat]
      exact ⟨rfl, rfl, rfl, (s.memCtl m).heat_reads temps m⟩

end Sys2Proof.Machine
end

section
/-! SUPPORT. The host window (O50): gathering, draining, reading and flushing (R94, R404 to R408). -/

namespace Sys2Proof.Machine

open Sys2Proof

variable {s : State}

/-! ### Window addresses (R26, R29) -/

/-- A window address of the fast tier. -/
theorem placeOf_winFast {a m o : Nat} (h : placeOf a = .winFast m o) :
    0xC00_0000_0000 ≤ a ∧ a ≤ 0xC8F_FFFF_FFFF ∧ m = (a - 0xC00_0000_0000) / 0xC_0000_0000 := by
  unfold placeOf at h
  split_ifs at h with h1 h2 h3 h4 h5 h6 h7 h8
  all_goals cases h
  exact ⟨h6.1, h6.2, rfl⟩

/-- A window address of a scratchpad. -/
theorem placeOf_winPad {a t b o : Nat} (h : placeOf a = .winPad t b o) : t < 48 := by
  unfold placeOf at h
  split_ifs at h with h1 h2 h3 h4 h5 h6 h7 h8
  all_goals cases h
  omega

/-- The line behind a window address of the fast tier lies in the same stack. -/
theorem memOf_behind {a m o : Nat} (h : placeOf a = .winFast m o) : ∃ k, memOf (128 * (behind a / 128)) = some (m, k) := by
  obtain ⟨hlo, hhi, rfl⟩ := placeOf_winFast h
  have hb : behind a = a - 0xC00_0000_0000 := by
    rw [behind, if_neg (by omega), Nat.add_zero]
  have hplace : placeOf (128 * ((a - 0xC00_0000_0000) / 128)) = .fast ((a - 0xC00_0000_0000) / 0xC_0000_0000)
      (128 * ((a - 0xC00_0000_0000) / 128) % 0xC_0000_0000) := by
    rw [placeOf, if_pos (by omega),
      show 128 * ((a - 0xC00_0000_0000) / 128) / 0xC_0000_0000 = (a - 0xC00_0000_0000) / 0xC_0000_0000 by omega]
  rw [hb, memOf, hplace]
  exact ⟨_, rfl⟩

theorem unitDie_tile {t : Nat} (h : t < 48) : unitDie t = 1 + t / 12 := if_pos h

/-! ### Gathering (R404) -/

theorem usedBuffers_nil {w : HartWin} (h : w.bufs = []) : usedBuffers w = [] := by
  rw [usedBuffers, h]
  rfl

/-- A buffer with bytes put into it, its mask not full, is kept. -/
theorem gather_joins {h addr b : Nat} {x : WcBuf} {data : List Byte}
    (hf : (s.hartWin h).bufs.find? (fun p => p.2.used && p.2.line == addr / 128) = some (b, x)) (hb : tget {} (s.hartWin h).bufs b = x)
    (hmask : (x.put (addr % 128) data).mask.all id = false) :
    gather h addr data s = s.modWin h fun w => { w with bufs := tset w.bufs b ((tget {} w.bufs b).put (addr % 128) data) } := by
  have hbuf : tget {} (((s.modWin h fun w => { w with bufs := tset w.bufs b ((tget {} w.bufs b).put (addr % 128) data) }).hartWin h).bufs) b =
      x.put (addr % 128) data := by
    rw [State.hartWin_modWin_same, ← hb]
    exact tget_tset_same ..
  unfold gather
  extract_lets line off fill
  simp only [hf, line, fill, off, hbuf, hmask, Bool.false_eq_true, if_false]

/-- A fresh buffer of a line (R404). -/
def WcBuf.fresh (line order now : Nat) : WcBuf :=
  { line := line, data := List.replicate 128 0, mask := List.replicate 128 false, used := true, order := order, at_ := now }

theorem WcBuf.put_fresh_mask_eq {line order now off : Nat} {bs : List Byte} (h : off + bs.length ≤ 128) :
    ((WcBuf.fresh line order now).put off bs).mask =
      List.replicate off false ++ List.replicate bs.length true ++ List.replicate (128 - (off + bs.length)) false := by
  show (List.replicate 128 false).take off ++ List.replicate bs.length true ++ (List.replicate 128 false).drop (off + bs.length) = _
  rw [List.take_replicate, List.drop_replicate, Nat.min_eq_left (by omega)]

theorem WcBuf.put_fresh_mask {line order now off : Nat} {bs : List Byte} (h : off + bs.length ≤ 128) {i : Nat} (hi : i < 128) :
    ((WcBuf.fresh line order now).put off bs).mask.getD i false = (decide (off ≤ i) && decide (i < off + bs.length)) := by
  rw [put_fresh_mask_eq h]
  by_cases h1 : i < off
  · rw [List.append_assoc, List.getD_append _ _ _ _ (by rwa [List.length_replicate]), List.getD_replicate _ h1,
      decide_eq_false (by omega), Bool.false_and]
  · have hmid : (List.replicate off false ++ List.replicate bs.length true).length = off + bs.length := by simp
    rw [decide_eq_true (by omega : off ≤ i), Bool.true_and]
    by_cases h2 : i < off + bs.length
    · rw [List.getD_append _ _ _ _ (by rwa [hmid]), List.getD_append_right _ _ _ _ (by simpa using h1),
        List.getD_replicate _ (by rw [List.length_replicate]; omega), decide_eq_true h2]
    · rw [List.getD_append_right _ _ _ _ (by rw [hmid]; omega), List.getD_replicate _ (by rw [hmid]; omega), decide_eq_false h2]

theorem WcBuf.put_fresh_data {line order now off : Nat} {bs : List Byte} (h : off + bs.length ≤ 128) :
    (((WcBuf.fresh line order now).put off bs).data.drop off).take bs.length = bs := by
  have htake : ((List.replicate 128 (0 : Byte)).take off).length = off := by
    rw [List.length_take, List.length_replicate]
    omega
  show (((List.replicate 128 (0 : Byte)).take off ++ bs ++ (List.replicate 128 0).drop (off + bs.length)).drop off).take bs.length = bs
  rw [List.append_assoc, List.drop_left' htake, List.take_left' rfl]

/-- A write of less than a line leaves a byte of a fresh buffer out. -/
theorem WcBuf.put_fresh_open {line order now off : Nat} {bs : List Byte} (h : off + bs.length ≤ 128) (hlen : bs.length < 128) :
    ((WcBuf.fresh line order now).put off bs).mask.all id = false := by
  rw [put_fresh_mask_eq h, List.all_append, List.all_append]
  rcases Nat.eq_zero_or_pos off with rfl | hpos
  · rw [show List.all (List.replicate (128 - (0 + bs.length)) false) id = false by simp; omega, Bool.and_false]
  · rw [show List.all (List.replicate off false) id = false by simp; omega, Bool.false_and, Bool.false_and]

/-- A hart without buffers opens its first one. -/
theorem gather_opens {h addr : Nat} {data : List Byte} (hnone : (s.hartWin h).bufs = []) (hoff : addr % 128 + data.length ≤ 128)
    (hlen : data.length < 128) : ∃ ws, gather h addr data s = { s with wins := ws } ∧
      tget {} (tget ({} : HartWin) ws h).bufs 0 =
        (WcBuf.fresh (addr / 128) (s.hartWin h).order s.time.span).put (addr % 128) data := by
  have hmask := WcBuf.put_fresh_open (line := addr / 128) (order := (s.hartWin h).order) (now := s.time.span) hoff hlen
  unfold gather
  extract_lets line off fill s1
  have hs1 : s1 = s := if_pos (by rw [usedBuffers_nil hnone]; decide)
  rw [hs1, hnone]
  have hfill (q : State) (hq : tget {} (q.hartWin h).bufs 0 = WcBuf.fresh (addr / 128) (s.hartWin h).order s.time.span) :
      fill 0 q = q.modWin h fun w => { w with bufs := tset w.bufs 0 ((tget {} w.bufs 0).put off data) } := by
    have hbuf : tget {} ((q.modWin h fun w => { w with bufs := tset w.bufs 0 ((tget {} w.bufs 0).put off data) }).hartWin h).bufs 0 =
        (WcBuf.fresh (addr / 128) (s.hartWin h).order s.time.span).put (addr % 128) data := by
      rw [State.hartWin_modWin_same, ← hq]
      exact tget_tset_same ..
    simp only [fill, hbuf, hmask, Bool.false_eq_true, if_false]
  refine ⟨_, hfill _ ?_, ?_⟩
  · rw [State.hartWin_modWin_same]
    exact tget_tset_same ..
  · rw [tget_tmod_same, show tget ({} : HartWin) (State.wins _) h = _ from State.hartWin_modWin_same .., tget_tset_same, tget_tset_same]
    rfl

/-! ### Records of the window -/

/-- A corrected record is counted on its die (R570). -/
theorem formRecord_corrected (d : Nat) (e : ErrRec) (h : e.severity = sevCorrected) (s : State) :
    ((formRecord d e s).dieErr d).corrected = min ((s.dieErr d).corrected + 1) (2 ^ 32 - 1) := by
  unfold formRecord
  extract_lets r written full s1 s2
  have hs2 : s2.err = s1.err := by
    simp only [s2]
    split
    · obtain ⟨k, hk⟩ := evtSend_frame s1 r.severity
      rw [hk]
    · rfl
  have hsev : r.severity = sevCorrected := h
  rw [if_neg (by rw [hsev]; decide), if_neg (by rw [hsev]; decide)]
  have hput : (s2.dieErr d) = (s.dieErr d).put r := by
    rw [State.dieErr, hs2]
    exact State.dieErr_modDieErr_same s d fun d => d.put r
  rw [hput]
  unfold DieErr.put
  extract_lets d'
  have hd : d'.corrected = min ((s.dieErr d).corrected + 1) (2 ^ 32 - 1) := if_pos hsev
  split
  · exact hd
  · exact hd

/-- The record of a window access that may not reach its bank (R94). -/
theorem windowRecord_counts {t : Nat} (h : t < 48) (code addr : Nat) (s : State) :
    ∃ e ho tr b, windowRecord t code addr s = { s with err := e, host := ho, troupes := tr, boot := b } ∧
      ((windowRecord t code addr s).dieErr (1 + t / 12)).corrected = min ((s.dieErr (1 + t / 12)).corrected + 1) (2 ^ 32 - 1) := by
  obtain ⟨e, ho, tr, b, hr⟩ := formRecord_frame s (unitDie t) { cls := 1, severity := sevCorrected, code := code, info0 := addr }
  refine ⟨e, ho, tr, b, hr, ?_⟩
  rw [← unitDie_tile h]
  exact formRecord_corrected _ _ rfl s

/-! ### Window reads -/

theorem flushTo_nothing {h : Nat} (p : Nat → Bool) (hu : usedBuffers (s.hartWin h) = []) : flushTo h p s = s := by
  rw [flushTo, hu]
  rfl

/-- A read of a die that is up, with nothing buffered and every write durable, is performed (R405). -/
theorem execWindowRead_reads {h : HartId} {addr len d : Nat} (hl : s.live = true) (hd : windowDie addr = some d)
    (hoff : addr % 128 + len ≤ 128) (hc : windowCarried s d = true) (hu : usedBuffers (s.hartWin h) = [])
    (hdur : windowDurable s h (fun e => e == d) = true) (hup : s.dieUp d = true) :
    execWindowRead h addr len s = .next (readWindow h addr len s) := by
  unfold execWindowRead
  rw [if_pos hoff, hd, Option.filter_some_pos hc, eventOf_some _ _ _ hl]
  simp only [hup, Bool.not_true, Bool.false_eq_true, if_false, flushTo_nothing _ hu, hdur, if_true]

/-- The request of a window read for its slot of class WIN. -/
def windowAsk (h addr len : Nat) : MemReq :=
  { owner := owFree clsWin, die := 0, line := behind addr / 128, write := false, who := .windowRead h addr len }

/-- A read of DRAM asks for a slot of class WIN. -/
theorem readWindow_asks {h addr len m o : Nat} (hp : placeOf addr = .winFast m o)
    (ha : s.asks (fun u => u == .windowRead h addr len) = false) : ∃ ms, readWindow h addr len s = { s with mems := ms } ∧
      ((readWindow h addr len s).memCtl m).reqs = (s.memCtl m).reqs ++ [{ windowAsk h addr len with since := s.time.span }] := by
  obtain ⟨k, hk⟩ := memOf_behind hp
  have hread : readWindow h addr len s = askLine (windowAsk h addr len) s := by
    unfold readWindow windowAsk
    rw [hp, ha]
    exact if_neg Bool.false_ne_true
  obtain ⟨ms, hframe⟩ := askLine_frame s (windowAsk h addr len)
  rw [hread]
  exact ⟨ms, hframe, askLine_reqs s _ hk⟩

theorem readWindow_pad {h addr len t b o : Nat} (hp : placeOf addr = .winPad t b o) (hf : windowBankFault s t b = none) :
    readWindow h addr len s = giveBytes (s.bytes (behind addr) len) s := by
  unfold readWindow
  rw [hp]
  dsimp only
  rw [hf]

theorem readWindow_denied {h addr len t b o code : Nat} (hp : placeOf addr = .winPad t b o) (hf : windowBankFault s t b = some code) :
    readWindow h addr len s = giveBytes (List.replicate len 0) (windowRecord t code (behind addr) s) := by
  unfold readWindow
  rw [hp]
  dsimp only
  rw [hf]

/-- A line of a tier that a read finds uncorrectable is poisoned, and no other is (R236). -/
theorem eccRead_badLine {a : Nat} {e : Ecc} {p : Nat × Nat} (hm : memOf a = some p) (requester unit troupe : Nat) :
    (eccRead a e requester unit troupe s).badLine a = decide (effEcc s a e = .uncorrectable) := by
  have hkept (q : State) (h : effEcc s a e ≠ .uncorrectable) (hq : q.coh = s.coh) : q.badLine a = false := by
    have : s.badLine a = false := by
      by_contra hb
      exact h (if_pos (by simpa using hb))
    rw [State.badLine, hq]
    exact this
  have hcorrected (q : State) (m ch off : Nat) (d : Nat) (r : ErrRec) : (let s := q.modMem m fun c => c.note false ch off
      if requester = rqPort then formRecord d r s else s).coh = q.coh := by
    obtain ⟨c, x, h, t, b, hr⟩ := eccCorrected_frame q m ch off requester d r
    rw [hr]
  unfold eccRead
  split
  · next hnone => rw [hm] at hnone; cases hnone
  · next m off _ =>
    extract_lets ch base s1 s3 _ s2
    split
    · next h => rw [hkept s (by rw [h]; decide) rfl, h]; decide
    · next h => rw [hkept (s1 s) (by rw [h]; decide) (hcorrected ..), h]; decide
    · next h => rw [hkept (s1 (s.freeFill (a / 128 * 128) 128)) (by rw [h]; decide) (hcorrected ..), h]; decide
    · next h =>
      have hs2 : s2.badLine a = true := by
        simp only [s2]
        split
        · assumption
        · simp [State.badLine]
      obtain ⟨x, k, t, b, hr⟩ := formRecord_frame s2 (memDie m) { base with cls := 4, severity := sevDeferred, info1 := requester }
      rw [h, hr]
      exact hs2.trans (by decide)

/-! ### The slot of a window read -/

/-- The request of a window read, in its slot (R236, R405). -/
theorem serveRequest_windowRead {m : MemoryId} {e : Ecc} {q : MemReq} {h addr len : Nat} {p : Nat × Nat}
    (hm : memOf (128 * q.line) = some p) (hw : q.write = false) (hq : q.who = .windowRead h addr len)
    (hline : q.line = behind addr / 128) (he : effEcc s (128 * q.line) e ≠ .miscorrected) :
    (serveRequest m e q s).mem = s.mem ∧ (serveRequest m e q s).tiles = s.tiles ∧ (serveRequest m e q s).out.data =
      (if effEcc s (128 * q.line) e = .uncorrectable then List.replicate len 0xFF else s.bytes (behind addr) len) := by
  obtain ⟨unit, troupe, hread⟩ : ∃ unit troupe, readInSlot q e s = eccRead (128 * q.line) e q.row unit troupe s := by
    unfold readInSlot
    rw [hq]
    dsimp only
    split
    · exact ⟨_, _, rfl⟩
    · exact ⟨_, _, rfl⟩
  have hbad := eccRead_badLine (s := s) (e := e) hm q.row unit troupe
  have hmem := eccRead_memory he q.row unit troupe
  have htiles := (SlotKept.eccRead (128 * q.line) e q.row unit troupe s).tiles
  rw [← hread] at hbad hmem htiles
  have hserve : serveRequest m e q s = windowServed addr len (unqueued m q (readInSlot q e s)) := by
    rw [serveRequest_read hw, served, hq]
  have hsame : (unqueued m q (readInSlot q e s)).badLine (behind addr) = decide (effEcc s (128 * q.line) e = .uncorrectable) := by
    rw [← hbad, State.badLine, State.badLine, ← hline, Nat.mul_div_cancel_left _ (by decide)]
    rfl
  rw [hserve]
  refine ⟨hmem, htiles, ?_⟩
  show (if (unqueued m q (readInSlot q e s)).badLine (behind addr) then List.replicate len 0xFF
    else (unqueued m q (readInSlot q e s)).bytes (behind addr) len) = _
  rw [hsame, State.bytes, show (unqueued m q (readInSlot q e s)).mem = s.mem from hmem]
  simp only [decide_eq_true_eq]
  rfl

/-- A request that a slot takes lies in a memory. -/
theorem memOf_of_slotTaker {m ch w begins : Nat} {q : MemReq} (h : slotTaker s m ch w begins = some q) :
    ∃ p, memOf (128 * q.line) = some p := by
  have hq := List.find?_some h
  simp only [Bool.and_eq_true] at hq
  cases hm : memOf (128 * q.line) with
  | none => simp [channelOf, hm] at hq
  | some p => exact ⟨p, rfl⟩

/-! ### Draining (R404) -/

/-- A drained buffer is free. -/
def freeBuffer (h b : Nat) (s : State) : State := s.modWin h fun w => { w with bufs := tset w.bufs b {} }

theorem freeBuffer_unused (h b : Nat) (s : State) : (tget {} ((freeBuffer h b s).hartWin h).bufs b).used = false := by
  unfold freeBuffer
  rw [State.hartWin_modWin_same, tget_tset_same]

/-- The request of a drained buffer (R404). -/
def drainAsk (h : Nat) (x : WcBuf) : MemReq :=
  { owner := owFree clsWin, die := 0, line := behind (128 * x.line) / 128, write := true, who := .window h, data := x.data
    mask := if x.mask.all id then [] else x.mask }

theorem drainBuffer_dram {h b m o : Nat} {x : WcBuf} (hx : tget {} (s.hartWin h).bufs b = x) (hu : x.used = true)
    (hp : placeOf (128 * x.line) = .winFast m o) : ∃ ms, drainBuffer h b s = { freeBuffer h b s with mems := ms } ∧
      ((drainBuffer h b s).memCtl m).reqs = (s.memCtl m).reqs ++ [{ drainAsk h x with since := s.time.span }] := by
  obtain ⟨k, hk⟩ := memOf_behind hp
  have hdrain : drainBuffer h b s = askLine (drainAsk h x) (freeBuffer h b s) := by
    unfold drainBuffer
    dsimp only
    rw [hx, hu, if_neg (by decide), hp]
    rfl
  obtain ⟨ms, hframe⟩ := askLine_frame (freeBuffer h b s) (drainAsk h x)
  rw [hdrain]
  exact ⟨ms, hframe, askLine_reqs (freeBuffer h b s) _ hk⟩

section
variable {h b t k o : Nat} {x : WcBuf} (hx : tget {} (s.hartWin h).bufs b = x) (hu : x.used = true)
  (hp : placeOf (128 * x.line) = .winPad t k o)
include hx hu hp

theorem drainBuffer_pad : drainBuffer h b s = windowPad h (128 * x.line) x.data x.mask (freeBuffer h b s) := by
  unfold drainBuffer
  dsimp only
  rw [hx, hu, if_neg (by decide), hp]
  rfl

theorem drainBuffer_open (hf : windowBankFault s t k = none) :
    drainBuffer h b s = { freeBuffer h b s with mem := memMasked s.mem (behind (128 * x.line)) x.data x.mask } := by
  have hf' : windowBankFault (freeBuffer h b s) t k = none := hf
  rw [drainBuffer_pad hx hu hp, windowPad, hp]
  dsimp only
  rw [hf']
  rfl

theorem drainBuffer_denied {code : Nat} (hf : windowBankFault s t k = some code) : drainBuffer h b s =
    windowRecord t code (behind (128 * x.line)) ((freeBuffer h b s).modWin h fun w => { w with discarded := true }) := by
  have hf' : windowBankFault (freeBuffer h b s) t k = some code := hf
  rw [drainBuffer_pad hx hu hp, windowPad, hp]
  dsimp only
  rw [hf']

end

theorem execWcBufferDrain_drains {h : HartId} {b : Fin 4} (hl : s.live = true)
    (hu : (tget {} (s.hartWin h).bufs b).used = true)
    (hc : ∀ d, windowDie (128 * (tget {} (s.hartWin h).bufs b).line) = some d → windowCarried s d = true) :
    execWcBufferDrain h b s = .next (drainBuffer h b s) := by
  have hall : (bufferDie s h b).all (windowCarried s) = true := by
    unfold bufferDie
    cases hd : windowDie (128 * (tget {} (s.hartWin h).bufs b).line) with
    | none => rfl
    | some d => exact hc d hd
  exact event_of_due _ _ _ hl (Bool.and_eq_true_iff.2 ⟨hu, hall⟩)

theorem windowBankFault_open {t k : Nat} (hb : s.image.bound t k 8 = true) (hw : tget none (s.tile t).windows k = some 8) :
    windowBankFault s t k = none := by
  rw [windowBankFault, hb, if_neg (by decide), if_neg (not_not_intro hw)]

/-- WIN_FLUSH with nothing buffered and every write durable returns (R406). -/
theorem execWinFlushRead_returns {h : HartId} (hl : s.live = true) (hu : usedBuffers (s.hartWin h) = [])
    (hd : windowDurable s h (fun _ => true) = true) :
    execWinFlushRead h s = .next ((s.modWin h fun w => { w with discarded := false }).reply
      { value := BitVec.ofNat 64 (1 + 2 * bit (s.hartWin h).discarded) }) := by
  unfold execWinFlushRead
  rw [event_of_due _ _ _ hl rfl]
  simp only [flushTo_nothing _ hu, hu, hd, List.isEmpty_nil, Bool.and_self, if_true]

end Sys2Proof.Machine
end

section
/-! SUPPORT. Command queues (O50): enabling, doorbells, slot reads, completion records and interrupts (R409 to R422). -/

namespace Sys2Proof.Machine

open Sys2Proof

variable {s : State}

/-! ### A queue that moves -/

/-- From s to r no byte moves, queue q becomes x, and every other queue stands. -/
structure QueueMoved (q : Nat) (x : Queue) (s r : State) : Prop where
  mem : r.mem = s.mem
  others : ∀ p, p ≠ q → r.queue p = s.queue p
  own : r.queue q = x

namespace QueueMoved

variable {q : Nat} {x y : Queue}

theorem trans {r t : State} (h : QueueMoved q x s r) (k : QueueMoved q y r t) : QueueMoved q y s t where
  mem := k.mem.trans h.mem
  others p hp := (k.others p hp).trans (h.others p hp)
  own := k.own

theorem of_queues {r : State} (hm : r.mem = s.mem) (hq : r.queues = s.queues) : QueueMoved q (s.queue q) s r := by
  have hqueue (p : Nat) : r.queue p = s.queue p := congrArg (tget ({} : Queue) · p) hq
  exact ⟨hm, fun i _ => hqueue i, hqueue q⟩

theorem modQueue (q : Nat) (f : Queue → Queue) (s : State) : QueueMoved q (f (s.queue q)) s (s.modQueue q f) where
  mem := rfl
  others _ hp := State.queue_modQueue_ne _ _ _ _ hp
  own := State.queue_modQueue_same ..

/-- A second change of the same queue. -/
theorem thenMod {r : State} (h : QueueMoved q x s r) (f : Queue → Queue) : QueueMoved q (f x) s (r.modQueue q f) :=
  h.own ▸ h.trans (modQueue q f r)

theorem dropReads (q : Nat) (s : State) :
    QueueMoved q { s.queue q with reading := [], rereadAt := none } s (Machine.dropReads q s) where
  mem := rfl
  others p hp := State.queue_modQueue_ne s q (fun x => { x with reading := [], rereadAt := none }) p hp
  own := State.queue_modQueue_same s q fun x => { x with reading := [], rereadAt := none }

theorem stopQueue (q code : Nat) (s : State) : QueueMoved q
    { s.queue q with reading := [], rereadAt := none, state := qsStopped, code := code } s (Machine.stopQueue q code s) :=
  (dropReads q s).thenMod fun x => { x with state := qsStopped, code := code }

theorem queueRecord {r : State} (h : QueueMoved q x s r) (code : Nat) : QueueMoved q x s (Machine.queueRecord q code r) := by
  obtain ⟨e, ho, t, b, hr⟩ := formRecord_frame r 0
    { cls := 9, severity := sevCorrected, code := code, addr := (r.queue q).slotAddr (r.queue q).head, info0 := q, info1 := (r.queue q).head }
  refine ⟨?_, fun p hp => ?_, ?_⟩
  · exact (congrArg State.mem hr).trans h.mem
  · exact (congrArg (State.queue · p) hr).trans (h.others p hp)
  · exact (congrArg (State.queue · q) hr).trans h.own

end QueueMoved

/-! ### Reads of slots (R413) -/

/-- The slots of a ring below the end of the fast tier. -/
theorem Queue.slotAddr_le {x : Queue} (h : x.base + 256 * x.slots ≤ 0x090_0000_0000) (n : Nat) : x.slotAddr n + 256 ≤ 0x090_0000_0000 := by
  have hpos : 0 < x.slots := Nat.two_pow_pos _
  have := Nat.mod_lt n hpos
  unfold Queue.slotAddr
  omega

theorem askRange_frame (owner die a n : Nat) (write : Bool) (who : MemUser) (s : State) :
    ∃ ms, askRange owner die a n write who s = { s with mems := ms } :=
  List.foldlRecOn (motive := fun r : State => ∃ ms, r = { s with mems := ms }) _ _ ⟨s.mems, rfl⟩ fun r ⟨ms, h⟩ l _ => by
    subst h
    exact askLine_frame ..

/-- A kick of a queue whose ring lies in the fast tier starts its read at most (R413). -/
theorem kickQueue_reads {q : Nat} (h : (s.queue q).base + 256 * (s.queue q).slots ≤ 0x090_0000_0000) :
    ∃ l, QueueMoved q { s.queue q with reading := l } s (kickQueue q s) := by
  have hstay : QueueMoved q { s.queue q with reading := (s.queue q).reading } s s := .of_queues rfl rfl
  unfold kickQueue
  extract_lets x a r w
  split
  · rw [if_neg (Nat.not_lt.2 (Queue.slotAddr_le h x.head))]
    split
    · split
      · exact ⟨_, hstay⟩
      · obtain ⟨ms, hr⟩ := askRange_frame (owFree clsQue) 0 a 256 false (.slot q) s
        rw [hr]
        exact ⟨_, .of_queues rfl rfl⟩
    · obtain ⟨c, hc⟩ := ioRequest_frame s clsQue mRdOnce (a / 128) [] []
      obtain ⟨d, hd⟩ := ioRequest_frame r.2 clsQue mRdOnce (a / 128 + 1) [] []
      have hw : QueueMoved q (s.queue q) s w.2 := .of_queues (by rw [show w.2 = _ from hd, show r.2 = _ from hc])
        (by rw [show w.2 = _ from hd, show r.2 = _ from hc])
      exact ⟨_, hw.thenMod fun x => { x with reading := [r.1, w.1] }⟩
  · exact ⟨_, hstay⟩

/-! ### QUE_CFG (R409, R419, R426) -/

/-- The fields that a write of QUE_CFG takes. -/
def Queue.configure (v : Word) (x : Queue) : Queue :=
  { x with
    size := if bitsOf v.toNat 48 4 < 12 then bitsOf v.toNat 48 4 else x.size
    view := bitOf v.toNat 61, troupes := bitsOf v.toNat 0 16, irqEn := bitOf v.toNat 60 }

/-- The fields of an enabled queue that no write may change. -/
def Queue.sameCfg (v : Word) (x : Queue) : Prop :=
  bitsOf v.toNat 48 4 = x.size ∧ bitOf v.toNat 61 = x.view ∧ bitsOf v.toNat 0 16 = x.troupes

theorem Queue.configure_same {v : Word} {x : Queue} (h : x.sameCfg v) : x.configure v = { x with irqEn := bitOf v.toNat 60 } := by
  obtain ⟨hs, hv, ht⟩ := h
  unfold Queue.configure
  rw [hs, hv, ht, ite_self]

/-- A write of QUE_CFG that changes no fixed field of an enabled queue (R426). -/
theorem writeQueCfg_eq {q source : Nat} {v : Word} (h : (s.queue q).enable = false ∨ (s.queue q).sameCfg v) :
    writeQueCfg q source v s = (
      if bitOf v.toNat 63 && !(s.queue q).enable then (s.modQueue q fun _ => (s.queue q).configure v).modQueue q enableQueue
      else if !bitOf v.toNat 63 && (s.queue q).enable then
        (dropReads q (s.modQueue q fun _ => (s.queue q).configure v)).modQueue q fun x =>
          { x with enable := false, state := qsDisabled, code := 0, fetched := none, heldCmd := false, tries := 0 }
      else if bitOf v.toNat 62 && (s.queue q).state == qsStopped then
        kickQueue q ((s.modQueue q fun _ => (s.queue q).configure v).modQueue q fun x => { x with state := qsActive, code := 0, tries := 0 })
      else s.modQueue q fun _ => (s.queue q).configure v) := by
  have hfree : ((s.queue q).enable && (((s.queue q).configure v).size != (s.queue q).size ||
      bitOf v.toNat 61 != (s.queue q).view || bitsOf v.toNat 0 16 != (s.queue q).troupes)) = false := by
    obtain he | hsame := h
    · rw [he, Bool.false_and]
    · obtain ⟨hs, hv, ht⟩ := id hsame
      rw [Queue.configure_same hsame, hv, ht]
      simp
  unfold writeQueCfg
  exact if_neg (by rw [← Bool.not_eq_true] at hfree; exact hfree)

/-- QUE_CFG.enable written 1 (R409). -/
theorem writeQueCfg_enables {q source : Nat} {v : Word} (hv : bitOf v.toNat 63 = true) (he : (s.queue q).enable = false) :
    (∃ qs, writeQueCfg q source v s = { s with queues := qs }) ∧
      QueueMoved q (enableQueue ((s.queue q).configure v)) s (writeQueCfg q source v s) := by
  rw [writeQueCfg_eq (.inl he), hv, he]
  exact ⟨⟨_, rfl⟩, (QueueMoved.modQueue q (fun _ => (s.queue q).configure v) s).thenMod enableQueue⟩

/-- A queue that is disabled (R419). -/
def Queue.disabled (x : Queue) : Queue :=
  { x with reading := [], rereadAt := none, enable := false, state := qsDisabled, code := 0, fetched := none, heldCmd := false, tries := 0 }

theorem writeQueCfg_disables {q source : Nat} {v : Word} (hv : bitOf v.toNat 63 = false) (he : (s.queue q).enable = true)
    (hsame : (s.queue q).sameCfg v) : QueueMoved q ((s.queue q).configure v).disabled s (writeQueCfg q source v s) := by
  rw [writeQueCfg_eq (.inr hsame), hv, he]
  have hcfg := QueueMoved.modQueue q (fun _ => (s.queue q).configure v) s
  have hdrop := QueueMoved.dropReads q (s.modQueue q fun _ => (s.queue q).configure v)
  rw [hcfg.own] at hdrop
  exact (hcfg.trans hdrop).thenMod fun x =>
    { x with enable := false, state := qsDisabled, code := 0, fetched := none, heldCmd := false, tries := 0 }

/-- QUE_CFG.restart of a stopped queue whose ring lies in the fast tier (R419). -/
theorem writeQueCfg_restarts {q source : Nat} {v : Word} (h63 : bitOf v.toNat 63 = true) (h62 : bitOf v.toNat 62 = true)
    (he : (s.queue q).enable = true) (hst : (s.queue q).state = 3) (hsame : (s.queue q).sameCfg v)
    (hb : (s.queue q).base + 256 * (s.queue q).slots ≤ 0x090_0000_0000) : ∃ l,
    QueueMoved q { (s.queue q).configure v with state := qsActive, code := 0, tries := 0, reading := l } s (writeQueCfg q source v s) := by
  have hact := (QueueMoved.modQueue q (fun _ => (s.queue q).configure v) s).thenMod fun x =>
    { x with state := qsActive, code := 0, tries := 0 }
  obtain ⟨l, hkick⟩ := kickQueue_reads (q := q) (s := (s.modQueue q fun _ => (s.queue q).configure v).modQueue q fun x =>
    { x with state := qsActive, code := 0, tries := 0 }) (by rw [hact.own, Queue.configure_same hsame]; exact hb)
  rw [hact.own] at hkick
  rw [writeQueCfg_eq (.inr hsame), h63, h62, he, hst]
  exact ⟨l, hact.trans hkick⟩

/-! ### Doorbells (R412) -/

section
variable {q : Nat} {v : Word} (he : (s.queue q).enable = true)
include he

theorem ringDoorbell_moves (hb : (s.queue q).base + 256 * (s.queue q).slots ≤ 0x090_0000_0000)
    (hpos : 0 < (v.toNat % 2 ^ 32 + 2 ^ 32 - (s.queue q).doorbell) % 2 ^ 32)
    (hroom : (v.toNat % 2 ^ 32 + 2 ^ 32 - (s.queue q).doorbell) % 2 ^ 32 ≤
      (s.queue q).slots - ((s.queue q).doorbell + 2 ^ 32 - (s.queue q).head) % 2 ^ 32) :
    ∃ l, QueueMoved q { s.queue q with doorbell := v.toNat % 2 ^ 32, reading := l } s (ringDoorbell q v s) := by
  have hmod := QueueMoved.modQueue q (fun x => { x with doorbell := v.toNat % 2 ^ 32 }) s
  obtain ⟨l, hkick⟩ := kickQueue_reads (q := q) (s := s.modQueue q fun x => { x with doorbell := v.toNat % 2 ^ 32 })
    (by rw [hmod.own]; exact hb)
  rw [hmod.own] at hkick
  refine ⟨l, ?_⟩
  unfold ringDoorbell
  dsimp only
  rw [if_neg (by rw [he]; decide), if_pos ⟨hpos, hroom⟩]
  exact hmod.trans hkick

theorem ringDoorbell_stale (hnot : ¬ (0 < (v.toNat % 2 ^ 32 + 2 ^ 32 - (s.queue q).doorbell) % 2 ^ 32 ∧
      (v.toNat % 2 ^ 32 + 2 ^ 32 - (s.queue q).doorbell) % 2 ^ 32 ≤
        (s.queue q).slots - ((s.queue q).doorbell + 2 ^ 32 - (s.queue q).head) % 2 ^ 32))
    (hback : (v.toNat % 2 ^ 32 + 2 ^ 32 - (s.queue q).doorbell) % 2 ^ 32 = 0 ∨
      2 ^ 31 ≤ (v.toNat % 2 ^ 32 + 2 ^ 32 - (s.queue q).doorbell) % 2 ^ 32) :
    QueueMoved q { s.queue q with stale := satAdd 8 (s.queue q).stale 1 } s (ringDoorbell q v s) := by
  unfold ringDoorbell
  dsimp only
  rw [if_neg (by rw [he]; decide), if_neg hnot, if_pos hback]
  exact .modQueue q (fun x => { x with stale := satAdd 8 x.stale 1 }) s

theorem ringDoorbell_stops (hfar : (s.queue q).slots - ((s.queue q).doorbell + 2 ^ 32 - (s.queue q).head) % 2 ^ 32 <
      (v.toNat % 2 ^ 32 + 2 ^ 32 - (s.queue q).doorbell) % 2 ^ 32)
    (hlow : (v.toNat % 2 ^ 32 + 2 ^ 32 - (s.queue q).doorbell) % 2 ^ 32 < 2 ^ 31) :
    QueueMoved q { s.queue q with reading := [], rereadAt := none, state := qsStopped, code := qcBadDoorbell } s (ringDoorbell q v s) := by
  unfold ringDoorbell
  dsimp only
  rw [if_neg (by rw [he]; decide), if_neg fun h => absurd h.2 (Nat.not_le.2 hfar), if_neg (by omega)]
  exact (QueueMoved.stopQueue q qcBadDoorbell s).queueRecord _

end

/-! ### Judged slots (R418) -/

section
variable {q : QueueId} (hv : (s.queue q).view = true)
  (hb1 : s.badLine ((s.queue q).slotAddr (s.queue q).head) = false)
  (hb2 : s.badLine ((s.queue q).slotAddr (s.queue q).head + 128) = false)
include hv hb1 hb2

theorem slotRead_view : slotRead q s = ((s.bytes ((s.queue q).slotAddr (s.queue q).head) 256, false), s) := by
  unfold slotRead
  dsimp only
  rw [if_pos hv, hb1, hb2]
  rfl

/-- A slot that passes its check is fetched. -/
def Queue.fetch (again : Bool) (c : Slot) (x : Queue) : Queue :=
  { x with state := qsActive, tries := 0, fetched := some c, head := (x.head + 1) % 2 ^ 32
           rereads := if again then satAdd 8 x.rereads 1 else x.rereads }

theorem judgeSlot_fetches (again : Bool) (hp : slotPasses (s.queue q).head (s.bytes ((s.queue q).slotAddr (s.queue q).head) 256) = true) :
    QueueMoved q ((s.queue q).fetch again (slotOf (s.queue q).head (s.bytes ((s.queue q).slotAddr (s.queue q).head) 256))) s
      (judgeSlot q again s) := by
  have hmod := QueueMoved.modQueue q (fun x => x.fetch again (slotOf (s.queue q).head (s.bytes ((s.queue q).slotAddr (s.queue q).head) 256))) s
  have hkick : kickQueue q (s.modQueue q fun x => x.fetch again (slotOf (s.queue q).head (s.bytes ((s.queue q).slotAddr (s.queue q).head) 256))) =
      s.modQueue q fun x => x.fetch again (slotOf (s.queue q).head (s.bytes ((s.queue q).slotAddr (s.queue q).head) 256)) := by
    unfold kickQueue
    dsimp only
    rw [hmod.own]
    exact if_neg (by simp [Queue.fetch])
  have hjudge : judgeSlot q again s =
      s.modQueue q fun x => x.fetch again (slotOf (s.queue q).head (s.bytes ((s.queue q).slotAddr (s.queue q).head) 256)) := by
    unfold judgeSlot
    rw [slotRead_view hv hb1 hb2]
    dsimp only
    rw [if_neg (by decide), if_pos hp]
    exact hkick
  rw [hjudge]
  exact hmod

/-- A slot that fails its check is read again 1 µs later, up to eight times in all (R418). -/
theorem judgeSlot_fails {again : Bool} (hp : slotPasses (s.queue q).head (s.bytes ((s.queue q).slotAddr (s.queue q).head) 256) = false)
    (ht : again = true → (s.queue q).tries ≠ 7) : judgeSlot q again s = s.modQueue q fun x => { x with
      state := qsReread, tries := if again then x.tries + 1 else 0, rereadAt := some (s.time.span + 4000) } := by
  unfold judgeSlot
  rw [slotRead_view hv hb1 hb2]
  dsimp only
  rw [if_neg (by decide), if_neg (by rw [hp]; decide), if_neg]
  · rfl
  · intro h
    obtain ⟨h1, h2⟩ := Bool.and_eq_true_iff.1 h
    exact ht h1 (beq_iff_eq.1 h2)

theorem judgeSlot_stops (hp : slotPasses (s.queue q).head (s.bytes ((s.queue q).slotAddr (s.queue q).head) 256) = false)
    (ht : (s.queue q).tries = 7) : QueueMoved q { s.queue q with reading := [], rereadAt := none, state := qsStopped, code := qcTorn } s
      (judgeSlot q true s) := by
  unfold judgeSlot
  rw [slotRead_view hv hb1 hb2]
  dsimp only
  rw [if_neg (by decide), if_neg (by rw [hp]; decide), if_pos (by rw [ht]; decide)]
  exact (QueueMoved.stopQueue q qcTorn s).queueRecord _

end

/-- The read of a queue's slot has returned. -/
theorem slotBack_view {q : Nat} (he : (s.queue q).enable = true) (hv : (s.queue q).view = true) (hf : (s.queue q).fetched = none)
    (hne : (s.queue q).head ≠ (s.queue q).doorbell) (ha : s.asks (fun w => w == .slot q) = false) (hr : (s.queue q).rereadAt = none) :
    slotBack s q = true := by
  simp [slotBack, he, hv, hf, hne, ha, hr]

theorem execSlotFetch_judges {q : QueueId} (hl : s.live = true) (hst : (s.queue q).state = 1) (hb : slotBack s q = true) :
    execSlotFetch q (s.queue q).head s = .next (judgeSlot q false s) :=
  event_of_due _ _ _ hl (by simp [hst, hb, qsActive])

theorem execSlotReread_judges {q : QueueId} (hl : s.live = true) (hst : (s.queue q).state = 2) (hb : slotBack s q = true)
    (hr : (s.queue q).rereadAt = none) : execSlotReread q (s.queue q).head s = .next (judgeSlot q true s) := by
  have hdue : rereadDue s q = false := by
    rw [rereadDue, hr]
    rfl
  unfold execSlotReread
  rw [event_of_due _ _ _ hl (by simp [hst, hb, qsReread]), hdue]
  rfl

/-- A re-read that is not due waits (R418). -/
theorem execSlotReread_waits {q : QueueId} {t : Nat} (hr : (s.queue q).rereadAt = some t) (ht : s.time.span < t) :
    execSlotReread q (s.queue q).head s = .next s := by
  have hdue : rereadDue s q = false := by
    rw [rereadDue, hr]
    exact decide_eq_false (Nat.not_le.2 ht)
  have hback : slotBack s q = false := by simp [slotBack, hr]
  unfold execSlotReread
  rw [hdue, hback, Bool.or_self, Bool.and_false]
  exact event_not_due _ _

theorem execSlotReread_issues {q : QueueId} {t : Nat} (hl : s.live = true) (hst : (s.queue q).state = 2)
    (hr : (s.queue q).rereadAt = some t) (ht : t ≤ s.time.span) :
    execSlotReread q (s.queue q).head s = .next (kickQueue q (s.modQueue q fun x => { x with rereadAt := none })) := by
  have hdue : rereadDue s q = true := by
    rw [rereadDue, hr]
    exact decide_eq_true ht
  unfold execSlotReread
  rw [event_of_due _ _ _ hl (by simp [hst, hdue, qsReread]), hdue]
  rfl

/-! ### Requests for a slot -/

theorem mem_tset {α : Type} (t : Tbl α) (k : Nat) (v : α) : (k, v) ∈ tset t k v := by
  induction t with
  | nil => exact List.mem_singleton_self _
  | cons p t ih =>
    obtain ⟨k', v'⟩ := p
    rw [tset]
    split
    · exact List.mem_cons_self
    · split
      · exact List.mem_cons_self
      · exact List.mem_cons_of_mem _ ih

/-- A request that joins the queue of its memory is waiting there. -/
theorem askLine_asks {r : MemReq} {p : Nat × Nat} {f : MemUser → Bool} (hm : memOf (128 * r.line) = some p) (hf : f r.who = true) :
    (askLine r s).asks f = true := by
  obtain ⟨m, o⟩ := p
  unfold askLine
  rw [hm]
  refine List.any_eq_true.2 ⟨_, mem_tset .., ?_⟩
  exact List.any_eq_true.2 ⟨{ r with since := s.time.span }, by simp, hf⟩

/-- A range of the fast tier is requested line by line. -/
theorem askRange_asks {owner die a n : Nat} {write : Bool} {who : MemUser} (hn : 0 < n) (ha : a + n ≤ 0x090_0000_0000) :
    (askRange owner die a n write who s).asks (fun w => w == who) = true := by
  obtain ⟨k, hk⟩ : ∃ k, (a + n - 1) / 128 + 1 - a / 128 = k + 1 := ⟨(a + n - 1) / 128 - a / 128, by omega⟩
  unfold askRange linesOf
  rw [if_neg (by omega), hk, List.range_succ, List.map_append, List.foldl_append]
  refine askLine_asks (p := ((128 * (k + a / 128)) / 0xC_0000_0000, (128 * (k + a / 128)) % 0xC_0000_0000)) ?_ ?_
  · show memOf (128 * (k + a / 128)) = _
    rw [memOf, placeOf, if_pos (by omega)]
  · exact beq_self_eq_true who

/-- A kick of a queue that may read its slot asks for it (R413). -/
theorem kickQueue_asks {q : Nat} {x : Queue} (hq : s.queue q = x) (he : x.enable = true) (hst : x.state = 1 ∨ x.state = 2)
    (hf : x.fetched = none) (hrd : x.reading = []) (hr : x.rereadAt = none) (hne : x.head ≠ x.doorbell)
    (hb : x.base + 256 * x.slots ≤ 0x090_0000_0000) :
    (x.view = true → (kickQueue q s).asks (fun w => w == .slot q) = true) ∧
    (x.view = false → ((kickQueue q s).queue q).reading.length = 2) := by
  subst hq
  have hdue : ((s.queue q).enable && ((s.queue q).state == qsActive || (s.queue q).state == qsReread) && (s.queue q).fetched.isNone &&
      (s.queue q).reading.isEmpty && (s.queue q).rereadAt.isNone && (s.queue q).head != (s.queue q).doorbell) = true := by
    simpa [he, hf, hrd, hr, hne, qsActive, qsReread] using hst
  unfold kickQueue
  dsimp only
  rw [if_pos hdue, if_neg (Nat.not_lt.2 (Queue.slotAddr_le hb _))]
  refine ⟨fun hv => ?_, fun hv => ?_⟩
  · rw [if_pos hv]
    split
    · assumption
    · exact askRange_asks (by decide) (Queue.slotAddr_le hb _)
  · rw [if_neg (by rw [hv]; decide), State.queue_modQueue_same]
    rfl

/-! ### Completion records (R420, R421) -/

/-- Messages of agent 12 under way or waiting to leave. -/
def ioLoad (s : State) : Nat := s.coh.msgs.length + s.coh.ioWait.length

theorem ioSend_load (s : State) (p : Nat × CohMsg) : ioLoad s ≤ ioLoad (ioSend s p) := by
  have herase : s.coh.ioWait.length ≤ (s.coh.ioWait.erase p).length + 1 := by
    have := s.coh.ioWait.le_length_erase (a := p)
    omega
  unfold ioSend
  dsimp only
  split
  · show _ ≤ (s.coh.msgs ++ [_]).length + (s.coh.ioWait.erase p).length
    rw [List.length_append, ioLoad]
    simp only [List.length_singleton]
    omega
  · exact Nat.le_refl _

theorem ioPump_load (s : State) : ioLoad s ≤ ioLoad (ioPump s) :=
  List.foldlRecOn (motive := fun r => ioLoad s ≤ ioLoad r) _ _ (Nat.le_refl _) fun r h p _ => h.trans (ioSend_load r p)

theorem ioRequest_load (cls op line : Nat) (data : List Byte) (mask : List Bool) (s : State) :
    ioLoad s < ioLoad (ioRequest cls op line data mask s).2 := by
  refine Nat.lt_of_lt_of_le ?_ (ioPump_load _)
  simp [ioLoad]

theorem ioWriteLine_load (cls a : Nat) (bs : List Byte) (s : State) : ioLoad s < ioLoad (ioWriteLine cls a bs s).2 := by
  unfold ioWriteLine
  dsimp only
  split <;> exact ioRequest_load ..

theorem ioWrites_load (cls n a : Nat) (bs : List Byte) (s : State) : ioLoad s ≤ ioLoad (ioWrites cls n a bs s).2 := by
  induction n generalizing a bs s with
  | zero => exact Nat.le_refl _
  | succ n ih =>
    unfold ioWrites
    split
    · exact Nat.le_refl _
    · exact (ioWriteLine_load ..).le.trans (ih ..)

/-- A write of bytes by agent 12 is at least one request. -/
theorem ioWrite_load {bs : List Byte} (hne : bs ≠ []) (cls a : Nat) (s : State) : ioLoad s < ioLoad (ioWrite cls a bs s).2 := by
  unfold ioWrite ioWrites
  rw [if_neg (by simpa using hne)]
  exact Nat.lt_of_lt_of_le (ioWriteLine_load ..) (ioWrites_load ..)

theorem recordBytes_ne_nil (q m n : Nat) (r : CplRec) : recordBytes q m n r ≠ [] := by
  simp [recordBytes, leBytes]

/-- The oldest record of a queue leaves as a write of agent 12 (R420). -/
def sendRecord (q : Nat) (c : CplRec) (s : State) : List Nat × State :=
  ioWrite clsQue ((s.queue q).cplBase + 32 * ((s.queue q).cplWr % (s.queue q).ringSize))
    (recordBytes q (s.queue q).cplWr (s.queue q).ringSize c)
    (s.modQueue q fun x => { x with records := x.records.drop 1, cplWr := (x.cplWr + 1) % 2 ^ 17 })

theorem sendRecord_sends (q : Nat) (c : CplRec) (s : State) : ioLoad s < ioLoad (sendRecord q c s).2 ∧
    QueueMoved q { s.queue q with records := (s.queue q).records.drop 1, cplWr := ((s.queue q).cplWr + 1) % 2 ^ 17 } s (sendRecord q c s).2 := by
  have hmod := QueueMoved.modQueue q (fun x => { x with records := x.records.drop 1, cplWr := (x.cplWr + 1) % 2 ^ 17 }) s
  have hload : _ < ioLoad (sendRecord q c s).2 := ioWrite_load (recordBytes_ne_nil _ _ _ _) _ _ _
  obtain ⟨d, hw⟩ : ∃ d, (sendRecord q c s).2 = { s.modQueue q fun x => { x with records := x.records.drop 1, cplWr := (x.cplWr + 1) % 2 ^ 17 } with coh := d } :=
    ioWrite_frame ..
  refine ⟨hload, ?_⟩
  rw [hw]
  exact ⟨hmod.mem, hmod.others, hmod.own⟩

theorem execCompletionRecordWrite_leaves {q : QueueId} {c : CplRec} {cs : List CplRec} (hl : s.live = true)
    (hc : (s.queue q).records = c :: cs) (hroom : (s.queue q).ringFull = false)
    (hin : inTier ((s.queue q).cplBase + 32 * ((s.queue q).cplWr % (s.queue q).ringSize)) 32 = true) :
    ∃ r l, execCompletionRecordWrite q s = .next r ∧ ioLoad s < ioLoad r ∧ QueueMoved q
      { s.queue q with records := cs, cplWr := ((s.queue q).cplWr + 1) % 2 ^ 17, msis := l } s r := by
  have hexec : execCompletionRecordWrite q s = .next (if c.irq && (s.queue q).irqEn then
      (sendRecord q c s).2.modQueue q fun x => { x with msis := x.msis ++ (sendRecord q c s).1 } else (sendRecord q c s).2) := by
    unfold execCompletionRecordWrite
    dsimp only
    rw [hroom, hc, if_neg (by decide), List.head?_cons, eventOf_some _ _ _ hl, if_pos hin]
    rfl
  obtain ⟨hload, hsent⟩ := sendRecord_sends q c s
  rw [show (s.queue q).records.drop 1 = cs by rw [hc]; rfl] at hsent
  refine ⟨_, if c.irq && (s.queue q).irqEn then (s.queue q).msis ++ (sendRecord q c s).1 else (s.queue q).msis, hexec, ?_⟩
  by_cases hirq : (c.irq && (s.queue q).irqEn) = true
  · rw [if_pos hirq, if_pos hirq]
    exact ⟨hload, hsent.thenMod fun x => { x with msis := x.msis ++ (sendRecord q c s).1 }⟩
  · rw [if_neg hirq, if_neg hirq]
    exact ⟨hload, hsent⟩

/-- A pending identity of an interrupt file. -/
theorem setPending_pends (file eiid : Nat) (s : State) : eiid ∈ tget [] (setPending file eiid s).host.imsic file := by
  unfold setPending
  dsimp only
  rw [tget_tmod_same]
  exact mem_withOne ..

/-- The MSI of a queue whose address names hart 0's file of level M (R422, R460). -/
theorem execMsiWrite_pends {q : QueueId} (hl : s.live = true) (hready : 0 < (s.queue q).msisReady)
    (ha : (s.queue q).msiAddr = 0x800_0084_0000) (h1 : 1 ≤ (s.queue q).msiEiid) (h2 : (s.queue q).msiEiid ≤ 2047) :
    execMsiWrite q s = .next (setPending 0 (s.queue q).msiEiid (s.modQueue q fun x => { x with msisReady := x.msisReady - 1 })) := by
  unfold execMsiWrite
  dsimp only
  rw [event_of_due _ _ _ hl (decide_eq_true hready), ha]
  exact congrArg _ (if_pos ⟨by decide, by decide, h1, h2⟩)

/-! ### O50 -/

/-- Settles O50: gathering and reading, the slot of a window read, draining and flushing, and the rows of a queue. -/
theorem windowAndQueuesKeepTheirOrder : Obligations.WindowAndQueuesKeepTheirOrder := by
  unfold Obligations.WindowAndQueuesKeepTheirOrder
  refine ⟨?_, ?_, ?_, ?_⟩
  · intro h addr data d s w line off hl hd hoff hc
    have hwrite : execWindowWrite h addr data s = .next (if s.dieUp d then gather h addr data s else s.reply { accessFault := true }) := by
      unfold execWindowWrite
      rw [if_pos hoff, hd, Option.filter_some_pos hc]
      exact eventOf_some _ _ _ hl
    refine ⟨fun hup => ?_, fun hup hlen => ⟨fun b x hf hb hmask => ?_, fun hnone => ?_⟩, fun hu hdur hup => ⟨fun m o hp ha => ?_,
      fun t b o hp hf => ?_, fun t b o hp hf => ?_⟩⟩
    · rw [hup] at hwrite
      exact hwrite
    · rw [hup, if_pos rfl, gather_joins hf hb hmask] at hwrite
      refine ⟨_, hwrite, ?_, rfl⟩
      rw [State.hartWin_modWin_same, ← hb]
      exact tget_tset_same ..
    · obtain ⟨ws, hg, hbuf⟩ := gather_opens hnone hoff hlen
      rw [hup, if_pos rfl, hg] at hwrite
      refine ⟨_, hwrite, rfl, ?_⟩
      have hbuf : tget {} (({ s with wins := ws } : State).hartWin h).bufs 0 = _ := hbuf
      rw [hbuf]
      exact ⟨rfl, rfl, WcBuf.put_fresh_data hoff, fun i hi => WcBuf.put_fresh_mask hoff hi⟩
    · obtain ⟨ms, hr, hreqs⟩ := readWindow_asks hp ha
      refine ⟨_, execWindowRead_reads hl hd hoff hc hu hdur hup, ?_, ?_, hreqs⟩
      · rw [hr]
      · rw [hr]
    · refine (execWindowRead_reads hl hd hoff hc hu hdur hup).trans ?_
      rw [readWindow_pad hp hf]
      rfl
    · obtain ⟨code, hcode⟩ := Option.ne_none_iff_exists'.1 hf
      obtain ⟨e, ho, tr, bo, hrec, hcount⟩ := windowRecord_counts (placeOf_winPad hp) code (behind addr) s
      refine ⟨_, execWindowRead_reads hl hd hoff hc hu hdur hup, ?_⟩
      rw [readWindow_denied hp hcode]
      exact ⟨by rw [hrec]; rfl, rfl, hcount⟩
  · intro m ch slot e s q h addr len g w hl hch hslot hnext hnow hcarry htaker hw hq hline he
    obtain ⟨p, hp⟩ := memOf_of_slotTaker htaker
    exact ⟨_, execMemorySlot_serves hl hch hslot hnext hnow hcarry htaker,
      serveRequest_windowRead (s := nextSlotCounted m ch slot s) hp hw hq hline he⟩
  · intro h b s x hl
    refine ⟨fun hu hc => ⟨fun m o hp => ?_, fun t k o hp hb hw => ?_, fun t k o hp hf => ?_⟩, fun hu hdur => ?_⟩
    · obtain ⟨ms, hr, hreqs⟩ := drainBuffer_dram rfl hu hp
      refine ⟨_, execWcBufferDrain_drains hl hu hc, ?_, ?_, hreqs⟩
      · rw [hr]
        rfl
      · rw [hr]
        exact freeBuffer_unused h b s
    · refine ⟨_, (execWcBufferDrain_drains hl hu hc).trans (by rw [drainBuffer_open rfl hu hp (windowBankFault_open hb hw)]), ?_, rfl⟩
      exact freeBuffer_unused h b s
    · obtain ⟨code, hcode⟩ := Option.ne_none_iff_exists'.1 hf
      obtain ⟨e, ho, tr, bo, hrec, hcount⟩ := windowRecord_counts (placeOf_winPad hp) code (behind (128 * x.line))
        ((freeBuffer h b s).modWin h fun w => { w with discarded := true })
      refine ⟨_, (execWcBufferDrain_drains hl hu hc).trans (by rw [drainBuffer_denied rfl hu hp hcode]), ?_, ?_, ?_, hcount⟩
      · rw [hrec]
        exact (congrArg (fun w : HartWin => (tget {} w.bufs b).used) (State.hartWin_modWin_same (freeBuffer h b s) h
          fun w => { w with discarded := true })).trans (freeBuffer_unused h b s)
      · rw [hrec]
        rfl
      · rw [hrec]
        exact congrArg HartWin.discarded (State.hartWin_modWin_same (freeBuffer h b s) h fun w => { w with discarded := true })
    · refine ⟨_, execWinFlushRead_returns hl hu hdur, ?_, rfl, ?_⟩
      · exact congrArg HartWin.discarded (State.hartWin_modWin_same s h fun w => { w with discarded := false })
      · show BitVec.ofNat 64 (1 + 2 * bit (s.hartWin h).discarded) = _
        cases (s.hartWin h).discarded <;> rfl
  · intro q v s x w same hl
    refine ⟨fun h63 he => ?_, fun h63 he hs => ?_, fun h63 h62 he hst hs hb => ?_, fun he hb => ?_, fun he hv hf hne hb => ?_,
      fun hst => ⟨fun t hr ht _ => execSlotReread_waits hr ht, fun t hr ht he hf hrd hne hb => ?_⟩, fun c cs hc hroom hin => ?_,
      fun hready ha h1 h2 => ?_⟩
    · obtain ⟨⟨qs, hr⟩, hmoved⟩ := writeQueCfg_enables (source := 0) h63 he
      refine ⟨_, show execQueueEnable q v s = _ from event_of_due _ _ _ hl (by rw [h63, show (s.queue q).enable = false from he]; rfl), by rw [hr], hmoved.others, ?_⟩
      rw [hmoved.own]
      exact ⟨rfl, rfl, rfl, rfl, rfl, rfl, rfl, rfl, rfl⟩
    · have hmoved := writeQueCfg_disables (source := 0) h63 he hs
      refine ⟨_, show execQueueDisable q v s = _ from event_of_due _ _ _ hl (by rw [h63, show (s.queue q).enable = true from he]; rfl), hmoved.mem, hmoved.others, ?_⟩
      rw [hmoved.own]
      exact ⟨rfl, rfl, rfl, rfl, rfl⟩
    · obtain ⟨l, hmoved⟩ := writeQueCfg_restarts (source := 0) h63 h62 he hst hs hb
      refine ⟨_, show execQueueRestart q v s = _ from event_of_due _ _ _ hl (by rw [h63, h62]; rfl), hmoved.mem, ?_⟩
      rw [hmoved.own]
      exact ⟨rfl, rfl, rfl, rfl⟩
    · intro d ahead used
      refine ⟨_, show execDoorbellWrite q v s = _ from event_of_due _ _ _ hl rfl, ?_⟩
      by_cases hmove : 0 < ahead ∧ ahead ≤ x.slots - used
      · obtain ⟨l, hmoved⟩ := ringDoorbell_moves he hb hmove.1 hmove.2
        refine ⟨hmoved.mem, by rw [hmoved.own], fun _ _ => by rw [hmoved.own]; exact ⟨rfl, rfl⟩, fun hn => absurd hmove hn, fun hfar => ?_⟩
        exact absurd hmove.2 (Nat.not_le.2 hfar)
      · by_cases hback : ahead = 0 ∨ 2 ^ 31 ≤ ahead
        · have hmoved := ringDoorbell_stale he hmove hback
          refine ⟨hmoved.mem, by rw [hmoved.own], fun h1 h2 => absurd ⟨h1, h2⟩ hmove, fun _ _ => hmoved.own, fun hfar hlow => ?_⟩
          omega
        · have hpos : 0 < ahead := Nat.pos_of_ne_zero fun h => hback (.inl h)
          have hfar : x.slots - used < ahead := Nat.lt_of_not_le fun h => hmove ⟨hpos, h⟩
          have hmoved := ringDoorbell_stops he hfar (Nat.lt_of_not_le fun h => hback (.inr h))
          refine ⟨hmoved.mem, by rw [hmoved.own], fun h1 h2 => absurd ⟨h1, h2⟩ hmove, fun _ h => absurd h hback, fun _ _ => ?_⟩
          rw [hmoved.own]
          exact ⟨rfl, rfl, rfl⟩
    · intro a hb1 hb2 ha hr
      have hback := slotBack_view he hv hf hne ha hr
      refine ⟨fun hp => ⟨fun hst => ?_, fun hst => ?_⟩, fun hp => ⟨fun hst => ?_, fun hst ht => ?_, fun hst ht => ?_⟩⟩
      · have hmoved := judgeSlot_fetches hv hb1 hb2 false hp
        refine ⟨_, execSlotFetch_judges hl hst hback, hmoved.mem, ?_⟩
        rw [hmoved.own]
        exact ⟨rfl, rfl, rfl⟩
      · have hmoved := judgeSlot_fetches hv hb1 hb2 true hp
        refine ⟨_, execSlotReread_judges hl hst hback hr, hmoved.mem, ?_⟩
        rw [hmoved.own]
        exact ⟨rfl, rfl, rfl⟩
      · refine ⟨_, (execSlotFetch_judges hl hst hback).trans (congrArg _ (judgeSlot_fails hv hb1 hb2 hp fun h => absurd h Bool.false_ne_true)), ?_⟩
        rw [State.queue_modQueue_same]
        exact ⟨rfl, rfl, rfl, hf, rfl⟩
      · refine ⟨_, (execSlotReread_judges hl hst hback hr).trans (congrArg _ (judgeSlot_fails hv hb1 hb2 hp fun _ => ?_)), ?_⟩
        · exact Nat.ne_of_lt ht
        · rw [State.queue_modQueue_same]
          exact ⟨rfl, rfl, rfl, rfl⟩
      · have hmoved := judgeSlot_stops hv hb1 hb2 hp ht
        refine ⟨_, execSlotReread_judges hl hst hback hr, ?_⟩
        rw [hmoved.own]
        exact ⟨rfl, rfl, rfl⟩
    · have hmod := QueueMoved.modQueue q (fun x => { x with rereadAt := none }) s
      obtain ⟨l, hkick⟩ := kickQueue_reads (q := q) (s := s.modQueue q fun x => { x with rereadAt := none }) (by rw [hmod.own]; exact hb)
      have hmoved := hmod.trans hkick
      obtain ⟨hview, hio⟩ := kickQueue_asks hmod.own he (.inr hst) hf hrd rfl hne hb
      refine ⟨_, execSlotReread_issues hl hst hr ht, hmoved.mem, ?_, ?_, ?_, ?_, hview, hio⟩
      all_goals
        rw [hmoved.own, hmod.own]
      · exact hst
    · obtain ⟨r, l, hr, hload, hmoved⟩ := execCompletionRecordWrite_leaves hl hc hroom hin
      refine ⟨r, hr, hmoved.mem, ?_, ?_, ?_, hload⟩
      all_goals rw [hmoved.own]
    · refine ⟨_, execMsiWrite_pends hl hready ha h1 h2, rfl, ?_, ?_⟩
      · exact congrArg Queue.msisReady (State.queue_modQueue_same s q fun x => { x with msisReady := x.msisReady - 1 })
      · exact setPending_pends ..

end Sys2Proof.Machine
end

section
/-! SUPPORT. Chains of the vector engine (O21): their start and their finish (R187 to R192, R204, R206). -/

namespace Sys2Proof.Machine

open Sys2Proof

variable {s : State}

/-! ### CHAIN_START -/

/-- The cycles that a command makes active leave of a tile all but its counts of them and its violations (R56). -/
theorem duty_tile (t kind a b seq addr : Nat) (s : State) : OnTile t s (duty t kind a b seq addr s) ∧
    (duty t kind a b seq addr s).mem = s.mem ∧ ∃ aa va dr d k, (duty t kind a b seq addr s).tile t =
      { s.tile t with arrayActive := aa, vectorActive := va, dutyRaised := dr, dues := d, raised := k } := by
  unfold duty
  split
  · exact ⟨.refl t s, rfl, _, _, _, _, _, rfl⟩
  · extract_lets x lo hi caps news s1
    have hb := OnlyBreaches.raiseDues t (news.map fun e => ⟨e.2 - x.startCmp, fcDuty, seq, addr, 0⟩) s1
    have ⟨_, _, d, k, h⟩ := hb
    refine ⟨.trans (.modTile t _ s) (.ofBreaches hb), hb.eq State.mem fun _ _ _ _ _ => rfl, ?_⟩
    rw [h, show s1.tile t = _ from State.tile_modTile_same ..]
    split
    · exact ⟨_, _, _, d, k, rfl⟩
    · exact ⟨_, _, _, d, k, rfl⟩

theorem le_foldl {α : Type} {f : Nat → α → Nat} (h : ∀ m a, m ≤ f m a) (l : List α) (n : Nat) : n ≤ l.foldl f n := by
  induction l generalizing n with
  | nil => exact Nat.le_refl n
  | cons a l ih => exact (h n a).trans (ih _)

/-- A chain starts no sooner than two cycles after its last link's issue. -/
theorem le_chainStart (x : Tile) (cs : List Cmd) (last : Cmd) : last.issue + 2 ≤ chainStart x cs last := by
  refine (Nat.le_max_left _ (x.unit 1).freeAt).trans (le_foldl (fun m c => ?_) cs _)
  split
  · exact Nat.le_max_left ..
  · exact Nat.le_refl m

/-- A chain that is due starts. -/
theorem execChainStart_starts {t : TileId} {cs : List Cmd} {last : Cmd} (hl : s.live = true) (hw : (s.tile t).works = true)
    (hcs : firstChain ((s.tile t).unit 1).queue = some cs) (hlast : cs.getLast? = some last)
    (hset : (s.tile t).settled (chainStart (s.tile t) cs last) = true) :
    execChainStart t s = .next (startChain t cs last s) := by
  have hhead : (s.tile t).headStart 1 = some (chainStart (s.tile t) cs last) := by
    rw [Tile.headStart, if_pos rfl, hcs, Option.bind_some, hlast, Option.map_some]
  unfold execChainStart
  dsimp only
  rw [hw, hhead, Option.map_some, hset, hcs]
  exact (eventOf_some _ _ _ hl).trans (by rw [hlast])

/-- The chain as it runs: its links, each with the key slot that it names. -/
def chainRunOf (x : Tile) (cs : List Cmd) (last : Cmd) (start : Nat) : Run :=
  { cmd := last, start := start, busyTo := start + cs.length * (vxOf last.word.toNat).rows - 1
    done := chainDone (vxOf last.word.toNat) start cs.length
    links := cs.map fun c => (c, tget {} x.vec.keys ((vxOf c.word.toNat).slot.getD 0)) }

/-- The vector state with a slot that a VX.KEY derives. -/
def VecState.derive (start : Nat) (slot : Option (Nat × KeySlot)) (x : VecState) : VecState :=
  match slot with
  | some p => { x with
      keys := tset x.keys p.1 p.2
      key0 := if p.1 = 0 then x.key0 ++ [(start + 8, p.2.key)] else x.key0 }
  | none => x

/-- The tile with a chain that runs and the slot that it derives. -/
def Tile.runChain (r : Run) (slot : Option (Nat × KeySlot)) (y : Tile) : Tile :=
  { y.modUnit 1 fun q => { q with running := q.running ++ [r] } with vec := y.vec.derive r.start slot }

/-- The chain's commands have left their queue, and its unit is free again in a cycle. -/
def chainTaken (t m start free : Nat) (s : State) : State :=
  s.modTile t fun x => x.modUnit 1 fun q => { q.started m start with freeAt := free }

section
variable {t : Nat} {cs : List Cmd} {last : Cmd}

/-- A chain whose patterns lie in the scratchpad and whose accesses break no rule at its start runs. -/
theorem startChain_runs
    (hpad : ∀ c ∈ cs, ∀ i ∈ (vxOf c.word.toNat).descs,
      (descAt (s.tile t).imem i).allRows c.idx false (fun a n => inPad t a n) = true)
    (hgrant : (useBanks t (chainStart (s.tile t) cs last) (chainUses (s.tile t) cs last (chainStart (s.tile t) cs last))
      (chainTaken t cs.length (chainStart (s.tile t) cs last)
        (chainStart (s.tile t) cs last + cs.length * (vxOf last.word.toNat).rows) s)).2 = true) :
    startChain t cs last s =
      let x := s.tile t
      let start := chainStart x cs last
      let hi := start + cs.length * (vxOf last.word.toNat).rows
      let s1 := (useBanks t start (chainUses x cs last start) (chainTaken t cs.length start hi s)).1
      duty t 1 start (hi - 1) last.seq last.addr (s1.modTile t (Tile.runChain (chainRunOf x cs last start) (keySlotOf t s1 last start))) := by
  have hnil : (cs.filter fun c => !(vxOf c.word.toNat).descs.all fun i =>
      (descAt (s.tile t).imem i).allRows c.idx false fun a n => inPad t a n) = [] := by
    rw [List.filter_eq_nil_iff]
    intro c hc
    rw [List.all_eq_true.2 (hpad c hc)]
    decide
  unfold startChain
  dsimp only
  rw [hnil]
  dsimp only
  unfold chainTaken at hgrant ⊢
  rw [hgrant]
  rfl

/-- What a chain that runs leaves: its links out of the queue, the chain running, its slot derived, and no byte moved. -/
theorem startChain_starts
    (hpad : ∀ c ∈ cs, ∀ i ∈ (vxOf c.word.toNat).descs,
      (descAt (s.tile t).imem i).allRows c.idx false (fun a n => inPad t a n) = true)
    (hgrant : (useBanks t (chainStart (s.tile t) cs last) (chainUses (s.tile t) cs last (chainStart (s.tile t) cs last))
      (chainTaken t cs.length (chainStart (s.tile t) cs last)
        (chainStart (s.tile t) cs last + cs.length * (vxOf last.word.toNat).rows) s)).2 = true) :
    let x := s.tile t
    let start := chainStart x cs last
    let hi := start + cs.length * (vxOf last.word.toNat).rows
    let s1 := (useBanks t start (chainUses x cs last start) (chainTaken t cs.length start hi s)).1
    let q := startChain t cs last s
    OnTile t s q ∧ q.mem = s.mem ∧ ((q.tile t).unit 1).queue = (x.unit 1).queue.drop cs.length ∧ ((q.tile t).unit 1).freeAt = hi ∧
      ((q.tile t).unit 1).running = (x.unit 1).running ++ [chainRunOf x cs last start] ∧
      (q.tile t).vec = x.vec.derive start (keySlotOf t s1 last start) := by
  intro x start hi s1 q
  have hq : q = _ := startChain_runs hpad hgrant
  obtain ⟨u, d, k, htile1, hmem1, -⟩ := useBanks_tile t start (chainUses x cs last start) (chainTaken t cs.length start hi s)
  have hon1 : OnTile t s s1 := .trans (.modTile t _ s) (.useBanks t start (chainUses x cs last start) (chainTaken t cs.length start hi s))
  have htaken : (chainTaken t cs.length start hi s).tile t =
      x.modUnit 1 fun q => { q.started cs.length start with freeAt := hi } := State.tile_modTile_same ..
  rw [htaken] at htile1
  obtain ⟨hon2, hmem2, aa, va, dr, d', k', htile2⟩ := duty_tile t 1 start (hi - 1) last.seq last.addr (s1.modTile t (Tile.runChain (chainRunOf x cs last start) (keySlotOf t s1 last start)))
  rw [State.tile_modTile_same, show s1.tile t = _ from htile1] at htile2
  have hunit : (q.tile t).unit 1 = { (x.unit 1).started cs.length start with
      freeAt := hi, running := ((x.unit 1).started cs.length start).running ++ [chainRunOf x cs last start] } := by
    rw [hq, htile2]
    show ((x.modUnit 1 fun q => { q.started cs.length start with freeAt := hi }).modUnit 1 fun q =>
      { q with running := q.running ++ [chainRunOf x cs last start] }).unit 1 = _
    rw [Tile.unit_modUnit, if_pos rfl, Tile.unit_modUnit, if_pos rfl]
  refine ⟨hq ▸ hon1.trans (.trans (.modTile t _ s1) hon2), hq ▸ hmem2.trans hmem1, ?_, ?_, ?_, ?_⟩
  · rw [hunit]; rfl
  · rw [hunit]
  · rw [hunit]; rfl
  · rw [hq, htile2]
    rfl

end

/-! ### CHAIN_FINISH: results -/

/-- An FP32 result is written as its bits (R187). -/
theorem outWrite_fp32 {d : Desc} (h : d.format = fmFp32) (f : FormatRec) (idx : List Nat) (ks : List (Nat × Word)) (m : List Host.Cell)
    (o : VxOut) : (outWrite f d idx ks m o).1 = ⟨d.byteAt idx false (4 * o.elem), leBytes 4 o.val.toNat, o.cycle⟩ := by
  have hbits : fmBits fmFp32 = 32 := rfl
  unfold outWrite
  dsimp only
  rw [h, hbits, show o.elem * 32 / 8 = 4 * o.elem by omega]
  rfl

theorem foldl_writeOut_fp32 {d : Desc} (h : d.format = fmFp32) (t : Nat) (f : FormatRec) (idx : List Nat) (out : List VxOut)
    (p : State × Counts) : (out.foldl (writeOut t f d idx) p).1 =
      padWrites t (out.map fun o => ⟨d.byteAt idx false (4 * o.elem), leBytes 4 o.val.toNat, o.cycle⟩) p.1 := by
  induction out generalizing p with
  | nil => rfl
  | cons o out ih =>
    rw [List.foldl_cons, ih, List.map_cons]
    unfold writeOut
    dsimp only
    rw [outWrite_fp32 h]
    rfl

/-- Results change memory and what the tile's ports have written. -/
theorem foldl_writeOut_tile (t : Nat) (f : FormatRec) (d : Desc) (idx : List Nat) (out : List VxOut) (p : State × Counts) :
    OnTile t p.1 (out.foldl (writeOut t f d idx) p).1 ∧
      ∃ l, (out.foldl (writeOut t f d idx) p).1.tile t = { p.1.tile t with past := l } :=
  List.foldlRecOn (motive := fun r : State × Counts => OnTile t p.1 r.1 ∧ ∃ l, r.1.tile t = { p.1.tile t with past := l }) _ _
    ⟨.refl t p.1, _, rfl⟩ fun r ⟨hon, l, hl⟩ o _ => by
      unfold writeOut
      extract_lets x w
      obtain ⟨l', hl'⟩ := padStore_tile t o.cycle w.1.addr w.1.data r.1
      exact ⟨hon.trans (.padStore ..), l', hl'.trans (by rw [hl])⟩

/-- The results of a chain on their way to the scratchpad, with what their conversion adds to the counts. -/
def chainResults (t : Nat) (v : Vx) (idx : List Nat) (out : List VxOut) (s : State) : State × Counts :=
  match v.d with
  | .stream i => out.foldl (writeOut t (s.image.formatOf t 4) (descAt (s.tile t).imem i) idx) (s, {})
  | _ => (s, {})

theorem chainResults_tile (t : Nat) (v : Vx) (idx : List Nat) (out : List VxOut) (s : State) :
    OnTile t s (chainResults t v idx out s).1 ∧ ∃ l, (chainResults t v idx out s).1.tile t = { s.tile t with past := l } := by
  unfold chainResults
  split
  · exact foldl_writeOut_tile ..
  · exact ⟨.refl t s, _, rfl⟩

theorem chainResults_fp32 {t i : Nat} {v : Vx} (hv : v.d = .stream i) (hf : (descAt (s.tile t).imem i).format = fmFp32)
    (idx : List Nat) (out : List VxOut) (hin : s.inOrder t (out.map VxOut.cycle)) : (chainResults t v idx out s).1.mem =
      out.foldl (fun m o => memWrites m ((descAt (s.tile t).imem i).byteAt idx false (4 * o.elem)) (leBytes 4 o.val.toNat)) s.mem := by
  have hres : chainResults t v idx out s = out.foldl (writeOut t (s.image.formatOf t 4) (descAt (s.tile t).imem i) idx) (s, {}) := by
    unfold chainResults
    rw [hv]
  rw [hres, foldl_writeOut_fp32 hf, padWrites_mem _ _ (by rw [List.map_map]; exact hin), List.foldl_map]

theorem chainResults_none {t : Nat} {v : Vx} (hv : ∀ i, v.d ≠ .stream i) (idx : List Nat) (out : List VxOut) (s : State) :
    (chainResults t v idx out s).1 = s := by
  unfold chainResults
  split
  · next i h => exact absurd h (hv i)
  · rfl

/-! ### CHAIN_FINISH: counts and signals -/

/-- The counted links of a finished chain add their counts. -/
def chainCounts (t done : Nat) (cnt : Cmd × Counts → Counts) (l : List (Cmd × Counts)) (s : State) : State :=
  l.foldl (fun s l => if (vxOf l.1.word.toNat).count then countInto t (vxOf l.1.word.toNat).entry l.1.addr 1 done (cnt l) s else s) s

theorem chainCounts_adds (t done : Nat) (cnt : Cmd × Counts → Counts) (l : List (Cmd × Counts)) (s : State) :
    OnTile t s (chainCounts t done cnt l s) ∧ (chainCounts t done cnt l s).mem = s.mem ∧
      ∃ a, (chainCounts t done cnt l s).tile t = { s.tile t with adds := a } ∧
      ((s.tile t).sealed = false → a.map (fun a => (a.entry, a.cycle, a.unit, a.addr)) =
        (s.tile t).adds.map (fun a => (a.entry, a.cycle, a.unit, a.addr)) ++
        (l.filter fun l => (vxOf l.1.word.toNat).count).map fun l => ((vxOf l.1.word.toNat).entry, done, 1, l.1.addr)) := by
  induction l generalizing s with
  | nil => exact ⟨.refl t s, rfl, _, rfl, fun _ => (List.append_nil _).symm⟩
  | cons c l ih =>
    unfold chainCounts at ih ⊢
    rw [List.foldl_cons]
    by_cases hc : (vxOf c.1.word.toNat).count = true
    · rw [if_pos hc, List.filter_cons, if_pos hc, List.map_cons]
      obtain ⟨hon, hmem, a, htile, hadds⟩ := ih (countInto t (vxOf c.1.word.toNat).entry c.1.addr 1 done (cnt c) s)
      have hinto : (countInto t (vxOf c.1.word.toNat).entry c.1.addr 1 done (cnt c) s).tile t = if (s.tile t).sealed then s.tile t
          else { s.tile t with adds := (s.tile t).adds ++ [⟨(vxOf c.1.word.toNat).entry, done, 1, c.1.addr, cnt c⟩] } :=
        State.tile_modTile_same ..
      refine ⟨.trans (.modTile t _ s) hon, hmem, ?_⟩
      cases hs : (s.tile t).sealed with
      | true =>
        rw [hs, if_pos rfl] at hinto
        exact ⟨a, by rw [htile, hinto], fun h => by cases h⟩
      | false =>
        rw [hs, if_neg Bool.false_ne_true] at hinto
        refine ⟨a, by rw [htile, hinto], fun _ => ?_⟩
        rw [hadds (by rw [hinto]; exact hs), hinto]
        simp
    · rw [if_neg hc, List.filter_cons, if_neg hc]
      exact ih s

/-- Commands that finish while no TK.SIGNAL waits. -/
theorem foldl_finished_quiet {α : Type} {t u cycle : Nat} (seq : α → Nat) (l : List α) (s : State) (h : ((s.tile t).unit 5).running = []) :
    OnTile t s (l.foldl (fun s a => finished t u (seq a) cycle s) s) ∧
      (l.foldl (fun s a => finished t u (seq a) cycle s) s).mem = s.mem ∧ ∃ us d,
      (l.foldl (fun s a => finished t u (seq a) cycle s) s).tile t = { s.tile t with units := us, lastDone := d } ∧
      ∀ v, (tget {} us v).running = ((s.tile t).unit v).running := by
  induction l generalizing s with
  | nil => exact ⟨.refl t s, rfl, _, _, rfl, fun _ => rfl⟩
  | cons a l ih =>
    obtain ⟨f, us, d, hfin, htile, hrun⟩ := finished_quiet (s := s) u (seq a) cycle h
    have hmod : (s.modTile t f).tile t = { s.tile t with units := us, lastDone := d } := (State.tile_modTile_same ..).trans htile
    rw [List.foldl_cons, hfin]
    obtain ⟨hon, hmem, us', d', htile', hrun'⟩ := ih (s.modTile t f) (by rw [hmod]; exact (hrun 5).trans h)
    rw [hmod] at htile' hrun'
    exact ⟨.trans (.modTile t f s) hon, hmem, us', d', htile', fun v => (hrun' v).trans (hrun v)⟩

/-! ### O21 -/

/-- The chain has left the engine; its hand-off registers stand for the next one. -/
def chainHanded (t : Nat) (v : Vx) (hand : Tbl (List W32)) (s : State) : State :=
  if v.isKey then s else s.modTile t fun x => { x with vec := { x.vec with handoff := handTable hand } }

theorem chainHanded_tile (t : Nat) (v : Vx) (hand : Tbl (List W32)) (s : State) : OnTile t s (chainHanded t v hand s) ∧
    (chainHanded t v hand s).mem = s.mem ∧ ∃ y, (chainHanded t v hand s).tile t = { s.tile t with vec := y } := by
  unfold chainHanded
  split
  · exact ⟨.refl t s, rfl, _, rfl⟩
  · exact ⟨.modTile t _ s, rfl, _, State.tile_modTile_same ..⟩

/-- The state of a finished chain: it leaves, its results are written, its counts added, and signals that wait see it. -/
def chainFinished (t : Nat) (r : Run) (s : State) : State :=
  let v := vxOf r.cmd.word.toNat
  let s1 := s.modTile t fun x => x.dropRun 1 r.cmd.seq
  let out := chainRun (padAt t s1) (s1.tile t) r
  let p := chainResults t v r.cmd.idx out.out (chainHanded t v out.hand s1)
  r.links.foldl (fun s l => finished t 1 l.1.seq r.done s)
    (chainCounts t r.done (fun l => if l.1.seq = r.cmd.seq then l.2.add p.2 else l.2) ((r.links.map Prod.fst).zip out.counts) p.1)

theorem execChainFinish_eq {t : TileId} {r : Run} (hl : s.live = true) (hr : firstDone ((s.tile t).unit 1).running = some r)
    (hset : (s.tile t).settled r.done = true) : execChainFinish t s = .next (chainFinished t r s) := by
  unfold execChainFinish
  rw [hr, Option.filter_some, if_pos hset, eventOf_some _ _ _ hl]
  rfl

/-- What a finished chain leaves, with no TK.SIGNAL started and unsent. -/
theorem chainFinished_leaves {t : Nat} {r : Run} (hq : ((s.tile t).unit 5).running = []) :
    let x := s.tile t
    let v := vxOf r.cmd.word.toNat
    let s1 := s.modTile t fun x => x.dropRun 1 r.cmd.seq
    let out := chainRun (padAt t s1) (s1.tile t) r
    let q := chainFinished t r s
    OnTile t s q ∧ q.mem = (chainResults t v r.cmd.idx out.out (chainHanded t v out.hand s1)).1.mem ∧ (q.tile t).acc = x.acc ∧
      ((q.tile t).unit 1).running = (x.unit 1).running.filter (fun y => y.cmd.seq != r.cmd.seq) ∧
      (x.sealed = false → (q.tile t).adds.map (fun a => (a.entry, a.cycle, a.unit, a.addr)) =
        x.adds.map (fun a => (a.entry, a.cycle, a.unit, a.addr)) ++
        (((r.links.map Prod.fst).zip out.counts).filter fun l => (vxOf l.1.word.toNat).count).map fun l =>
          ((vxOf l.1.word.toNat).entry, r.done, 1, l.1.addr)) := by
  intro x v s1 out q
  have h1 : s1.tile t = x.dropRun 1 r.cmd.seq := State.tile_modTile_same ..
  obtain ⟨hon2, hmem2, y, h2⟩ := chainHanded_tile t v out.hand s1
  obtain ⟨hon3, l, h3⟩ := chainResults_tile t v r.cmd.idx out.out (chainHanded t v out.hand s1)
  have hcounts := chainCounts_adds t r.done
    (fun l => if l.1.seq = r.cmd.seq then l.2.add (chainResults t v r.cmd.idx out.out (chainHanded t v out.hand s1)).2 else l.2)
    ((r.links.map Prod.fst).zip out.counts) (chainResults t v r.cmd.idx out.out (chainHanded t v out.hand s1)).1
  obtain ⟨hon4, hmem4, a, h4, hadds⟩ := hcounts
  obtain ⟨s2, hs2⟩ : ∃ s2, s2 = chainHanded t v out.hand s1 := ⟨_, rfl⟩
  obtain ⟨s3, hs3⟩ : ∃ s3, s3 = (chainResults t v r.cmd.idx out.out s2).1 := ⟨_, rfl⟩
  obtain ⟨s4, hs4⟩ : ∃ s4, s4 = chainCounts t r.done (fun l => if l.1.seq = r.cmd.seq then l.2.add
    (chainResults t v r.cmd.idx out.out s2).2 else l.2) ((r.links.map Prod.fst).zip out.counts) s3 := ⟨_, rfl⟩
  have hq' : q = r.links.foldl (fun s l => finished t 1 l.1.seq r.done s) s4 := by rw [hs4, hs3, hs2]; rfl
  rw [← hs2] at hon2 hmem2 h2 hon3 h3 hon4 hmem4 h4 hadds
  rw [← hs3] at hon3 h3 hon4 hmem4 h4 hadds
  rw [← hs4] at hon4 hmem4 h4
  rw [h1] at h2
  rw [h2] at h3
  rw [h3] at h4 hadds
  have hunit (v : Nat) : (s4.tile t).unit v = (x.dropRun 1 r.cmd.seq).unit v := by
    rw [h4]
    rfl
  obtain ⟨hon5, hmem5, us, d, h5, hrun⟩ := foldl_finished_quiet (u := 1) (cycle := r.done) (fun l : Cmd × KeySlot => l.1.seq) r.links s4
    (by rw [hunit, Tile.dropRun_unit_ne _ _ (by decide)]; exact hq)
  rw [← hq'] at hon5 hmem5 h5
  refine ⟨.trans (.modTile t _ s) (hon2.trans (hon3.trans (hon4.trans hon5))), hmem5.trans (hmem4.trans (by rw [hs3, hs2])), ?_, ?_, ?_⟩
  · rw [h5, h4]
    rfl
  · rw [h5]
    show (tget {} us 1).running = _
    rw [hrun, hunit, Tile.dropRun_running]
  · intro hsealed
    rw [h5, h4]
    exact hadds hsealed

/-- Settles O21: a chain that runs leaves its queue; a finished one writes its results, adds its counts and leaves. -/
theorem vectorChainsRunAsOne : Obligations.VectorChainsRunAsOne := by
  unfold Obligations.VectorChainsRunAsOne
  refine ⟨?_, ?_⟩
  · intro t s cs last x v m start s1 hl hw hcs hlast hset hpad hgrant
    obtain ⟨hon, hmem, hqueue, hfree, hrun, hvec⟩ := startChain_starts hpad hgrant
    refine ⟨_, chainRunOf x cs last start, execChainStart_starts hl hw hcs hlast hset, hmem, hqueue, hfree, le_chainStart x cs last,
      hrun, rfl, rfl, rfl, ?_, fun p hp => ?_, fun hkey => ?_, hon.2⟩
    · simp [chainRunOf, Function.comp_def]
    · have hp : keySlotOf t (useBanks t start (chainUses x cs last start) (chainTaken t m start (start + m * v.rows) s)).1 last start = some p := hp
      rw [hvec, hp]
      exact tget_tset_same ..
    · rw [hvec, keySlotOf, if_neg (by rw [show (vxOf last.word.toNat).isKey = false from hkey]; decide)]
      rfl
  · intro t s r x v s1 out hl hr hset hq
    obtain ⟨hon, hmem, hacc, hrun, hadds⟩ := chainFinished_leaves (r := r) hq
    have h1 : s1.tile t = x.dropRun 1 r.cmd.seq := State.tile_modTile_same ..
    obtain ⟨hon2, hmem2, y, h2⟩ := chainHanded_tile t v out.hand s1
    rw [h1] at h2
    refine ⟨_, execChainFinish_eq hl hr hset, hon.2, hrun, fun i hv hf hin => ?_, fun hv => ?_, hacc, hadds⟩
    · have himem : ((chainHanded t v out.hand s1).tile t).imem = x.imem := by
        rw [h2]
        rfl
      have hin' : (chainHanded t v out.hand s1).inOrder t (out.out.map VxOut.cycle) := by
        unfold State.inOrder
        rw [h2]
        exact hin
      have hwritten := hmem.trans (chainResults_fp32 hv (by rw [himem]; exact hf) r.cmd.idx out.out hin')
      rw [himem, hmem2] at hwritten
      intro put
      refine ⟨hwritten, fun b hb => ?_⟩
      rw [hwritten]
      exact memRead_foldl_memWrites _ (fun o : VxOut => leBytes 4 o.val.toNat) out.out s.mem hb
    · rw [hmem, chainResults_none hv, hmem2]
      rfl

end Sys2Proof.Machine
end

section
/-! SUPPORT. The lines that a mover moves (O17): the slots that they take (R77, R85) and where they land (R76, R114). -/

namespace Sys2Proof.Machine

open Sys2Proof

variable {s : State}

/-! ### MOVER_LINE_SLOT -/

/-- A line takes no slot before its port may: 20 ns after its request (R77). -/
theorem le_slotFrom (i : Image) (x : Tile) (all : List MvLine) (l : MvLine) : x.spanAt (l.req + 40) ≤ slotFrom i x all l :=
  le_foldl (fun m (k : MvLine) => Nat.le_max_left m (x.spanAt k.slotAt + 1)) _ _

theorem slotServes_from {t m op slot cycle lo : Nat} {l : MvLine} (h : slotServes s t m op slot cycle lo l = true) :
    lo ≤ (s.tile t).spanAt cycle := by
  unfold slotServes at h
  extract_lets i near at_ carries at h
  rw [Bool.and_eq_true, Bool.and_eq_true] at h
  obtain ⟨⟨-, hlo⟩, -⟩ := h
  exact of_decide_eq_true hlo

theorem pickLine_requested {t m slot cycle : Nat} {r : Run} {l : MvLine} (h : pickLine s t m slot cycle = some (r, l)) :
    l.req + 40 ≤ cycle := by
  have hserves := List.find?_some h
  rw [Bool.and_eq_true] at hserves
  have hspan := (le_slotFrom s.image (s.tile t) _ l).trans (slotServes_from hserves.1)
  unfold Tile.spanAt at hspan
  omega

/-- A line that leaves its port gains its bytes and their counts, and nothing else. -/
theorem leave_fields (t m : Nat) (s : State) (r : Run) (l : MvLine) :
    leave t m s r l = { l with data := (leave t m s r l).data, counts := (leave t m s r l).counts } := by
  unfold leave
  extract_lets op p d
  split <;> rfl

theorem leave_load {t m : Nat} {r : Run} (l : MvLine) (h : opcodeOf r.cmd.word.toNat = 0x30) :
    let p := convParOf s.image t m (s.tile t) r.cmd r.start
    (leave t m s r l).data = (lineSpan 0x30 p l.idx).map fun b => memRead s.mem (movingByte 0x30 p b) := by
  unfold leave
  rw [h]
  rfl

theorem leave_lineData {t m : Nat} {r : Run} (l : MvLine) (h : opcodeOf r.cmd.word.toNat ≠ 0x30) :
    ((leave t m s r l).data, (leave t m s r l).counts) =
      lineData t s (convParOf s.image t m (s.tile t) r.cmd r.start) l := by
  unfold leave
  dsimp only
  rw [if_neg h]

theorem takeLinkSlot_frame (near far at_ slot : Nat) (s : State) : ∃ ls, takeLinkSlot near far at_ slot s = { s with links := ls } := by
  unfold takeLinkSlot
  split
  · exact ⟨_, rfl⟩
  · exact ⟨s.links, rfl⟩

/-- What a slot does before its line moves: a load's line is read, a line of a link takes its slot. -/
def slotTaken (t : Nat) (slot cycle : Nat) (ecc : Ecc) (r : Run) (l : MvLine) (s : State) : State :=
  if opcodeOf r.cmd.word.toNat = 0x30 then eccRead l.addr ecc rqPort t ((s.image.unitTroupe t).getD 0xFF) s
  else if (channelOf s.image l.addr).isNone then takeLinkSlot (1 + t / 12) (farDie l.addr) ((s.tile t).spanAt cycle) slot s
  else s

theorem slotTaken_frame {t slot cycle : Nat} {r : Run} (ecc : Ecc) (l : MvLine) (h : opcodeOf r.cmd.word.toNat ≠ 0x30) :
    ∃ ls, slotTaken t slot cycle ecc r l s = { s with links := ls } := by
  unfold slotTaken
  rw [if_neg h]
  split
  · exact takeLinkSlot_frame ..
  · exact ⟨s.links, rfl⟩

theorem slotTaken_kept (t slot cycle : Nat) (ecc : Ecc) (r : Run) (l : MvLine) (s : State) :
    (slotTaken t slot cycle ecc r l s).tiles = s.tiles ∧ (slotTaken t slot cycle ecc r l s).image = s.image := by
  by_cases h : opcodeOf r.cmd.word.toNat = 0x30
  · unfold slotTaken
    rw [if_pos h]
    have hk := SlotKept.eccRead l.addr ecc rqPort t ((s.image.unitTroupe t).getD 0xFF) s
    exact ⟨hk.tiles, by rw [State.image, hk.img]; rfl⟩
  · obtain ⟨ls, hs⟩ := slotTaken_frame (s := s) (t := t) (slot := slot) (cycle := cycle) ecc l h
    rw [hs]
    exact ⟨rfl, rfl⟩

/-- A slot that serves a waiting line moves it. -/
theorem execMoverLineSlot_moves {t : TileId} {mover : Fin 2} {slot cycle : Nat} (ecc : Ecc) {r : Run} {l : MvLine} (hl : s.live = true)
    (hown : unownedLine s.image t mover ((s.tile t).unit (2 + mover.val)) = none) (hset : (s.tile t).settled cycle = true)
    (hpick : pickLine s t mover slot cycle = some (r, l)) :
    let s1 := slotTaken t slot cycle ecc r l s
    execMoverLineSlot t mover slot cycle ecc s = .next (s1.modTile t fun x =>
      x.modLine (2 + mover.val) r.cmd.seq (leave t mover s1 r l).idx
        fun _ => some { leave t mover s1 r l with stage := 1, slotAt := cycle }) := by
  unfold execMoverLineSlot
  dsimp only
  rw [hown]
  dsimp only
  rw [if_pos hset, hpick, eventOf_some _ _ _ hl]
  rfl

/-- A line for which no slot is owned is dropped, and raises NO_SLOT (R85). -/
theorem execMoverLineSlot_unowned {t : TileId} {mover : Fin 2} {slot cycle : Nat} (ecc : Ecc) {r : Run} {l : MvLine} (hl : s.live = true)
    (hown : unownedLine s.image t mover ((s.tile t).unit (2 + mover.val)) = some (r, l)) :
    execMoverLineSlot t mover slot cycle ecc s = .next (tileFault t r.cmd.seq r.cmd.addr fcNoSlot l.addr
      (s.modTile t fun x => x.modLine (2 + mover.val) r.cmd.seq l.idx fun _ => none)) := by
  unfold execMoverLineSlot
  dsimp only
  rw [hown]
  exact event_due _ _ hl

/-! ### MOVER_LINE_LANDS: bytes -/

/-- A byte that some of the writes hit, all of them with one value, holds that value. -/
theorem memRead_foldl_put {α : Type} (at_ : α → Nat) (val : α → Byte) {b : Nat} {v : Byte} (l : List α) (m : List Host.Cell)
    (hsome : ∃ k ∈ l, at_ k = b) (hall : ∀ k ∈ l, at_ k = b → val k = v) :
    memRead (l.foldl (fun m k => memWrites m (at_ k) [val k]) m) b = v := by
  induction l generalizing m with
  | nil => simp at hsome
  | cons k l ih =>
    rw [List.foldl_cons]
    by_cases hlater : ∃ k ∈ l, at_ k = b
    · exact ih _ hlater fun j hj => hall j (List.mem_cons_of_mem _ hj)
    · have hk : at_ k = b := by
        obtain ⟨j, hj, hb⟩ := hsome
        obtain rfl | hj := List.mem_cons.1 hj
        · exact hb
        · exact absurd ⟨j, hj, hb⟩ hlater
      rw [memRead_foldl_memWrites at_ (fun k => [val k]) l _ fun j hj => ?_]
      · rw [← hall k (by simp) hk, ← hk]
        exact memRead_memWrites_in m (at_ k) 0 [val k] (by simp)
      · have hne : at_ j ≠ b := fun hb => hlater ⟨j, hj, hb⟩
        show b < at_ j ∨ at_ j + 1 ≤ b
        omega

/-- A byte that none of the writes hits stands. -/
theorem memRead_foldl_put_out {α : Type} (at_ : α → Nat) (val : α → Byte) {b : Nat} (l : List α) (m : List Host.Cell)
    (h : ∀ k ∈ l, at_ k ≠ b) : memRead (l.foldl (fun m k => memWrites m (at_ k) [val k]) m) b = memRead m b :=
  memRead_foldl_memWrites at_ (fun k => [val k]) l m fun k hk => by
    have hne := h k hk
    show b < at_ k ∨ at_ k + 1 ≤ b
    omega

theorem foldl_store {α : Type} (at_ : α → Nat) (val : α → Byte) (l : List α) (s : State) :
    l.foldl (fun s k => s.store (at_ k) [val k]) s =
      { s with mem := l.foldl (fun m k => memWrites m (at_ k) [val k]) s.mem } := by
  induction l generalizing s with
  | nil => rfl
  | cons k l ih =>
    rw [List.foldl_cons, ih]
    rfl

/-- The bytes of a line at their addresses, and nothing else. -/
theorem putLine_frame (op : Nat) (p : ConvPar) (l : MvLine) (s : State) : putLine op p l s = { s with
    mem := ((lineSpan op p l.idx).zip l.data).foldl (fun m a => memWrites m (movingByte op p a.1) [a.2]) s.mem } :=
  foldl_store (fun a : Nat × Byte => movingByte op p a.1) Prod.snd _ s

theorem putLine_out {op : Nat} {p : ConvPar} {l : MvLine} {b : Nat} (h : ∀ j ∈ lineSpan op p l.idx, movingByte op p j ≠ b) :
    memRead (putLine op p l s).mem b = memRead s.mem b := by
  rw [putLine_frame]
  exact memRead_foldl_put_out (fun a : Nat × Byte => movingByte op p a.1) Prod.snd _ _ fun k hk => h _ (List.of_mem_zip hk).1

/-- A position stands once in a line. -/
theorem nodup_lineSpan (op : Nat) (p : ConvPar) (j : Nat) : (lineSpan op p j).Nodup := by
  unfold lineSpan
  exact (List.nodup_range).map fun a b (h : 128 * j + a = 128 * j + b) => by omega

theorem putLine_in {op : Nat} {p : ConvPar} {l : MvLine}
    (hinj : ∀ i ∈ lineSpan op p l.idx, ∀ j ∈ lineSpan op p l.idx, movingByte op p i = movingByte op p j → i = j)
    {e : Nat × Byte} (he : e ∈ (lineSpan op p l.idx).zip l.data) : memRead (putLine op p l s).mem (movingByte op p e.1) = e.2 := by
  rw [putLine_frame]
  refine memRead_foldl_put (fun a : Nat × Byte => movingByte op p a.1) Prod.snd _ _ ⟨e, he, rfl⟩ fun k hk heq => ?_
  have hfst : k.1 = e.1 := hinj _ (List.of_mem_zip hk).1 _ (List.of_mem_zip he).1 heq
  obtain ⟨i, hi, rfl⟩ := List.getElem_of_mem hk
  obtain ⟨j, hj, rfl⟩ := List.getElem_of_mem he
  rw [List.getElem_zip, List.getElem_zip] at hfst ⊢
  have hij : i = j := (nodup_lineSpan op p l.idx).getElem_inj_iff.1 hfst
  subst hij
  rfl

/-! ### MOVER_LINE_LANDS: loads, copies and stores -/

/-- Bytes of a local port in one cycle, none later having come before. -/
theorem foldl_padStore_mem {t cycle : Nat} (l : List (Nat × Byte)) (h : ∀ p ∈ (s.tile t).past, p.cycle ≤ cycle) :
    (l.foldl (fun s a => padStore t cycle a.1 [a.2] s) s).mem = l.foldl (fun m a => memWrites m a.1 [a.2]) s.mem := by
  have horder : s.inOrder t ((l.map fun a => (⟨a.1, [a.2], cycle⟩ : Write)).map Write.cycle) := by
    rw [List.map_map, show Write.cycle ∘ (fun a : Nat × Byte => (⟨a.1, [a.2], cycle⟩ : Write)) = fun _ => cycle from rfl, List.map_const']
    refine ⟨fun p hp c hc => ?_, List.pairwise_replicate.2 (.inr (Nat.le_refl cycle))⟩
    rw [List.eq_of_mem_replicate hc]
    exact h p hp
  have hw := padWrites_mem _ s horder
  rwa [padWrites, List.foldl_map, List.foldl_map] at hw

/-- The destination bytes that a load's line completes. -/
def loadBytes (r : Run) (p : ConvPar) (line : Nat) : List (Nat × Byte) :=
  (completedBy r p line).map fun k =>
    (p.dst.byteAt p.idx p.dstTier k, (convertAll p (landedBytes r (p.src.byteCount p.srcTier))).1.getD k 0)

/-- The accesses of the banks that they lie in. -/
def loadUses (m cycle : Nat) (r : Run) (p : ConvPar) (line : Nat) : List (BankUse × Nat) :=
  ((loadBytes r p line).map fun a => bankOf a.1).dedup.map fun b => (⟨b, 4 + m, cycle, 1, 1, r.cmd.seq⟩, r.cmd.addr)

theorem landLoad_eq (t m cycle : Nat) (r : Run) (p : ConvPar) (line : Nat) (s : State) : landLoad t m cycle r p line s =
    if (useBanks t cycle (loadUses m cycle r p line) s).2 then
      (loadBytes r p line).foldl (fun s a => padStore t cycle a.1 [a.2] s) (useBanks t cycle (loadUses m cycle r p line) s).1
    else (useBanks t cycle (loadUses m cycle r p line) s).1 := rfl

theorem landLoad_onTile (t m cycle : Nat) (r : Run) (p : ConvPar) (line : Nat) (s : State) :
    OnTile t s (landLoad t m cycle r p line s) := by
  have huse := OnTile.useBanks t cycle (loadUses m cycle r p line) s
  rw [landLoad_eq]
  split
  · exact huse.trans (.foldl (fun s (a : Nat × Byte) => .padStore t cycle a.1 [a.2] s) _ _)
  · exact huse

/-- Where its banks are granted, a load's line writes the bytes that it completes; else none. -/
theorem landLoad_mem {t m cycle : Nat} {r : Run} {p : ConvPar} {line : Nat} (h : ∀ p ∈ (s.tile t).past, p.cycle ≤ cycle) :
    (landLoad t m cycle r p line s).mem = if (useBanks t cycle (loadUses m cycle r p line) s).2 then
      (loadBytes r p line).foldl (fun m a => memWrites m a.1 [a.2]) s.mem else s.mem := by
  obtain ⟨u, d, k, htile, hmem, -⟩ := useBanks_tile t cycle (loadUses m cycle r p line) s
  rw [landLoad_eq]
  split
  · rw [foldl_padStore_mem _ (by rw [htile]; exact h), hmem]
  · exact hmem

theorem landLoad_out {t m cycle : Nat} {r : Run} {p : ConvPar} {line b : Nat} (h : ∀ p ∈ (s.tile t).past, p.cycle ≤ cycle)
    (hb : ∀ n ∈ completedBy r p line, p.dst.byteAt p.idx p.dstTier n ≠ b) :
    memRead (landLoad t m cycle r p line s).mem b = memRead s.mem b := by
  rw [landLoad_mem h]
  split
  · refine memRead_foldl_put_out Prod.fst Prod.snd _ _ fun k hk => ?_
    obtain ⟨n, hn, rfl⟩ := List.mem_map.1 hk
    exact hb n hn
  · rfl

theorem landLoad_in {t m cycle : Nat} {r : Run} {p : ConvPar} {line : Nat} (h : ∀ p ∈ (s.tile t).past, p.cycle ≤ cycle)
    (hgrant : ∀ n ∈ completedBy r p line, s.image.bound t (bankOf (p.dst.byteAt p.idx p.dstTier n)) (4 + m) = true ∧
      (s.tile t).windowAt (bankOf (p.dst.byteAt p.idx p.dstTier n)) cycle = false ∧ ∀ v ∈ (s.tile t).uses,
        usesClash ⟨bankOf (p.dst.byteAt p.idx p.dstTier n), 4 + m, cycle, 1, 1, r.cmd.seq⟩ v.1 cycle = false)
    (hinj : ∀ i ∈ completedBy r p line, ∀ j ∈ completedBy r p line,
      p.dst.byteAt p.idx p.dstTier i = p.dst.byteAt p.idx p.dstTier j → i = j) {n : Nat} (hn : n ∈ completedBy r p line) :
    memRead (landLoad t m cycle r p line s).mem (p.dst.byteAt p.idx p.dstTier n) =
      (convertAll p (landedBytes r (p.src.byteCount p.srcTier))).1.getD n 0 := by
  have hbank (b : Nat) (hb : b ∈ ((loadBytes r p line).map fun a => bankOf a.1).dedup) :
      ∃ n ∈ completedBy r p line, bankOf (p.dst.byteAt p.idx p.dstTier n) = b := by
    rw [List.mem_dedup, loadBytes, List.map_map] at hb
    exact List.mem_map.1 hb
  have hok : (useBanks t cycle (loadUses m cycle r p line) s).2 = true := by
    refine useBanks_grants (by omega) (fun b hb => ?_) (fun b hb => ?_) fun b hb => ?_ <;>
      obtain ⟨n, hn, rfl⟩ := hbank b hb <;> obtain ⟨hbound, hwin, hclash⟩ := hgrant n hn
    · exact hbound
    · exact hwin
    · exact hclash
  rw [landLoad_mem h, if_pos hok]
  refine memRead_foldl_put Prod.fst Prod.snd _ _ ⟨_, List.mem_map.2 ⟨n, hn, rfl⟩, rfl⟩ fun k hk heq => ?_
  obtain ⟨j, hj, rfl⟩ := List.mem_map.1 hk
  rw [hinj j hj n hn heq]

theorem putLine_onTile (t op : Nat) (p : ConvPar) (l : MvLine) (s : State) : OnTile t s (putLine op p l s) := by
  rw [putLine_frame]
  exact ⟨⟨_, s.tiles, s.err, s.host, s.troupes, s.boot, s.str, rfl⟩, fun _ _ => rfl⟩

theorem unitFault_onTile (t u code addr info0 : Nat) (s : State) : OnTile t s (unitFault u code addr info0 s) := by
  obtain ⟨e, h, ts, b, hf⟩ := unitFault_frame s u code addr info0
  rw [hf]
  exact ⟨⟨s.mem, s.tiles, e, h, ts, b, s.str, rfl⟩, fun _ _ => rfl⟩

theorem bankFault_onTile (t peer seq addr code info0 : Nat) (s : State) : OnTile t s (bankFault t peer seq addr code info0 s) := by
  unfold bankFault
  split
  · exact .refl t s
  · exact .trans (.modTile t _ s) (unitFault_onTile ..)

theorem landPeer_onTile (t : Nat) (r : Run) (p : ConvPar) (l : MvLine) (s : State) : OnTile t s (landPeer t r p l s) := by
  unfold landPeer
  extract_lets peer
  split
  · exact putLine_onTile ..
  · exact .foldl (fun s code => bankFault_onTile t peer r.cmd.seq r.cmd.addr code l.addr s) _ _

/-- A copy whose window and binding allow it writes its line (R45, R83). -/
theorem landPeer_allowed {t : Nat} {r : Run} {p : ConvPar} {l : MvLine}
    (h : ∀ b ∈ p.dst.banks p.idx p.dstTier (128 * l.idx) l.data.length,
      asyncFault s ((l.addr - 0x400_0000_0000) / 0x100_0000) b 7 = none) : landPeer t r p l s = putLine 0x32 p l s := by
  unfold landPeer
  dsimp only
  rw [List.filterMap_eq_nil_iff.2 h]

/-- What a line of a store does: it goes to the reduction engine, to its memory's line or to its addresses (R588). -/
def landStore (t op : Nat) (r : Run) (p : ConvPar) (l : MvLine) (s : State) : State :=
  match redFlowOf p.dst with
  | some f => (s.modRed (t / 12) fun q => { q with inputs := q.inputs ++
      [{ flow := f, addr := l.addr, position := ((s.image.flowRec f).map FlowRec.contributor).getD 0, data := l.data
         since := s.time.span, cause := r.cmd.addr }] }).modFlow f fun x => { x with lines := x.lines + 1 }
  | none => if (memOf l.addr).isSome then storeLine l.addr l.data s else putLine op p l s

theorem landStore_tile (t op : Nat) (r : Run) (p : ConvPar) (l : MvLine) (s : State) {v : Nat} (h : v ≠ t) :
    (landStore t op r p l s).tile v = s.tile v := by
  unfold landStore
  split
  · rfl
  · split
    · rw [State.tile, (SlotKept.storeLine l.addr l.data s).tiles]
      rfl
    · exact (putLine_onTile t op p l s).2 v h

theorem landStore_flow {t op : Nat} {r : Run} {p : ConvPar} {l : MvLine} {f : Nat} (h : redFlowOf p.dst = some f) :
    (landStore t op r p l s).mem = s.mem ∧ ((landStore t op r p l s).flowCtx f).lines = (s.flowCtx f).lines + 1 ∧
      ((landStore t op r p l s).redEng (t / 12)).inputs = (s.redEng (t / 12)).inputs ++
        [{ flow := f, addr := l.addr, data := l.data, since := s.time.span, cause := r.cmd.addr
           position := ((s.image.flowRec f).map FlowRec.contributor).getD 0 }] := by
  unfold landStore
  rw [h]
  refine ⟨rfl, ?_, ?_⟩
  · rw [State.flowCtx_modFlow_same]
    rfl
  · rw [show ∀ (q : State) g, (q.modFlow f g).redEng (t / 12) = q.redEng (t / 12) from fun _ _ => rfl, State.redEng_modRed_same]

theorem landStore_line {t op : Nat} {r : Run} {p : ConvPar} {l : MvLine} (h : redFlowOf p.dst = none)
    (hm : (memOf l.addr).isSome = true) : (landStore t op r p l s).mem = memWrites s.mem l.addr l.data := by
  unfold landStore
  rw [h]
  dsimp only
  rw [if_pos hm]
  obtain ⟨ms, c, hs⟩ := storeLine_frame s l.addr l.data
  rw [hs]

theorem landStore_put {t op : Nat} {r : Run} {p : ConvPar} {l : MvLine} (h : redFlowOf p.dst = none)
    (hm : (memOf l.addr).isSome = false) : landStore t op r p l s = putLine op p l s := by
  unfold landStore
  rw [h]
  dsimp only
  rw [if_neg (by rw [hm]; decide)]

/-- A line that lands is marked, and its command's last cycle noted. -/
def lineLanded (t m line cycle : Nat) (r : Run) (l : MvLine) (s : State) : State :=
  s.modTile t fun x => (x.modLine (2 + m) r.cmd.seq line fun _ => some l).modUnit (2 + m) fun q =>
    { q with running := q.running.map fun y => if y.cmd.seq = r.cmd.seq then { y with done := max y.done cycle } else y }

/-- Where a line of a command lands. -/
def landLine (t m line cycle : Nat) (r : Run) (p : ConvPar) (l : MvLine) (s : State) : State :=
  let op := opcodeOf r.cmd.word.toNat
  if op = 0x30 then
    landLoad t m cycle { r with lines := r.lines.map fun k => if k.idx = line then l else k } p line s
  else if op = 0x32 then landPeer t r p l s
  else landStore t op r p l s

theorem execMoverLineLands_lands {t : TileId} {mover : Fin 2} {line cycle : Nat} {r : Run} {k : MvLine} (hl : s.live = true)
    (hset : (s.tile t).settled cycle = true) (hland : landing t line cycle ((s.tile t).unit (2 + mover.val)) = some (r, k))
    (hred : regionsBound s.image mover (opcodeOf r.cmd.word.toNat) (convParOf s.image t mover (s.tile t) r.cmd r.start) line = true) :
    let l : MvLine := { (if k.stage = 0 then leave t mover s r k else k) with stage := 2 }
    execMoverLineLands t mover line cycle s = .next (landLine t mover line cycle r
      (convParOf s.image t mover (s.tile t) r.cmd r.start) l (lineLanded t mover line cycle r l s)) := by
  intro l
  unfold execMoverLineLands
  dsimp only
  rw [if_pos hset, hland, eventOf_some _ _ _ hl]
  refine congrArg _ (if_neg ?_)
  rw [show ∀ q, (s.modTile t q).image = s.image from fun _ => rfl, hred]
  decide

/-- What a line leaves of its tile's accesses, windows and writes when it lands. -/
theorem lineLanded_tile (t m line cycle : Nat) (r : Run) (l : MvLine) (s : State) :
    ∃ us, (lineLanded t m line cycle r l s).tile t = { s.tile t with units := us } := ⟨_, State.tile_modTile_same ..⟩

/-- A line's mark changes no window. -/
theorem lineLanded_asyncFault (t m line cycle : Nat) (r : Run) (l : MvLine) (s : State) (peer bank port : Nat) :
    asyncFault (lineLanded t m line cycle r l s) peer bank port = asyncFault s peer bank port := by
  have hwindows : ((lineLanded t m line cycle r l s).tile peer).windows = (s.tile peer).windows := by
    by_cases hp : peer = t
    · obtain ⟨us, htile⟩ := lineLanded_tile t m line cycle r l s
      rw [hp, htile]
    · rw [lineLanded, State.tile_modTile_ne _ _ _ _ hp]
  unfold asyncFault
  rw [hwindows]
  rfl

section
variable {t m line cycle : Nat} {r : Run} {p : ConvPar} {l : MvLine}

theorem landLine_load (h : opcodeOf r.cmd.word.toNat = 0x30) : landLine t m line cycle r p l s =
    landLoad t m cycle { r with lines := r.lines.map fun k => if k.idx = line then l else k } p line s := if_pos h

theorem landLine_copy (h : opcodeOf r.cmd.word.toNat = 0x32) : landLine t m line cycle r p l s = landPeer t r p l s := by
  unfold landLine
  rw [h]
  rfl

theorem landLine_store (h : opcodeOf r.cmd.word.toNat = 0x31) : landLine t m line cycle r p l s = landStore t 0x31 r p l s := by
  unfold landLine
  rw [h]
  rfl

end

theorem landLine_tile (t m line cycle : Nat) (r : Run) (p : ConvPar) (l : MvLine) (s : State) {v : Nat} (h : v ≠ t) :
    (landLine t m line cycle r p l s).tile v = s.tile v := by
  unfold landLine
  extract_lets op
  split
  · exact (landLoad_onTile ..).2 v h
  · split
    · exact (landPeer_onTile ..).2 v h
    · exact landStore_tile t op r p l s h

/-- Settles O17: a slot serves a line no sooner than its request and 20 ns; where a line lands follows its operation. -/
theorem moverLinesTakeSlotsAndLand : Obligations.MoverLinesTakeSlotsAndLand := by
  unfold Obligations.MoverLinesTakeSlotsAndLand
  refine ⟨?_, ?_⟩
  · intro t mover slot cycle ecc s r l u x op p hl
    refine ⟨fun hown hset hpick => ?_, fun tr hown hu htr hrun hr => ?_⟩
    · have hexec := execMoverLineSlot_moves ecc hl hown hset hpick
      obtain ⟨htiles, himg⟩ := slotTaken_kept t slot cycle ecc r l s
      generalize hs1 : slotTaken t slot cycle ecc r l s = s1 at hexec htiles himg
      have htile (v : Nat) : s1.tile v = s.tile v := by rw [State.tile, htiles]; rfl
      have hidx : (leave t mover s1 r l).idx = l.idx := by rw [leave_fields]
      have hp : convParOf s1.image t mover (s1.tile t) r.cmd r.start = p := by rw [himg, htile]
      refine ⟨pickLine_requested hpick, _, { leave t mover s1 r l with stage := 1, slotAt := cycle }, hexec, ?_, ?_,
        fun v hv => ?_, fun hop => ?_, fun hop hecc => ?_⟩
      · rw [State.tile_modTile_same, htile, hidx]
      · rw [leave_fields]
      · rw [State.tile_modTile_ne _ _ _ _ hv, htile]
      · obtain ⟨ls, hframe⟩ := slotTaken_frame (s := s) (t := t) (slot := slot) (cycle := cycle) ecc l hop
        rw [hframe] at hs1
        refine ⟨by rw [← hs1]; rfl, (leave_lineData l hop).trans ?_⟩
        rw [hp, ← hs1]
        rfl
      · have hmem : s1.mem = s.mem := by
          rw [← hs1, slotTaken, if_pos hop]
          exact eccRead_memory hecc ..
        refine ⟨hmem, (leave_load l hop).trans ?_⟩
        rw [hp, hmem, hop]
    · refine ⟨_, execMoverLineSlot_unowned ecc hl hown, ?_⟩
      generalize hs1 : s.modTile t (fun x => x.modLine u r.cmd.seq l.idx fun _ => none) = s1
      have hr1 : (r.cmd.seq, fcNoSlot) ∉ (s1.tile t).raised := by
        rw [← hs1, State.tile_modTile_same]
        exact hr
      have habort := tileFaultAt_aborts (s1.tile t).cycle r.cmd.addr l.addr (by rw [← hs1]; exact hu) (by rw [← hs1]; exact hrun) htr hr1
      obtain ⟨hstate, hcode, -, -⟩ := habort
      have hmem := (OnlyBreaches.tileFaultAt t (s1.tile t).cycle r.cmd.seq r.cmd.addr fcNoSlot l.addr s1).eq State.mem
        fun _ _ _ _ _ => rfl
      exact ⟨hstate, hcode, hmem.trans (by rw [← hs1]; rfl)⟩
  · intro t mover line cycle s r k u x op p l at_ hl hset hland hred
    have hexec : exec (.moverLineLands t mover line cycle) s = .next (landLine t mover line cycle r p { l with stage := 2 }
      (lineLanded t mover line cycle r { l with stage := 2 } s)) := execMoverLineLands_lands hl hset hland hred
    obtain ⟨us, htile⟩ := lineLanded_tile t mover line cycle r { l with stage := 2 } s
    clear_value p l
    generalize hs1 : lineLanded t mover line cycle r { l with stage := 2 } s = s1 at hexec htile
    have hmem : s1.mem = s.mem := by rw [← hs1]; rfl
    have himg : s1.image = s.image := by rw [← hs1]; rfl
    refine ⟨_, hexec, fun hop hflow hmemOf => ?_, fun hop hflow hmemOf b hb => ?_, fun hop f hflow => ?_, fun hop hasync => ?_,
      ?_, fun v hv => ?_⟩
    · rw [landLine_store hop, MemoryKept, landStore_line (l := { l with stage := 2 }) hflow hmemOf, hmem]
      exact ⟨fun b hb => memRead_memWrites_out _ _ _ _ hb, fun i h => memRead_memWrites_in _ _ _ _ h⟩
    · rw [landLine_store hop, landStore_put (l := { l with stage := 2 }) hflow hmemOf,
        putLine_out (by rw [← hop]; exact hb), hmem]
    · rw [landLine_store hop]
      obtain ⟨hq, hlines, hinputs⟩ := landStore_flow (s := s1) (t := t) (op := 0x31) (r := r) (l := { l with stage := 2 }) hflow
      refine ⟨hq.trans hmem, hlines.trans ?_, hinputs.trans ?_⟩
      · rw [← hs1]; rfl
      · rw [← hs1]; rfl
    · have hallowed : ∀ b ∈ p.dst.banks p.idx p.dstTier (128 * l.idx) l.data.length,
          asyncFault s1 ((l.addr - 0x400_0000_0000) / 0x100_0000) b 7 = none := fun b hb => by
        rw [← hs1, lineLanded_asyncFault]
        exact hasync b hb
      rw [landLine_copy hop, landPeer_allowed (l := { l with stage := 2 }) hallowed]
      refine ⟨fun b hb => ?_, fun hinj e he => ?_⟩
      · rw [putLine_out (by rw [← hop]; exact hb), hmem]
      · rw [show at_ e.1 = movingByte 0x32 p e.1 by rw [← hop]]
        exact putLine_in (by rw [← hop]; exact hinj) (by rw [← hop]; exact he)
    · intro hop r2 ks out dst horder
      have hpast : ∀ w ∈ (s1.tile t).past, w.cycle ≤ cycle := fun w hw => by
        rw [htile] at hw
        exact horder.1 w hw cycle (by simp)
      rw [landLine_load hop]
      refine ⟨fun b hb => ?_, fun hgrant hinj n hn => ?_⟩
      · rw [landLoad_out hpast hb, hmem]
      · refine landLoad_in hpast (fun n hn => ?_) hinj hn
        rw [himg, htile]
        exact hgrant n hn
    · rw [landLine_tile _ _ _ _ _ _ _ _ hv, ← hs1, lineLanded, State.tile_modTile_ne _ _ _ _ hv]
      exact ⟨rfl, rfl⟩

end Sys2Proof.Machine
end

section
/-! SUPPORT. Words of the vector engine (O11): what queues them, and how they continue or end their chain (R188, R189). -/

namespace Sys2Proof.Machine

open Sys2Proof

/-! ### Words and chains -/

/-- A byte string of n bytes is a number below 256^n. -/
theorem leNat_lt (bs : List Byte) : leNat bs < 256 ^ bs.length := by
  induction bs with
  | nil => simp [leNat]
  | cons b bs ih =>
    have hb := b.isLt
    simp only [leNat, List.length_cons, Nat.pow_succ]
    omega

theorem wordAt_lt (im : Tbl Byte) (a : Nat) : wordAt im a < 2 ^ 128 := by
  simpa [wordAt, imemBytes] using leNat_lt (imemBytes im a 16)

/-- The command made of the word at pc holds that word whole. -/
theorem asCmd_word_toNat (x : Tile) : x.asCmd.word.toNat = x.word := by
  exact (BitVec.toNat_ofNat _ _).trans (Nat.mod_eq_of_lt (wordAt_lt x.imem x.pc))

/-- A word is queued for the vector engine and, where it does not end its chain, stands in the open one (R188). -/
theorem Tile.pushVx_eq_queued (x : Tile) : x.pushVx = { x.queued 1 with
    vec := { x.vec with chain := if endsChain (vxOf x.word) then [] else x.vec.chain ++ [x.asCmd] } } := by
  unfold Tile.pushVx
  rw [Tile.push_eq_queued, asCmd_word_toNat]
  rfl

/-- A well-formed VX word of its row, with room in the queue and in the open chain, joins the chain (R188, R189). -/
theorem issueVx_joins {s : State} {t op : Nat} {f : Nat → Bool} (hi : s.issues t op = true)
    (hsel : f (fld (s.tile t).word 8 8) = true) (hf : (s.tile t).full 1 = false) (hlen : (s.tile t).vec.chain.length < 8)
    (hok : vxOk (s.tile t) (s.tile t).word = true) :
    issueVx t op f s = .next (judgeOn t (s.tile t).cycle (s.modTile t Tile.pushVx)) := by
  obtain ⟨hlive, hcan, hpc, -⟩ := issues_iff.1 hi
  have hrow : f (vxOf (s.tile t).word).func = true := hsel
  simp [issueVx, issueWord, event, hlive, hcan, hpc, issues_selects hi, hrow, hlen, hf, hok]

/-- A row whose functions are those between two bounds. -/
theorem issueVx_between (t : Nat) (s : State) (lo hi : Nat) :
    issueVx t 0x58 (fun f => decide (lo ≤ f) && decide (f ≤ hi)) s = issueVx t 0x58 (fun f => decide (lo ≤ f ∧ f ≤ hi)) s :=
  congrArg (fun g => issueVx t 0x58 g s) (funext fun _ => (Bool.decide_and _ _).symm)

/-- Whether a word ends its chain, by its result selector and its function. -/
theorem chain_after (v : Vx) (old new : List Cmd) : (if endsChain v then old else new) =
    (match v.d, v.isKey with
    | .hand _, false => new
    | _, _ => old) := by
  unfold endsChain
  cases v.d <;> cases v.isKey <;> rfl

/-- Settles O11: every row is a word that joins the chain, which its result selector continues or ends. -/
theorem vectorWordsJoinTheirChain : Obligations.VectorWordsJoinTheirChain := by
  unfold Obligations.VectorWordsJoinTheirChain
  intro t s x w joins
  have hrow {op : Nat} {f : Nat → Bool} {c : Instr} (hc : exec c s = issueVx t op f s) : joins op f c :=
    fun hi hsel hf hlen hok => by
      rw [hc, issueVx_joins hi hsel hf hlen hok]
      refine congrArg (fun r => Host.Outcome.next (judgeOn t x.cycle r)) (State.modTile_congr ?_)
      rw [Tile.pushVx_eq_queued, chain_after]
      rfl
  clear_value joins
  exact ⟨hrow rfl, hrow rfl, hrow rfl, hrow rfl, hrow rfl, hrow rfl, hrow rfl, hrow rfl, hrow rfl, hrow rfl, hrow rfl,
    hrow rfl, hrow rfl, hrow rfl, hrow rfl, hrow rfl, hrow rfl, hrow rfl, hrow rfl, hrow rfl, hrow rfl, hrow rfl,
    hrow rfl, hrow rfl, hrow rfl, hrow rfl, hrow rfl, hrow rfl, hrow rfl, hrow rfl, hrow rfl, hrow rfl, hrow rfl,
    hrow (show exec (.vxDrop t) s = _ from issueVx_between t s 0x11 0x17),
    hrow (show exec (.vxKeep t) s = _ from issueVx_between t s 0x21 0x27),
    hrow (show exec (.vxUnif t) s = _ from issueVx_between t s 0x31 0x37),
    hrow rfl, hrow rfl, hrow rfl, hrow rfl, hrow rfl, hrow rfl⟩

end Sys2Proof.Machine
end

section
/-! SUPPORT. The counter logger (O16): what its commands make of the log and of the completion entries (R120 to R124). -/

namespace Sys2Proof.Machine

open Sys2Proof

variable {s : State}

/-! ### The logger's commands -/

theorem onlyTile_modTile (t : Nat) (f : Tile → Tile) (s : State) : OnlyTile t s (s.modTile t f) :=
  ⟨fun u hu => State.tile_modTile_ne _ _ _ u hu, rfl⟩

/-- What a command of the logger that starts makes of its tile, which belongs to a troupe (R120, R122, R123). -/
def Tile.logged (t troupe : Nat) (c : Cmd) (start : Nat) (x : Tile) : Tile :=
  let w := c.word.toNat
  let base : LogRec := { tile := t, troupe := troupe, sceneId := x.sceneId, cycle := c.issue, addr := c.addr, tag := fld w 32 32 }
  if opcodeOf w = 0x72 then { x with clears := x.clears ++ [(start + 4, fld w 8 8, fld w 16 8)] }
  else if opcodeOf w = 0x70 then x.putLog { base with kind := 1, body := x.entryAt (start + 4) (fld w 8 8) }
  else x.putLog { base with kind := 2, value := BitVec.ofNat 64 (fld w 64 64) }

theorem startLogger_eq_modTile (t : Nat) (c : Cmd) (start : Nat) (s : State) :
    startLogger t c start s = s.modTile t (Tile.logged t ((s.image.unitTroupe t).getD 0) c start) := by
  unfold startLogger
  extract_lets w op base
  split
  · next h => exact State.modTile_congr (if_pos h).symm
  · next h =>
    split
    · next h0 => exact State.modTile_congr ((if_pos h0).symm.trans (if_neg h).symm)
    · next h0 => exact State.modTile_congr ((if_neg h0).symm.trans (if_neg h).symm)

/-- A record goes to the write pointer and nowhere else, or is dropped (R124). -/
theorem putLog_keeps (x : Tile) (r : LogRec) : (x.putLog r).adds = x.adds ∧ (x.putLog r).clears = x.clears ∧
    (x.putLog r).units = x.units := by
  unfold Tile.putLog
  split <;> exact ⟨rfl, rfl, rfl⟩

theorem putLog_room {x : Tile} (r : LogRec) (h : (x.logWr + 1) % 1024 ≠ x.logRd) :
    x.putLog r = { x with log := tset x.log x.logWr r, logWr := (x.logWr + 1) % 1024 } := if_neg h

theorem putLog_full {x : Tile} (r : LogRec) (h : (x.logWr + 1) % 1024 = x.logRd) :
    x.putLog r = { x with logDropped := min (x.logDropped + 1) 0xFFFF } := if_pos h

/-- LG.REC and LG.MARK put one record in the log. -/
theorem logged_record {t troupe : Nat} {c : Cmd} (start : Nat) (x : Tile)
    (h : opcodeOf c.word.toNat = 0x70 ∨ opcodeOf c.word.toNat = 0x71) :
    x.logged t troupe c start = x.putLog
      { kind := if opcodeOf c.word.toNat = 0x70 then 1 else 2, tile := t, troupe := troupe, sceneId := x.sceneId
        cycle := c.issue, addr := c.addr, tag := fld c.word.toNat 32 32
        value := if opcodeOf c.word.toNat = 0x70 then 0 else BitVec.ofNat 64 (fld c.word.toNat 64 64)
        body := if opcodeOf c.word.toNat = 0x70 then x.entryAt (start + 4) (fld c.word.toNat 8 8) else {} } := by
  rcases h with h | h <;> simp [Tile.logged, h]

theorem logged_adds (t troupe : Nat) (c : Cmd) (start : Nat) (x : Tile) : (x.logged t troupe c start).adds = x.adds := by
  unfold Tile.logged
  extract_lets w base
  split
  · rfl
  · split
    · exact (putLog_keeps _ _).1
    · exact (putLog_keeps _ _).1

/-- A head that is due starts on its unit (R73). -/
theorem commandStart_due {t : TileId} {unit : TileUnitId} {c : Cmd} (hlive : s.live = true) (hw : (s.tile t).works = true)
    (h1 : unit.val ≠ 1) (hdue : dueHead (s.tile t) unit = some c) : exec (.commandStart t unit) s = .next (startUnit t unit c s) := by
  show execCommandStart t unit s = _
  rw [execCommandStart]
  rw [if_pos ⟨h1, hw⟩, hdue, eventOf_some _ _ _ hlive]

theorem logged_units (t troupe : Nat) (c : Cmd) (start : Nat) (x : Tile) : (x.logged t troupe c start).units = x.units := by
  unfold Tile.logged
  extract_lets w base
  split
  · rfl
  · split
    · exact (putLog_keeps _ _).2.2
    · exact (putLog_keeps _ _).2.2

/-- Two tiles that agree in their completion entries and their log. -/
structure Tile.SameLog (x y : Tile) : Prop where
  adds : y.adds = x.adds
  clears : y.clears = x.clears
  log : y.log = x.log
  logWr : y.logWr = x.logWr
  logDropped : y.logDropped = x.logDropped

/-- What the logger writes does not rest on the queues of its tile. -/
theorem putLog_takeHead (u start free : Nat) (x : Tile) (r : LogRec) : (x.putLog r).SameLog ((x.takeHead u start free).putLog r) := by
  by_cases h : (x.logWr + 1) % 1024 = x.logRd
  · rw [putLog_full r h, putLog_full (x := x.takeHead u start free) r h]
    exact ⟨rfl, rfl, rfl, rfl, rfl⟩
  · rw [putLog_room r h, putLog_room (x := x.takeHead u start free) r h]
    exact ⟨rfl, rfl, rfl, rfl, rfl⟩

theorem logged_takeHead (t troupe : Nat) (c : Cmd) (at_ u start free : Nat) (x : Tile) :
    (x.logged t troupe c at_).SameLog ((x.takeHead u start free).logged t troupe c at_) := by
  unfold Tile.logged
  extract_lets w base base'
  split
  · exact ⟨rfl, rfl, rfl, rfl, rfl⟩
  · split
    · exact putLog_takeHead u start free x _
    · exact putLog_takeHead u start free x _

/-- The logger's head starts on its tile, and finishes. -/
theorem startUnit_logger {t start : Nat} {c : Cmd} (hstart : start = ((s.tile t).unit 7).startOf c)
    (hhead : ((s.tile t).headStart 7).isSome = true) :
    startUnit t 7 c s = finished t 7 c.seq (start + 4) (s.modTile t fun x =>
      (x.takeHead 7 start (start + 1)).logged t ((s.image.unitTroupe t).getD 0) c start) := by
  have hhead' : ((s.tile t).headStart 7).isNone = false := by simpa using hhead
  have hrun : startUnit t 7 c s = finished t 7 c.seq (start + 4)
      (startLogger t c start (s.modTile t fun x => x.takeHead 7 start (start + 1))) := by
    simp [startUnit, hhead', hstart]
  rw [hrun, startLogger_eq_modTile, State.modTile_modTile]
  rfl

/-- The logger's head starts in its turn: its tile is as the command makes it, but for what finishing notes. -/
theorem commandStart_logger {t : TileId} {c : Cmd} {cs : List Cmd} (hlive : s.live = true) (hw : (s.tile t).works = true)
    (hq : ((s.tile t).unit 7).queue = c :: cs) (h5 : ((s.tile t).unit 5).running = [])
    (hset : (s.tile t).settled (((s.tile t).unit 7).startOf c + 4) = true)
    (hup : (s.tile t).caughtUp (((s.tile t).unit 7).startOf c + 4) = true) :
    ∃ r, exec (.commandStart t 7) s = .next r ∧ OnlyTile t s r ∧
      ((s.tile t).logged t ((s.image.unitTroupe t).getD 0) c (((s.tile t).unit 7).startOf c)).SameLog (r.tile t) := by
  have hhead : (s.tile t).headStart 7 = some (((s.tile t).unit 7).startOf c + 4) := by simp [Tile.headStart, hq]
  have hdue : dueHead (s.tile t) (7 : TileUnitId) = some c := by simp [dueHead, hq, hhead, startReady, hset, hup]
  obtain ⟨start, hstart⟩ : ∃ n, n = ((s.tile t).unit 7).startOf c := ⟨_, rfl⟩
  have hrun := startUnit_logger hstart (by rw [hhead]; rfl)
  rw [← hstart]
  generalize hs1 : s.modTile t _ = s1 at hrun
  have htile : s1.tile t = ((s.tile t).takeHead 7 start (start + 1)).logged t ((s.image.unitTroupe t).getD 0) c start := by
    rw [← hs1, State.tile_modTile_same]
  have hidle : ((s1.tile t).unit 5).running = [] := by
    rw [htile, Tile.unit, logged_units]
    exact (congrArg TUnit.running ((Tile.unit_modUnit _ 7 5 _).trans (if_neg (by decide)))).trans h5
  obtain ⟨g, us, l, hfin, hg, -⟩ := finished_quiet 7 c.seq (start + 4) hidle
  refine ⟨s1.modTile t g, ?_, ?_, ?_⟩
  · rw [commandStart_due hlive hw (by decide) hdue, ← hfin]
    exact congrArg _ hrun
  · rw [← hs1, State.modTile_modTile]
    exact onlyTile_modTile ..
  · obtain ⟨ha, hc, hl, hwr, hd⟩ := logged_takeHead t ((s.image.unitTroupe t).getD 0) c start 7 start (start + 1) (s.tile t)
    rw [State.tile_modTile_same, hg, htile]
    exact ⟨ha, hc, hl, hwr, hd⟩

/-! ### Entries after a clear (R122) -/

/-- An entry rests on which of its additions stand. -/
theorem entryAt_congr {x y : Tile} {e c : Nat} (ha : y.adds = x.adds)
    (h : ∀ a ∈ x.adds, a.entry = e → y.stands c a = x.stands c a) : y.entryAt c e = x.entryAt c e := by
  unfold Tile.entryAt
  rw [ha, List.filter_congr (q := fun a => a.entry == e && x.stands c a) fun a m => ?_]
  by_cases he : a.entry = e
  · rw [h a m he]
  · rw [beq_false_of_ne he, Bool.false_and, Bool.false_and]

theorem entryAt_cleared {x : Tile} {e c : Nat} (h : ∀ a ∈ x.adds, a.entry = e → x.stands c a = false) : x.entryAt c e = {} := by
  unfold Tile.entryAt
  rw [List.filter_eq_nil_iff.2 fun a m => by simpa using h a m]
  rfl

/-- One more clear takes the additions of its entries made up to its cycle, and no others. -/
theorem stands_clear_out {x y : Tile} {at_ lo hi : Nat} (h : y.clears = x.clears ++ [(at_, lo, hi)]) (c : Nat) {a : CAdd}
    (ha : ¬ (lo ≤ a.entry ∧ a.entry ≤ hi)) : y.stands c a = x.stands c a := by
  have hout : (decide (lo ≤ a.entry) && decide (a.entry ≤ hi)) = false := by simpa using ha
  simp [Tile.stands, h, Bool.and_assoc, hout]

theorem stands_clear_in {x y : Tile} {at_ lo hi c : Nat} (h : y.clears = x.clears ++ [(at_, lo, hi)]) {a : CAdd}
    (hc : at_ < c) (hcycle : a.cycle ≤ at_) (hlo : lo ≤ a.entry) (hhi : a.entry ≤ hi) : y.stands c a = false := by
  simp [Tile.stands, h, hc, hcycle, hlo, hhi]

/-- LG.CLR notes its range with the cycle of its clear, and leaves the log alone. -/
theorem logged_clear {t troupe : Nat} {c : Cmd} (start : Nat) (x : Tile) (h : opcodeOf c.word.toNat = 0x72) :
    (x.logged t troupe c start).clears = x.clears ++ [(start + 4, fld c.word.toNat 8 8, fld c.word.toNat 16 8)] ∧
    (x.logged t troupe c start).log = x.log ∧ (x.logged t troupe c start).logWr = x.logWr := by
  rw [Tile.logged, if_pos h]
  exact ⟨rfl, rfl, rfl⟩

/-- Settles O16: a record's place and content by the room in the ring; a clear's effect by the additions that stand. -/
theorem loggerRecordsAndClears : Obligations.LoggerRecordsAndClears := by
  unfold Obligations.LoggerRecordsAndClears
  intro t s c cs x w op at_ hlive hw hq h5 hset hup
  obtain ⟨r, hexec, honly, hadds, hclears, hlog, hwr, hdropped⟩ := commandStart_logger hlive hw hq h5 hset hup
  rw [logged_adds] at hadds
  refine ⟨r, hexec, honly, hadds, fun hop hroom => ?_, fun hop hfull => ?_, fun hop => ?_⟩
  · rw [logged_record _ _ hop, putLog_room _ hroom] at hclears hlog hwr hdropped
    refine ⟨hwr, hdropped, hclears, ?_⟩
    rw [hlog]
    exact tget_tset_same _ _ _ _
  · rw [logged_record _ _ hop, putLog_full _ hfull] at hlog hwr hdropped
    exact ⟨hwr, hlog, hdropped⟩
  · obtain ⟨hcl, hlo, hlw⟩ := logged_clear (t := t) (troupe := (s.image.unitTroupe t).getD 0) ((x.unit 7).startOf c) x hop
    rw [hcl] at hclears
    exact ⟨hlog.trans hlo, hwr.trans hlw,
      fun e he => entryAt_congr hadds fun a _ hae => stands_clear_out hclears _ (hae ▸ he),
      fun e hlo hhi hat hall => entryAt_cleared fun a ha hae =>
        stands_clear_in hclears hat (hall a (hadds ▸ ha)) (hae ▸ hlo) (hae ▸ hhi)⟩

end Sys2Proof.Machine
end

section
/-! SUPPORT. Scenes of tiles and of troupes (O27, O28): how a tile's begins and ends (R99, R111), the seals, audit and fences at a scene's boundary (R125, R557 to R561). -/

namespace Sys2Proof.Machine

open Sys2Proof

variable {s : State}

/-! ### Units of a troupe -/

theorem bitsSet_nodup (n p v : Nat) : (bitsSet n p v).Nodup := by
  induction n generalizing p v with
  | zero => exact List.nodup_nil
  | succ n ih =>
    have htail : p ∉ bitsSet n (p + 1) (v / 2) := fun h => by have := (mem_bitsSet ..).1 h; omega
    simp only [bitsSet]
    split
    · exact List.nodup_cons.2 ⟨htail, ih _ _⟩
    · exact ih _ _

/-- No unit is in a mask twice (R42, R44). -/
theorem maskUnits_nodup (tiles engines : Nat) : (maskUnits tiles engines).Nodup :=
  List.nodup_append'.2 ⟨bitsSet_nodup .., bitsSet_nodup .., fun u h k => by
    have := (mem_bitsSet ..).1 h
    have := (mem_bitsSet ..).1 k
    omega⟩

theorem tiles_nodup (i : Image) (tr : Nat) : (i.tiles tr).Nodup := by
  unfold Image.tiles Image.units
  split
  · exact (maskUnits_nodup ..).filter _
  · exact List.nodup_nil

/-- One change for each of several tiles. -/
theorem foldl_modTile (f : Nat → Tile → Tile) {l : List Nat} (hl : l.Nodup) (s : State) :
    ∃ ts, l.foldl (fun s t => s.modTile t (f t)) s = { s with tiles := ts } ∧
      ∀ v, tget {} ts v = if v ∈ l then f v (s.tile v) else s.tile v := by
  induction l generalizing s with
  | nil => exact ⟨s.tiles, rfl, fun v => rfl⟩
  | cons t l ih =>
    obtain ⟨hnot, hl⟩ := List.nodup_cons.1 hl
    obtain ⟨ts, h, hts⟩ := ih hl (s.modTile t (f t))
    refine ⟨ts, h, fun v => ?_⟩
    rw [hts]
    by_cases hv : v = t
    · subst hv
      rw [if_neg hnot, if_pos (by simp), State.tile_modTile_same]
    · rw [State.tile_modTile_ne _ _ _ _ hv]
      simp [hv]

/-! ### TILE_SCENE_START and TILE_SCENE_END (R99, R111) -/

/-- A scene start derives slot 0 and no other (R205). -/
theorem startKeys_derived {ks : Tbl KeySlot} {seed step : Word} {j : Nat} (h1 : 1 ≤ j) (h7 : j ≤ 7) :
    (tget {} (startKeys ks seed step) j).derived = false := by
  interval_cases j <;> rfl

theorem mem_withOne_iff (l : List Nat) (a b : Nat) : b ∈ withOne l a ↔ b ∈ l ∨ b = a := by
  unfold withOne
  split
  · next h => exact ⟨.inl, fun hb => hb.elim id fun e => e ▸ List.contains_iff_mem.1 h⟩
  · simp

/-- A troupe whose scene start has reached one of its tiles. -/
def Troupe.begunOn (x : Troupe) (t : Nat) : Troupe := { x with starting := without x.starting t }

/-- The state after a scene start has reached a tile of a troupe (R99). -/
def tileBegun (t tr : Nat) (s : State) : State :=
  ((s.modTroupe tr (·.begunOn t)).modTile t fun y =>
    y.startScene (s.troupe tr).sceneId (tget 0 (s.troupe tr).entries t) (s.time.span / 2) s.fresh (s.troupe tr).capSeed
      (s.troupe tr).capStep).draw

theorem execTileSceneStart_begins {t : TileId} {tr : Nat} (hlive : s.live = true) (hu : s.image.unitTroupe t = some tr)
    (hstart : t.val ∈ (s.troupe tr).starting) : execTileSceneStart t s = .next (tileBegun t tr s) := by
  have hdue : ((s.image.unitTroupe t).filter fun tr => (s.troupe tr).starting.contains t.val) = some tr := by
    rw [hu]
    exact Option.filter_some_pos (List.contains_iff_mem.2 hstart)
  unfold execTileSceneStart
  rw [hdue, eventOf_some _ _ _ hlive]
  rfl

theorem tileBegun_tile (t tr : Nat) (s : State) : (tileBegun t tr s).tile t =
    (s.tile t).startScene (s.troupe tr).sceneId (tget 0 (s.troupe tr).entries t) (s.time.span / 2) s.fresh (s.troupe tr).capSeed
      (s.troupe tr).capStep := by
  rw [tileBegun, tile_draw, State.tile_modTile_same]
  rfl

theorem tileBegun_others (t tr : Nat) (s : State) : (∀ u, u ≠ t → (tileBegun t tr s).tile u = s.tile u) ∧
    (tileBegun t tr s).troupe tr = (s.troupe tr).begunOn t ∧ ∀ j, j ≠ tr → (tileBegun t tr s).troupe j = s.troupe j := by
  refine ⟨fun u hu => ?_, State.troupe_modTroupe_same s tr (·.begunOn t), fun j => State.troupe_modTroupe_ne s tr (·.begunOn t) j⟩
  rw [tileBegun, tile_draw, State.tile_modTile_ne _ _ _ _ hu]
  rfl

/-- A tile whose scene has ended: its gate holds no round (R111, R154). -/
def Tile.endScene (x : Tile) : Tile :=
  { x with state := tsEnded, endCycle := some (max x.cycle x.lastDone)
           gate := { x.gate with openRound := {}, fired := none, holdSince := none } }

theorem execTileSceneEnd_ends {t : TileId} {tr : Nat} (hlive : s.live = true) (hstate : (s.tile t).state = tsEnding)
    (hquiet : (s.tile t).quiet = true) (hu : s.image.unitTroupe t = some tr) :
    execTileSceneEnd t s = .next (arriveAtEnd tr t (s.modTile t Tile.endScene)) := by
  unfold execTileSceneEnd
  rw [event_of_due _ _ _ hlive (Bool.and_eq_true_iff.2 ⟨beq_iff_eq.2 hstate, hquiet⟩)]
  have hu' : (s.modTile t Tile.endScene).image.unitTroupe t = some tr := hu
  refine congrArg Host.Outcome.next ?_
  show (match (s.modTile t Tile.endScene).image.unitTroupe t with
    | some tr => arriveAtEnd tr t (s.modTile t Tile.endScene)
    | none => s.modTile t Tile.endScene) = _
  rw [hu']

theorem arriveAtEnd_arrived (tr u v : Nat) (s : State) :
    v ∈ ((arriveAtEnd tr u s).troupe tr).arrived ↔ v ∈ (s.troupe tr).arrived ∨ v = u := by
  rw [arriveAtEnd, State.troupe_modTroupe_same]
  exact mem_withOne_iff ..

/-- Settles O27: a start makes its tile as a scene start leaves it; an end notes it at the troupe's end barrier. -/
theorem tileSceneBeginsAndEnds : Obligations.TileSceneBeginsAndEnds := by
  unfold Obligations.TileSceneBeginsAndEnds
  refine ⟨?_, ?_⟩
  · intro t s tr x p hlive hu hstart
    obtain ⟨htiles, htroupe, htroupes⟩ := tileBegun_others t tr s
    refine ⟨_, execTileSceneStart_begins hlive hu hstart, htiles, htroupes, rfl, htroupe, ?_⟩
    rw [tileBegun_tile]
    exact ⟨rfl, rfl, rfl, rfl, rfl, rfl, rfl, rfl, rfl, rfl, rfl, rfl, rfl, rfl, rfl, rfl, rfl, rfl, rfl, fun _ => rfl,
      rfl, rfl, rfl, rfl, fun j => startKeys_derived⟩
  · intro t s tr x hlive hstate hquiet hu
    have htile : (s.modTile t Tile.endScene).tile t = x.endScene := State.tile_modTile_same ..
    refine ⟨_, execTileSceneEnd_ends hlive hstate hquiet hu, fun u hne => State.tile_modTile_ne _ _ _ _ hne,
      fun j hne => State.troupe_modTroupe_ne _ _ _ _ hne, rfl, ?_, ?_, (arriveAtEnd_arrived ..).2 (.inr rfl), fun u hne => ?_⟩
    · show (s.modTile t Tile.endScene).tile t = _
      rw [show (arriveAtEnd tr t (s.modTile t Tile.endScene)).tile t = x.endScene from htile, htile]
      rfl
    · rw [show (arriveAtEnd tr t (s.modTile t Tile.endScene)).tile t = x.endScene from htile]
      rfl
    · rw [arriveAtEnd_arrived]
      simp [hne, State.troupe]

/-! ### Seals (R123, R125) -/

/-- A tile whose counters are sealed. -/
def Tile.sealedFor (x : Tile) (t tr : Nat) (aborted : Bool) : Tile :=
  { x.putLog (sealRec t tr x aborted) with sealed := true }

theorem sealedFor_keeps (x : Tile) (t tr : Nat) (aborted : Bool) : (x.sealedFor t tr aborted).adds = x.adds ∧
    (x.sealedFor t tr aborted).clears = x.clears ∧ (x.sealedFor t tr aborted).tokens = x.tokens := by
  unfold Tile.sealedFor Tile.putLog
  split <;> exact ⟨rfl, rfl, rfl⟩

theorem sealedFor_log {x : Tile} {t tr : Nat} {aborted : Bool} (h : (x.logWr + 1) % 1024 ≠ x.logRd) :
    tget {} (x.sealedFor t tr aborted).log x.logWr = sealRec t tr x aborted := by
  unfold Tile.sealedFor Tile.putLog
  rw [if_neg h]
  exact tget_tset_same ..

/-- Every tile of a troupe is sealed, and nothing else changes. -/
theorem sealTiles (tr : Nat) (aborted : Bool) (s : State) :
    ∃ ts, (s.image.tiles tr).foldl (sealTile tr aborted) s = { s with tiles := ts } ∧
      ∀ v, tget {} ts v = if v ∈ s.image.tiles tr then (s.tile v).sealedFor v tr aborted else s.tile v :=
  foldl_modTile (fun t x => x.sealedFor t tr aborted) (tiles_nodup s.image tr) s

/-! ### The audit (R557 to R559) -/

/-- The audit reads no more of the tiles than their tokens. -/
theorem auditTroupe_congr {ts : Tbl Tile} (h : ∀ v, (tget {} ts v).tokens = (s.tile v).tokens) (tr : Nat) :
    auditTroupe { s with tiles := ts } tr = auditTroupe s tr := by
  have htile (v : Nat) : (({ s with tiles := ts } : State).tile v).tokens = (s.tile v).tokens := h v
  unfold auditTroupe
  simp only [htile]
  rfl

theorem formRecord_fatal_frame (d : Nat) {r : ErrRec} (h : r.severity = sevFatal) (s : State) :
    ∃ e k b, formRecord d r s = { s with err := e, host := k, boot := b } := by
  obtain ⟨t, ⟨e, k, ht⟩, heq⟩ := formRecord_acts s d r
  rw [if_neg (by rw [h]; decide), if_pos h] at heq
  obtain ⟨b, hb⟩ := oweReset_frame t .fatal
  exact ⟨e, k, b, by rw [heq, hb, ht]⟩

/-- The record of one mismatch (R559). -/
def mismatchRec (tr sceneId : Nat) (m : Mismatch) : ErrRec :=
  { cls := 2, severity := sevFatal, code := 1, troupe := tr, sceneId := sceneId, unit := if m.kind = 2 then m.obj / 256 else 0xFF
    info0 := m.kind * 2 ^ 56 + m.obj, info1 := m.want, info2 := m.found }

/-- What a fold keeps, and what one of its steps makes true for good. -/
theorem foldl_owes {α : Type} {f : State → α → State} {P : State → Prop} (hkeep : ∀ s a, P s → P (f s a)) {l : List α} {a : α}
    (ha : a ∈ l) (hset : ∀ s, P (f s a)) (s : State) : P (l.foldl f s) := by
  obtain ⟨l1, l2, rfl⟩ := List.append_of_mem ha
  rw [List.foldl_append, List.foldl_cons]
  exact List.foldlRecOn (motive := P) _ _ (hset _) fun r hr b _ => hkeep r b hr

/-- A failed audit changes the ERR blocks, the interrupt files and the reset that is owed. -/
theorem auditRecords_frame (tr : Nat) (ms : List Mismatch) (s : State) :
    ∃ e k b, auditRecords tr ms s = { s with err := e, host := k, boot := b } := by
  unfold auditRecords
  refine List.foldlRecOn (motive := fun r : State => ∃ e k b, r = { s with err := e, host := k, boot := b }) _ _
    ⟨s.err, s.host, s.boot, rfl⟩ fun r hr d _ => ?_
  refine List.foldlRecOn (motive := fun r : State => ∃ e k b, r = { s with err := e, host := k, boot := b }) _ _ hr
    fun q ⟨e, k, b, hq⟩ m _ => ?_
  obtain ⟨e', k', b', h⟩ := formRecord_fatal_frame d (r := mismatchRec tr (q.troupe tr).sceneId m) rfl q
  exact ⟨e', k', b', by rw [hq] at h ⊢; exact h⟩

theorem auditRecords_nil (tr : Nat) (s : State) : auditRecords tr [] s = s := by simp [auditRecords]

/-- A mismatch on a die of the package owes a reset (R553, R559). -/
theorem auditRecords_owes {tr : Nat} {ms : List Mismatch} {m : Mismatch} (hm : m ∈ ms) (hd : m.die < 9) (s : State) :
    (auditRecords tr ms s).boot.resetDue.isSome = true := by
  have hkeep (d : Nat) (q : State) (ns : List Mismatch) (hq : q.boot.resetDue.isSome = true) :
      (ns.foldl (fun s n => formRecord d (mismatchRec tr (s.troupe tr).sceneId n) s) q).boot.resetDue.isSome = true :=
    List.foldlRecOn (motive := fun r : State => r.boot.resetDue.isSome = true) _ _ hq fun r _ n _ => formRecord_owes r d _ rfl
  have hne : (ms.filter fun n => n.die == m.die).take 16 ≠ [] := by
    rw [Ne, List.take_eq_nil_iff, not_or]
    exact ⟨by decide, List.ne_nil_of_mem (List.mem_filter.2 ⟨hm, by simp⟩)⟩
  obtain ⟨n, hn⟩ := List.exists_mem_of_ne_nil _ hne
  unfold auditRecords
  refine foldl_owes (P := fun r : State => r.boot.resetDue.isSome = true) (fun q d hq => hkeep d q _ hq) (List.mem_range.2 hd)
    (fun q => ?_) s
  exact foldl_owes (P := fun r : State => r.boot.resetDue.isSome = true)
    (f := fun s n => formRecord m.die (mismatchRec tr (s.troupe tr).sceneId n) s) (fun r _ _ => formRecord_owes r m.die _ rfl) hn
    (fun r => formRecord_owes r m.die _ rfl) q

/-- A troupe whose audit is under way. -/
def Troupe.inAudit (x : Troupe) : Troupe := { x with auditing := true }

/-- The state of a troupe whose barrier has completed, before the records of its audit. -/
def auditBegun (tr : Nat) (s : State) : State :=
  ((s.image.tiles tr).foldl (sealTile tr false) s).modTroupe tr Troupe.inAudit

theorem auditBegun_frame (tr : Nat) (s : State) : ∃ ts trs, auditBegun tr s = { s with tiles := ts, troupes := trs } ∧
    (∀ v, tget {} ts v = if v ∈ s.image.tiles tr then (s.tile v).sealedFor v tr false else s.tile v) ∧
    (tget {} trs tr : Troupe).auditing = true := by
  obtain ⟨ts, hseal, hts⟩ := sealTiles tr false s
  unfold auditBegun
  rw [hseal]
  exact ⟨ts, _, rfl, hts, congrArg Troupe.auditing (State.troupe_modTroupe_same { s with tiles := ts } tr Troupe.inAudit)⟩

/-- Where every unit has arrived, the tiles are sealed and the audit is that of the state before (R557, R558). -/
theorem execSceneBoundary_audits {tr : TroupeId} (hlive : s.live = true) (hrun : (s.troupe tr).state = 1)
    (haudit : (s.troupe tr).auditing = false) (hstart : (s.troupe tr).starting = [])
    (hall : ∀ u ∈ arriving s.image tr, u ∈ (s.troupe tr).arrived) :
    execSceneBoundary tr s = .next (auditRecords tr (auditTroupe s tr) (auditBegun tr s)) := by
  obtain ⟨ts, hseal, hts⟩ := sealTiles tr false s
  have hsame : auditTroupe ((s.image.tiles tr).foldl (sealTile tr false) s) tr = auditTroupe s tr := by
    rw [hseal]
    refine auditTroupe_congr (fun v => ?_) tr
    rw [hts]
    split
    · exact (sealedFor_keeps ..).2.2
    · rfl
  unfold execSceneBoundary
  rw [event_of_due _ _ _ hlive (by simpa [hrun, haudit, hstart] using hall)]
  dsimp only
  rw [hsame]
  rfl

/-! ### Fences that settle (R561) -/

theorem settleFence_others {u v : Nat} (hv : v ≠ u) (s : State) : (settleFence u s).fence v = s.fence v := by
  unfold settleFence setFence returnUnit
  split
  · exact State.fence_modFence_ne _ _ _ _ hv
  · extract_lets x s1
    split
    · exact State.fence_modFence_ne _ _ _ _ hv
    · split
      · exact (show (undefineTile u s1).fence v = s1.fence v from rfl).trans (State.fence_modFence_ne _ _ _ _ hv)
      · exact State.fence_modFence_ne _ _ _ _ hv
  · rfl

theorem settleFence_none {u : Nat} (h : (s.fence u).pending = 0) : settleFence u s = s := by
  simp [settleFence, h]

theorem settleFence_fences {u : Nat} (h : (s.fence u).pending = 1) :
    ((settleFence u s).fence u).fenced = true ∧ ((settleFence u s).fence u).pending = 0 := by
  have hset : settleFence u s = setFence u 2 s := by simp [settleFence, h]
  rw [hset, setFence, State.fence_modFence_same]
  exact ⟨rfl, rfl⟩

theorem foldl_settleFence_others {v : Nat} {l : List Nat} (hv : v ∉ l) (s : State) :
    (l.foldl (fun s u => settleFence u s) s).fence v = s.fence v :=
  List.foldlRecOn (motive := fun r : State => r.fence v = s.fence v) _ _ rfl fun r hr u hu =>
    (settleFence_others (fun e => hv (by rw [e]; exact hu)) r).trans hr

/-- A pending fence of a unit stands once the fences of its troupe have settled. -/
theorem foldl_settleFence_fences {v : Nat} {l : List Nat} (hv : v ∈ l) {s : State} (h : (s.fence v).pending = 1) :
    ((l.foldl (fun s u => settleFence u s) s).fence v).fenced = true ∧
    ((l.foldl (fun s u => settleFence u s) s).fence v).pending = 0 := by
  obtain ⟨l1, l2, rfl, hl1⟩ := List.eq_append_cons_of_mem hv
  rw [List.foldl_append, List.foldl_cons]
  have hset := settleFence_fences (u := v) (s := l1.foldl (fun s u => settleFence u s) s)
    (by rw [foldl_settleFence_others hl1]; exact h)
  refine List.foldlRecOn (motive := fun r : State => (r.fence v).fenced = true ∧ (r.fence v).pending = 0) _ _ hset
    fun r hr u _ => ?_
  by_cases huv : v = u
  · subst huv
    rwa [settleFence_none hr.2]
  · rwa [settleFence_others huv]

/-! ### AUDIT_COMPLETE -/

/-- The command that a completion finds is recorded with its status (R420). -/
theorem completeOwner_records {o : Option (Nat × Nat)} {q n status detail : Nat} {c : QCmd} (ho : o = some (q, n))
    (hc : (s.queue q).started.find? (fun c => c.number == n) = some c) :
    ((completeOwner o status detail s).queue q).records = (s.queue q).records ++
      [⟨c.seq, status, c.opcode, c.tag, detail, bitOf c.flags 1 || status != 0, s.time.span⟩] := by
  subst ho
  unfold completeOwner completeQ
  dsimp only
  rw [hc]
  dsimp only
  rw [State.queue_modQueue_same]

/-- A troupe whose audit has passed (R557). -/
def Troupe.passed (x : Troupe) : Troupe := { x with state := 0, auditing := false, arrived := [], owner := none }

theorem execAuditComplete_passes {tr : TroupeId} (hlive : s.live = true) (hrun : (s.troupe tr).state = 1)
    (haudit : (s.troupe tr).auditing = true) (hdue : s.boot.resetDue = none) :
    execAuditComplete tr s = .next (completeOwner (s.troupe tr).owner 0 (s.troupe tr).sceneId
      (settleFences tr (s.modTroupe tr Troupe.passed))) := by
  unfold execAuditComplete
  rw [event_of_due _ _ _ hlive (by simp [hrun, haudit, hdue])]
  rfl

/-- Settles O28: the barrier seals each tile and audits the state it finds; a passed audit settles the fences and completes
the scene's command. -/
theorem boundarySealsAndAuditsBeforeQuiescence : Obligations.BoundarySealsAndAuditsBeforeQuiescence := by
  unfold Obligations.BoundarySealsAndAuditsBeforeQuiescence
  refine ⟨?_, ?_⟩
  · intro tr s x hlive hrun haudit hstart hall
    obtain ⟨ts, trs, hbegun, hts, hauditing⟩ := auditBegun_frame tr s
    obtain ⟨e, k, b, hrec⟩ := auditRecords_frame tr (auditTroupe s tr) (auditBegun tr s)
    have htile (v : Nat) : (auditRecords tr (auditTroupe s tr) (auditBegun tr s)).tile v =
        if v ∈ s.image.tiles tr then (s.tile v).sealedFor v tr false else s.tile v := by
      rw [hrec, hbegun]
      exact hts v
    refine ⟨_, execSceneBoundary_audits hlive hrun haudit hstart hall, ?_, ?_, fun t ht => ?_, fun t ht => ?_, fun hnil => ?_,
      fun ⟨m, hm, hd⟩ => auditRecords_owes hm hd _⟩
    · rw [hrec, hbegun]
      exact hauditing
    · rw [hrec, hbegun]
    · rw [htile, if_pos ht]
      obtain ⟨hadds, hclears, -⟩ := sealedFor_keeps (s.tile t) t tr false
      exact ⟨rfl, hadds, hclears, sealedFor_log⟩
    · rw [htile, if_neg ht]
    · rw [hnil, auditRecords_nil, hbegun]
  · intro tr s x hlive hrun haudit hdue
    obtain ⟨⟨m, k, ts, fs, hf⟩, -, -⟩ := settleFences_keeps tr (s.modTroupe tr Troupe.passed)
    obtain ⟨qs, hq⟩ := completeOwner_frame (s := settleFences tr (s.modTroupe tr Troupe.passed)) x.owner 0 x.sceneId
    refine ⟨_, execAuditComplete_passes hlive hrun haudit hdue, ?_, fun u hu hp => ?_, fun u hu => ?_, fun q n c ho hc => ?_⟩
    · rw [hq, hf]
      exact State.troupe_modTroupe_same s tr Troupe.passed
    · rw [hq]
      exact foldl_settleFence_fences (s := s.modTroupe tr Troupe.passed) hu hp
    · rw [hq]
      exact foldl_settleFence_others (l := s.image.units tr) hu _
    · rw [completeOwner_records ho]
      · rw [hf]
        exact congrArg (fun irq => (s.queue q).records ++ [⟨c.seq, 0, c.opcode, c.tag, x.sceneId, irq, s.time.span⟩])
          (Bool.or_false _)
      · rw [hf]
        exact hc

end Sys2Proof.Machine
end

section
/-! SUPPORT. Products of the matrix arrays (O19): how an MM.ACC starts, and what its completion makes of its bank and of its counts (R115, R134, R135, R143, R164). -/

namespace Sys2Proof.Machine

open Sys2Proof

variable {s : State}

/-! ### Accumulators of a bank (R143) -/

section
variable {α : Type} (d : α)

theorem tget_append (t u : Tbl α) (k : Nat) : tget d (t ++ u) k = if thas t k = true then tget d t k else tget d u k := by
  induction t with
  | nil => rfl
  | cons p t ih =>
    obtain ⟨j, v⟩ := p
    by_cases h : k = j
    · simp [tget, thas, h]
    · have hj : thas ((j, v) :: t) k = thas t k := by simp [thas, Ne.symm h]
      rw [hj, List.cons_append, tget, if_neg h, ih, tget, if_neg h]

/-- An entry outside a table reads as the default. -/
theorem tget_of_not_thas {t : Tbl α} {k : Nat} (h : thas t k = false) : tget d t k = d := by
  induction t with
  | nil => rfl
  | cons p t ih =>
    obtain ⟨j, v⟩ := p
    simp only [thas, List.any_cons, Bool.or_eq_false_iff, beq_eq_false_iff_ne] at h
    rw [tget, if_neg (Ne.symm h.1)]
    exact ih h.2

/-- A table without the entries whose keys fail a test. -/
theorem tget_filter {t : Tbl α} {p : Nat → Bool} {k : Nat} (h : p k = true) : tget d (t.filter fun e => p e.1) k = tget d t k := by
  induction t with
  | nil => rfl
  | cons e t ih =>
    obtain ⟨j, v⟩ := e
    by_cases hj : k = j
    · subst hj
      simp [h, tget]
    · rw [List.filter_cons]
      split <;> simp [tget, hj, ih]

theorem thas_filter {t : Tbl α} {p : Nat → Bool} {k : Nat} (h : p k = false) : thas (t.filter fun e => p e.1) k = false := by
  simp only [thas, List.any_eq_false, beq_iff_eq, List.mem_filter]
  rintro e ⟨-, he⟩ rfl
  rw [h] at he
  exact Bool.noConfusion he

/-- Entries from a base on, one after another. -/
theorem tget_mapIdx (vs : List α) (base i : Nat) (h : i < vs.length) :
    tget d (vs.mapIdx fun i v => (base + i, v)) (base + i) = vs[i] ∧ thas (vs.mapIdx fun i v => (base + i, v)) (base + i) = true := by
  induction vs generalizing base i with
  | nil => simp at h
  | cons v vs ih =>
    cases i with
    | zero => simp [List.mapIdx_cons, tget, thas]
    | succ i =>
      obtain ⟨hget, hhas⟩ := ih (base + 1) i (by simpa using h)
      have hshift : (fun (j : Nat) (v : α) => (base + (j + 1), v)) = fun j v => (base + 1 + j, v) := by
        funext j v
        rw [Nat.add_right_comm, Nat.add_assoc]
      rw [show base + (i + 1) = base + 1 + i by omega]
      rw [List.mapIdx_cons, hshift, tget, if_neg (by omega), hget]
      exact ⟨rfl, Bool.or_eq_true_iff.2 (.inr hhas)⟩

theorem thas_mapIdx_out (vs : List α) (base k : Nat) (h : k < base ∨ base + vs.length ≤ k) :
    thas (vs.mapIdx fun i v => (base + i, v)) k = false := by
  simp only [thas, List.any_eq_false, beq_iff_eq, List.mem_mapIdx]
  rintro e ⟨i, hi, rfl⟩
  simp only
  omega

end

/-- The accumulators of a bank read as they were replaced, and the other bank's as before. -/
theorem tget_setBank {d : W32} {acc : Tbl W32} {bank : Nat} (hb : bank < 2) {vs : List W32} (hlen : vs.length = 16384) (i : Nat) (hi : i < 16384) :
    tget d (setBank acc bank vs) (16384 * bank + i) = vs[i] ∧
    tget d (setBank acc bank vs) (16384 * (1 - bank) + i) = tget d acc (16384 * (1 - bank) + i) := by
  obtain rfl | rfl : bank = 0 ∨ bank = 1 := by omega
  · obtain ⟨hget, hhas⟩ := tget_mapIdx d vs (16384 * 0) i (by omega)
    simp only [setBank, if_true, tget_append]
    refine ⟨by rw [if_pos hhas, hget], ?_⟩
    rw [if_neg (by rw [thas_mapIdx_out _ _ _ (by omega)]; exact Bool.false_ne_true)]
    exact tget_filter d (p := fun k => decide (16384 ≤ k)) (by simp)
  · obtain ⟨hget, hhas⟩ := tget_mapIdx d vs (16384 * 1) i (by omega)
    have hout (k : Nat) (hk : 16384 ≤ k) : thas (acc.filter fun p => decide (p.1 < 16384)) k = false :=
      thas_filter (p := fun k => decide (k < 16384)) (by simpa using hk)
    simp only [setBank, if_neg Nat.one_ne_zero, tget_append]
    refine ⟨by rw [if_neg (by rw [hout _ (by omega)]; exact Bool.false_ne_true), hget], ?_⟩
    rw [tget_filter d (p := fun k => decide (k < 16384)) (by simpa using hi)]
    split
    · rfl
    · next hnot =>
      rw [tget_of_not_thas d (thas_mapIdx_out _ _ _ (by omega)),
        ← tget_filter d (t := acc) (p := fun k => decide (k < 16384)) (by simpa using hi),
        tget_of_not_thas d (Bool.not_eq_true _ ▸ hnot)]

/-! ### MM.ACC starts (R115, R135, R140) -/

/-- The head of the arrays' queue, an MM.ACC whose turn it is. -/
theorem dueHead_acc {x : Tile} {c : Cmd} {cs : List Cmd} (hq : (x.unit 0).queue = c :: cs) (hop : opcodeOf c.word.toNat = 0x40)
    (hfree : arrayBlocked x c = false) (hset : x.settled (accStart x (accOf c.word.toNat) c) = true) :
    x.headStart 0 = some (accStart x (accOf c.word.toNat) c) ∧ dueHead x 0 = some c := by
  have hhead : x.headStart 0 = some (accStart x (accOf c.word.toNat) c) := by simp [Tile.headStart, hq, hfree, hop]
  exact ⟨hhead, by simp [dueHead, hq, hhead, hset, startReady, hop]⟩

/-- The bank accesses of an MM.ACC's feeders: the north operand's, and the west operand's for each of the four arrays, but
where it comes from the gate's rows (R136). -/
def accReads (x : Tile) (a : Acc) (c : Cmd) (start : Nat) : List BankUse :=
  let nd := descAt x.imem a.north
  let n := groupSize nd.format (a.westFmt x nd.format)
  let g := groupsOf a.kCount n
  feedUses nd c.idx (!a.northT) 0 1 c.seq start a.kStart n g ++ (if a.gate then [] else
    (List.range 4).flatMap fun i => feedUses (descAt x.imem a.west) c.idx a.westT (i * 0x8_0000) 0 c.seq start a.kStart n g)

/-- The product that an MM.ACC has under way from its start on, over some groups. -/
def accRun (x : Tile) (a : Acc) (c : Cmd) (start g : Nat) : Run :=
  { cmd := c, start := start, busyTo := start + g - 1, done := start + g + 128
    fill := if a.gate then (x.gate.fired.map GateRound.rows).getD [] else [] }

/-- A tile whose arrays have taken an MM.ACC. -/
def Tile.accTaken (x : Tile) (bank start g : Nat) (r : Run) : Tile :=
  { x.modUnit 0 fun q => { q.started 1 start with running := q.running ++ [r], freeAt := start + g } with
    accDone := tset x.accDone bank r.done }

theorem accTaken_unit (x : Tile) (bank start g : Nat) (r : Run) : (x.accTaken bank start g r).unit 0 =
    { (x.unit 0).started 1 start with running := (x.unit 0).running ++ [r], freeAt := start + g } := by
  simp [Tile.accTaken, Tile.unit, Tile.modUnit]

/-- An MM.ACC that its checks allow and whose accesses are made runs. -/
theorem startAcc_runs {t : Nat} {c : Cmd} {nd : Desc} {n start g : Nat} {a : Acc} (ha : a = accOf c.word.toNat)
    (hnd : nd = descAt (s.tile t).imem a.north) (hn : n = groupSize nd.format (a.westFmt (s.tile t) nd.format))
    (hstart : start = accStart (s.tile t) a c) (hg : g = groupsOf a.kCount n) (h0 : n ≠ 0)
    (hk : kGroupBad a nd.format (a.westFmt (s.tile t) nd.format) n = false) (haddr : accAddrOk t (s.tile t) a c.idx = true)
    (huse : (useBanks t start ((accReads (s.tile t) a c start).map fun u => (u, c.addr)) s).2 = true) :
    startAcc t c s = duty t 0 (start + 1) (start + g + 126) c.seq c.addr
      ((useBanks t start ((accReads (s.tile t) a c start).map fun u => (u, c.addr)) s).1.modTile t
        fun x => x.accTaken a.bank start g (accRun (s.tile t) a c start g)) := by
  subst ha hnd hn hstart hg
  unfold startAcc
  extract_lets x a nd wd wf n start g drop bad west north done r
  have hbad : ¬ bad ≠ [] := by simp [bad, show accAddrOk t x a c.idx = true from haddr, show kGroupBad a nd.format wf n = false from hk]
  rw [if_neg h0, if_neg hbad]
  have hreads : north ++ west = accReads x a c start := rfl
  rw [hreads]
  generalize hp : useBanks t start _ s = p at huse
  obtain ⟨s1, ok⟩ := p
  obtain rfl : ok = true := huse
  rfl

theorem startUnit_array {t : Nat} (c : Cmd) (hhead : ((s.tile t).headStart 0).isSome = true) :
    startUnit t 0 c s = startArray t c s := by
  have hhead' : ((s.tile t).headStart 0).isNone = false := by simpa using hhead
  simp [startUnit, hhead']

/-- What an MM.ACC that starts leaves: its run, its completion and the cycle in which its unit is free. -/
theorem commandStart_acc {t : TileId} {c : Cmd} {cs : List Cmd} {nd : Desc} {n start g : Nat} {a : Acc} (ha : a = accOf c.word.toNat)
    (hnd : nd = descAt (s.tile t).imem a.north) (hn : n = groupSize nd.format (a.westFmt (s.tile t) nd.format))
    (hstart : start = accStart (s.tile t) a c) (hg : g = groupsOf a.kCount n) (hlive : s.live = true) (hw : (s.tile t).works = true)
    (hq : ((s.tile t).unit 0).queue = c :: cs) (hop : opcodeOf c.word.toNat = 0x40) (hfree : arrayBlocked (s.tile t) c = false)
    (hset : (s.tile t).settled start = true) (h0 : n ≠ 0)
    (hk : kGroupBad a nd.format (a.westFmt (s.tile t) nd.format) n = false) (haddr : accAddrOk t (s.tile t) a c.idx = true)
    (huse : (useBanks t start ((accReads (s.tile t) a c start).map fun u => (u, c.addr)) s).2 = true) :
    ∃ q y, exec (.commandStart t 0) s = .next q ∧ OnTile t s q ∧ q.mem = s.mem ∧
      y = (s.tile t).accTaken a.bank start g (accRun (s.tile t) a c start g) ∧
      (q.tile t).acc = y.acc ∧ (q.tile t).accDone = y.accDone ∧ (q.tile t).units = y.units := by
  obtain ⟨hhead, hdue⟩ := dueHead_acc hq hop hfree (by rw [← ha, ← hstart]; exact hset)
  have hrun := startAcc_runs ha hnd hn hstart hg h0 hk haddr huse
  obtain ⟨u, d, k, htile, hmem, -⟩ := useBanks_tile t start ((accReads (s.tile t) a c start).map fun u => (u, c.addr)) s
  have hon := OnTile.useBanks t start ((accReads (s.tile t) a c start).map fun u => (u, c.addr)) s
  generalize useBanks t start ((accReads (s.tile t) a c start).map fun u => (u, c.addr)) s = p at *
  obtain ⟨hon', hmem', aa, va, dr, d', k', htile'⟩ := duty_tile t 0 (start + 1) (start + g + 126) c.seq c.addr
    (p.1.modTile t fun x => x.accTaken a.bank start g (accRun (s.tile t) a c start g))
  refine ⟨_, _, ?_, hon.trans ((OnTile.modTile ..).trans hon'), hmem'.trans hmem, rfl, ?_⟩
  · rw [commandStart_due hlive hw (by decide) hdue]
    exact congrArg _ ((startUnit_array c (by rw [hhead]; rfl)).trans ((if_pos hop).trans hrun))
  · rw [htile', State.tile_modTile_same, htile]
    exact ⟨rfl, rfl, rfl⟩

/-! ### ACCUMULATORS_COMPLETE (R134, R143, R164) -/

/-- The cells of a product's bank after its groups. -/
def productCells (t : Nat) (s : State) (r : Run) : List Cell :=
  (runFeed t s r).cells (s.tile t).accAt (accOf r.cmd.word.toNat).bank ((accOf r.cmd.word.toNat).fresh r.cmd.idx)

/-- A tile whose oldest product, as it stands in a state, has taken its steps; and one that has counted them as well. -/
def Tile.cellsTaken (x : Tile) (t : Nat) (s : State) (r : Run) : Tile :=
  { x.dropRun 0 r.cmd.seq with acc := setBank x.acc (accOf r.cmd.word.toNat).bank ((productCells t s r).map Cell.val) }

def Tile.productTaken (x : Tile) (t : Nat) (s : State) (r : Run) : Tile :=
  let a := accOf r.cmd.word.toNat
  { x.cellsTaken t s r with
    adds := x.adds ++ (if a.count = true ∧ x.sealed = false
      then [⟨a.entry, r.done, 0, r.cmd.addr, (runFeed t s r).counts (productCells t s r)⟩] else []) }

theorem productTaken_unit (x : Tile) (t : Nat) (s : State) (r : Run) (u : Nat) :
    (x.productTaken t s r).unit u = (x.dropRun 0 r.cmd.seq).unit u := rfl

theorem dropRun_adds (x : Tile) (u seq : Nat) : (x.dropRun u seq).adds = x.adds := rfl

theorem productTaken_eq (t : Nat) (s : State) (r : Run) :
    (if (accOf r.cmd.word.toNat).count = true then countInto t (accOf r.cmd.word.toNat).entry r.cmd.addr 0 r.done
        ((runFeed t s r).counts (productCells t s r)) (s.modTile t (·.cellsTaken t s r))
      else s.modTile t (·.cellsTaken t s r)) = s.modTile t (·.productTaken t s r) := by
  split
  · next hcount =>
    rw [countInto, State.modTile_modTile]
    refine State.modTile_congr ?_
    split
    · next hseal => simp [Tile.productTaken, show (s.tile t).sealed = true from hseal, Tile.cellsTaken, dropRun_adds]
    · next hseal => simp [Tile.productTaken, show ¬ (s.tile t).sealed = true from hseal, hcount, Tile.cellsTaken, dropRun_adds]
  · next hcount =>
    refine State.modTile_congr ?_
    simp [Tile.productTaken, hcount, Tile.cellsTaken, dropRun_adds]

/-- The oldest product completes: its cells and counts, and nothing else but what finishing notes. -/
theorem accumulatorsComplete_takes {t : TileId} {r : Run} (hlive : s.live = true) (hrun : (s.tile t).runOf 0 0x40 = some r)
    (hset : (s.tile t).settled r.done = true) (h5 : ((s.tile t).unit 5).running = []) :
    ∃ q us l, exec (.accumulatorsComplete t) s = .next q ∧ OnlyTile t s q ∧
      (tget {} us 0).running = ((s.tile t).unit 0).running.filter (fun y => y.cmd.seq != r.cmd.seq) ∧
      q.tile t = { (s.tile t).productTaken t s r with units := us, lastDone := l } := by
  have hidle : (((s.modTile t (·.productTaken t s r)).tile t).unit 5).running = [] := by
    rw [State.tile_modTile_same, productTaken_unit, Tile.dropRun_unit_ne _ _ (by decide)]
    exact h5
  obtain ⟨f, us, l, hfin, hf, hrunning⟩ := finished_quiet 0 r.cmd.seq r.done hidle
  refine ⟨(s.modTile t (·.productTaken t s r)).modTile t f, us, l, ?_, ?_, ?_, ?_⟩
  · show execAccumulatorsComplete t s = _
    rw [execAccumulatorsComplete, hrun, Option.filter_some, if_pos hset, eventOf_some _ _ _ hlive, ← hfin]
    exact congrArg (fun q => Host.Outcome.next (finished t 0 r.cmd.seq r.done q)) (productTaken_eq t s r)
  · rw [State.modTile_modTile]
    exact onlyTile_modTile ..
  · rw [hrunning, State.tile_modTile_same, productTaken_unit, Tile.dropRun_running]
  · rw [State.tile_modTile_same, hf, State.tile_modTile_same]

theorem productCells_length (t : Nat) (s : State) (r : Run) : (productCells t s r).length = 16384 := by
  rw [productCells, Feed.cells, List.length_map, List.length_range]

theorem productCells_getElem {t : Nat} {r : Run} {i : Nat} (h : i < (productCells t s r).length) :
    (productCells t s r)[i] = (runFeed t s r).cell (if (accOf r.cmd.word.toNat).fresh r.cmd.idx = true then 0
      else (s.tile t).accAt (16384 * (accOf r.cmd.word.toNat).bank + i)) (i / 64) (i % 64) := by
  simp only [productCells, Feed.cells, List.getElem_map, List.getElem_range]

theorem accOf_bank_lt (w : Nat) : (accOf w).bank < 2 := Nat.mod_lt _ (by decide)

/-- Settles O19: an MM.ACC that starts runs; one that completes replaces its bank's accumulators by its cells. -/
theorem accumulateAddsTheProductsInGroupOrder : Obligations.AccumulateAddsTheProductsInGroupOrder := by
  unfold Obligations.AccumulateAddsTheProductsInGroupOrder
  refine ⟨?_, ?_⟩
  · intro t s c cs x a nd wf n start g reads hlive hw hq hop hfree hset h0 hk haddr huse
    obtain ⟨q, y, hexec, hon, hmem, hy, hacc, hdone, hunits⟩ :=
      commandStart_acc rfl rfl rfl rfl rfl hlive hw hq hop hfree hset h0 hk haddr huse
    have hunit : (q.tile t).unit 0 = { (x.unit 0).started 1 start with
        running := (x.unit 0).running ++ [accRun x a c start g], freeAt := start + g } := by
      rw [Tile.unit, hunits, hy]
      exact accTaken_unit ..
    refine ⟨q, accRun x a c start g, hexec, hmem, ?_, ?_, rfl, rfl, rfl, ?_, ?_, hon.2⟩
    · rw [hacc, hy]
      rfl
    · rw [hunit]
    · rw [hdone, hy]
      exact tget_tset_same ..
    · rw [hunit]
  · intro t s r x a f cell hlive hrun hset h5
    obtain ⟨q, us, l, hexec, honly, hrunning, htile⟩ := accumulatorsComplete_takes hlive hrun hset h5
    have hcells : productCells t s r = (List.range 16384).map cell := rfl
    have hlen : ((productCells t s r).map Cell.val).length = 16384 := by rw [List.length_map, productCells_length]
    have hacc (k : Nat) : (q.tile t).accAt k = tget (Config.freeAcc x.accDraw k) (setBank x.acc a.bank ((productCells t s r).map Cell.val)) k := by
      rw [htile]
      rfl
    refine ⟨q, hexec, honly, fun i hi => ?_, fun i hi => ?_, ?_, ?_⟩
    · rw [hacc, (tget_setBank (accOf_bank_lt _) hlen i hi).1, List.getElem_map, productCells_getElem]
    · rw [hacc, (tget_setBank (accOf_bank_lt _) hlen i hi).2]
      rfl
    · rw [htile]
      exact hrunning
    · rw [htile, ← hcells]
      rfl

end Sys2Proof.Machine
end

section
/-! SUPPORT. Queue commands (O51): how a fetched command starts, and what each opcode's start does (R98, R410, R413 to R417, R420, R477, R562). -/

namespace Sys2Proof.Machine

open Sys2Proof

variable {s : State}

/-! ### A command starts (R410, R413) -/

/-- A kick changes messages, requests to memories and the reading of its own queue alone. -/
theorem kickQueue_frame (q : Nat) (s : State) : ∃ c ms qs, kickQueue q s = { s with coh := c, mems := ms, queues := qs } := by
  unfold kickQueue
  extract_lets x a r w
  split
  · split
    · exact ⟨_, _, _, rfl⟩
    · split
      · split
        · exact ⟨s.coh, s.mems, s.queues, rfl⟩
        · obtain ⟨ms, h⟩ := askRange_frame (owFree clsQue) 0 a 256 false (.slot q) s
          exact ⟨s.coh, ms, s.queues, h⟩
      · obtain ⟨c, hc⟩ := ioRequest_frame s clsQue mRdOnce (a / 128) [] []
        obtain ⟨d, hd⟩ := ioRequest_frame r.2 clsQue mRdOnce (a / 128 + 1) [] []
        have hw : w.2 = { s with coh := d } := by rw [show w.2 = _ from hd, show r.2 = _ from hc]
        refine ⟨d, s.mems, (w.2.modQueue q fun x => { x with reading := [r.1, w.1] }).queues, ?_⟩
        rw [hw]
        rfl
  · exact ⟨s.coh, s.mems, s.queues, rfl⟩

/-- Two states of a queue that agree in its commands and its records. -/
structure Queue.SameCmds (x y : Queue) : Prop where
  fetched : y.fetched = x.fetched
  started : y.started = x.started
  records : y.records = x.records

theorem kickQueue_cmds (q : Nat) (s : State) : (s.queue q).SameCmds ((kickQueue q s).queue q) := by
  unfold kickQueue
  extract_lets x a r w
  split
  · split
    · rw [(QueueMoved.stopQueue q qcReadError s).own]
      exact ⟨rfl, rfl, rfl⟩
    · split
      · split
        · exact ⟨rfl, rfl, rfl⟩
        · obtain ⟨ms, h⟩ := askRange_frame (owFree clsQue) 0 a 256 false (.slot q) s
          rw [h]
          exact ⟨rfl, rfl, rfl⟩
      · obtain ⟨c, hc⟩ := ioRequest_frame s clsQue mRdOnce (a / 128) [] []
        obtain ⟨d, hd⟩ := ioRequest_frame r.2 clsQue mRdOnce (a / 128 + 1) [] []
        rw [State.queue_modQueue_same, show w.2 = _ from hd, show r.2 = _ from hc]
        exact ⟨rfl, rfl, rfl⟩
  · exact ⟨rfl, rfl, rfl⟩

/-- A command as it runs, with its number. -/
def Slot.running (c : Slot) (n : Nat) : QCmd := { number := n, opcode := c.opcode, seq := c.seq, flags := c.flags, tag := c.tag }

/-- From s to r a command of queue q has left the fetch slot and runs; besides its queue only messages and requests to
memories have changed. -/
structure CmdBegun (q : Nat) (c : Slot) (s r : State) : Prop where
  frame : ∃ co ms qs, r = { s with coh := co, mems := ms, queues := qs }
  fetched : (r.queue q).fetched = none
  started : (r.queue q).started = (s.queue q).started ++ [c.running (s.queue q).nextCmd]
  records : (r.queue q).records = (s.queue q).records

/-- A queue whose fetched command starts. -/
def Queue.starting (c : Slot) (x : Queue) : Queue :=
  { x with fetched := none, heldCmd := false, nextCmd := x.nextCmd + 1, started := x.started ++ [c.running x.nextCmd] }

theorem startCmd_eq (q : Nat) (c : Slot) (s : State) : startCmd q c s = ((s.queue q).nextCmd, kickQueue q (s.modQueue q (Queue.starting c))) :=
  rfl

theorem startCmd_begins (q : Nat) (c : Slot) (s : State) : CmdBegun q c s (startCmd q c s).2 := by
  obtain ⟨co, ms, qs, hf⟩ := kickQueue_frame q (s.modQueue q (Queue.starting c))
  obtain ⟨hfetched, hstarted, hrecords⟩ := kickQueue_cmds q (s.modQueue q (Queue.starting c))
  rw [State.queue_modQueue_same] at hfetched hstarted hrecords
  rw [startCmd_eq]
  exact ⟨⟨co, ms, qs, hf⟩, hfetched, hstarted, hrecords⟩

/-- A command of queue q that has completed: with its record and no trace among those that run. -/
structure CmdDone (q : Nat) (c : Slot) (status detail : Nat) (s r : State) : Prop where
  mem : r.mem = s.mem
  fetched : (r.queue q).fetched = none
  started : (r.queue q).started = (s.queue q).started
  records : (r.queue q).records = (s.queue q).records ++
    [⟨c.seq, status, c.opcode, c.tag, detail, bitOf c.flags 1 || status != 0, s.time.span⟩]

/-- The numbers of the commands that run are used up (R413). -/
def Queue.numbered (x : Queue) : Prop := ∀ y ∈ x.started, y.number < x.nextCmd

theorem find?_running {x : Queue} (h : x.numbered) (c : Slot) :
    ((x.started ++ [c.running x.nextCmd]).find? fun y => y.number == x.nextCmd) = some (c.running x.nextCmd) := by
  rw [List.find?_append, List.find?_eq_none.2 fun y hy => by simpa using (h y hy).ne]
  simp [Slot.running]

theorem filter_running {x : Queue} (h : x.numbered) (c : Slot) :
    ((x.started ++ [c.running x.nextCmd]).filter fun y => y.number != x.nextCmd) = x.started := by
  rw [List.filter_append, List.filter_eq_self.2 fun y hy => by simpa using (h y hy).ne]
  simp [Slot.running]

/-- What a command's effect at its start may change: neither queues, nor memory, nor the time. -/
def Effect (act : State → State) : Prop := ∀ r, (act r).queues = r.queues ∧ (act r).mem = r.mem ∧ (act r).time = r.time

/-- A command with its status at its start does its effect where the status is OK, besides what a start does. -/
theorem oneShot_frame (q : Nat) (c : Slot) (status detail : Nat) (act : State → State) (s : State) :
    ∃ co ms q1 qs, oneShot q c status detail act s =
      { (if status = stOk then act { s with coh := co, mems := ms, queues := q1 } else { s with coh := co, mems := ms, queues := q1 }) with
        queues := qs } := by
  obtain ⟨co, ms, q1, hf⟩ := (startCmd_begins q c s).frame
  obtain ⟨qs, hc⟩ := completeQ_frame (if status = stOk then act (startCmd q c s).2 else (startCmd q c s).2) q (startCmd q c s).1 status detail
  refine ⟨co, ms, q1, qs, ?_⟩
  rw [← hf]
  exact hc

/-- A command that has its status at its start completes at once. -/
theorem oneShot_done {q : Nat} {c : Slot} {act : State → State} (status detail : Nat) (h : (s.queue q).numbered)
    (hact : Effect act) : CmdDone q c status detail s (oneShot q c status detail act s) := by
  obtain ⟨⟨co, ms, q1, hf⟩, hfetched, hstarted, hrecords⟩ := startCmd_begins q c s
  unfold oneShot
  dsimp only
  rw [show (startCmd q c s).1 = (s.queue q).nextCmd from rfl]
  generalize hr : (if status = stOk then act (startCmd q c s).2 else (startCmd q c s).2) = r
  obtain ⟨hqueues, hmem, htime⟩ : r.queues = (startCmd q c s).2.queues ∧ r.mem = (startCmd q c s).2.mem ∧
      r.time = (startCmd q c s).2.time := by
    rw [← hr]
    split
    · exact hact _
    · exact ⟨rfl, rfl, rfl⟩
  have hqueue : r.queue q = (startCmd q c s).2.queue q := congrArg (tget ({} : Queue) · q) hqueues
  have hfind : ((r.queue q).started.find? fun y => y.number == (s.queue q).nextCmd) = some (c.running (s.queue q).nextCmd) := by
    rw [hqueue, hstarted]
    exact find?_running h c
  rw [completeQ, hfind]
  refine ⟨?_, ?_, ?_, ?_⟩
  · rw [State.modQueue_mem, hmem, hf]
  · rw [State.queue_modQueue_same, hqueue]
    exact hfetched
  · rw [State.queue_modQueue_same]
    show (r.queue q).started.filter _ = _
    rw [hqueue, hstarted]
    exact filter_running h c
  · rw [State.queue_modQueue_same]
    show (r.queue q).records ++ _ = _
    rw [hqueue, hrecords, htime, hf]
    rfl

/-- A fetched command of a queue that is enabled and not stopped starts where its fence is met and the ring has room. -/
structure MayStart (q : Nat) (c : Slot) (s : State) : Prop where
  live : s.live = true
  enabled : (s.queue q).enable = true
  runs : (s.queue q).state ≠ 3
  room : (s.queue q).ringFull = false
  fetched : (s.queue q).fetched = some c
  fence : bitOf c.flags 0 = true → (s.queue q).started = []
  numbered : (s.queue q).numbered

theorem MayStart.startable {q : Nat} {c : Slot} (h : MayStart q c s) {p : Nat → Bool} (hp : p c.opcode = true) :
    Machine.startable s q p = some c := by
  have hfence : (!bitOf c.flags 0 || (s.queue q).started.isEmpty) = true := by
    cases hb : bitOf c.flags 0
    · rfl
    · rw [h.fence hb]
      rfl
  simp [Machine.startable, h.enabled, h.runs, h.room, h.fetched, hp, hfence, qsStopped]

theorem Effect.none : Effect fun r => r := fun _ => ⟨rfl, rfl, rfl⟩

theorem Effect.sendSignal (unit ch k sent addr : Nat) : Effect (Machine.sendSignal unit ch k sent addr) := fun _ => ⟨rfl, rfl, rfl⟩

/-- A command that has no effect on its own, whatever its status. -/
theorem oneShot_bare (q : Nat) (c : Slot) (status detail : Nat) (s : State) :
    ∃ co ms qs, oneShot q c status detail (fun r => r) s = { s with coh := co, mems := ms, queues := qs } := by
  obtain ⟨co, ms, q1, qs, h⟩ := oneShot_frame q c status detail (fun r => r) s
  refine ⟨co, ms, qs, ?_⟩
  rw [h, ite_self]

/-- A command with a status other than OK has no effect (R415). -/
theorem oneShot_refused {q : Nat} {c : Slot} {status : Nat} (detail : Nat) (act : State → State) (s : State) (h : status ≠ stOk) :
    oneShot q c status detail act s = oneShot q c status detail (fun r => r) s := by
  rw [oneShot, oneShot, if_neg h, if_neg h]

/-! ### NOP, SIGNAL and INLINE_WRITE to a bad address (R414, R415) -/

theorem qNop_done {q : QueueId} {c : Slot} (h : MayStart q c s) (hop : c.opcode = 1) (hok : c.headerOk 0 0 = true) (h0 : c.arg0 = 0)
    (h1 : c.arg1 = 0) : exec (.qNop q) s = .next (oneShot q c stOk 0 (fun r => r) s) := by
  show execQNop q s = _
  rw [execQNop, h.startable (by simp [hop]), eventOf_some _ _ _ h.live]
  simp [hop, hok, h0, h1]

theorem qNop_unknown {q : QueueId} {c : Slot} (h : MayStart q c s) (hop : opcodeKnown c.opcode = false) :
    exec (.qNop q) s = .next (oneShot q c stEncoding 0 (fun r => r) s) := by
  have hne : (c.opcode == 1) = false := beq_false_of_ne fun h1 => by rw [h1] at hop; exact Bool.noConfusion hop
  show execQNop q s = _
  rw [execQNop, h.startable (by simp [hop]), eventOf_some _ _ _ h.live]
  simp [hne]

theorem qInlineWrite_eq {q : QueueId} {c : Slot} (h : MayStart q c s) (hop : c.opcode = 2) (hok : c.headerOk 1 224 = true)
    (h1 : c.arg1 = 0) : exec (.qInlineWrite q) s = .next (if inTier c.arg0 c.payloadLen = false then oneShot q c stAddress 0 (fun r => r) s
      else (ioWrite clsQue c.arg0 c.payload (startCmd q c s).2).2.modQueue q fun x => { x with
        started := x.started.map fun y => if y.number = (s.queue q).nextCmd then
          { y with txns := (ioWrite clsQue c.arg0 c.payload (startCmd q c s).2).1 } else y }) := by
  show execQInlineWrite q s = _
  rw [execQInlineWrite, h.startable (by simp [hop]), eventOf_some _ _ _ h.live]
  simp only [hok, h1, Bool.not_true, Bool.false_or, Bool.not_eq_true']
  rfl

theorem qSignal_eq {q : QueueId} {c : Slot} (h : MayStart q c s) (hop : c.opcode = 5) (hok : c.headerOk 0 0 = true)
    (h0 : c.arg0 < 2 ^ 14) (h1 : c.arg1 < 2 ^ 32) (hk : c.arg1 ≠ 0) :
    exec (.qSignal q) s = .next (oneShot q c (if (s.image.tokenTroupe c.arg0).any (mayName s q) then stOk else stRange) 0
      (sendSignal 0xFF c.arg0 c.arg1 0 0) s) := by
  show execQSignal q s = _
  rw [execQSignal, h.startable (by simp [hop]), eventOf_some _ _ _ h.live]
  simp only [Nat.mod_eq_of_lt h0, Nat.mod_eq_of_lt h1, hok, bne_self_eq_false, Bool.not_true, Bool.or_self,
    beq_eq_false_iff_ne.2 hk, Bool.false_eq_true, if_false]

/-! ### SCENE_LOAD (R98, R415, R416) -/

theorem loadSegment_effect (a : Nat) (g : Segment) : Effect (loadSegment a g) := fun r => by
  unfold loadSegment
  dsimp only
  split
  · exact ⟨rfl, rfl, rfl⟩
  split
  · exact ⟨rfl, rfl, rfl⟩
  split
  · exact ⟨rfl, rfl, rfl⟩
  split <;> exact ⟨rfl, rfl, rfl⟩

/-- The segments of an image are written one after another. -/
theorem Effect.foldl {α : Type} {f : α → State → State} (h : ∀ x, Effect (f x)) (l : List α) : Effect fun r => l.foldl (fun r x => f x r) r :=
  fun r => List.foldlRecOn (motive := fun w : State => w.queues = r.queues ∧ w.mem = r.mem ∧ w.time = r.time) l _ ⟨rfl, rfl, rfl⟩
    fun w ⟨hqueues, hmem, htime⟩ x _ => by
      obtain ⟨hq, hm, ht⟩ := h x w
      exact ⟨hq.trans hqueues, hm.trans hmem, ht.trans htime⟩

theorem memReads_getElem (m : List Host.Cell) (a n i : Nat) (h : i < (memReads m a n).length) : (memReads m a n)[i] = memRead m (a + i) := by
  induction n generalizing a i with
  | zero => simp at h
  | succ n ih =>
    cases i with
    | zero => rfl
    | succ i =>
      rw [show a + (i + 1) = a + 1 + i by omega]
      exact ih (a + 1) i (by simpa [memReads] using h)

theorem tget_append_left {α : Type} (d : α) {t u : Tbl α} {k : Nat} (h : thas u k = false) : tget d (t ++ u) k = tget d t k := by
  rw [tget_append]
  split
  · rfl
  · next ht => rw [tget_of_not_thas d h, tget_of_not_thas d (Bool.eq_false_iff.2 ht)]

theorem tget_append_right {α : Type} (d : α) {t u : Tbl α} {k : Nat} (h : thas t k = false) : tget d (t ++ u) k = tget d u k := by
  rw [tget_append, h]
  rfl

theorem thas_append {α : Type} (t u : Tbl α) (k : Nat) : thas (t ++ u) k = (thas t k || thas u k) := List.any_append

/-- Bytes put into a table read back inside their range, and leave the others. -/
theorem tget_tload (t : Tbl Byte) (base : Nat) (bs : List Byte) (a : Nat) :
    tget 0 (tload t base bs) a = if base ≤ a ∧ a < base + bs.length then bs.getD (a - base) 0 else tget 0 t a := by
  let below := fun k => decide (k < base)
  let above := fun k => decide (base + bs.length ≤ k)
  have hload : tload t base bs = (t.filter fun e => below e.1) ++ bs.mapIdx (fun i v => (base + i, v)) ++ t.filter fun e => above e.1 := by
    rw [List.mapIdx_eq_zipIdx_map]
    rfl
  have hbelow (h : ¬ a < base) : thas (t.filter fun e => below e.1) a = false := thas_filter (p := below) (decide_eq_false h)
  have habove (h : ¬ base + bs.length ≤ a) : thas (t.filter fun e => above e.1) a = false := thas_filter (p := above) (decide_eq_false h)
  rw [hload]
  rcases Nat.lt_or_ge a base with hlt | hge
  · rw [if_neg (by omega), tget_append_left 0 (habove (by omega)), tget_append_left 0 (thas_mapIdx_out bs base a (.inl hlt))]
    exact tget_filter 0 (p := below) (decide_eq_true hlt)
  rcases Nat.lt_or_ge a (base + bs.length) with hin | hout
  · obtain ⟨hget, -⟩ := tget_mapIdx (0 : Byte) bs base (a - base) (by omega)
    rw [Nat.add_sub_cancel' hge] at hget
    rw [if_pos ⟨hge, hin⟩, tget_append_left 0 (habove (by omega)), tget_append_right 0 (hbelow (by omega)), hget,
      List.getD_eq_getElem]
  · rw [if_neg (by omega), List.append_assoc, tget_append_right 0 (hbelow (by omega)),
      tget_append_right 0 (thas_mapIdx_out bs base a (.inr hout))]
    exact tget_filter 0 (p := above) (decide_eq_true hout)

/-- A segment of a tile is written into its instruction memory, and into nothing else. -/
theorem loadSegment_tile (a : Nat) (g : Segment) (r : State) (h : g.unit < 48) :
    (∀ t, t ≠ g.unit → (loadSegment a g r).tile t = r.tile t) ∧ ∀ k, tget 0 ((loadSegment a g r).tile g.unit).imem k =
      let o := g.target * 0x4_0000 + g.dst
      if o ≤ k ∧ k < o + g.bytes then memRead r.mem (a + g.src + (k - o)) else tget 0 (r.tile g.unit).imem k := by
  let f := fun x : Tile => { x with imem := tload x.imem (g.target * 0x4_0000 + g.dst) (r.bytes (a + g.src) g.bytes) }
  have hload : loadSegment a g r = r.modTile g.unit f := if_pos h
  rw [hload]
  refine ⟨fun t ht => State.tile_modTile_ne _ _ _ _ ht, fun k => ?_⟩
  rw [State.tile_modTile_same]
  refine (tget_tload ..).trans ?_
  rw [State.bytes, memReads_length]
  refine ite_congr rfl (fun hk => ?_) fun _ => rfl
  rw [List.getD_eq_getElem _ _ (by rw [memReads_length]; omega), memReads_getElem]

/-- A SCENE_LOAD that passes every check but those on its image (R415, R416). -/
structure LoadNamed (q : Nat) (c : Slot) (s : State) : Prop where
  opcode : c.opcode = 3
  header : c.headerOk 0 0 = true
  addr : c.arg0 < 2 ^ 48
  troupe : c.arg1 < 16
  names : mayName s q c.arg1 = true
  line : c.arg0 % 128 = 0
  tier : inTier c.arg0 64 = true

theorem qSceneLoad_badImage {q : QueueId} {c : Slot} (h : MayStart q c s) (hc : LoadNamed q c s)
    (himg : sceneImage s c.arg0 c.arg1 = none) : exec (.qSceneLoad q) s = .next (oneShot q c stBadImage 0 (fun r => r) s) := by
  obtain ⟨hop, hok, h0, h1, hname, hline, htier⟩ := hc
  show execQSceneLoad q s = _
  rw [execQSceneLoad, h.startable (by simp [hop]), eventOf_some _ _ _ h.live]
  simp only [Nat.mod_eq_of_lt h0, Nat.mod_eq_of_lt h1, hok, hname, hline, htier, himg, bne_self_eq_false, Bool.not_true, Bool.or_self,
    Bool.false_eq_true, if_false]

theorem qSceneLoad_image {q : QueueId} {c : Slot} {gs : List Segment} (h : MayStart q c s) (hc : LoadNamed q c s)
    (himg : sceneImage s c.arg0 c.arg1 = some gs) : exec (.qSceneLoad q) s = .next
      (oneShot q c (if !quiescentTroupe s c.arg1 || gs.any (fun g => (s.fence g.unit).fenced) then stNotQuiescent else stOk) 0
        (fun r => gs.foldl (fun r g => loadSegment c.arg0 g r) r) s) := by
  obtain ⟨hop, hok, h0, h1, hname, hline, htier⟩ := hc
  show execQSceneLoad q s = _
  rw [execQSceneLoad, h.startable (by simp [hop]), eventOf_some _ _ _ h.live]
  simp only [Nat.mod_eq_of_lt h0, Nat.mod_eq_of_lt h1, hok, hname, hline, htier, himg, bne_self_eq_false, Bool.not_true, Bool.or_self,
    Bool.false_eq_true, if_false]

/-- SCENE_LOAD of one passing segment for a tile (R98, R416). -/
theorem oneShot_loads {q : Nat} {c : Slot} (g : Segment) (hg : g.unit < 48) :
    let r := oneShot q c stOk 0 (fun s => [g].foldl (fun s g => loadSegment c.arg0 g s) s) s
    (∀ t, t ≠ g.unit → r.tile t = s.tile t) ∧ ∀ a, tget 0 (r.tile g.unit).imem a =
      let o := g.target * 0x4_0000 + g.dst
      if o ≤ a ∧ a < o + g.bytes then memRead s.mem (c.arg0 + g.src + (a - o)) else tget 0 (s.tile g.unit).imem a := by
  obtain ⟨co, ms, q1, qs, hr⟩ := oneShot_frame q c stOk 0 (fun s => [g].foldl (fun s g => loadSegment c.arg0 g s) s) s
  rw [if_pos rfl] at hr
  obtain ⟨hother, himem⟩ := loadSegment_tile c.arg0 g { s with coh := co, mems := ms, queues := q1 } hg
  exact ⟨fun t ht => (congrArg (State.tile · t) hr).trans (hother t ht),
    fun a => (congrArg (fun r : State => tget 0 (r.tile g.unit).imem a) hr).trans (himem a)⟩

/-! ### Commands that run on (R413) -/

/-- A command of queue q that has left the fetch slot and runs on; no memory has changed. -/
structure CmdRuns (q : Nat) (c : Slot) (s r : State) : Prop where
  mem : r.mem = s.mem
  fetched : (r.queue q).fetched = none
  records : (r.queue q).records = (s.queue q).records
  started : ∃ y, (r.queue q).started = (s.queue q).started ++ [y] ∧ y.number = (s.queue q).nextCmd ∧ y.opcode = c.opcode ∧
    y.seq = c.seq ∧ y.tag = c.tag

/-- A command whose start has done its effect runs on. -/
theorem CmdBegun.runs {q : Nat} {c : Slot} {r t : State} (h : CmdBegun q c s r) (hqueues : t.queues = r.queues) (hmem : t.mem = r.mem) :
    CmdRuns q c s t := by
  obtain ⟨⟨co, ms, qs, hr⟩, hfetched, hstarted, hrecords⟩ := h
  have hqueue : t.queue q = r.queue q := congrArg (tget ({} : Queue) · q) hqueues
  refine ⟨by rw [hmem, hr], by rw [hqueue, hfetched], by rw [hqueue, hrecords], c.running (s.queue q).nextCmd, ?_, rfl, rfl, rfl, rfl⟩
  rw [hqueue, hstarted]

/-! ### Free jobs (R477) -/

theorem qDat_submits {q : QueueId} {c : Slot} {i : Instr} {base op : Nat} (h : MayStart q c s) (hop : c.opcode = op)
    (hi : (i, base, op) ∈ [(Instr.qDecomp q, 8, 0x10), (Instr.qGather q, 4, 0x11), (Instr.qScatter q, 4, 0x12), (Instr.qLayout q, 0, 0x13)]) :
    exec i s = .next (submitDat q base c s) := by
  have hstart (n : Nat) (hn : op = n) : startable s q (· == n) = some c := h.startable (by rw [hop, hn]; exact beq_self_eq_true n)
  simp only [List.mem_cons, Prod.mk.injEq, List.not_mem_nil, or_false] at hi
  obtain ⟨rfl, rfl, hn⟩ | ⟨rfl, rfl, hn⟩ | ⟨rfl, rfl, hn⟩ | ⟨rfl, rfl, hn⟩ := hi
  · show execQDecomp q s = _
    rw [execQDecomp, hstart _ hn, eventOf_some _ _ _ h.live]
  · show execQGather q s = _
    rw [execQGather, hstart _ hn, eventOf_some _ _ _ h.live]
  · show execQScatter q s = _
    rw [execQScatter, hstart _ hn, eventOf_some _ _ _ h.live]
  · show execQLayout q s = _
    rw [execQLayout, hstart _ hn, eventOf_some _ _ _ h.live]

/-- A free job joins its engine's list, and no other. -/
theorem submitDat_lists {q : Nat} (base : Nat) {c : Slot} (h : datStatus s c = 0) :
    let e := base + c.arg0 % 4
    CmdRuns q c s (submitDat q base c s) ∧ ((submitDat q base c s).dat e).queue = (s.dat e).queue ++
      [⟨c.payload, q, (s.queue q).nextCmd, datScheduled s e, false⟩] ∧ ∀ k, k ≠ e → (submitDat q base c s).dat k = s.dat k := by
  intro e
  have hstart := startCmd_begins q c s
  obtain ⟨co, ms, qs, hr⟩ := hstart.frame
  let job : DatJob := ⟨c.payload, q, (s.queue q).nextCmd, datScheduled s e, false⟩
  let f := fun x : DatEngine => { x with queue := x.queue ++ [job] }
  have hsubmit : submitDat q base c s = (startCmd q c s).2.modDat e f := if_neg (not_not_intro h)
  rw [hsubmit]
  refine ⟨hstart.runs rfl rfl, ?_, fun k hk => ?_⟩
  · rw [State.dat_modDat_same, hr]
    rfl
  · rw [State.dat_modDat_ne _ _ _ _ hk, hr]
    rfl

theorem submitDat_refused {q : Nat} (base : Nat) {c : Slot} (h : datStatus s c ≠ 0) :
    submitDat q base c s = oneShot q c (datStatus s c) 0 (fun r => r) s := if_pos h

/-! ### SCENE_START (R299, R417, R562) -/

/-- Two states that agree in memory, queues, tiles and troupes. -/
structure SameScene (s r : State) : Prop where
  mem : r.mem = s.mem
  queues : r.queues = s.queues
  tiles : r.tiles = s.tiles
  troupes : r.troupes = s.troupes

theorem SameScene.refl (s : State) : SameScene s s := ⟨rfl, rfl, rfl, rfl⟩

theorem SameScene.trans {r t : State} (h : SameScene s r) (k : SameScene r t) : SameScene s t :=
  ⟨k.mem.trans h.mem, k.queues.trans h.queues, k.tiles.trans h.tiles, k.troupes.trans h.troupes⟩

theorem SameScene.foldl {α : Type} {f : State → α → State} (h : ∀ r x, SameScene r (f r x)) (l : List α) (s : State) :
    SameScene s (l.foldl f s) :=
  List.foldlRecOn (motive := SameScene s) l _ (.refl s) fun r hr x _ => hr.trans (h r x)

theorem startEngine_scene (tr u entry : Nat) (r : State) : SameScene r (startEngine tr u entry r) := by
  unfold startEngine
  split
  · exact .refl r
  split
  · exact ⟨rfl, rfl, rfl, rfl⟩
  split
  · exact ⟨rfl, rfl, rfl, rfl⟩
  split <;> exact ⟨rfl, rfl, rfl, rfl⟩

/-- Two troupes with the same settings that a scene start captures (R96). -/
structure Troupe.SameSettings (x y : Troupe) : Prop where
  waitLimit : y.waitLimit = x.waitLimit
  seed : y.seed = x.seed
  rngStep : y.rngStep = x.rngStep
  normCeil : y.normCeil = x.normCeil

/-- From s to r the step of troupe tr has at most been declined. -/
structure StepSettled (tr : Nat) (s r : State) : Prop where
  mem : r.mem = s.mem
  queues : r.queues = s.queues
  tiles : r.tiles = s.tiles
  grots : r.grots = s.grots
  others : ∀ j, j ≠ tr → r.troupe j = s.troupe j
  own : (s.troupe tr).SameSettings (r.troupe tr)

theorem StepSettled.refl (tr : Nat) (s : State) : StepSettled tr s s := ⟨rfl, rfl, rfl, rfl, fun _ _ => rfl, rfl, rfl, rfl, rfl⟩

/-- A troupe whose step is declined at a span time (R311, R317). -/
def Troupe.declined (reason span : Nat) (x : Troupe) : Troupe :=
  { x with
    stepState := 5
    declines := satAdd 16 x.declines 1
    stepDone := true
    decline := { step := x.capStep, norm := x.norm.getD 0xFFFF_FFFF#32, reason := reason, grottos := x.refused,
                 spanTime := span, sceneId := x.sceneId } }

theorem declineStep_settles (tr reason : Nat) (s : State) : StepSettled tr s (declineStep tr reason s) := by
  let f := Troupe.declined reason s.time.span
  obtain ⟨hs, he⟩ := evtSend_frame (s.modTroupe tr f) 2
  have hdecline : declineStep tr reason s = { s.modTroupe tr f with host := hs } := he
  have hown : (declineStep tr reason s).troupe tr = f (s.troupe tr) :=
    (congrArg (State.troupe · tr) hdecline).trans (State.troupe_modTroupe_same s tr f)
  refine ⟨by rw [hdecline]; rfl, by rw [hdecline]; rfl, by rw [hdecline]; rfl, by rw [hdecline]; rfl, fun j hj => ?_, ?_⟩
  · exact (congrArg (State.troupe · j) hdecline).trans (State.troupe_modTroupe_ne s tr f j hj)
  · rw [hown]
    exact ⟨rfl, rfl, rfl, rfl⟩

theorem stepOutcome_settles (tr : Nat) (s : State) : StepSettled tr s (stepOutcome tr false s) := by
  unfold stepOutcome
  dsimp only
  split
  · exact declineStep_settles ..
  · exact .refl tr s

/-- A troupe as its scene starts. -/
def Troupe.begun (commit : Bool) (sid : Nat) (es : Tbl Nat) (owner : Nat × Nat) (x : Troupe) : Troupe :=
  let x := { x with
    state := 1, sceneId := sid, faulted := false, entries := es, starting := (es.map Prod.fst).filter fun u => decide (u < 48)
    arrived := [], noticed := [], auditing := false, owner := some owner, commitScene := commit
    capLimit := x.waitLimit, capSeed := x.seed, capStep := x.rngStep, capCeil := x.normCeil }
  if commit then { x with stepState := 1, stepDone := false, norm := none, refused := 0, stepCause := 0 } else x

/-- A scene start settles the step before it, begins its troupe, and then starts engines and resets flows alone. -/
theorem beginScene_settles (tr sid : Nat) (es : Tbl Nat) (owner : Nat × Nat) (s : State) :
    ∃ w, StepSettled tr s w ∧ SameScene (w.modTroupe tr (Troupe.begun (isCommitScene s es) sid es owner)) (beginScene tr sid es owner s) := by
  refine ⟨if (s.troupe tr).stepState = 6 then s else stepOutcome tr false s, ?_, ?_⟩
  · split
    · exact .refl tr s
    · exact stepOutcome_settles tr s
  · unfold beginScene
    dsimp only
    refine SameScene.trans (SameScene.foldl (fun r p => startEngine_scene tr p.1 p.2 r) es _) (SameScene.foldl ?_ _ _)
    exact fun r f => ⟨rfl, rfl, rfl, rfl⟩

/-- What a SCENE_START leaves in its troupe, from the settings it had (R96, R99, R299). -/
structure Troupe.Begins (commit : Bool) (sid : Nat) (es : Tbl Nat) (owner : Nat × Nat) (x y : Troupe) : Prop where
  state : y.state = 1
  sceneId : y.sceneId = sid
  entries : y.entries = es
  owner : y.owner = some owner
  starting : y.starting = (es.map Prod.fst).filter fun u => decide (u < 48)
  capLimit : y.capLimit = x.waitLimit
  capSeed : y.capSeed = x.seed
  capStep : y.capStep = x.rngStep
  capCeil : y.capCeil = x.normCeil
  commitScene : y.commitScene = commit

theorem Troupe.begun_begins (commit : Bool) (sid : Nat) (es : Tbl Nat) (owner : Nat × Nat) {x y : Troupe} (h : x.SameSettings y) :
    Troupe.Begins commit sid es owner x (y.begun commit sid es owner) := by
  obtain ⟨hlimit, hseed, hstep, hceil⟩ := h
  unfold Troupe.begun
  dsimp only
  split
  · exact ⟨rfl, rfl, rfl, rfl, rfl, hlimit, hseed, hstep, hceil, rfl⟩
  · exact ⟨rfl, rfl, rfl, rfl, rfl, hlimit, hseed, hstep, hceil, rfl⟩

/-- The tiles that a scene starts are those of its troupe. -/
theorem sceneEntries_units (s : State) (tr : Nat) (c : Slot) : (sceneEntries s tr c).map Prod.fst = s.image.units tr := by
  rw [sceneEntries, List.map_map]
  exact List.zipIdx_map_fst 0 _

theorem sceneStart_exec {q : QueueId} {c : Slot} (h : MayStart q c s) (hop : c.opcode = 4) :
    exec (if (s.queue q).heldCmd = true then Instr.heldSceneStart q else Instr.qSceneStart q) s = .next (sceneStart q c s) := by
  have hstart : startable s q (· == 4) = some c := h.startable (by rw [hop]; rfl)
  split
  · next hheld =>
    show execHeldSceneStart q s = _
    rw [execHeldSceneStart, if_pos hheld, hstart, eventOf_some _ _ _ h.live]
  · next hheld =>
    show execQSceneStart q s = _
    rw [execQSceneStart, if_neg hheld, hstart, eventOf_some _ _ _ h.live]

theorem sceneStart_held {q : Nat} {c : Slot} (h : sceneStatus s q c = 0)
    (hheld : sceneHeld s (c.arg0 % 16) (isCommitScene s (sceneEntries s (c.arg0 % 16) c)) = true) :
    sceneStart q c s = s.modQueue q fun x => { x with heldCmd := true } :=
  (if_neg (not_not_intro h)).trans (if_pos hheld)

theorem sceneStart_takes {q : Nat} {c : Slot} (h : sceneStatus s q c = 0)
    (hheld : sceneHeld s (c.arg0 % 16) (isCommitScene s (sceneEntries s (c.arg0 % 16) c)) = false) :
    sceneStart q c s = takeScene q c s :=
  (if_neg (not_not_intro h)).trans (if_neg (Bool.eq_false_iff.1 hheld))

theorem takeScene_fenced {q : Nat} {c : Slot} (h : ∃ u ∈ s.image.units (c.arg0 % 16), (s.fence u).fenced = true) :
    takeScene q c s = oneShot q c stFenced (c.arg0 / 2 ^ 32) (fun r => r) s := if_pos (List.any_eq_true.2 h)

theorem takeScene_begins {q : Nat} {c : Slot} (h : ∀ u ∈ s.image.units (c.arg0 % 16), (s.fence u).fenced = false) :
    let tr := c.arg0 % 16
    let es := sceneEntries s tr c
    CmdRuns q c s (takeScene q c s) ∧ (∀ j, j ≠ tr → (takeScene q c s).troupe j = s.troupe j) ∧ (takeScene q c s).tiles = s.tiles ∧
      Troupe.Begins (isCommitScene s es) (c.arg0 / 2 ^ 32) es (q, (s.queue q).nextCmd) (s.troupe tr) ((takeScene q c s).troupe tr) := by
  intro tr es
  have hfence : ¬ ((s.image.units tr).any fun u => (s.fence u).fenced) = true := fun hany => by
    obtain ⟨u, hu, hf⟩ := List.any_eq_true.1 hany
    rw [h u hu] at hf
    exact Bool.noConfusion hf
  have htake : takeScene q c s = beginScene tr (c.arg0 / 2 ^ 32) es (q, (s.queue q).nextCmd) (startCmd q c s).2 := if_neg hfence
  have hstart := startCmd_begins q c s
  obtain ⟨co, ms, qs, hr⟩ := hstart.frame
  obtain ⟨w, hw, hsame⟩ := beginScene_settles tr (c.arg0 / 2 ^ 32) es (q, (s.queue q).nextCmd) (startCmd q c s).2
  rw [htake]
  have hcommit : isCommitScene (startCmd q c s).2 es = isCommitScene s es := by rw [hr]; rfl
  have htroupe (j : Nat) : (startCmd q c s).2.troupe j = s.troupe j := by rw [hr]; rfl
  have htroupes (j : Nat) := congrArg (tget ({} : Troupe) · j) hsame.troupes
  refine ⟨hstart.runs (hsame.queues.trans hw.queues) (hsame.mem.trans hw.mem), fun j hj => ?_, ?_, ?_⟩
  · exact (htroupes j).trans ((State.troupe_modTroupe_ne _ _ _ _ hj).trans ((hw.others j hj).trans (htroupe j)))
  · rw [hsame.tiles, State.modTroupe_tiles, hw.tiles, hr]
  · have hown : (beginScene tr (c.arg0 / 2 ^ 32) es (q, (s.queue q).nextCmd) (startCmd q c s).2).troupe tr = _ :=
      (htroupes tr).trans (State.troupe_modTroupe_same w tr _)
    rw [hown, hcommit, ← htroupe tr]
    exact Troupe.begun_begins _ _ _ _ hw.own

/-! ### Agent 12's requests leave or wait (R383, R384) -/

/-- Request k of agent 12 waits for a credit, or has left under some transaction identifier. -/
def Requested (k : Nat) (m : CohMsg) (s : State) : Prop := (k, m) ∈ s.coh.ioWait ∨ ∃ n, { m with txn := n } ∈ s.coh.msgs

theorem Requested.ioSend {k : Nat} {m : CohMsg} (h : Requested k m s) (p : Nat × CohMsg) : Requested k m (Machine.ioSend s p) := by
  unfold Machine.ioSend
  extract_lets a n
  split
  · obtain hwait | ⟨n', hmsg⟩ := h
    · by_cases hp : (k, m) = p
      · subst hp
        exact .inr ⟨_, List.mem_append_right _ (List.mem_singleton_self _)⟩
      · exact .inl ((List.mem_erase_of_ne hp).2 hwait)
    · exact .inr ⟨n', List.mem_append_left _ hmsg⟩
  · exact h

theorem ioRequest_requested (cls op line : Nat) (data : List Byte) (mask : List Bool) (s : State) :
    Requested s.coh.ioNext { op := op, line := line, req := 12, dst := ackHome line, src := 12, data := data, mask := mask, cls := cls }
      (ioRequest cls op line data mask s).2 :=
  List.foldlRecOn (motive := Requested _ _) _ _ (.inl (List.mem_append_right _ (List.mem_singleton_self _))) fun _ h p _ => h.ioSend p

/-- Agent 12's requests outstanding at a home. -/
def ioTaken (h : Nat) (s : State) : Nat := (txnsOut s 12 h).length

/-- A request of agent 12 to a home, and how many of them the home has. -/
def toHome (h : Nat) (m : CohMsg) : Bool := decide (m.op ≤ mWrPart) && m.src == 12 && m.dst == homeAgent h
def Home.ioHeld (x : Home) : Nat := ((x.lineQ ++ x.setQ).countP fun p => p.2.req == 12) + x.txns.countP fun p => !p.2.backInv && p.2.req.req == 12

theorem ioTaken_eq (h : Nat) (s : State) : ioTaken h s = s.coh.msgs.countP (toHome h) + (s.home h).ioHeld := by
  simp only [ioTaken, txnsOut, Home.ioHeld, List.length_append, List.length_map, ← List.countP_eq_length_filter, Nat.add_assoc]
  rfl

theorem ioSend_taken (h : Nat) (s : State) (p : Nat × CohMsg) : ioTaken h (ioSend s p) ≤ ioTaken h s + 1 := by
  unfold ioSend
  dsimp only
  split
  · rw [ioTaken_eq, ioTaken_eq]
    have hone (m : CohMsg) : (s.coh.msgs ++ [m]).countP (toHome h) ≤ s.coh.msgs.countP (toHome h) + 1 := by
      rw [List.countP_append]
      exact Nat.add_le_add_left List.countP_le_length _
    rw [Nat.add_right_comm]
    exact Nat.add_le_add_right (hone _) _
  · exact Nat.le_succ _

theorem foldl_ioSend_taken (h : Nat) (l : List (Nat × CohMsg)) (s : State) : ioTaken h (l.foldl ioSend s) ≤ ioTaken h s + l.length := by
  induction l generalizing s with
  | nil => exact Nat.le_refl _
  | cons p l ih =>
    have hstep := ioSend_taken h s p
    have hrest := ih (ioSend s p)
    rw [List.foldl_cons, List.length_cons]
    omega

/-- A request whose home still has a credit once all that wait before it have one leaves at once (R383, R384). -/
theorem ioRequest_sent {cls op line h : Nat} {data : List Byte} {mask : List Bool} (hh : homeOf line = some h)
    (hroom : ioTaken h s + s.coh.ioWait.length < 64) :
    ∃ n, ({ op := op, line := line, txn := n, req := 12, dst := ackHome line, src := 12, data := data, mask := mask, cls := cls } : CohMsg) ∈
      (ioRequest cls op line data mask s).2.coh.msgs := by
  let m : CohMsg := { op := op, line := line, req := ioAgent, dst := ackHome line, src := ioAgent, data := data, mask := mask, cls := cls }
  let w : State := { s with coh := { s.coh with
    ioNext := s.coh.ioNext + 1, ioOut := s.coh.ioOut ++ [s.coh.ioNext], ioWait := s.coh.ioWait ++ [(s.coh.ioNext, m)] } }
  have hpump : (ioRequest cls op line data mask s).2 = ioSend (s.coh.ioWait.foldl ioSend w) (s.coh.ioNext, m) :=
    List.foldl_append (f := ioSend) (b := w) (l := s.coh.ioWait) (l' := [(s.coh.ioNext, m)])
  have hdst : m.dst - 16 = h := by
    show ackHome line - 16 = h
    rw [ackHome, hh]
    exact Nat.add_sub_cancel_left 16 h
  have htaken := foldl_ioSend_taken h s.coh.ioWait w
  have hcredit : hasReqCredit (s.coh.ioWait.foldl ioSend w) ioAgent (m.dst - 16) = true := by
    rw [hdst]
    exact decide_eq_true (Nat.lt_of_le_of_lt htaken hroom)
  rw [hpump, ioSend]
  dsimp only
  rw [if_pos hcredit]
  exact ⟨_, List.mem_append_right _ (List.mem_singleton_self _)⟩

/-- What agent 12 has outstanding at a home, and what waits for credits of homes. -/
def ioClaims (h : Nat) (s : State) : Nat := ioTaken h s + s.coh.ioWait.length

/-- A request that waits leaves the claims on a home as they are, or lowers them. -/
theorem ioSend_claims (h : Nat) {p : Nat × CohMsg} (hp : p ∈ s.coh.ioWait) : ioClaims h (ioSend s p) ≤ ioClaims h s := by
  have htaken := ioSend_taken h s p
  have hpos := List.length_pos_of_mem hp
  by_cases hc : hasReqCredit s ioAgent (p.2.dst - 16) = true
  · have hwait : (ioSend s p).coh.ioWait = s.coh.ioWait.erase p := by
      rw [ioSend]
      dsimp only
      rw [if_pos hc]
      rfl
    rw [ioClaims, hwait, List.length_erase_of_mem hp, ioClaims]
    omega
  · rw [ioSend]
    dsimp only
    rw [if_neg hc]

theorem foldl_ioSend_claims (h : Nat) (l : List (Nat × CohMsg)) (s : State) (hl : l.Subperm s.coh.ioWait) :
    ioClaims h (l.foldl ioSend s) ≤ ioClaims h s := by
  induction l generalizing s with
  | nil => exact Nat.le_refl _
  | cons p l ih =>
    have hp : p ∈ s.coh.ioWait := hl.subset List.mem_cons_self
    refine (ih (ioSend s p) ?_).trans (ioSend_claims h hp)
    rw [ioSend]
    dsimp only
    split
    · have := hl.erase p
      rwa [List.erase_cons_head] at this
    · exact (List.sublist_cons_self p l).subperm.trans hl

theorem ioRequest_claims (cls op line : Nat) (data : List Byte) (mask : List Bool) (h : Nat) (s : State) :
    ioClaims h (ioRequest cls op line data mask s).2 ≤ ioClaims h s + 1 := by
  refine (foldl_ioSend_claims h _ _ (List.Subperm.refl _)).trans ?_
  show ioTaken h s + (s.coh.ioWait ++ [_]).length ≤ _
  rw [List.length_append]
  rfl

theorem kickQueue_claims (q h : Nat) (s : State) : ioClaims h (kickQueue q s) ≤ ioClaims h s + 2 := by
  unfold kickQueue
  extract_lets x a r w
  split
  · split
    · exact Nat.le_add_right _ 2
    · split
      · split
        · exact Nat.le_add_right _ 2
        · obtain ⟨ms, hr⟩ := askRange_frame (owFree clsQue) 0 a 256 false (.slot q) s
          rw [hr]
          exact Nat.le_add_right _ 2
      · exact (ioRequest_claims clsQue mRdOnce (a / 128 + 1) [] [] h r.2).trans
          (Nat.succ_le_succ (ioRequest_claims clsQue mRdOnce (a / 128) [] [] h s))
  · exact Nat.le_add_right _ 2

theorem startCmd_claims (q h : Nat) (c : Slot) (s : State) : ioClaims h (startCmd q c s).2 ≤ ioClaims h s + 2 :=
  kickQueue_claims q h (s.modQueue q (Queue.starting c))

/-! ### INLINE_WRITE (R414) -/

/-- The data of a WrPart that writes bytes from an offset of its line. -/
def partData (off : Nat) (bs : List Byte) : List Byte := List.replicate off 0 ++ bs ++ List.replicate (128 - off - bs.length) 0

theorem partData_getD {off i : Nat} {bs : List Byte} (h : i < bs.length) : (partData off bs).getD (off + i) 0 = bs.getD i 0 := by
  have hoff : (List.replicate off (0 : Byte)).length = off := List.length_replicate
  rw [partData, List.append_assoc, List.getD_append_right _ _ _ _ (by omega), hoff, Nat.add_sub_cancel_left, List.getD_append _ _ _ _ h]

theorem lineMask_getD {off n i : Nat} (hi : i < n) (hn : off + n < 128) : (lineMask off n).getD (off + i) false = true := by
  rw [List.getD_eq_getElem _ _ (by simp [lineMask]; omega)]
  simp [lineMask, hi]

/-- A write that ends inside its first line is one WrPart (R385). -/
theorem ioWrite_part {cls a : Nat} {bs : List Byte} (hpos : 0 < bs.length) (hlen : a % 128 + bs.length < 128) (s : State) :
    (ioWrite cls a bs s).2 = (ioRequest cls mWrPart (a / 128) (partData (a % 128) bs) (lineMask (a % 128) bs.length) s).2 := by
  have hfuel : bs.length / 128 + 2 = 2 := by rw [Nat.div_eq_of_lt (by omega)]
  have hne : bs.isEmpty = false := List.isEmpty_eq_false_iff.2 (List.ne_nil_of_length_pos hpos)
  have htake : bs.take (128 - a % 128) = bs := List.take_of_length_le (by omega)
  have hdrop : bs.drop (128 - a % 128) = [] := List.drop_of_length_le (by omega)
  rw [ioWrite, hfuel, ioWrites, hne]
  simp only [Bool.false_eq_true, if_false, htake, hdrop]
  show (ioWriteLine cls a bs s).2 = _
  exact congrArg Prod.snd (if_neg (show bs.length ≠ 128 by omega))

/-- The requests whose Cmp a command awaits are noted with it. -/
def Queue.awaiting (n : Nat) (ks : List Nat) (x : Queue) : Queue :=
  { x with started := x.started.map fun y => if y.number = n then { y with txns := ks } else y }

theorem map_running {x : Queue} (h : x.numbered) (c : Slot) (ks : List Nat) :
    ((x.started ++ [c.running x.nextCmd]).map fun y => if y.number = x.nextCmd then { y with txns := ks } else y) =
      x.started ++ [{ c.running x.nextCmd with txns := ks }] := by
  have hold : x.started.map (fun y => if y.number = x.nextCmd then { y with txns := ks } else y) = x.started.map id :=
    List.map_congr_left fun y hy => if_neg (h y hy).ne
  rw [List.map_append, hold, List.map_id, List.map_singleton, if_pos (show (c.running x.nextCmd).number = x.nextCmd from rfl)]

/-- An INLINE_WRITE's write leaves its command running, with the requests whose Cmp it awaits. -/
theorem CmdBegun.awaits {q : Nat} {c : Slot} {r : State} (h : CmdBegun q c s r) (hnum : (s.queue q).numbered) (cls a : Nat) (bs : List Byte) :
    CmdRuns q c s ((ioWrite cls a bs r).2.modQueue q (Queue.awaiting (s.queue q).nextCmd (ioWrite cls a bs r).1)) := by
  obtain ⟨⟨co, ms, qs, hr⟩, hfetched, hstarted, hrecords⟩ := h
  obtain ⟨co', hw⟩ := ioWrite_frame r cls a bs
  have hqueue : (ioWrite cls a bs r).2.queue q = r.queue q := by rw [hw]; rfl
  have hmem : (ioWrite cls a bs r).2.mem = s.mem := by rw [hw, hr]
  generalize (ioWrite cls a bs r).1 = ks at *
  refine ⟨hmem, ?_, ?_, { c.running (s.queue q).nextCmd with txns := ks }, ?_, rfl, rfl, rfl, rfl⟩
  · rw [State.queue_modQueue_same, hqueue]
    exact hfetched
  · rw [State.queue_modQueue_same, hqueue]
    exact hrecords
  · rw [State.queue_modQueue_same, hqueue]
    show (r.queue q).started.map _ = _
    rw [hstarted]
    exact map_running hnum c ks

/-- The message of an INLINE_WRITE inside one line: it is on its way, or waits for a credit, and leaves at once where its home
has credits for it and for the next slot's two lines. -/
theorem ioWrite_message {q : Nat} {c : Slot} (hpos : 0 < c.payload.length) (hlen : c.arg0 % 128 + c.payload.length < 128) :
    let r := (ioWrite clsQue c.arg0 c.payload (startCmd q c s).2).2
    ∃ m : CohMsg, (m ∈ r.coh.msgs ∨ ∃ k, (k, m) ∈ r.coh.ioWait) ∧
      (∀ h, homeOf (c.arg0 / 128) = some h → s.coh.ioWait = [] → (txnsOut s 12 h).length < 62 → m ∈ r.coh.msgs) ∧
      m.op = 6 ∧ m.line = c.arg0 / 128 ∧ m.req = 12 ∧ m.data = partData (c.arg0 % 128) c.payload ∧
      m.mask = lineMask (c.arg0 % 128) c.payload.length := by
  intro r
  have hr : r = (ioRequest clsQue mWrPart (c.arg0 / 128) (partData (c.arg0 % 128) c.payload)
      (lineMask (c.arg0 % 128) c.payload.length) (startCmd q c s).2).2 := ioWrite_part hpos hlen _
  clear_value r
  by_cases hroom : ∃ h, homeOf (c.arg0 / 128) = some h ∧ s.coh.ioWait = [] ∧ (txnsOut s 12 h).length < 62
  · obtain ⟨h, hh, hwait, htxns⟩ := hroom
    have hclaims := startCmd_claims q h c s
    have hbefore : ioClaims h s < 62 := by
      rw [ioClaims, hwait]
      exact htxns
    obtain ⟨n, hn⟩ := ioRequest_sent (s := (startCmd q c s).2) (cls := clsQue) (op := mWrPart)
      (data := partData (c.arg0 % 128) c.payload) (mask := lineMask (c.arg0 % 128) c.payload.length) hh
      (show ioClaims h _ < 64 by omega)
    rw [← hr] at hn
    exact ⟨_, .inl hn, fun _ _ _ _ => hn, rfl, rfl, rfl, rfl, rfl⟩
  · have hnone (m : CohMsg) (h : Nat) (hh : homeOf (c.arg0 / 128) = some h) (hwait : s.coh.ioWait = [])
        (htxns : (txnsOut s 12 h).length < 62) : m ∈ r.coh.msgs := (hroom ⟨h, hh, hwait, htxns⟩).elim
    have hreq := ioRequest_requested clsQue mWrPart (c.arg0 / 128) (partData (c.arg0 % 128) c.payload)
      (lineMask (c.arg0 % 128) c.payload.length) (startCmd q c s).2
    rw [← hr] at hreq
    obtain hwait | ⟨n, hmsg⟩ := hreq
    · exact ⟨_, .inr ⟨_, hwait⟩, hnone _, rfl, rfl, rfl, rfl, rfl⟩
    · exact ⟨_, .inl hmsg, hnone _, rfl, rfl, rfl, rfl, rfl⟩

/-! ### The commands' starts (R414, R415) -/

/-- An INLINE_WRITE inside one line is on its way or waits for a credit; its command runs until the Cmp comes (R414). -/
theorem qInlineWrite_sends {q : QueueId} {c : Slot} (h : MayStart q c s) (hop : c.opcode = 2) (hok : c.headerOk 1 224 = true)
    (h1 : c.arg1 = 0) (htier : inTier c.arg0 c.payloadLen = true) (hlen : c.payload.length = c.payloadLen)
    (hline : c.arg0 % 128 + c.payloadLen < 128) :
    ∃ r, exec (.qInlineWrite q) s = .next r ∧ CmdRuns q c s r ∧ ∃ m, (m ∈ r.coh.msgs ∨ ∃ k, (k, m) ∈ r.coh.ioWait) ∧
      (∀ h, homeOf (c.arg0 / 128) = some h → s.coh.ioWait = [] → (txnsOut s 12 h).length < 62 → m ∈ r.coh.msgs) ∧
      m.op = 6 ∧ m.line = c.arg0 / 128 ∧ m.req = 12 ∧ ∀ i, i < c.payloadLen →
        m.mask.getD (c.arg0 % 128 + i) false = true ∧ m.data.getD (c.arg0 % 128 + i) 0 = c.payload.getD i 0 := by
  have hpos : 0 < c.payload.length := by
    simp only [Slot.headerOk, Bool.and_eq_true, decide_eq_true_eq] at hok
    omega
  have hexec := qInlineWrite_eq h hop hok h1
  rw [if_neg (by rw [htier]; decide)] at hexec
  obtain ⟨m, hsent, hleft, hmop, hmline, hmreq, hdata, hmask⟩ := ioWrite_message (s := s) (q := q) hpos (by omega)
  refine ⟨_, hexec, (startCmd_begins q c s).awaits h.numbered clsQue c.arg0 c.payload, m, hsent, hleft, hmop, hmline, hmreq, fun i hi => ?_⟩
  rw [hdata, hmask]
  exact ⟨lineMask_getD (by omega) (by omega), partData_getD (by omega)⟩

/-- SIGNAL of a channel that its queue may name sends its count to Strings (R415). -/
theorem qSignal_sends {q : QueueId} {c : Slot} {tr : Nat} (h : MayStart q c s) (hop : c.opcode = 5) (hok : c.headerOk 0 0 = true)
    (h0 : c.arg0 < 2 ^ 14) (h1 : c.arg1 < 2 ^ 32) (hk : c.arg1 ≠ 0) (htr : s.image.tokenTroupe c.arg0 = some tr)
    (hname : mayName s q tr = true) : ∃ r, exec (.qSignal q) s = .next r ∧ CmdDone q c 0 0 s r ∧
      r.str.msgs = s.str.msgs ++ [{ kind := 0, obj := c.arg0, unit := 0xFF, value := BitVec.ofNat 64 c.arg1, sent := s.time.span }] := by
  have hexec := qSignal_eq h hop hok h0 h1 hk
  rw [htr, Option.any_some, if_pos hname] at hexec
  refine ⟨_, hexec, oneShot_done _ _ h.numbered (Effect.sendSignal 0xFF c.arg0 c.arg1 0 0), ?_⟩
  obtain ⟨co, ms, q1, qs, hr⟩ := oneShot_frame q c stOk 0 (sendSignal 0xFF c.arg0 c.arg1 0 0) s
  rw [hr, if_pos rfl]
  show s.str.msgs ++ [StrMsg.mk ..] = _
  rw [Nat.zero_max]

/-- SIGNAL of a channel that belongs to no troupe sends nothing (R415). -/
theorem qSignal_refused {q : QueueId} {c : Slot} (h : MayStart q c s) (hop : c.opcode = 5) (hok : c.headerOk 0 0 = true)
    (h0 : c.arg0 < 2 ^ 14) (h1 : c.arg1 < 2 ^ 32) (hk : c.arg1 ≠ 0) (htr : s.image.tokenTroupe c.arg0 = none) :
    exec (.qSignal q) s = .next (oneShot q c stRange 0 (fun r => r) s) := by
  rw [qSignal_eq h hop hok h0 h1 hk, htr, Option.any_none, if_neg Bool.false_ne_true, oneShot_refused _ _ _ (by decide)]

theorem qSceneLoad_busy {q : QueueId} {c : Slot} {gs : List Segment} (h : MayStart q c s) (hc : LoadNamed q c s)
    (himg : sceneImage s c.arg0 c.arg1 = some gs) (hbusy : quiescentTroupe s c.arg1 = false) :
    exec (.qSceneLoad q) s = .next (oneShot q c stNotQuiescent 0 (fun r => r) s) := by
  rw [qSceneLoad_image h hc himg, hbusy, Bool.not_false, Bool.true_or, if_pos rfl, oneShot_refused _ _ _ (by decide)]

theorem qSceneLoad_loads {q : QueueId} {c : Slot} {g : Segment} (h : MayStart q c s) (hc : LoadNamed q c s)
    (himg : sceneImage s c.arg0 c.arg1 = some [g]) (hquiet : quiescentTroupe s c.arg1 = true) (hfence : (s.fence g.unit).fenced = false) :
    exec (.qSceneLoad q) s = .next (oneShot q c stOk 0 (fun r => [g].foldl (fun r g => loadSegment c.arg0 g r) r) s) := by
  rw [qSceneLoad_image h hc himg, hquiet, List.any_cons, hfence]
  rfl

/-- A command without an effect of its own leaves all but messages, requests to memories and queues. -/
theorem oneShot_keeps {α : Type} (q : Nat) (c : Slot) (status detail : Nat) (s : State) (f : State → α)
    (hf : ∀ co ms qs, f { s with coh := co, mems := ms, queues := qs } = f s) : f (oneShot q c status detail (fun r => r) s) = f s := by
  obtain ⟨co, ms, qs, hr⟩ := oneShot_bare q c status detail s
  rw [hr, hf]

/-- Settles O51: each command starts by one of two rules, completing with its status or running on, and a start moves
only its queue, messages and requests to memories besides the command's own effect. -/
theorem queueCommandsStartAndComplete : Obligations.QueueCommandsStartAndComplete := by
  unfold Obligations.QueueCommandsStartAndComplete
  intro q s c op x done runs hlive henable hstate hroom hfetched hop hfence hnum
  subst hop
  have hmay : MayStart q c s := ⟨hlive, henable, hstate, hroom, hfetched, hfence, hnum⟩
  have hdone {st detail : Nat} {r : State} (h : CmdDone q c st detail s r) : done r st detail := ⟨h.mem, h.fetched, h.started, h.records⟩
  have hruns {r : State} (h : CmdRuns q c s r) : runs r := ⟨h.mem, h.fetched, h.records, h.started⟩
  have hbare (st detail : Nat) : done (oneShot q c st detail (fun r => r) s) st detail := hdone (oneShot_done st detail hnum .none)
  have hkeep {α : Type} := @oneShot_keeps α q c
  clear_value done runs
  refine ⟨fun h1 hok h0 ha => ⟨_, qNop_done hmay h1 hok h0 ha, hbare _ _⟩, fun hun => ⟨_, qNop_unknown hmay hun, hbare _ _⟩,
    fun h2 hok ha => ⟨fun htier => ?_, fun htier hlen hline => ?_⟩, fun h5 hok h0 ha hk => ⟨fun tr htr hname => ?_, fun htr => ?_⟩,
    fun h3 hok h0 h1 hname hline htier => ⟨fun himg => ?_, fun gs himg => ⟨fun hbusy => ?_, fun g hg hunit hquiet hfen => ?_⟩⟩,
    fun h4 hst => ⟨fun hheld => ?_, fun hheld hfen => ?_, fun hheld hfen => ?_⟩, fun i base hi => ⟨fun hst => ?_, fun hst => ?_⟩⟩
  · have hexec := qInlineWrite_eq hmay h2 hok ha
    rw [if_pos htier] at hexec
    exact ⟨_, hexec, hbare _ _⟩
  · obtain ⟨r, hexec, hr, hm⟩ := qInlineWrite_sends hmay h2 hok ha htier hlen hline
    exact ⟨r, hexec, hruns hr, hm⟩
  · obtain ⟨r, hexec, hr, hm⟩ := qSignal_sends hmay h5 hok h0 ha hk htr hname
    exact ⟨r, hexec, hdone hr, hm⟩
  · exact ⟨_, qSignal_refused hmay h5 hok h0 ha hk htr, hbare _ _, hkeep _ _ s State.str fun _ _ _ => rfl⟩
  · exact ⟨_, qSceneLoad_badImage hmay ⟨h3, hok, h0, h1, hname, hline, htier⟩ himg, hbare _ _, hkeep _ _ s State.tiles fun _ _ _ => rfl,
      hkeep _ _ s State.grots fun _ _ _ => rfl⟩
  · exact ⟨_, qSceneLoad_busy hmay ⟨h3, hok, h0, h1, hname, hline, htier⟩ himg hbusy, hbare _ _, hkeep _ _ s State.tiles fun _ _ _ => rfl,
      hkeep _ _ s State.grots fun _ _ _ => rfl⟩
  · subst hg
    obtain ⟨hother, himem⟩ := oneShot_loads (s := s) (q := q) (c := c) g hunit
    exact ⟨_, qSceneLoad_loads hmay ⟨h3, hok, h0, h1, hname, hline, htier⟩ himg hquiet hfen,
      hdone (oneShot_done _ _ hnum (.foldl (loadSegment_effect c.arg0) [g])), hother, himem⟩
  · exact (sceneStart_exec hmay h4).trans (congrArg _ (sceneStart_held hst hheld))
  · have hexec := sceneStart_exec hmay h4
    rw [sceneStart_takes hst hheld, takeScene_fenced hfen] at hexec
    exact ⟨_, hexec, hbare _ _, hkeep _ _ s State.troupes fun _ _ _ => rfl⟩
  · have hexec := sceneStart_exec hmay h4
    rw [sceneStart_takes hst hheld] at hexec
    obtain ⟨hr, hother, htiles, htr⟩ := takeScene_begins (q := q) hfen
    refine ⟨_, hexec, hruns hr, hother, htiles, htr.state, htr.sceneId, htr.entries, htr.owner, ?_, htr.capLimit, htr.capSeed,
      htr.capStep, htr.capCeil, htr.commitScene⟩
    rw [htr.starting, sceneEntries_units]
  · obtain ⟨hr, hqueue, hother⟩ := submitDat_lists (q := q) base hst
    exact ⟨_, qDat_submits hmay rfl hi, hruns hr, hqueue, hother⟩
  · have hexec := qDat_submits hmay rfl hi
    rw [submitDat_refused base hst] at hexec
    exact ⟨_, hexec, hbare _ _, hkeep _ _ s State.dats fun _ _ _ => rfl⟩

end Sys2Proof.Machine
end
